-- ==== Sys2Proof/Word.lean ====
section
/-! DEFINITION. The word types of the Darbirix (R3, R149, R199): plain bit vectors. -/

namespace Sys2Proof

/-- A byte of any memory (R3). -/
abbrev Byte := BitVec 8

/-- A scalar register, a CSR, a DEVICE register (R149, R267). -/
abbrev Word := BitVec 64

/-- One slot word of a bundle (R237). -/
abbrev SlotWord := BitVec 32

/-- A vector register or the value of a landing register (R149). -/
abbrev Vec := BitVec 1024

/-- A mask register (R149). -/
abbrev Mask := BitVec 128

/-- The bytes of one tile (R154). -/
abbrev TileBits := BitVec 8192

/-- The 32 B payload of a roundel slot and of a q register (R150, R369). -/
abbrev Payload := BitVec 256

end Sys2Proof
end

