-- ==== Sys2Proof/Config.lean ====
section
/-! DEFINITION. What the spec leaves to an implementation, as constants without a body: no proof can see a value of one. -/

namespace Sys2Proof

/-- The n-th free value the machine draws: the output of the DRBG (R58) and every value the spec gives an effect but no
number for. The step reads and advances the counter State.fresh (log 11, DESIGN CHOICE). -/
opaque Config.free : Nat → BitVec 512

/-- The Clahar firmware public key, whose digest is fused (R57), as a point of its curve (log 9, DEDUCED). -/
opaque Config.firmwareKey : Nat × Nat

/-- The PCI Vendor ID of the device (R59). -/
opaque Config.vendorId : BitVec 16

/-- Where the DOE extended capability lies in the configuration space of a function, the MSI-X capability and the block of stream 0 in that of
the PF, and the two read-only words of the DOE capability: the spec names none of them (R39, R42; log 79, PRESUMED). -/
opaque Config.doeOffset : Nat
opaque Config.msixOffset : Nat
opaque Config.streamOffset : Nat
opaque Config.doeWord : Nat → BitVec 32

/-- The fused device secret (R58), reached only by the key engine. -/
opaque Config.deviceSecret : List Byte

/-- The fuses of the lifecycle state and of debug enable, as the bytes that measurement block 4 digests (R60). -/
opaque Config.lifecycle : List Byte
opaque Config.debugFuse : List Byte

/-- The functions of a converter overpaint other than the QF6 converter, which the spec does not give: format identity, function code,
source vector; none where the function is not one of the converter's (R375; log 14, DESIGN CHOICE). -/
opaque Config.converter : Nat → Nat → Vec → Option (Vec × BitVec 5)

/-- The fixed order in which a collective reduces: the reduction tree that its launch sets, which the spec does not give, as choices by
group and step (R19; log 11, DESIGN CHOICE). -/
opaque Config.reduceChoice : Nat → Nat → Nat

/-- How many contributions of other devices stand before this device's own in the reduction tree of a group (R19; log 11, DESIGN CHOICE). -/
opaque Config.reducePlace : Nat → Nat

/-- Whether a fused multiply-add of 0 and infinity with a quiet NaN as addend sets NV: IEEE 754-2019, which R207 follows, leaves it
to the implementation (log 15, DESIGN CHOICE). -/
opaque Config.fmaQuietNanInvalid : Bool

/-- The power controller's estimates of a tier's demand, at its present level and at the next level down, in watts: regulator, GCY, tier
(R33, R34; log 12, DESIGN CHOICE). -/
opaque Config.powerEstimate : Nat → Nat → Nat → Nat × Nat

/-- The mean power of a domain over the interval that ends at a GCY, in watts (R31; log 12, DESIGN CHOICE). -/
opaque Config.meanPower : Nat → Nat → Nat

/-- The verdict of a self-test that has taken all the time it may, and the plots that fail: start GCY, core, unit (R380, R424; log 51,
DEDUCED). -/
opaque Config.testVerdict : Nat → Nat → BitVec 16 → Bool × List Nat

end Sys2Proof
end

