-- ==== Sys2Proof/Syntax.lean ====
section
/-! DEFINITION. The steps of the part, whole: one constructor of Instr for every row of opcode_table.json.
The first 219 stand for slot words (R237-R266): their arguments are the fields of the word, each a bit vector
of the field's exact width, under the one-letter name of the table. The others stand for the rows that
have no word: register writes, messages, arrivals and events of the machine; their arguments say what the
environment (the host, a link partner, firmware that chooses, the physics) decides about the event. -/

namespace Sys2Proof

/-- The address spaces in which a register may be written by a row of its own or by REGISTER_WRITE (R8, R42). -/
inductive RegSpace where
  | stretcher | pfBar0 | vfBar0 (v : Nat) | vfBar2 (v : Nat) | pfConfig | vfConfig (v : Nat)
deriving DecidableEq, Repr

/-- One register write: `len` bytes of `val` at `off`; `who` is the writing control core (512-515) where the space
is the stretcher's; of a host request, `tee` is the T bit and `stream` the selective stream on which it arrives (R40). -/
structure RegWrite where
  space : RegSpace
  who : Nat
  off : Nat
  len : Nat
  val : Word
  tee : Bool
  stream : Option Nat
deriving DecidableEq, Repr

/-- What the power controller estimates for one tier: its demand now and at the next level down (R33, R34). -/
structure TierEstimate where
  demand : Nat
  demandDown : Nat
deriving DecidableEq, Repr

/-- The registers of the locked set (R50); the RID association has two words of 32 bits, the address association three (log 79, PRESUMED). -/
inductive LockedReg where
  | bar0 | bar2 | command | sriovControl | msixEntry (off : Nat) | msixControl
  | streamControl | ridAssociation (k : Nat) | addressAssociation (k : Nat) | vfbind
deriving DecidableEq, Repr

/-- The data of a write with its byte enables (R50). -/
structure MaskedWrite where
  val : Word
  be : BitVec 8
deriving DecidableEq, Repr

/-- The DOE mailbox a service request came through, and whether inside an SPDM secured session (R61). -/
structure Mailbox where
  vf : Option Nat
  secured : Bool
deriving DecidableEq, Repr

/-- The wrapped keys of a WORLD_EXPORT or WORLD_IMPORT (R70): the generation of the world key, the wrapped world key, and for each
seal its identity, its policy and its wrapped key. -/
structure WrappedKeys where
  gen : Nat
  worldKey : List Byte
  seals : List (Nat × List Byte × List Byte)
deriving DecidableEq, Repr

/-- A partition handed to a world (R1, R61): its number, its clusters, and the roundel slots it owns, as
256 * canvas + slot (R188, R368). -/
structure Partition where
  num : Nat
  clusters : List Nat
  slots : List Nat
deriving DecidableEq, Repr

/-- How the DMA reads of a launch (IMAGE, EXTTAB, FMTTAB) ended: the IOVA that failed, if one did (R107). -/
structure LaunchDma where
  failed : Option Word
deriving DecidableEq, Repr

/-- Where one cohort is placed: its canvas, top-left cluster column and row, and first strand (R114). -/
structure Place where
  canvas : Nat
  x0 : Nat
  y0 : Nat
  b : Nat
deriving DecidableEq, Repr

/-- The ECC result of a data unit read from HBM (R85). -/
inductive EccResult where
  | clean | corrected | uncorrectable
deriving DecidableEq, Repr

/-- What a word of the register file, the tile file, the accumulators or the B buffer belongs to (R163): a register, where the guards share
their 8 bytes with csr.fflags (R150); 8 bytes of a tile, of an accumulator bank or of the B buffer, by their number. -/
inductive RegWord where
  | s (n : BitVec 6) | v (n : BitVec 5) | m (n : BitVec 3) | g | mxc | tshape | q (n : BitVec 2) | l (n : BitVec 2)
  | tile (t : BitVec 3) (k : Nat) | acc (bank k : Nat) | bbuf (k : Nat)
deriving DecidableEq, Repr

/-- What a detected error struck (R85, R87, R163): a word a strand reads, by its offset; an entry of a cluster's L2; a data unit that the next
read of a translation walker meets in HBM, which then makes the record (log 72, DESIGN CHOICE); or a unit that holds none. -/
inductive ErrorPlace where
  | imem (off : Nat) | scratchpad (off : Nat) | register (w : RegWord) (off : Nat) | l2 (cluster slice set way : Nat) | hbm (index : Nat) | unit
deriving DecidableEq, Repr

/-- A detected hardware error, as the record of R128 tells it. `kind` is KIND, `info` is INFO. -/
structure UnitError where
  core : Nat
  unit : BitVec 16
  kind : Nat
  detail : Nat
  info : Word
  place : ErrorPlace
deriving DecidableEq, Repr

/-- The steps of the part: one constructor per row of opcode_table.json: the slot words in the table's order, then the
events whose time the machine itself fixes (Schedule.lean), then the events the environment decides. -/
inductive Instr where
  /-- NOP (R238). The all-zero slot word reads nothing, writes nothing and raises nothing in any slot. -/
  | nop
  /-- BR (R280). Conditional branch to 32 × target when the guard is true. -/
  | br (g : BitVec 4) (t : BitVec 12)
  /-- JMP (R280). Unconditional jump to 32 × target. -/
  | jmp (t : BitVec 12)
  /-- JMPR (R280). Jump to the address held in sa[16:0], raising MISALIGNED if bits 4:0 are not zero. -/
  | jmpr (a : BitVec 6)
  /-- CALL (R280). Jump to 32 × target and write the return address PC + 32 into s62. -/
  | call (t : BitVec 12)
  /-- RET (R280). Jump to the address held in s62[16:0]. -/
  | ret
  /-- LOOP (R282). Push a loop-stack entry with an immediate count, or skip the body when the count is zero. -/
  | loop (c : BitVec 12) (l : BitVec 12)
  /-- LOOPR (R282). Push a loop-stack entry whose count is taken from a register, or skip the body when the count is zero. -/
  | loopr (a : BitVec 6) (l : BitVec 12)
  /-- LBRK (R283). With a true guard, pop loop entry 0 and continue after its body. -/
  | lbrk (g : BitVec 4)
  /-- CKPT (R217). Cohort-wide checkpoint: check the stamp, release gated effects, copy the shadow set, form the LWB image, snapshot the matrix engine and clear the undo log. -/
  | ckpt (s : BitVec 12)
  /-- CKPT_P (R223). Checkpoint at which a pending pre-emption request may land. -/
  | ckptP (s : BitVec 12)
  /-- HALT (R285). Release the strand's gated effects and end the strand, which then issues no-op bundles until its cohort ends. -/
  | halt
  /-- TRAP (R286). Call entry with CAUSE TRAP_INSN: take a cohort checkpoint and enter the handler. -/
  | trap (c : BitVec 16)
  /-- TRET (R234). Leave a handler: release its effects, restore the matrix state, MODE and the loop stack, and take the strand checkpoint at K. -/
  | tret
  /-- WGCY (R288). Request a hold that is met when GCY reaches the target value. -/
  | wgcy (a : BitVec 6)
  /-- SCALL (R286). Call entry with CAUSE SCALL. -/
  | scall (c : BitVec 16)
  /-- RSWAP (R289). Exchange the register-space images over 288 core cycles and take the cohort checkpoint at c + 288. -/
  | rswap
  /-- IDLE (R290). Occupy the sequencer for n core cycles of no-op bundles. -/
  | idle (n : BitVec 16)
  /-- BRK (R286). Call entry with CAUSE BREAK. -/
  | brk (c : BitVec 16)
  /-- ADD (R291). sd := sa + sb modulo 2^64. -/
  | add (d : BitVec 6) (a : BitVec 6) (b : BitVec 6)
  /-- SUB (R291). sd := sa − sb. -/
  | sub (d : BitVec 6) (a : BitVec 6) (b : BitVec 6)
  /-- AND (R291). sd := sa AND sb. -/
  | and (d : BitVec 6) (a : BitVec 6) (b : BitVec 6)
  /-- OR (R291). sd := sa OR sb. -/
  | or (d : BitVec 6) (a : BitVec 6) (b : BitVec 6)
  /-- XOR (R291). sd := sa XOR sb. -/
  | xor (d : BitVec 6) (a : BitVec 6) (b : BitVec 6)
  /-- ANDN (R291). sd := sa AND NOT sb. -/
  | andn (d : BitVec 6) (a : BitVec 6) (b : BitVec 6)
  /-- ORN (R291). sd := sa OR NOT sb. -/
  | orn (d : BitVec 6) (a : BitVec 6) (b : BitVec 6)
  /-- SHL (R291). Shift left by sb[5:0]. -/
  | shl (d : BitVec 6) (a : BitVec 6) (b : BitVec 6)
  /-- SHR (R291). Logical shift right by sb[5:0]. -/
  | shr (d : BitVec 6) (a : BitVec 6) (b : BitVec 6)
  /-- SRA (R291). Arithmetic shift right by sb[5:0]. -/
  | sra (d : BitVec 6) (a : BitVec 6) (b : BitVec 6)
  /-- ROTL (R291). Rotate left by sb[5:0]. -/
  | rotl (d : BitVec 6) (a : BitVec 6) (b : BitVec 6)
  /-- ROTR (R291). Rotate right by sb[5:0]. -/
  | rotr (d : BitVec 6) (a : BitVec 6) (b : BitVec 6)
  /-- SLT (R291). sd := 1 if sa < sb signed, else 0. -/
  | slt (d : BitVec 6) (a : BitVec 6) (b : BitVec 6)
  /-- SLTU (R291). sd := 1 if sa < sb unsigned, else 0. -/
  | sltu (d : BitVec 6) (a : BitVec 6) (b : BitVec 6)
  /-- SEQ (R291). sd := 1 if sa = sb, else 0. -/
  | seq (d : BitVec 6) (a : BitVec 6) (b : BitVec 6)
  /-- SNE (R291). sd := 1 if sa ≠ sb, else 0. -/
  | sne (d : BitVec 6) (a : BitVec 6) (b : BitVec 6)
  /-- MIN (R291). Signed minimum. -/
  | min (d : BitVec 6) (a : BitVec 6) (b : BitVec 6)
  /-- MAX (R291). Signed maximum. -/
  | max (d : BitVec 6) (a : BitVec 6) (b : BitVec 6)
  /-- MINU (R291). Unsigned minimum. -/
  | minu (d : BitVec 6) (a : BitVec 6) (b : BitVec 6)
  /-- MAXU (R291). Unsigned maximum. -/
  | maxu (d : BitVec 6) (a : BitVec 6) (b : BitVec 6)
  /-- MUL (R291). Low 64 bits of sa × sb. -/
  | mul (d : BitVec 6) (a : BitVec 6) (b : BitVec 6)
  /-- MULH (R291). High 64 bits of the signed product. -/
  | mulh (d : BitVec 6) (a : BitVec 6) (b : BitVec 6)
  /-- MULHU (R291). High 64 bits of the unsigned product. -/
  | mulhu (d : BitVec 6) (a : BitVec 6) (b : BitVec 6)
  /-- DIV (R292). Signed quotient, truncated toward zero, with defined edge cases. -/
  | div (d : BitVec 6) (a : BitVec 6) (b : BitVec 6)
  /-- DIVU (R292). Unsigned quotient. -/
  | divu (d : BitVec 6) (a : BitVec 6) (b : BitVec 6)
  /-- REM (R292). Signed remainder. -/
  | rem (d : BitVec 6) (a : BitVec 6) (b : BitVec 6)
  /-- REMU (R292). Unsigned remainder. -/
  | remu (d : BitVec 6) (a : BitVec 6) (b : BitVec 6)
  /-- CLZ (R291). Count the leading zeros of sa. -/
  | clz (d : BitVec 6) (a : BitVec 6)
  /-- CTZ (R291). Count the trailing zeros of sa. -/
  | ctz (d : BitVec 6) (a : BitVec 6)
  /-- POPC (R291). Count the one bits of sa. -/
  | popc (d : BitVec 6) (a : BitVec 6)
  /-- BEXT (R291). Extract the bits of sa at the set positions of sb. -/
  | bext (d : BitVec 6) (a : BitVec 6) (b : BitVec 6)
  /-- BDEP (R291). Deposit the low bits of sa at the set positions of sb. -/
  | bdep (d : BitVec 6) (a : BitVec 6) (b : BitVec 6)
  /-- ADDI (R293). sd := sa + the sign-extended imm14. -/
  | addi (d : BitVec 6) (a : BitVec 6) (i : BitVec 14)
  /-- ANDI (R293). sd := sa AND the sign-extended imm14. -/
  | andi (d : BitVec 6) (a : BitVec 6) (i : BitVec 14)
  /-- ORI (R293). sd := sa OR the zero-extended imm14. -/
  | ori (d : BitVec 6) (a : BitVec 6) (i : BitVec 14)
  /-- XORI (R293). sd := sa XOR the zero-extended imm14. -/
  | xori (d : BitVec 6) (a : BitVec 6) (i : BitVec 14)
  /-- SLTI (R293). Signed comparison of sa with the sign-extended immediate. -/
  | slti (d : BitVec 6) (a : BitVec 6) (i : BitVec 14)
  /-- SHLI (R293). Shift left by an immediate amount. -/
  | shli (d : BitVec 6) (a : BitVec 6) (m : BitVec 6)
  /-- SHRI (R293). Logical shift right by an immediate amount. -/
  | shri (d : BitVec 6) (a : BitVec 6) (m : BitVec 6)
  /-- SRAI (R293). Arithmetic shift right by an immediate amount. -/
  | srai (d : BitVec 6) (a : BitVec 6) (m : BitVec 6)
  /-- LUI (R293). sd := the sign-extended imm20 × 4,096. -/
  | lui (d : BitVec 6) (i : BitVec 20)
  /-- SEL (R294). sd := sa if the guard is true, else sb. -/
  | sel (d : BitVec 6) (a : BitVec 6) (b : BitVec 6) (g : BitVec 4)
  /-- GSET (R295). Set a guard from a comparison of two scalars. -/
  | gset (d : BitVec 3) (a : BitVec 6) (b : BitVec 6) (c : BitVec 3)
  /-- GLOG (R295). Set a guard from a logical operation on two guard operands. -/
  | glog (d : BitVec 3) (a : BitVec 4) (b : BitVec 4) (o : BitVec 2)
  /-- GMOV_TO_SCALAR (R295). Copy g7…g0 into bits 7:0 of a scalar register (D = 0). -/
  | gmovToScalar (s : BitVec 6)
  /-- GMOV_TO_GUARDS (R295). Set g1…g7 from bits 7:1 of a scalar register (D = 1). -/
  | gmovToGuards (s : BitVec 6)
  /-- LATQ (R296). Read an entry of the core's timing table. -/
  | latq (d : BitVec 6) (e : BitVec 6)
  /-- FADD (R297). Scalar FP add. -/
  | fadd (d : BitVec 6) (a : BitVec 6) (b : BitVec 6) (p : BitVec 1)
  /-- FSUB (R297). Scalar FP subtract. -/
  | fsub (d : BitVec 6) (a : BitVec 6) (b : BitVec 6) (p : BitVec 1)
  /-- FMUL (R297). Scalar FP multiply. -/
  | fmul (d : BitVec 6) (a : BitVec 6) (b : BitVec 6) (p : BitVec 1)
  /-- FDIV (R297). Correctly rounded scalar FP divide. -/
  | fdiv (d : BitVec 6) (a : BitVec 6) (b : BitVec 6) (p : BitVec 1)
  /-- FSQRT (R297). Scalar FP square root. -/
  | fsqrt (d : BitVec 6) (a : BitVec 6) (p : BitVec 1)
  /-- FMIN (R297). Scalar FP minimum under R207. -/
  | fmin (d : BitVec 6) (a : BitVec 6) (b : BitVec 6) (p : BitVec 1)
  /-- FMAX (R297). Scalar FP maximum under R207. -/
  | fmax (d : BitVec 6) (a : BitVec 6) (b : BitVec 6) (p : BitVec 1)
  /-- FCMP (R298). Scalar FP comparison yielding 0 or 1. -/
  | fcmp (d : BitVec 6) (a : BitVec 6) (b : BitVec 6) (p : BitVec 1) (u : BitVec 3)
  /-- FCVT (R299). Scalar conversion of the kind given by the sub field. -/
  | fcvt (d : BitVec 6) (a : BitVec 6) (p : BitVec 1) (u : BitVec 3)
  /-- FCLASS (R298). Write the one-hot class mask of an FP value. -/
  | fclass (d : BitVec 6) (a : BitVec 6) (p : BitVec 1)
  /-- FMADD (R297). Fused multiply-add sa × sb + sc, rounded once. -/
  | fmadd (d : BitVec 6) (a : BitVec 6) (b : BitVec 6) (c : BitVec 6) (p : BitVec 1)
  /-- LD_B (R300). Load a byte, sign-extended. -/
  | ldB (d : BitVec 6) (e : BitVec 4) (x : BitVec 6) (i : BitVec 10)
  /-- LD_BZ (R300). Load a byte, zero-extended. -/
  | ldBz (d : BitVec 6) (e : BitVec 4) (x : BitVec 6) (i : BitVec 10)
  /-- LD_H (R300). Load a halfword, sign-extended. -/
  | ldH (d : BitVec 6) (e : BitVec 4) (x : BitVec 6) (i : BitVec 10)
  /-- LD_HZ (R300). Load a halfword, zero-extended. -/
  | ldHz (d : BitVec 6) (e : BitVec 4) (x : BitVec 6) (i : BitVec 10)
  /-- LD_W (R300). Load a word, sign-extended. -/
  | ldW (d : BitVec 6) (e : BitVec 4) (x : BitVec 6) (i : BitVec 10)
  /-- LD_WZ (R300). Load a word, zero-extended. -/
  | ldWz (d : BitVec 6) (e : BitVec 4) (x : BitVec 6) (i : BitVec 10)
  /-- LD_D (R300). Load a doubleword. -/
  | ldD (d : BitVec 6) (e : BitVec 4) (x : BitVec 6) (i : BitVec 10)
  /-- ST_B (R301). Store a byte, to lcl through port S or as a gated effect. -/
  | stB (v : BitVec 6) (e : BitVec 4) (x : BitVec 6) (g : BitVec 4) (i : BitVec 6)
  /-- ST_H (R301). Store a halfword. -/
  | stH (v : BitVec 6) (e : BitVec 4) (x : BitVec 6) (g : BitVec 4) (i : BitVec 6)
  /-- ST_W (R301). Store a word. -/
  | stW (v : BitVec 6) (e : BitVec 4) (x : BitVec 6) (g : BitVec 4) (i : BitVec 6)
  /-- ST_D (R301). Store a doubleword. -/
  | stD (v : BitVec 6) (e : BitVec 4) (x : BitVec 6) (g : BitVec 4) (i : BitVec 6)
  /-- AADD (R302). Atomic add on 8 B of lcl within a bank window. -/
  | aadd (d : BitVec 6) (x : BitVec 6) (v : BitVec 6) (g : BitVec 4)
  /-- AAND (R302). Atomic AND. -/
  | aand (d : BitVec 6) (x : BitVec 6) (v : BitVec 6) (g : BitVec 4)
  /-- AOR (R302). Atomic OR. -/
  | aor (d : BitVec 6) (x : BitVec 6) (v : BitVec 6) (g : BitVec 4)
  /-- AXOR (R302). Atomic XOR. -/
  | axor (d : BitVec 6) (x : BitVec 6) (v : BitVec 6) (g : BitVec 4)
  /-- AMIN (R302). Atomic signed minimum. -/
  | amin (d : BitVec 6) (x : BitVec 6) (v : BitVec 6) (g : BitVec 4)
  /-- AMAX (R302). Atomic signed maximum. -/
  | amax (d : BitVec 6) (x : BitVec 6) (v : BitVec 6) (g : BitVec 4)
  /-- AMINU (R302). Atomic unsigned minimum. -/
  | aminu (d : BitVec 6) (x : BitVec 6) (v : BitVec 6) (g : BitVec 4)
  /-- AMAXU (R302). Atomic unsigned maximum. -/
  | amaxu (d : BitVec 6) (x : BitVec 6) (v : BitVec 6) (g : BitVec 4)
  /-- ASWAP (R302). Atomic swap. -/
  | aswap (d : BitVec 6) (x : BitVec 6) (v : BitVec 6) (g : BitVec 4)
  /-- ACAS (R302). Atomic compare-and-swap against the expected value in sd. -/
  | acas (d : BitVec 6) (x : BitVec 6) (n : BitVec 6) (g : BitVec 4)
  /-- LOCKB (R303). Lock the port-C access of bank pairs for the next n bundles. -/
  | lockb (m : BitVec 16) (n : BitVec 4)
  /-- CSRR (R304). Read a CSR. -/
  | csrr (d : BitVec 6) (c : BitVec 12)
  /-- CSRW (R304). Write a CSR, effective from c + 1. -/
  | csrw (a : BitVec 6) (c : BitVec 12)
  /-- CSRS (R304). Set the CSR bits that are set in the source. -/
  | csrs (a : BitVec 6) (c : BitVec 12)
  /-- CSRC (R304). Clear the CSR bits that are set in the source. -/
  | csrc (a : BitVec 6) (c : BitVec 12)
  /-- FENCE (R196). Request a hold until the predecessor accesses have performed at the scope. -/
  | fence (p : BitVec 8) (s : BitVec 8) (k : BitVec 3)
  /-- IDR (R306). Read an identifier value or a loop index. -/
  | idr (d : BitVec 6) (i : BitVec 4)
  /-- VADD (R309). Element-wise vector add in slot 3. -/
  | vadd (d : BitVec 5) (a : BitVec 5) (b : BitVec 5) (t : BitVec 3)
  /-- VSUB (R309). Element-wise vector subtract. -/
  | vsub (d : BitVec 5) (a : BitVec 5) (b : BitVec 5) (t : BitVec 3)
  /-- VMUL (R309). Element-wise vector multiply in slot 3. -/
  | vmul (d : BitVec 5) (a : BitVec 5) (b : BitVec 5) (t : BitVec 3)
  /-- VFMA (R309). Vector fused multiply-add in slot 3. -/
  | vfma (d : BitVec 5) (a : BitVec 5) (b : BitVec 5) (t : BitVec 3) (c : BitVec 5)
  /-- VFMS (R309). Vector fused multiply-subtract. -/
  | vfms (d : BitVec 5) (a : BitVec 5) (b : BitVec 5) (t : BitVec 3) (c : BitVec 5)
  /-- VMIN (R309). Element-wise minimum. -/
  | vmin (d : BitVec 5) (a : BitVec 5) (b : BitVec 5) (t : BitVec 3)
  /-- VMAX (R309). Element-wise maximum. -/
  | vmax (d : BitVec 5) (a : BitVec 5) (b : BitVec 5) (t : BitVec 3)
  /-- VABS (R309). Element-wise absolute value. -/
  | vabs (d : BitVec 5) (a : BitVec 5) (t : BitVec 3)
  /-- VNEG (R309). Element-wise negation. -/
  | vneg (d : BitVec 5) (a : BitVec 5) (t : BitVec 3)
  /-- VAND (R310). Bitwise AND of vectors. -/
  | vand (d : BitVec 5) (a : BitVec 5) (b : BitVec 5) (t : BitVec 3)
  /-- VOR (R310). Bitwise OR of vectors. -/
  | vor (d : BitVec 5) (a : BitVec 5) (b : BitVec 5) (t : BitVec 3)
  /-- VXOR (R310). Bitwise XOR of vectors. -/
  | vxor (d : BitVec 5) (a : BitVec 5) (b : BitVec 5) (t : BitVec 3)
  /-- VNOT (R310). Bitwise NOT of a vector. -/
  | vnot (d : BitVec 5) (a : BitVec 5) (t : BitVec 3)
  /-- VSHL (R310). Element-wise shift left. -/
  | vshl (d : BitVec 5) (a : BitVec 5) (b : BitVec 5) (t : BitVec 3)
  /-- VSHR (R310). Element-wise logical shift right. -/
  | vshr (d : BitVec 5) (a : BitVec 5) (b : BitVec 5) (t : BitVec 3)
  /-- VSRA (R310). Element-wise arithmetic shift right. -/
  | vsra (d : BitVec 5) (a : BitVec 5) (b : BitVec 5) (t : BitVec 3)
  /-- VCMPEQ (R311). Write a mask of the element-wise equality relation. -/
  | vcmpeq (d : BitVec 3) (a : BitVec 5) (b : BitVec 5) (t : BitVec 3)
  /-- VCMPLT (R311). Write a mask of the element-wise less-than relation. -/
  | vcmplt (d : BitVec 3) (a : BitVec 5) (b : BitVec 5) (t : BitVec 3)
  /-- VCMPLE (R311). Write a mask of the element-wise less-or-equal relation. -/
  | vcmple (d : BitVec 3) (a : BitVec 5) (b : BitVec 5) (t : BitVec 3)
  /-- VSEL (R312). Select elements from va or vb under a mask. -/
  | vsel (d : BitVec 5) (a : BitVec 5) (b : BitVec 5) (t : BitVec 3) (m : BitVec 3)
  /-- VMOV (R312). Copy all 1,024 bits of a vector register. -/
  | vmov (d : BitVec 5) (a : BitVec 5)
  /-- VSPLAT (R312). Set every element to an immediate value. -/
  | vsplat (d : BitVec 5) (t : BitVec 3) (i : BitVec 16)
  /-- VEXT (R312). Broadcast one lane of va to every element. -/
  | vext (d : BitVec 5) (a : BitVec 5) (t : BitVec 3) (l : BitVec 7)
  /-- VINS (R312). Insert element 0 of va at one lane of vd. -/
  | vins (d : BitVec 5) (a : BitVec 5) (t : BitVec 3) (l : BitVec 7)
  /-- VCVT (R313). Convert elements from the source type to the destination type. -/
  | vcvt (d : BitVec 5) (a : BitVec 5) (t : BitVec 3) (s : BitVec 3)
  /-- VIDX (R312). Set each element to its own index. -/
  | vidx (d : BitVec 5) (t : BitVec 3)
  /-- MAND (R314). AND of two masks. -/
  | mand (d : BitVec 3) (a : BitVec 3) (b : BitVec 3)
  /-- MOR (R314). OR of two masks. -/
  | mor (d : BitVec 3) (a : BitVec 3) (b : BitVec 3)
  /-- MXOR (R314). XOR of two masks. -/
  | mxor (d : BitVec 3) (a : BitVec 3) (b : BitVec 3)
  /-- MNOT (R314). NOT of a mask. -/
  | mnot (d : BitVec 3) (a : BitVec 3)
  /-- MPOP (R314). Write the population count of a mask into every i32 element. -/
  | mpop (a : BitVec 3) (d : BitVec 5)
  /-- MFIRST (R314). Write the index of the lowest set mask bit into every i32 element. -/
  | mfirst (a : BitVec 3) (d : BitVec 5)
  /-- VEXP (R315). Correctly rounded e^x. -/
  | vexp (d : BitVec 5) (a : BitVec 5) (t : BitVec 3)
  /-- VEXP2 (R315). Correctly rounded 2^x. -/
  | vexp2 (d : BitVec 5) (a : BitVec 5) (t : BitVec 3)
  /-- VLOG2 (R315). Correctly rounded log2 x. -/
  | vlog2 (d : BitVec 5) (a : BitVec 5) (t : BitVec 3)
  /-- VRCP (R315). Correctly rounded reciprocal. -/
  | vrcp (d : BitVec 5) (a : BitVec 5) (t : BitVec 3)
  /-- VRSQRT (R315). Correctly rounded reciprocal square root. -/
  | vrsqrt (d : BitVec 5) (a : BitVec 5) (t : BitVec 3)
  /-- VSQRT (R315). Correctly rounded square root. -/
  | vsqrt (d : BitVec 5) (a : BitVec 5) (t : BitVec 3)
  /-- VDIV (R315). Correctly rounded element-wise divide. -/
  | vdiv (d : BitVec 5) (a : BitVec 5) (b : BitVec 5) (t : BitVec 3)
  /-- VTANH (R315). Correctly rounded tanh. -/
  | vtanh (d : BitVec 5) (a : BitVec 5) (t : BitVec 3)
  /-- VSIGM (R315). Correctly rounded logistic sigmoid. -/
  | vsigm (d : BitVec 5) (a : BitVec 5) (t : BitVec 3)
  /-- VREDSUM (R316). Sum reduction by a fixed tree, broadcast to every element. -/
  | vredsum (d : BitVec 5) (a : BitVec 5) (t : BitVec 3)
  /-- VREDMAX (R316). Maximum reduction by a fixed tree. -/
  | vredmax (d : BitVec 5) (a : BitVec 5) (t : BitVec 3)
  /-- VREDMIN (R316). Minimum reduction by a fixed tree. -/
  | vredmin (d : BitVec 5) (a : BitVec 5) (t : BitVec 3)
  /-- VSCAN (R317). Sequential inclusive prefix sum. -/
  | vscan (d : BitVec 5) (a : BitVec 5) (t : BitVec 3)
  /-- VSORTK (R318). Stable descending sort with original indices. -/
  | vsortk (d : BitVec 5) (a : BitVec 5) (t : BitVec 3) (c : BitVec 5)
  /-- VPERM (R319). Permute the elements of va by the indices in vb. -/
  | vperm (d : BitVec 5) (a : BitVec 5) (b : BitVec 5) (t : BitVec 3)
  /-- VROTL (R319). Rotate elements toward higher indices. -/
  | vrotl (d : BitVec 5) (a : BitVec 5) (t : BitVec 3) (l : BitVec 7)
  /-- VPACK (R320). Narrow two source vectors into one destination. -/
  | vpack (d : BitVec 5) (a : BitVec 5) (b : BitVec 5) (t : BitVec 3) (s : BitVec 3) (q : BitVec 1)
  /-- VUNPACK (R320). Widen one half of a source vector. -/
  | vunpack (d : BitVec 5) (a : BitVec 5) (t : BitVec 3) (s : BitVec 3) (h : BitVec 1) (q : BitVec 1)
  /-- VRND (R321). Draw 32 counter-based random values. -/
  | vrnd (d : BitVec 5) (a : BitVec 5) (b : BitVec 5) (t : BitVec 3)
  /-- VB_VFMA (R309). Vector fused multiply-add issued in slot 4. -/
  | vbVfma (d : BitVec 5) (a : BitVec 5) (b : BitVec 5) (t : BitVec 3) (c : BitVec 5)
  /-- VB_VADD (R309). Vector add issued in slot 4. -/
  | vbVadd (d : BitVec 5) (a : BitVec 5) (b : BitVec 5) (t : BitVec 3)
  /-- VB_VMUL (R309). Vector multiply issued in slot 4. -/
  | vbVmul (d : BitVec 5) (a : BitVec 5) (b : BitVec 5) (t : BitVec 3)
  /-- VLD (R324). Load 128 B through port S into a vector register. -/
  | vld (v : BitVec 5) (e : BitVec 4) (x : BitVec 6) (l : BitVec 2) (i : BitVec 5)
  /-- VST (R324). Store 128 B, optionally masked, to lcl or as a gated effect. -/
  | vst (v : BitVec 5) (e : BitVec 4) (x : BitVec 6) (l : BitVec 2) (g : BitVec 1) (m : BitVec 3) (i : BitVec 5)
  /-- VLDS (R326). Strided vector load, run as a sweep. -/
  | vlds (v : BitVec 5) (e : BitVec 4) (x : BitVec 6) (l : BitVec 2) (z : BitVec 2)
  /-- VSTS (R326). Strided vector store. -/
  | vsts (v : BitVec 5) (e : BitVec 4) (x : BitVec 6) (l : BitVec 2) (g : BitVec 1) (m : BitVec 3) (z : BitVec 2)
  /-- VGATH (R326). Gather 32 words of lcl by index. -/
  | vgath (v : BitVec 5) (e : BitVec 4) (x : BitVec 6) (l : BitVec 2) (b : BitVec 5)
  /-- VSCAT (R326). Scatter 32 words into lcl by index. -/
  | vscat (v : BitVec 5) (e : BitVec 4) (x : BitVec 6) (l : BitVec 2) (g : BitVec 1) (m : BitVec 3) (b : BitVec 5)
  /-- VLDB (R327). Load one value and broadcast it to every element. -/
  | vldb (d : BitVec 5) (e : BitVec 4) (x : BitVec 6) (l : BitVec 2) (z : BitVec 2) (i : BitVec 7)
  /-- TCFG (R329). Set the shape byte of one tile in csr.tshape. -/
  | tcfg (t : BitVec 3) (s : BitVec 8)
  /-- TLD (R330). Load the configured shape of a tile from memory. -/
  | tld (t : BitVec 3) (e : BitVec 4) (x : BitVec 6) (l : BitVec 2)
  /-- TST (R330). Store the configured shape of a tile to memory. -/
  | tst (t : BitVec 3) (e : BitVec 4) (x : BitVec 6) (l : BitVec 2)
  /-- TROWV (R331). Move a tile row into a vector. -/
  | trowv (v : BitVec 5) (t : BitVec 3) (i : BitVec 4) (h : BitVec 1)
  /-- TVROW (R331). Move a vector into a tile row. -/
  | tvrow (v : BitVec 5) (t : BitVec 3) (i : BitVec 4) (h : BitVec 1)
  /-- TCOLV (R331). Move a tile column into a vector. -/
  | tcolv (v : BitVec 5) (t : BitVec 3) (i : BitVec 4) (h : BitVec 1)
  /-- TVCOL (R331). Move a vector into a tile column. -/
  | tvcol (v : BitVec 5) (t : BitVec 3) (i : BitVec 4) (h : BitVec 1)
  /-- TZERO (R331). Zero the configured shape of a tile. -/
  | tzero (t : BitVec 3)
  /-- TSAVE (R332). Write all 1,024 bytes of a tile to lcl. -/
  | tsave (t : BitVec 3) (e : BitVec 4) (x : BitVec 6)
  /-- TREST (R332). Read 1,024 bytes of lcl into a tile. -/
  | trest (t : BitVec 3) (e : BitVec 4) (x : BitVec 6)
  /-- MNEST (R346). Write one value of a nest table. -/
  | mnest (k : BitVec 1) (l : BitVec 3) (f : BitVec 3) (a : BitVec 6)
  /-- MFMT (R347). Write one field of a format-table entry. -/
  | mfmt (e : BitVec 4) (f : BitVec 4) (a : BitVec 6)
  /-- MSPAR (R348). Read the sparsity descriptor from lcl. -/
  | mspar (a : BitVec 6)
  /-- MSPAR_OFF (R348). Clear the sparsity descriptor. -/
  | msparOff
  /-- MTREE (R349). Read a 128 B tree descriptor from lcl. -/
  | mtree (a : BitVec 6)
  /-- MTREE_OFF (R349). Remove the tree descriptor. -/
  | mtreeOff
  /-- MSEL (R350). Select an accumulator bank as the A source. -/
  | msel (c : BitVec 2) (m : BitVec 1) (f : BitVec 3)
  /-- MSEL_OFF (R350). Select plates as the A source. -/
  | mselOff
  /-- MGO (R351). Check and start a nest from a nest bank. -/
  | mgo (b : BitVec 1)
  /-- MACC (R352). Down-convert one accumulator row and write it to lcl. -/
  | macc (c : BitVec 2) (r : BitVec 6) (a : BitVec 6) (f : BitVec 3) (m : BitVec 1)
  /-- MZERO (R353). Zero the accumulator banks named in the mask. -/
  | mzero (m : BitVec 4)
  /-- MRET (R354). Retire a bank to lcl through the down-converter. -/
  | mret (c : BitVec 2) (a : BitVec 6) (f : BitVec 3) (m : BitVec 1)
  /-- MSTAT (R355). Write 64 B of matrix engine status to lcl. -/
  | mstat (a : BitVec 6)
  /-- MABORT (R356). Close the open nest. -/
  | mabort
  /-- MREST (R357). Restore the matrix engine from the trap save buffer. -/
  | mrest
  /-- CPY (R361). Copy bytes between an extent and lcl, or within lcl, setting plate tags. -/
  | cpy (f : BitVec 1) (e : BitVec 4) (l : BitVec 6) (x : BitVec 6) (n : BitVec 6) (y : BitVec 2)
  /-- CPY2 (R364). Copy a two-dimensional region as one copy. -/
  | cpy2 (f : BitVec 1) (e : BitVec 4) (l : BitVec 6) (x : BitVec 6) (n : BitVec 6) (y : BitVec 2)
  /-- MWAIT (R365). Request a hold until the late writes of the last copy into a plate are done. -/
  | mwait (p : BitVec 7)
  /-- CFLUSH (R366). Gated write-back of the dirty lines of a range to HBM. -/
  | cflush (e : BitVec 4) (x : BitVec 6) (n : BitVec 6)
  /-- CINV (R366). Queue a write-back and invalidation of the lines of a range at issue. -/
  | cinv (e : BitVec 4) (x : BitVec 6) (n : BitVec 6)
  /-- SEND (R367). Timed transfer of a vector and a tag to another strand's landing register. -/
  | send (l : BitVec 2) (a : BitVec 5) (r : BitVec 7) (s : BitVec 6)
  /-- RECV (R367). Check the tag of a landing register, clear FULL and take the landed value. -/
  | recv (l : BitVec 2) (d : BitVec 5) (t : BitVec 16)
  /-- RGET (R368). Arm a read of a roundel slot. -/
  | rget (q : BitVec 2) (s : BitVec 8) (k : BitVec 2)
  /-- RPUT (R369). Gated write of a slot payload. -/
  | rput (q : BitVec 2) (s : BitVec 8) (v : BitVec 5) (k : BitVec 2)
  /-- RADD (R369). Gated add to a slot word. -/
  | radd (q : BitVec 2) (s : BitVec 8) (o : BitVec 6) (w : BitVec 2) (k : BitVec 2)
  /-- RMAX (R369). Gated signed maximum on a slot word. -/
  | rmax (q : BitVec 2) (s : BitVec 8) (o : BitVec 6) (w : BitVec 2) (k : BitVec 2)
  /-- RMIN (R369). Gated signed minimum on a slot word. -/
  | rmin (q : BitVec 2) (s : BitVec 8) (o : BitVec 6) (w : BitVec 2) (k : BitVec 2)
  /-- RAND (R369). Gated AND on a slot word. -/
  | rand (q : BitVec 2) (s : BitVec 8) (o : BitVec 6) (w : BitVec 2) (k : BitVec 2)
  /-- ROR (R369). Gated OR on a slot word. -/
  | ror (q : BitVec 2) (s : BitVec 8) (o : BitVec 6) (w : BitVec 2) (k : BitVec 2)
  /-- RCAS (R369). Gated compare-and-swap on a slot word. -/
  | rcas (q : BitVec 2) (s : BitVec 8) (o : BitVec 6) (w : BitVec 2) (c : BitVec 6) (k : BitVec 2)
  /-- RBOARD (R369). Gated boarding of an EMPTY slot with a payload. -/
  | rboard (q : BitVec 2) (s : BitVec 8) (v : BitVec 5) (k : BitVec 2)
  /-- RALIGHT (R369). Gated emptying of a BOARDED slot. -/
  | ralight (q : BitVec 2) (s : BitVec 8) (k : BitVec 2)
  /-- RCOL (R370). Request a hold until a ring result arrives, then read one of its words. -/
  | rcol (d : BitVec 6) (q : BitVec 2) (w : BitVec 2)
  /-- RCOL_REV (R370). Collect the revision, state and CAS_OK of a ring result. -/
  | rcolRev (d : BitVec 6) (q : BitVec 2)
  /-- GPASS (R371). Gated, re-encrypting move of a region across a compartment gate. -/
  | gpass (d : BitVec 4) (s : BitVec 4) (o : BitVec 6) (p : BitVec 6) (n : BitVec 6)
  /-- KVCOMMIT (R372). Gated commit of the accepted key/value entries of a path. -/
  | kvcommit (e : BitVec 4) (p : BitVec 6) (n : BitVec 6)
  /-- COLL (R373). Gated contribution to the next collective of the task's group. -/
  | coll (e : BitVec 4) (p : BitVec 6) (o : BitVec 3) (t : BitVec 2)
  /-- CWAIT (R374). Request a hold until the status of the oldest uncollected collective arrives. -/
  | cwait (d : BitVec 6)
  /-- FXCALL (R375). Pass a vector through a committed gesso converter. -/
  | fxcall (d : BitVec 5) (a : BitVec 5) (i : BitVec 8) (f : BitVec 4)
  /-- ILOAD (R376). Curator copy of an image into another core's IMEM. -/
  | iload (e : BitVec 4) (x : BitVec 6) (c : BitVec 6) (n : BitVec 6)
  /-- OVPLOAD (R377). Conservator shift of a column image into the shadow configuration. -/
  | ovpload (e : BitVec 4) (x : BitVec 6) (c : BitVec 6)
  /-- GCOMMIT (R378). Commit one core's region of the shadow configuration to its active configuration. -/
  | gcommit (c : BitVec 6)
  /-- DBGRD (R379). Read a plate tag, an lcl word or a B-buffer word of the core's own state. -/
  | dbgrd (d : BitVec 6) (w : BitVec 6) (k : BitVec 2)
  /-- PAUSE_EXPIRE (R18). A lane pause ends after PAUSE_WIN × 64 cycles. -/
  | pauseExpire (n vl : Nat)
  /-- LINK_DOWN (R17). After 8 successive retry requests for one SEQ, the port declares the link down and reports it. -/
  | linkDown (n : Nat)
  /-- TIME_FLIT_QUEUE (R21). At each multiple of 2^20, time flits are queued on every trained link. -/
  | timeFlitQueue
  /-- SLEW_STEP (R22). At a correction point with a pending offset, apply a doubled increment or a slew gap. -/
  | slewStep
  /-- LEVEL_CHANGE (R35). A decided reduction level takes effect at a bundle boundary at least 8 core cycles later, once no hold is in force. -/
  | levelChange (coh : Nat)
  /-- DOMAIN_REPORT (R38). After 16 intervals over 800 W with every tier at level 3, the domain is reported. -/
  | domainReport (n : Nat)
  /-- DISPATCH_WINDOW (R119). A new 1 ms window begins and the served counts restart. -/
  | dispatchWindow
  /-- TASK_START (R117). At GCY A + START_OFS the predecessors are checked and the cohorts start, or the task is slipped. -/
  | taskStart (task : Nat)
  /-- PBOUND_KILL (R118). A task that does not reach ckpt.p within PBOUND core cycles is killed with STATUS 8. -/
  | pboundKill (task : Nat)
  /-- TAKEOVER (R126). An uncorrectable ECC_IMEM on Curator A raises the takeover line, holding A and starting B. -/
  | takeover
  /-- HOLD_TAKE_EFFECT (R183). Eight core cycles after a request, the cohort stops at one CCY if the request is unmet. -/
  | holdTakeEffect (core : Nat)
  /-- HOLD_END (R183). When every request of the hold is met, the cohort issues the next bundle. -/
  | holdEnd (core : Nat)
  /-- LOCK_EXPIRE (R160). At the end of a lockb count, the deferred port-C accesses perform in arrival order. -/
  | lockExpire (core : Nat)
  /-- NEST_STEP (R341). A nest step reads A, B and scales and writes its sums, and may trigger end actions. -/
  | nestStep (core : Nat)
  /-- ROLLBACK (R225). A fault stops the cohort after the bundle and rolls it back to its last checkpoint. -/
  | rollback (core : Nat)
  /-- ROLLBACK_RESUME (R225). Once the fills of cancelled copies are installed, the cohort issues again at K. -/
  | rollbackResume (core : Nat)
  /-- COHORT_END (R179). The cohort ends when all strands have halted and no ring operation is outstanding. -/
  | cohortEnd (core : Nat)
  /-- RING_OP_PERFORM (R189). An armed ring operation performs on its slot as the slot passes the strand's stop. -/
  | ringOpPerform (core q : Nat)
  /-- RING_RESULT_ARRIVE (R190). The ring result reaches its q register 2 cycles later and sets ARRIVED. -/
  | ringResultArrive (core q : Nat)
  /-- ROUNDEL_SCRUB (R62). Slots of destroyed or reset partitions are scrubbed as they pass position 1. -/
  | roundelScrub (canvas slot : Nat)
  /-- TASK_RESUME (R118). A pre-empted task is retranslated, placed and restarted from its saved checkpoint. -/
  | taskResume (task : Nat) (places : List Place)
  /-- POWER_INTERVAL (R33). Every 2,048 cycles the controller grants power by tier and decides level changes. -/
  | powerInterval (n : Nat) (est : List TierEstimate) (power : Nat)
  /-- SPDM_REQUEST (R59). Any other SPDM 1.3 request answered by the Primer as responder. -/
  | spdmRequest (v : Nat) (tdisp : Bool) (msg : List Byte)
  /-- TDIDONE (R388). The Primer completes the held arrival and sends the response in TDIRSP. -/
  | tdidone (who : Nat) (val : Word)
  /-- SELF_TEST_DONE (R424). The self-test ends with a KIND 6 or KIND 7 record, and failing plots are marked 0xFF. -/
  | selfTestDone (pass : Bool) (badPlots : List Nat)
  /-- DRBG_RESEED (R58). The entropy source reseeds the DRBG after 2^20 requests. -/
  | drbgReseed
  /-- REGISTER_WRITE (R8). A write to any register that has no row of its own, following its access type. -/
  | registerWrite (w : RegWrite)
  /-- PACKAGE_RESET (R20). Package reset: GCY is zeroed, HBM is trained, frames are scrubbed and the control cores start.
  Given with the event: the copies of portfolio images that the flash does not deliver as they were written (image, copy), the HBM stacks
  that fail their training, and whether the host link trains in FLIT mode (R39, R57, R104; log 49, DESIGN CHOICE). -/
  | packageReset (damaged : List (Nat × Nat)) (failed : BitVec 8) (flit : Bool)
  /-- LINK_TRAIN (R13). A link trains on all 8 lanes or stays down. -/
  | linkTrain (n : Nat) (ok : Bool) (delay : Nat)
  /-- FLIT_SEND (R16). The sender starts a flit at a flit boundary, keeping data flits for replay and sending idles when the replay buffer is full. -/
  | flitSend (n : Nat) (data : Option (Nat × List Byte))
  /-- FLIT_RECEIVE (R14). A 256 B flit arrives and is checked by CRC, VL, KIND and SEQ, and then accepted or discarded. -/
  | flitReceive (n : Nat) (flit : List Byte) (taken : List Nat)
  /-- LINK_RETRAIN (R17). Conservator retraining of a link ends; transmission resumes, or the link is removed and crossing collectives end with PEER_RESET. -/
  | linkRetrain (n : Nat) (ok : Bool) (crossing : List Nat)
  /-- GCYALIGN (R24). A write of GCYALIGN; setting ENABLE is ignored while any task is dispatched. -/
  | gcyalign (who : Nat) (val : BitVec 32)
  /-- PWRMAP (R29). A write of PWRMAP changes the regulator of clusters that hold no task, and sets MAP_REFUSED for the others. -/
  | pwrmap (who c : Nat) (val : BitVec 32)
  /-- REGCTL (R32). A write of REGCTL; a CAP that would exceed the total is refused, and VTRIM slews. -/
  | regctl (who n : Nat) (val : BitVec 32)
  /-- DOORBELL (R49). A DB_q write records the tail in QTAIL and sets a pending-kick bit, or stops the queue. -/
  | doorbell (v q : Nat) (val : BitVec 32)
  /-- KICKMAP_CLEAR (R49). A W1C write of KICKMAP clears pending-kick bits, while a doorbell on the same clock wins. -/
  | kickmapClear (who w : Nat) (val : Word)
  /-- LQBASE_WRITE (R44). A write of LQBASE_q, refused while the queue is enabled if it changes the value. -/
  | lqbaseWrite (v q : Nat) (val : Word) (be : BitVec 8)
  /-- LQCFG_WRITE (R44). A write of LQCFG_q: enabling resets HEAD, disabling stops fetching, and illegal changes set CFG_ERR. -/
  | lqcfgWrite (v q : Nat) (val : BitVec 32) (be : BitVec 4)
  /-- CQBASE_WRITE (R44). A write of CQBASE, refused while the completion queue is enabled if it changes the value. -/
  | cqbaseWrite (v : Nat) (val : Word) (be : BitVec 8)
  /-- CQCFG_WRITE (R44). A write of CQCFG: enabling resets TAIL and PHASE and releases held completions. -/
  | cqcfgWrite (v : Nat) (val : BitVec 32) (be : BitVec 4)
  /-- CQHEAD_WRITE (R47). A host write of CQHEAD frees room, so that held completions are written in order. -/
  | cqheadWrite (v : Nat) (val : BitVec 32)
  /-- COMPLETION_RECORD_WRITE (R47). After all released effects have performed, a 32 B completion record is written, TAIL advances and MSI-X follows; the record is held while the queue is full or disabled. -/
  | completionRecordWrite (v : Nat)
  /-- VFBIND_WRITE (R41). A write of VFBIND v, refused if it names a partition that WORLD does not own. -/
  | vfbindWrite (v : Nat) (val : BitVec 128)
  /-- S2INV (R111). A hypervisor write of S2INV with GO starts a stage-2 invalidation. -/
  | s2inv (val : BitVec 128)
  /-- LOCKED_SET_WRITE (R51). A write to the locked set of a TDI in CONFIG_LOCKED or RUN is discarded and moves the TDI to ERROR. -/
  | lockedSetWrite (v : Nat) (reg : LockedReg) (w : MaskedWrite)
  /-- IDE_STREAM_LOSS (R51). Stream 1 + v leaving the Secure state moves a locked or running TDI to ERROR. -/
  | ideStreamLoss (v : Nat)
  /-- VF_FLR (R56). A VF function level reset takes the TDI to CONFIG_UNLOCKED and runs the VF reset sequence. -/
  | vfFlr (v : Nat)
  /-- PF_RESET (R51). A PF FLR, hot reset, link-down or the clearing of VF Enable resets every VF's TDI. -/
  | pfReset
  /-- VF_RESET_DONE (R123). Once all the VF's writes and DMA have performed, its registers reset and Transactions Pending clears. -/
  | vfResetDone (v : Nat)
  /-- GET_TDISP_VERSION (R51). TDISP request answered with the supported version. -/
  | getTdispVersion (v : Nat)
  /-- GET_TDISP_CAPABILITIES (R392). TDISP request answered with the capabilities payload. -/
  | getTdispCapabilities (v : Nat)
  /-- GET_DEVICE_INTERFACE_STATE (R51). TDISP request answered with the TDI state. -/
  | getDeviceInterfaceState (v : Nat)
  /-- LOCK_INTERFACE_REQUEST (R53). Lock the TDI if every check passes, capturing the report and a fresh nonce. -/
  | lockInterfaceRequest (v : Nat) (flags : BitVec 16)
  /-- GET_DEVICE_INTERFACE_REPORT (R55). Return a portion of the captured interface report. -/
  | getDeviceInterfaceReport (v : Nat) (offset length : BitVec 16)
  /-- START_INTERFACE_REQUEST (R51). Move to RUN if the nonce matches, else to ERROR. -/
  | startInterfaceRequest (v : Nat) (nonce : Payload)
  /-- STOP_INTERFACE_REQUEST (R51). Run the VF reset sequence and return to CONFIG_UNLOCKED. -/
  | stopInterfaceRequest (v : Nat)
  /-- BIND_P2P_STREAM_REQUEST (R51). Answered with UNSUPPORTED_REQUEST in every state. -/
  | bindP2pStreamRequest (v : Nat)
  /-- UNBIND_P2P_STREAM_REQUEST (R51). Answered with UNSUPPORTED_REQUEST in every state. -/
  | unbindP2pStreamRequest (v : Nat)
  /-- SET_MMIO_ATTRIBUTE_REQUEST (R51). Answered with UNSUPPORTED_REQUEST in every state. -/
  | setMmioAttributeRequest (v : Nat)
  /-- TDISP_VENDOR_REQUEST (R51). A vendor-defined TDISP request, answered with UNSUPPORTED_REQUEST. -/
  | tdispVendorRequest (v : Nat)
  /-- TDICTL_LOCK (R389). A write moving STATE from 0 to 1 freezes the locked set, captures the report and draws a nonce. -/
  | tdictlLock (who v : Nat) (val : Word)
  /-- TDICTL_RUN (R389). A write moving STATE from 1 to 2 starts accepting requests with the T bit set. -/
  | tdictlRun (who v : Nat) (val : Word)
  /-- TDICTL_ERROR (R389). A write moving STATE from 1 to 3 begins the effects of ERROR. -/
  | tdictlError (who v : Nat) (val : Word)
  /-- TDICTL_UNLOCK (R389). A write of STATE 0 runs the VF reset sequence and sends the held STOP response at its end. -/
  | tdictlUnlock (who v : Nat) (val : Word)
  /-- GET_MEASUREMENTS (R60). SPDM request returning the signed measurement blocks. -/
  | getMeasurements (v index : Nat)
  /-- IDE_KM (R40). An IDE key-management request over the PF DOE mailbox, answered by the Primer. -/
  | ideKm (stream : Nat) (secure : Bool)
  /-- WORLD_CREATE (R71). Create a world with a validated policy at generation 1. -/
  | worldCreate (mb : Mailbox) (world : Nat) (policy : List Byte) (parts : List Partition)
  /-- WORLD_REKEY (R65). Make generation G + 1 current and start re-encryption. -/
  | worldRekey (mb : Mailbox) (world : Nat)
  /-- WORLD_DESTROY (R62). Release the world's frames, scrub its slots and erase its keys. -/
  | worldDestroy (mb : Mailbox) (world : Nat)
  /-- WORLD_DESTROY_DONE (R62). The WORLD_DESTROY response is sent once the last frame has left SCRUB. -/
  | worldDestroyDone (world : Nat)
  /-- WORLD_EXPORT (R70). Return the wrapped world key and seal keys. -/
  | worldExport (mb : Mailbox) (world : Nat)
  /-- WORLD_IMPORT (R70). Unwrap and install a world's keys, or refuse with status 3. -/
  | worldImport (mb : Mailbox) (world : Nat) (policy : List Byte) (wrapped : WrappedKeys) (parts : List Partition)
  /-- SEAL_INSTALL (R78). Install a seal key with its seal policy. -/
  | sealInstall (mb : Mailbox) (sealId : Nat) (policy : List Byte) (key : BitVec 512)
  /-- SEAL_REMOVE (R61). Remove a seal key that no task names. -/
  | sealRemove (mb : Mailbox) (sealId : Nat)
  /-- FRAME_REENCRYPT (R66). The scrub engine moves one frame of a rekeyed world from G to G + 1, once its pins are released. -/
  | frameReencrypt (world frame : Nat)
  /-- GENERATION_RETIRE (R67). Generation G is retired, its key erased, and WORLD_REKEY completes. -/
  | generationRetire (world : Nat)
  /-- FETCH (R403). LAUNCHCTL FETCH reads a launch record by DMA into the record buffer. -/
  | fetch (who v q : Nat) (arg : BitVec 32) (dmaOk : Bool)
  /-- START (R403). LAUNCHCTL START issues a launch number to the held record and sends it to check and dispatch. -/
  | start (who v q : Nat) (arg : BitVec 32) (dma : LaunchDma)
  /-- INVALIDATION_COMPLETE (R111). An invalidation completes once every run built from a covered entry has retired. -/
  | invalidationComplete (stage2 : Bool) (task : Nat)
  /-- TRANSLATION (R110). The walkers finish translating a task's extents into pinned runs, or refuse the launch. -/
  | translation (task : Nat)
  /-- DISPATCH_DECISION (R119). The dispatcher chooses a tier and a VF, places cohorts and fixes the anchor. -/
  | dispatchDecision (task : Nat) (places : List Place) (anchor : Nat)
  /-- QUANTUM_EXPIRE (R119). A task that has run 85,000 cycles receives a pre-emption request when another VF needs its clusters. -/
  | quantumExpire (task other : Nat)
  /-- PREEMPT_REQUEST (R118). A pre-emption request is made for a task. -/
  | preemptRequest (task : Nat)
  /-- JCOMMIT (R124). A write of JCOMMIT commits a journal entry once both mirrors hold it. -/
  | jcommit (who : Nat) (val : Word)
  /-- JCRC_SEAL (R402). A JCRC write with SEAL = 1 computes the entry CRC and writes it into both mirrors. -/
  | jcrcSeal (who pos : Nat)
  /-- JCRC_CHECK (R402). A JCRC write with SEAL = 0 checks the CRC of an entry in both mirrors. -/
  | jcrcCheck (who pos : Nat)
  /-- RESUME (R126). The CURCTL RESUME write clears PAUSED so that the dispatcher decides again. -/
  | resume (who : Nat)
  /-- CURCTL_RELEASE (R125). The CURCTL RELEASE write drains the hold buffer in order and then clears HOLDING. -/
  | curctlRelease (who : Nat)
  /-- ASSIGN (R99). FOT command that assigns a FREE frame to an owner. -/
  | assign (who frame owner : Nat)
  /-- RELEASE (R99). FOT command that moves an owned frame to SCRUB and starts its scrub. -/
  | release (who frame : Nat)
  /-- READ (R99). FOT command that reports a frame's owner. -/
  | read (who frame : Nat)
  /-- FOT_NOP (R99). FOTCMD with OP 0, no operation. -/
  | fotNop (who : Nat)
  /-- SCRUB_COMPLETE (R101). After waiting for checked fills, the frame is invalidated, blanked and made FREE. -/
  | scrubComplete (frame : Nat)
  /-- FILL_INSTALL (R91). An HBM fill completes: ECC and tag are checked, and the line is installed with its late writes, or poison is delivered. -/
  | fillInstall (fill : Nat) (ecc : EccResult)
  /-- RELEASED_EFFECT_PERFORM (R193). Released gated effects perform at the sub-banks, HBM, host, roundel or collective engine in release order. -/
  | releasedEffectPerform
  /-- CINV_PERFORM (R194). A queued cinv writes back and invalidates the lines of its range. -/
  | cinvPerform
  /-- L2COL (R97). A write of L2COL OFF starts a column change, or is refused with COL_ERR. -/
  | l2col (who g : Nat) (val : BitVec 32)
  /-- COLUMN_CHANGE_DONE (R97). The column's lines are moved and its power is switched, and BUSY clears. -/
  | columnChangeDone (g : Nat)
  /-- HBM_RETRAIN (R104). Retraining of an HBM stack ends and the queued accesses complete in order. -/
  | hbmRetrain (stack : Nat) (ok : Bool)
  /-- UNIT_ERROR_DETECT (R128). A detected hardware error in a unit or memory is reported. -/
  | unitErrorDetect (e : UnitError)
  /-- ERRHEAD (R129). A write of ERRHEAD advances the read index only within the written records. -/
  | errhead (who : Nat) (val : Word)
  /-- CORESTATE (R133). A Conservator write of CORESTATE STATE, which recomputes the class on 0 and refuses 6, 7 and moves from 5. -/
  | corestate (who n : Nat) (val : Word)
  /-- TIMING_TABLE_WRITE (R140). A Conservator write of a timing-table entry, accepted only while STATE is 3. -/
  | timingTableWrite (who n e : Nat) (val : BitVec 16)
  /-- CHECK_OVERPAINT (R380). CONSREQ OP 1: verify an overpaint header and check its latencies, class and NO_FW_UPDATE. -/
  | checkOverpaint (who : Nat) (req : Word)
  /-- SELF_TEST (R424). CONSREQ OP 2: start a targeted self-test of a unit on a core. -/
  | selfTest (who : Nat) (req : Word)
  /-- DROP_CORE (R142). CONSREQ OP 3: write the detour routes around a core's router. -/
  | dropCore (who : Nat) (req : Word)
  /-- POST_LOAD_OUTCOME (R380). CONSREQ OP 4: write a KIND 8 record with the load outcome. -/
  | postLoadOutcome (who : Nat) (req : Word)
  /-- COLLECTIVE_STATUS_ARRIVE (R373). A collective completes or aborts, and its status arrives at each participant. -/
  | collectiveStatusArrive (group : Nat) (status : BitVec 8) (remote : List (List Byte))
  /-- DEBUG_PORT_SCAN (R80). A debug-port scan reads core state, returning zeros for sealed data. -/
  | debugPortScan (core off : Nat)
  /-- UNCACHED_COPY_SOURCE_ARRIVAL (R363). The source data of a D = 0 copy from an NC, HOST or DEVICE extent arrives and is written late, in copy order, into the destination plates. -/
  | uncachedCopySourceArrival (core copy : Nat)
  /-- FIRMWARE_IMAGE_UPDATE (R53). An update of the Curator or Primer firmware images in the portfolio flash, refused while a TDI locked with NO_FW_UPDATE binds the device. -/
  | firmwareImageUpdate (image : BitVec 8) (copies : List (List Byte × List Byte))
  /-- MODULE_POWER_OFF (R132). The module loses power; every domain goes down, and only the portfolio flash keeps its contents until the next package reset. -/
  | modulePowerOff
deriving DecidableEq, Repr

end Sys2Proof
end

