-- ==== Sys2Proof/Machine/State.lean ====
section
/-! DEFINITION. The state of the part, as plain data: every register, memory, queue and table that the spec names.
INVENTORY.md lists each with its rule and its value after reset. -/

namespace Sys2Proof.Machine

/-- A sparse table: keys strictly rising, no entry equal to what an unlisted key reads as. -/
abbrev SMap (α : Type) := List (Nat × α)

/-- A memory of bytes in the host's cells. -/
abbrev Memory := List Host.Cell

/-- What a byte that nothing has written reads as (log 4, DESIGN CHOICE). -/
def Memory.blank : Byte := 0

/-! ## Stops -/

/-- Why the machine stops with a fault. No meaning of an instruction ends in one: every trap the spec describes is taken,
as the spec describes it (R225-R236). -/
inductive Fault where
  /-- Raised by `step` after MODULE_POWER_OFF (R132): the part has no power, and the spec gives it no step until the next
  package reset. Safe: the hardware does nothing there either. -/
  | noPower
deriving DecidableEq, Repr

/-- Why an instruction has no meaning in the model. -/
inductive Refusal where
  /-- Raised by the dispatch for an instruction the model does not give a meaning. Safe: no run goes on past it. -/
  | notModelled (mnemonic : String)
deriving DecidableEq, Repr

/-! ## Causes -/

/-- The cause codes of R235. -/
inductive Cause where
  | illegalOp | privilege | slotProfile | misaligned | extentBound | extentPerm | fotViolation
  | sealedLoad | sealedCopy | sealedDebug | sealedPolicy | gateDenied | keygenStale
  | schedLate | xferTag | portCollision | layoutMismatch | predUnfinished | timingClass | stampDeviation
  | undoFull | gateBufferFull | tileUnconfig | tileShape | mxFormat | mxScaleShort | mxNest | mxCkpt
  | ringOwner | ringState | eccImem | eccSp | eccReg | twinMismatch | unitCondemned | scall | trapInsn | brk
deriving DecidableEq, Repr

/-- A fault as an operation raises it: its cause, csr.tval (none where the spec states no contents: a free value is then taken,
log 11, DESIGN CHOICE), the slot (8 nest step, 9 ckpt check, 10 call entry) and the PC of the bundle (R227, R229, R230). -/
structure TrapRec where
  cause : Cause
  tval : Option Word
  slot : Nat
  pc : BitVec 17
deriving DecidableEq, Repr

/-! ## Registers of a core -/

/-- The modes of R216. -/
inductive Mode where
  | task | service | control
deriving DecidableEq, Repr

/-- What a core is doing: held in reset, issuing, halted, stopped by a fault that ROLLBACK has not yet taken, rolled back and
waiting to issue again, holding for another strand's handler, or done with its task. -/
inductive RunState where
  | inReset | running | halted | faulted | rolledBack | heldForHandler | ended
deriving DecidableEq, Repr

/-- One entry of the loop stack (R146). -/
structure LoopEntry where
  start : BitVec 17
  len : Nat
  count : BitVec 32
  index : BitVec 32
deriving DecidableEq, Repr

/-- The ring operations (R369). -/
inductive RingKind where
  | rget | rput | radd | rmax | rmin | rand | ror | rcas | rboard | ralight
deriving DecidableEq, Repr

/-- A ring entry before it performs: gated until its release, then armed at a GCY (R188). -/
inductive RingPhase where
  | gated | armed (gcy : Nat)
deriving DecidableEq, Repr

/-- A ring operation that has been issued and has not yet performed (R174, R368). -/
structure RingEntry where
  kind : RingKind
  canvas : Nat
  slot : Nat
  payload : Payload
  x : Word
  word : Nat
  cmp : Word
  issued : Nat
  img : Bool
  phase : RingPhase
deriving DecidableEq, Repr

/-- The result of a ring operation on its way to the q register (R190). -/
structure RingResult where
  val : Payload
  rev : BitVec 8
  state : Bool
  casOk : Bool
  err : Bool
  img : Bool
  issued : Nat
  arrives : Nat
deriving DecidableEq, Repr

/-- A released ring operation of a task that has ended: the task, the core at whose stop it performs, its q number (R123, R188, R197). -/
structure Orphan where
  task : Nat
  core : Nat
  q : Nat
  entry : RingEntry
deriving DecidableEq, Repr

/-- A q register with its ring entry and the result under way (R150, R174, R190). -/
structure QReg where
  val : Payload
  rev : BitVec 8
  arrived : Bool
  state : Bool
  casOk : Bool
  err : Bool
  slot : BitVec 8
  entry : Option RingEntry
  result : Option RingResult
deriving DecidableEq, Repr

/-- A landing register (R171, R185). -/
structure Landing where
  val : Vec
  tag : BitVec 16
  full : Bool
deriving DecidableEq, Repr

/-- csr.mxc (R214). -/
structure Mxc where
  subin : BitVec 16
  ofl : BitVec 16
  ftz : BitVec 16
  nans : BitVec 16
deriving DecidableEq, Repr

/-- Flags and counts that an operation applies when its result is written (R215). -/
structure Events where
  flags : BitVec 5
  subin : Nat
  ofl : Nat
  ftz : Nat
  nans : Nat
deriving DecidableEq, Repr

/-- The A source of the matrix engine (R350): plates, or an accumulator bank with a mode and an output format. -/
structure ASource where
  bank : Option Nat
  sat : Bool
  ofmt : BitVec 3
deriving DecidableEq, Repr

/-- One entry of the format table (R337). -/
structure FmtEntry where
  afmt : BitVec 4
  bfmt : BitVec 4
  ofmt : BitVec 4
  block : BitVec 2
  sext : BitVec 4
  soff : BitVec 19
  scount : BitVec 16
deriving DecidableEq, Repr

/-- One level of a nest table (R335, R336). -/
structure NestLevel where
  count : Word
  astride : Word
  bstride : Word
  cstride : Word
  endv : Word
deriving DecidableEq, Repr

/-- The registers of the shadow set (R218): what a checkpoint copies and a rollback puts back. Bit k of `lines` is the dirty bit of line k
of the active image (R151). -/
structure ArchRegs where
  s : Vector Word 64
  v : Vector Vec 32
  m : Vector Mask 8
  g : BitVec 8
  q : Vector QReg 4
  l : Vector Landing 4
  tiles : Vector TileBits 8
  tshape : Word
  claimed : BitVec 8
  owner : BitVec 8
  valid : BitVec 8
  dirty : BitVec 8
  act : Bool
  fflags : BitVec 5
  mxc : Mxc
  rsb : Nat
  rsbalt : Nat
  tvec : Word
  nests : Vector (Vector NestLevel 6) 2
  fmt : Vector FmtEntry 16
  coarse : Bool
  sp24 : Bool
  tree : Option (List Byte)
  src : ASource
  lines : BitVec 64
deriving DecidableEq, Repr

/-! ## Scratchpad and operations in flight -/

/-- The tag word of a plate (R164), with its seal descriptor (R77), the task that sealed it (R81) and what a fault of R166 reports. -/
structure PlateTag where
  expSeq : BitVec 16
  actSeq : BitVec 16
  layout : BitVec 2
  checked : Bool
  poison : Bool
  refused : Bool
  sealed : Bool
  sealId : Nat
  sealIndex : Nat
  sealer : Nat
  badFrame : Nat
  badUnit : Nat
deriving DecidableEq, Repr

/-- The ports of a scratchpad bank (R158). -/
inductive Port where
  | S | M | W | C | F
deriving DecidableEq, Repr

/-- A use of a port of a bank at a core cycle (R158, R159); `sweep` says that it is a rank of a sweep (R325). -/
structure PortUse where
  port : Port
  bank : Nat
  ccy : Nat
  issued : Nat
  slot : Nat
  sweep : Bool
deriving DecidableEq, Repr

/-- A tile operation that waits for its performance point p (R156, R328). -/
inductive TileOp where
  | load (t : BitVec 3) (layout : Nat) (rows : List (Nat × List Nat))
  | storeLcl (t : BitVec 3) (rows : List (Nat × List Nat))
  | storeOut (t : BitVec 3) (effect : Nat) (rows : List (Nat × List Nat))
  | rowToVec (v : BitVec 5) (t : BitVec 3) (places : List (Nat × Nat))
  | vecToTile (t : BitVec 3) (bytes : List (Nat × Byte))
  | save (t : BitVec 3) (base : Nat)
  | restore (t : BitVec 3) (base : Nat)
deriving DecidableEq, Repr

/-- The key a line is held under (R64, R84): a compartment of a world at a generation, the Curator key, or the null key. -/
inductive MemKey where
  | comp (world comp gen : Nat) | curator | null
deriving DecidableEq, Repr

/-- What comes about at a due core cycle, for an operation already issued (R144, R191, R219). Register effects are seen by the
bundle at the due core cycle; the others perform at it, so that reads after it see them. -/
inductive Effect where
  | sreg (n : BitVec 6) (x : Word)
  | vreg (n : BitVec 5) (x : Vec)
  | vbits (n : BitVec 5) (mask x : Vec)
  | mreg (n : BitVec 3) (x : Mask)
  | guards (mask x : BitVec 8)
  | csr (num : BitVec 12) (x : Word)
  | lock (pairs : BitVec 16) (last : Nat)
  | tshapeByte (t : BitVec 3) (x : Byte)
  | nestValue (bank level field : Nat) (x : Word)
  | fmtEntry (n : Nat) (e : FmtEntry)
  | sparsity (coarse sp24 : Bool)
  | treeDesc (d : Option (List Byte))
  | source (a : ASource)
  | land (l : BitVec 2) (val : Vec) (tag : BitVec 16) (img : Bool) (sender : Nat)
  | raise (f : TrapRec)
  | events (e : Events)
  | store (port : Port) (bytes : List (Nat × Byte))
  | atomic (fn : Nat) (addr : Nat) (d : BitVec 6) (v : Word) (cmp : Option Word) (lat : Nat)
  | sweepRead (n : BitVec 5) (width : Nat) (elems : List (Nat × List Nat)) (at' : Nat)
  | tile (op : TileOp) (lat : Nat)
  | tileBytes (t : BitVec 3) (bytes : List (Nat × Byte))
  | l2Chunk (copy : Nat) (key : MemKey) (line off : Nat) (dst : List Nat) (at' : Nat) (kept : Option Vec)
  | portC (copy : Nat) (bytes : List (Nat × Byte))
  | lclChunk (copy : Nat) (src dst : List Nat)
  | outRow (effect : Nat) (src dst : List Nat)
  | sums (lat : Nat)
  | retRow (row : Nat)
deriving DecidableEq, Repr

/-- An operation in flight: its effect, the core cycle it is due at, and the bundle (CCY, slot, PC) that issued it. -/
structure Late where
  due : Nat
  issued : Nat
  slot : Nat
  pc : BitVec 17
  eff : Effect
deriving DecidableEq, Repr

/-- A port-C access put off by a bank lock or an atomic window (R159-R161): the copy it belongs to, the bytes it writes, whether that write
is a late one, the bytes it reads (none for a plain write), and whether windows alone put it off, in arrival order. -/
structure Deferred where
  copy : Nat
  writes : List (Nat × Byte)
  late : Bool
  read : Option Late
  window : Bool
deriving DecidableEq, Repr

/-- What a copy has still to write into one plate (R165, R186); `host` says that its source is a HOST extent
(R195), `adopted` that the other member of a resident pair issued it (R121). -/
structure PlateCopy where
  copy : Nat
  plate : Nat
  seq : BitVec 16
  left : Nat
  lateLeft : Nat
  dropped : Bool
  host : Bool
  adopted : Bool
  issued : Nat
deriving DecidableEq, Repr

/-! ## Extents and gated effects -/

/-- What backs an extent: device memory through L2, device memory without L2 (NC), host memory, or a space of the stretcher
die that a control core's DEVICE extent names (R108, R176, 17 R383). -/
inductive Backing where
  | l2 | nc | host | stretcher | portfolio
deriving DecidableEq, Repr

/-- A copy from an NC, HOST or DEVICE extent whose data has not arrived: the address of each byte and its place, in copy order
(R363); `dead` holds those that a later row overwrites, which are read and not written (R364). -/
structure Uncached where
  copy : Nat
  backing : Backing
  key : MemKey
  moves : List (Nat × Nat)
  dead : List (Nat × Nat)
  issued : Nat
deriving DecidableEq, Repr

/-- One extent (R108, R149): its permissions and attributes, and its pinned runs (extent offset, base, length; R110). -/
structure Extent where
  num : Nat
  length : Nat
  r : Bool
  w : Bool
  sealed : Bool
  device : Bool
  gateDst : Bool
  gate : Nat
  comp : Nat
  backing : Backing
  runs : List (Nat × Nat × Nat)
  world : Nat
  gen : Nat
  sealId : Nat
deriving DecidableEq, Repr

/-- What a collective contribution states: which collective of the group it is for, the lines of the result's destination, the count of elements,
the generation it carries, and the key of its extent (R373). -/
structure CollDesc where
  num : Nat
  op : BitVec 3
  type : BitVec 2
  dst : List Nat
  count : Nat
  gen : Nat
  key : MemKey
deriving DecidableEq, Repr

/-- Where the bytes go that an effect reads once it has been released: to addresses under a key (`gpass`, `kvcommit`), or to the
collective engine (R371-R373). -/
inductive Sink where
  | bytes (backing : Backing) (key : MemKey) (dst : List Nat)
  | coll (group : Nat) (d : CollDesc)
deriving DecidableEq, Repr

/-- What an effect does when it performs (R193, R194). Addresses are device, host or register addresses; `gather` has read the lines
in `got`, the first ones of `src`; `inval` is a `cinv`, which is queued at issue. -/
inductive OutEffect where
  | write (backing : Backing) (key : MemKey) (bytes : List (Nat × Byte))
  | flush (lines : List Nat)
  | inval (lines : List Nat)
  | ring (q : BitVec 2)
  | gather (backing : Backing) (key : MemKey) (src : List Nat) (got : List Vec) (sink : Sink)
deriving DecidableEq, Repr

/-- An effect held from issue to release (R193), or released and still to perform. `strand` is 1024 × task + strand, or the number
of a control core, `cls` the set of its fence classes (R195), `reads` how many of its timed reads are still to be made, `reserved`
its bytes in the outbound buffer. -/
structure Gated where
  id : Nat
  core : Nat
  cluster : Nat
  strand : Nat
  issued : Nat
  slot : Nat
  cls : Nat
  reads : Nat
  reserved : Nat
  eff : OutEffect
deriving DecidableEq, Repr

/-! ## Holds, nests, checkpoints -/

/-- The condition of a hold request (R182, R414); a collective is named by its place among those not collected. -/
inductive HoldCond where
  | mwait (plate : Nat) | rcol (q : BitVec 2) | collective (k : Nat) | gcy (t : Nat)
  | fence (pred scope issued : Nat) (released : List Nat) | clocks (n : Nat)
deriving DecidableEq, Repr

/-- What is done when the request is met. -/
inductive HoldEnd where
  | nothing | rcolWrite (d : BitVec 6) (q : BitVec 2) (word : Nat) (rev : Bool) (pc : BitVec 17)
  | cwaitWrite (d : BitVec 6) | tileMove (t : BitVec 3) (pc : BitVec 17)
deriving DecidableEq, Repr

/-- A hold request: it takes effect before the bundle at core cycle `at'` would issue; `met` says that it was met on an earlier
clock, so that it lapses (R183). -/
structure HoldReq where
  at' : Nat
  cond : HoldCond
  fin : HoldEnd
  met : Bool
deriving DecidableEq, Repr

/-- The state of the nest (R334): indices and CCY of the next step, the entry and bank in use, one bit per bank with
unretired sums, and the PC and the CCY of the `mgo`; `fresh` is set while the entry in use has not been checked (R341). -/
structure Nest where
  bank : Nat
  idx : List Nat
  next : Nat
  entry : Nat
  acc : Nat
  unretired : BitVec 4
  mgoPc : BitVec 17
  started : Nat
  fresh : Bool
deriving DecidableEq, Repr

/-- The exact sum of the products of a block so far (R209): m * 2^e, and whether an infinite product of either sign, or a NaN,
occurred. -/
structure BlockSum where
  m : Int
  e : Int
  pinf : Bool
  ninf : Bool
  nan : Bool
deriving DecidableEq, Repr

/-- A nest step in progress: the block sums for each element in block order, their events, and what its end actions need: the end
values of the levels it completes, and the C address with its layout (R339, R340). -/
structure StepSums where
  elems : List (Nat × List (BitVec 32))
  int32 : Bool
  ev : Events
  ends : List (BitVec 4)
  c : Nat
  layout : Nat
  last : Bool
deriving DecidableEq, Repr

/-- The retirement buffer and the down-converter's rows (R342); `op` is the CCY of the `mgo` or `mret`. -/
structure Retire where
  start : Nat
  op : Nat
  rows : SMap (BitVec 32)
  int32 : Bool
  ofmt : BitVec 3
  sat : Bool
  dst : Nat
  layout : Nat
  tree : Option (List Byte)
deriving DecidableEq, Repr

/-- The matrix engine's own state outside the shadow set (R334); `half` is the half of the B buffer that the next step fills (R168). -/
structure Engine where
  nest : Option Nest
  step : Option StepSums
  acc : SMap (BitVec 32)
  int32 : BitVec 4
  carry : List (Nat × BlockSum)
  bbuf : Memory
  half : Bool
  bsealed : Bool
  lastRet : Option Nat
  rets : List Retire
  suspended : Bool
deriving DecidableEq, Repr

/-- The matrix state copied to the trap save buffer (R233, R357). -/
structure MatrixSave where
  nests : Vector (Vector NestLevel 6) 2
  fmt : Vector FmtEntry 16
  coarse : Bool
  sp24 : Bool
  tree : Option (List Byte)
  src : ASource
  nest : Option Nest
  lastRet : Option Nat
  rets : List Retire
deriving DecidableEq, Repr

/-- A collective that the strand has not collected: which of its group's it is, counted from 1, and its status once it has come (R373,
R374). -/
structure CollWait where
  num : Nat
  status : Option (BitVec 8)
deriving DecidableEq, Repr

/-- A checkpoint (R217-R219, R222): the shadow set, the operations in flight (the LWB image), the matrix snapshot with the step that an `mgo`
has started already (R343), and the resume position; with it the claims of tiles, and the collectives not collected, since a `cwait` is
executed again after a rollback. -/
structure Ckpt where
  ccy : Nat
  regs : ArchRegs
  late : List Late
  uses : List PortUse
  windows : List (Nat × Nat)
  holds : List HoldReq
  nest : Option Nest
  lastRet : Option Nat
  rets : List Retire
  int32 : BitVec 4
  step : Option StepSums
  carry : List (Nat × BlockSum)
  claims : SMap Nat
  pc : BitVec 17
  loops : List LoopEntry
  lock : Option (BitVec 16 × Nat)
  idle : Nat
  halted : Bool
  plates : SMap PlateTag
  colls : List CollWait
  collNum : Nat
deriving DecidableEq, Repr

/-- Why a control core does not issue its next bundle (R288, R305, R360, R376, R377). -/
inductive CtlWait where
  | mwait (plate : Nat) | rcol (d : BitVec 6) (q : BitVec 2) (word : Nat) (rev : Bool) | gcy (t : Nat)
  | fence (pred : Nat) | clocks (n : Nat)
deriving DecidableEq, Repr

/-! ## A core -/

/-- The state of one core. `loopAct` is what the slot-0 word of the bundle does to the loop stack at its end (push an entry, or pop), `lastPc` is
the PC of the last bundle that issued, `haltedAt` the GCY of its `halt`, `turn` is set when the core has issued a bundle on the clock under way,
`waitFills` numbers the fills that a rolled-back cohort waits for (R187), `parkedLate` holds the LWB entries and copy reads that stand still while
a handler runs (R231), `seen` the register writes that took effect at the end of the last core cycle, `pbFrom` is the CCY at which the pre-emption
request in `preempt` was made, less the core cycles that handlers have taken since (R118, R231), `collNum` counts the `coll`s that the strand has
issued (R373), `claims` holds for each tile the core cycle at which the first access after a swap point performs (R156), `bundleCount` and
`opCount` are the performance counters (R226).

`sealImage` is the image whose slot holds the seal key of the task, `imgBase` the first byte of the task's own image in IMEM (R79, R121), `was`
the ended task whose remains the core keeps until its completion record is written (R413, R419, R423).

`swap` is the CCY of the `rswap` under way, `bad` lists the words with an uncorrectable error that have not been read or written
since (R163), `twin` is the unit whose twin instances differ, until it has its next result (R139).

A compute core (0-511) or a control core (512 Curator A, 513 Curator B, 514 Conservator, 515 Primer). -/
structure Core where
  id : Nat
  run : RunState
  haltedAt : Nat
  mode : Mode
  inh : Bool
  pc : BitVec 17
  lastPc : BitVec 17
  loops : List LoopEntry
  savedMode : Mode
  savedLoops : List LoopEntry
  r : ArchRegs
  tcause : BitVec 17
  tval : Word
  tepc : BitVec 17
  tbpc : BitVec 17
  stamp : BitVec 12
  pckpt : Bool
  rbcnt : Nat
  ccy : Nat
  imem : Memory
  lcl : Memory
  plates : SMap PlateTag
  checkedNow : List Nat
  late : List Late
  parkedLate : List Late
  seen : List Late
  uses : List PortUse
  windows : List (Nat × Nat)
  claims : SMap Nat
  lock : Option (BitVec 16 × Nat)
  wbuf : List Deferred
  copies : List PlateCopy
  uncached : List Uncached
  gated : List Gated
  undo : List (Nat × List Byte)
  reserved : List Nat
  waitFills : List Nat
  snap : Ckpt
  holds : List HoldReq
  inHold : Bool
  wait : List CtlWait
  stall : Nat
  idle : Nat
  rest : List (Nat × SlotWord)
  bundle : List SlotWord
  started : Bool
  nextPc : Option (BitVec 17)
  loopAct : Option (Option LoopEntry)
  turn : Bool
  ckptWord : Option (BitVec 12 × Bool)
  swap : Option Nat
  call : Option (Cause × BitVec 16)
  retHandler : Bool
  faults : List TrapRec
  exts : List Extent
  sealSlots : Option Nat × Option Nat
  sealImage : Bool
  imgBase : Nat
  was : Nat
  task : Nat
  coh : Nat
  tstrand : Nat
  tcount : Nat
  cohsize : Nat
  tier : Nat
  level : Nat
  colls : List CollWait
  collNum : Nat
  collgrp : Option Nat
  preempt : Option Nat
  pbound : Nat
  pbFrom : Int
  eng : Engine
  save : Option MatrixSave
  bundleCount : Nat
  opCount : Nat
  bad : List ErrorPlace
  twin : Option (BitVec 16)
deriving DecidableEq, Repr

/-! ## The package: time, links, power -/

/-- The global cycle count and GCYALIGN (R20-R26). `slewDone` is the last correction point (a multiple of 4,096) whose slew step was made,
`doubled` is set when the tick under way is a doubled increment, `queuedAt` is the last multiple of 2^20 for which time flits were queued,
`loading` is set while the first time flit after ENABLE is awaited, `loadTo` is the value that the next tick loads, `barred` is set once a load
has been refused: the device then aligns only after package reset (R24). -/
structure Time where
  gcy : Nat
  pending : Int
  alignErr : Bool
  loadRefused : Bool
  lastOffset : BitVec 8
  enable : Bool
  root : Bool
  parent : BitVec 4
  loading : Bool
  loadTo : Option Nat
  barred : Bool
  slewDone : Nat
  doubled : Bool
  queuedAt : Nat
deriving DecidableEq, Repr

/-- A data flit kept for replay (R16): SEQ, virtual lane, payload. -/
structure DataFlit where
  seq : BitVec 16
  vl : Nat
  payload : List Byte
deriving DecidableEq, Repr

/-- One Alaurn link port (R13-R18). `resend` is the first SEQ still to be replayed; `retry` is the retry request to send;
`asked` and `asks` are the SEQ of the last retry request sent and how many in succession named it; `lanes` holds the received data
flits not yet taken, oldest first; `pauses` holds the GCY at which each paused lane is released. -/
structure Link where
  up : Bool
  removed : Bool
  delay : Nat
  nextSeq : BitVec 16
  expected : BitVec 16
  replay : List DataFlit
  resend : Option (BitVec 16)
  retry : Option (BitVec 16)
  skipping : Bool
  asked : BitVec 16
  asks : Nat
  timeQueued : Bool
  lanes : List DataFlit
  pauses : List (Nat × Nat)
  errors : Nat
deriving DecidableEq, Repr

/-- The registers of one regulator (R31), and how many successive intervals met R38. -/
structure Regulator where
  capErr : Bool
  mapRefused : Bool
  cap : BitVec 10
  slotmask : BitVec 8
  vtrim : BitVec 6
  floors : BitVec 64
  power : BitVec 16
  levels : BitVec 16
  overRuns : Nat
  lastRun : Nat
deriving DecidableEq, Repr

/-! ## The package: host, virtual functions, TDI -/

/-- The registers of a selective stream in the PF's IDE capability (R50): Stream Control, RID association, address association. -/
structure IdeStream where
  control : BitVec 32
  rid : Word
  addr : BitVec 96
deriving DecidableEq, Repr

/-- The PF's registers (R40, R50, R57, R109): Fatal Error Detected of Device Status, Command, SR-IOV Control, the VF BAR bases; FLIT mode of
the link, and whether stream 0 is Secure; Message Control of its MSI-X capability and the registers of stream 0 (R39). -/
structure Pf where
  fatal : Bool
  command : BitVec 16
  sriov : BitVec 16
  vfBar0 : Word
  vfBar2 : Word
  flitMode : Bool
  secure : Bool
  msixCtl : BitVec 16
  ide : IdeStream
deriving DecidableEq, Repr

/-- One launch queue of a VF (R43, R45, R49) and its record buffer (R403): the record index and 128 bytes. `kick` holds the GCY of the
doorbell that set the pending-kick bit. -/
structure LaunchQueue where
  base : Word
  enable : Bool
  log2 : BitVec 4
  head : BitVec 16
  tail : BitVec 16
  kick : Option Nat
  record : Option (Nat × List Byte)
deriving DecidableEq, Repr

/-- The values of the PF's registers that a virtual function's lock froze; none where the register itself is in force (R50, R54). -/
structure Frozen where
  command : Option (BitVec 16)
  sriov : Option (BitVec 16)
  bar0 : Option Word
  bar2 : Option Word
deriving DecidableEq, Repr

/-- The DOE mailbox of a function (R42): Interrupt Enable, Interrupt Status and Error, whether a request is under way and whether it is a
secured one, the words written and not yet sent off, and those of the response not yet read (log 79, PRESUMED). -/
structure Doe where
  intEnable : Bool
  intStatus : Bool
  error : Bool
  busy : Bool
  secured : Bool
  writes : List (BitVec 32)
  reads : List (BitVec 32)
deriving DecidableEq, Repr

/-- One virtual function (R41-R48, R50-R56, R389, R390). `scrubbing` is set in a VF reset from the reset of the registers to the end
of the roundel scrub; `condemned` lists the units, by core, of its partitions that were condemned while it was locked with
NO_FW_UPDATE (R53); `aborts` lists the groups whose collectives are aborted once its running tasks have ended (R123). -/
structure Vf where
  parts : Word
  bound : Bool
  world : BitVec 6
  lq : Vector LaunchQueue 8
  cqBase : Word
  cqEnable : Bool
  intMask : Bool
  phase : Bool
  cqLog2 : BitVec 4
  cqTail : BitVec 16
  cqHead : BitVec 16
  heldRecs : List (List Byte)
  cfgErr : Bool
  qerr : BitVec 8
  lswin : BitVec 15
  msixTable : BitVec 256
  msixCtl : BitVec 16
  pba : Word
  status : SMap Word
  lnum : BitVec 32
  tdi : BitVec 2
  nfw : Bool
  condemned : List (Nat × BitVec 16)
  nonce : Payload
  report : List Byte
  ide : IdeStream
  secure : Bool
  frozen : Frozen
  resetting : Bool
  scrubbing : Bool
  aborts : List Nat
  stopRsp : Option (List Byte)
deriving DecidableEq, Repr

/-- An arrival shown in TDIEVT (R388). -/
structure TdiEvt where
  kind : Nat
  vf : Nat
  info : Nat
  len : Nat
  msg : List Byte
deriving DecidableEq, Repr

/-- A translation-table entry that the walkers keep (R110): stage, VF, where the entry lies, the first address that it maps and how
many bytes; `agree` says that the 16 entries of a C64 leaf agreed when it was read (R109). -/
structure WalkEntry where
  stage2 : Bool
  vf : Nat
  at' : Nat
  first : Nat
  size : Nat
  entry : Nat
  agree : Bool
deriving DecidableEq, Repr

/-- A stage-1 or stage-2 invalidation under way (R111), and the tasks whose covered runs it waits for, each with the number of the
translation that built them. -/
structure Inval where
  vf : Nat
  addr : Nat
  pages : Nat
  waits : List (Nat × Nat)
deriving DecidableEq, Repr

/-! ## The package: worlds, tasks, Curator -/

/-- One world (R61-R71): policy, generations, seals (policy and key by seal ID), the frames already moved by a rekey, and
whether it is being destroyed. `keys` numbers the free value that each live generation's world key is (log 11, DESIGN CHOICE); an imported
world holds the bytes it unwrapped. -/
structure World where
  policy : List Byte
  gen : Nat
  prev : Option Nat
  keys : SMap (List Byte)
  seals : SMap (List Byte × BitVec 512)
  moved : List Nat
  destroying : Bool
deriving DecidableEq, Repr

/-- Where a launch stands (R48, R117, R118, R121). -/
inductive TaskPhase where
  | invalidating | switching | translating | ready | waiting | running | preempted | parked | ended
deriving DecidableEq, Repr

/-- How a task ended: STATUS, CAUSE, TVAL, the GCY at which it ended, and GCY_END as its record states it (R46). -/
structure TaskEnd where
  status : Nat
  cause : Nat
  tval : Word
  gcy : Nat
  gcyEnd : Word
deriving DecidableEq, Repr

/-- A launch that the Curator holds, from START to its completion record (R106-R122). `pages` lists the leaves from which its runs were built
(stage 2 or not, first address, size), `built` counts its translations, `slipped` is set while its new anchor is not fixed, `split` is set while
its cohorts are rebuilt one by one under a new generation (R68), `haltGcy` is the GCY at which the last strand of its ended cohorts halted,
`partner` is the other member of a resident pair, or for the switch of a pair the member that is to run. -/
structure Task where
  id : Nat
  vf : Nat
  lnum : BitVec 32
  queue : Nat
  lidx : Nat
  record : List Byte
  image : List Byte
  exttab : List Byte
  fmttab : List Byte
  world : Nat
  gen : Nat
  phase : TaskPhase
  exts : List Extent
  pages : List (Bool × Nat × Nat)
  built : Nat
  places : List Place
  anchor : Nat
  slips : Nat
  slipped : Bool
  since : Nat
  asked : Bool
  split : Bool
  parkedCores : List Core
  cohortsLeft : Nat
  haltGcy : Nat
  inval : Option Inval
  partner : Option Nat
  fin : Option TaskEnd
deriving DecidableEq, Repr

/-- The Curator's hardware registers (R99, R124-R126, R402, R403) and its hold buffer; `command` is the LAUNCHCTL command under way. -/
structure Curator where
  takeover : Bool
  holding : Bool
  activeB : Bool
  paused : Bool
  hold : List (Nat × List Byte)
  commitSeq : BitVec 32
  commitPos : BitVec 12
  v0 : Bool
  v1 : Bool
  journal0 : Memory
  journal1 : Memory
  command : Option Word
  launchResult : BitVec 3
  fotResult : BitVec 3
  fotOwner : BitVec 8
deriving DecidableEq, Repr

/-! ## The package: L2, HBM, service life -/

/-- One valid line of a cluster's L2 (R86, R87): the ciphertext and its GMAC tag; `used` orders the ways of a set by their last use
(R93). -/
structure Line where
  cluster : Nat
  index : Nat
  way : Nat
  data : Vec
  tag : Word
  fold : Bool
  key : MemKey
  ctx : Nat
  dirty : Bool
  used : Nat
deriving DecidableEq, Repr

/-- What a fill does besides installing its line (R91, R186): late bytes of a copy (the byte of the line and the scratchpad byte of each move; the
places of the bytes that a later chunk overwrites, which are not written: R364), the merge of a partial released write, or a line that a released
effect reads. -/
inductive FillUse where
  | copy (copy : Nat) (moves : List (Nat × Nat)) (dead : List Nat)
  | merge (effect : Nat)
  | gather (effect : Nat)
deriving DecidableEq, Repr

/-- A fill under way (R85, R91, R100): the request's key and context; `held` is set where it waited for the end of a stack's training
(R104). -/
structure Fill where
  id : Nat
  cluster : Nat
  index : Nat
  key : MemKey
  ctx : Nat
  uses : List FillUse
  held : Bool
deriving DecidableEq, Repr

/-- A writeback that waits at the controller of its stack (R104): data unit, ciphertext, tag, and the number of the next fill when it came. -/
structure HeldWrite where
  index : Nat
  cipher : Vec
  tag : Word
  fill : Nat
deriving DecidableEq, Repr

/-- L2COL of one cluster (R96). `change` is the column being switched and whether it goes off. -/
structure L2Col where
  err : Bool
  off : BitVec 4
  change : Option (Nat × Bool)
deriving DecidableEq, Repr

/-- A roundel slot (R369). -/
structure Slot where
  boarded : Bool
  rev : BitVec 8
  payload : Payload
deriving DecidableEq, Repr

/-- A collective contribution that has reached the collective engine (R373), with the strand and the cluster it came from. -/
structure Contribution where
  strand : Nat
  cluster : Nat
  group : Nat
  desc : CollDesc
  data : List Vec
deriving DecidableEq, Repr

/-- CORESTATE n (R133). -/
structure CoreState where
  tclass : BitVec 32
  errsum : Bool
  state : BitVec 3
deriving DecidableEq, Repr

/-- An overpaint of a core, as its header describes it (R60, R134, R175): identity, plots of one instance, unit bypassed, role, twin
flag, converter identity, the digest of its header and the digest of its bitstream. -/
structure Overpaint where
  core : Nat
  ident : Nat
  plots : Nat
  unit : BitVec 16
  role : Nat
  twin : Bool
  format : Nat
  digest : List Byte
  bits : List Byte
deriving DecidableEq, Repr

/-- What the device sends out (R14, R47, R51-R54, R80). -/
inductive OutMsg where
  | flit (n : Nat) (bytes : List Byte)
  | msix (v vec : Nat)
  | unsupported (v : Nat)
  | spdm (v : Option Nat) (bytes : List Byte)
  | service (mb : Mailbox) (code status : Nat) (bytes : List Byte)
  | scan (core off : Nat) (bytes : List Byte)
  | deviceFatal
deriving DecidableEq, Repr

/-! ## The state of the part -/

/-- The whole part. `firmware` holds the copies of the portfolio's images, each with its signature, by their measurement block (1 Primer, 2
Curator, 3 Conservator), `certChain` the certificate chain of slot 0 (R58), `spdmOnly` is set where one of them failed its verification at the
start (R57), `headers` are the overpaints whose headers passed a check for a core, `overpaints` those committed, `measured` is what each core
gives to measurement block 5 since its last write of STATE = 0, with the plots that failed a self-test since. `suspects` are the units with an
error record and no self-test since, by core; `transients` the passes that followed such a record, by core, unit code or identity of a twin (2^16
+ IDENT), and GCY: the Conservator's history (R130, R139). `core` is the core whose operation comes next, `others` the cores after it in the round
of the clock, `toGo` how many of them still issue before the clock ends; `inputs` holds the environment's events with the GCY from which each may
come about, oldest first (log 5, DESIGN CHOICE); `fresh` numbers the free values drawn (log 11, DESIGN CHOICE). For tier t of partition p, entry
8p + t of `served` counts the cluster-cycles held in the window that began at GCY `window`, and that of `lastVf` is the VF served last, plus one
(R119). `orphans` holds the released ring operations of ended tasks; `passed` names the stops, by core and canvas, at which an operation has
performed on this clock (R174). `pendLevel` lists the level changes decided, by cohort, level and the CCY from which each may come (R35). The
stacks in `draining` are about to be retrained, those in `training` are in it, and `heldWb` holds the writebacks that wait for its end (R104).
`walkEcc` lists the data units in which the next read of a walker meets an error, 1 for one that ECC corrects and 2 for another (R85). `testFrom`
is the GCY at which the self-test began (R380). `hbm` and `hbmTags` hold the ciphertext and the tags of HBM as their difference from the blank
line of each DPA, which is what an unlisted one holds (R84, R85); `curatorKey` is the key pair that the Primer draws at its start. `doe` holds the
mailboxes by function number, 0 the PF's and 1 + v that of VF v. For each group `collEnds` lists the statuses of its collectives that have ended,
the first one first, and `collWrites` the result writes that are still to perform; `cutGroups` are the groups whose route crosses a removed link
(R17, R373). -/
structure State where
  power : Bool
  core : Core
  others : List Core
  toGo : Nat
  inputs : List (Nat × Instr)
  fresh : Nat
  time : Time
  links : SMap Link
  pwrmap : Vector (BitVec 32) 4
  regs : Vector Regulator 4
  pendLevel : List (Nat × Nat × Nat)
  pf : Pf
  vfs : SMap Vf
  doe : SMap Doe
  s2root : SMap Word
  s2inv : Option Inval
  walk : List WalkEntry
  tdiEvt : Option TdiEvt
  tdiQueue : List TdiEvt
  tdiRsp : Memory
  worlds : SMap World
  partOf : SMap (Option Nat)
  partWorld : SMap (Option Nat)
  slotOwner : SMap (Option Nat)
  drbg : Nat
  firmware : SMap (List (List Byte × List Byte))
  certChain : List Byte
  spdmOnly : Bool
  meas : List (List Byte)
  tasks : List Task
  nextTask : Nat
  served : SMap Nat
  lastVf : SMap Nat
  window : Nat
  cur : Curator
  slots : SMap Slot
  slotScrub : List (Nat × Nat)
  orphans : List Orphan
  passed : List (Nat × Nat)
  colls : List Contribution
  collEnds : SMap (List (BitVec 8))
  collWrites : SMap (List Nat)
  cutGroups : List Nat
  lines : List Line
  l2tick : Nat
  l2limit : SMap (BitVec 12)
  l2col : SMap L2Col
  fills : List Fill
  nextFill : Nat
  released : List Gated
  ckptFaults : List (Nat × TrapRec)
  draining : BitVec 8
  training : BitVec 8
  heldWb : List HeldWrite
  walkEcc : SMap Nat
  hbm : Memory
  hbmTags : SMap Word
  curatorKey : List Byte
  fot : SMap (BitVec 8)
  stackBad : BitVec 8
  hostMem : Memory
  flash : Memory
  errRing : SMap (List Byte)
  errHead : BitVec 9
  errTail : BitVec 9
  errOverflow : Bool
  errLost : BitVec 16
  cstate : SMap CoreState
  plotmap : SMap Byte
  measured : SMap (List Byte)
  tables : SMap (BitVec 16)
  shadow : Memory
  active : Memory
  shifted : List Nat
  headers : List Overpaint
  overpaints : List Overpaint
  condemned : List (Nat × BitVec 16)
  suspects : List (Nat × BitVec 16)
  transients : List (Nat × Nat × Nat)
  consResult : BitVec 3
  selftest : Option (Nat × BitVec 16)
  testFrom : Nat
  detours : List Nat
  out : List OutMsg
deriving DecidableEq, Repr

/-! ## The values at reset -/

/-- The tag of a plate at reset and at a task's first bundle (R162, R164): CHECKED set, all else zero. -/
def PlateTag.reset : PlateTag :=
  ⟨0, 0, 0, true, false, false, false, 0, 0, 0, 0, 0⟩

/-- A q register before any ring operation (R116, R150). -/
def QReg.reset : QReg := ⟨0, 0, false, false, false, false, 0, none, none⟩

/-- The registers of the shadow set at a task's first bundle and after a control core's reset (R116, R236, R401): zero, with
every tile claimed and no valid owner (R155). -/
def ArchRegs.reset : ArchRegs where
  s := Vector.replicate 64 0
  v := Vector.replicate 32 0
  m := Vector.replicate 8 0
  g := 0
  q := Vector.replicate 4 QReg.reset
  l := Vector.replicate 4 ⟨0, 0, false⟩
  tiles := Vector.replicate 8 0
  tshape := 0
  claimed := 0xFF
  owner := 0
  valid := 0
  dirty := 0
  act := false
  fflags := 0
  mxc := ⟨0, 0, 0, 0⟩
  rsb := 0
  rsbalt := 0
  tvec := 0
  nests := Vector.replicate 2 (Vector.replicate 6 ⟨0, 0, 0, 0, 0⟩)
  fmt := Vector.replicate 16 ⟨0, 0, 0, 0, 0, 0, 0⟩
  coarse := false
  sp24 := false
  tree := none
  src := ⟨none, false, 0⟩
  lines := 0

/-- The matrix engine with no nest and zero accumulators (R334). -/
def Engine.reset : Engine := ⟨none, none, [], 0, [], [], false, false, none, [], false⟩

/-- The implicit checkpoint at CCY 0 (R116). -/
def Ckpt.initial (r : ArchRegs) (pc : BitVec 17) : Ckpt :=
  ⟨0, r, [], [], [], [], none, none, [], 0, none, [], [], pc, [], none, 0, false, [], [], 0⟩

/-- A core that has just been reset or loaded: the registers given, the loop stack empty, CCY 0, nothing in flight. -/
def Core.fresh (id : Nat) (run : RunState) (mode : Mode) (r : ArchRegs) (pc : BitVec 17) : Core where
  id := id
  run := run
  haltedAt := 0
  mode := mode
  inh := false
  pc := pc
  lastPc := pc
  loops := []
  savedMode := mode
  savedLoops := []
  r := r
  tcause := 0
  tval := 0
  tepc := 0
  tbpc := 0
  stamp := 0
  pckpt := false
  rbcnt := 0
  ccy := 0
  imem := []
  lcl := []
  plates := []
  checkedNow := []
  late := []
  parkedLate := []
  seen := []
  uses := []
  windows := []
  claims := []
  lock := none
  wbuf := []
  copies := []
  uncached := []
  gated := []
  undo := []
  reserved := []
  waitFills := []
  snap := Ckpt.initial r pc
  holds := []
  inHold := false
  wait := []
  stall := 0
  idle := 0
  rest := []
  bundle := []
  started := false
  nextPc := none
  loopAct := none
  turn := false
  ckptWord := none
  swap := none
  call := none
  retHandler := false
  faults := []
  exts := []
  sealSlots := (none, none)
  sealImage := false
  imgBase := 0
  was := 0
  task := 0
  coh := id
  tstrand := 0
  tcount := 1
  cohsize := 1
  tier := 0
  level := 0
  colls := []
  collNum := 0
  collgrp := none
  preempt := none
  pbound := 0
  pbFrom := 0
  eng := Engine.reset
  save := none
  bundleCount := 0
  opCount := 0
  bad := []
  twin := none

/-- The bytes of the stretcher register space that a control core's extent 0 covers (log 1, DESIGN CHOICE). -/
def stretcherLength : Nat := 0x400000

/-- The first byte of the column image store (17 R383): the Curator frames below the FOT (log 1, DESIGN CHOICE). -/
def storeBase : Nat := 6285216 * 65536

/-- A DEVICE extent of a control core, as fixed at its reset (17 R383). -/
def deviceExtent (num len : Nat) (w : Bool) (backing : Backing) (base : Nat) : Extent :=
  ⟨num, len, true, w, false, true, false, 0, 0, backing, [(0, base, len)], 0, 0, 0⟩

/-- The extents of a control core (17 R383): e0 the stretcher register space; on the Conservator also e1, the portfolio
flash, and e2, the column image store. -/
def controlExtents (id : Nat) : List Extent :=
  deviceExtent 0 stretcherLength true .stretcher 0 ::
    (if id = 514 then
      [deviceExtent 1 0x10000000 false .portfolio 0, deviceExtent 2 0x18000000 true .nc storeBase]
    else [])

/-- A control core after reset (R176, R216, R236, R401): control mode, bundle 0, or bundle 1 for Curator B. -/
def Core.control (id : Nat) (run : RunState) : Core :=
  { Core.fresh id run .control ArchRegs.reset (if id = 513 then 32 else 0) with exts := controlExtents id }

/-- A link port before training (R13). -/
def Link.reset : Link :=
  ⟨false, false, 0, 0, 0, [], none, none, false, 0, 0, false, [], [], 0⟩

/-- The registers of a regulator at reset (R31). -/
def Regulator.reset : Regulator := ⟨false, false, 650, 0x40, 0, 0, 0, 0, 0, 0⟩

/-- A launch queue at reset (R43). -/
def LaunchQueue.reset : LaunchQueue := ⟨0, false, 0, 0, 0, none, none⟩

/-- A DOE mailbox at reset. -/
def Doe.reset : Doe := ⟨false, false, false, false, false, [], []⟩

/-- A virtual function at reset (R41, R43, R46, R389). -/
def Vf.reset : Vf where
  parts := 0
  bound := false
  world := 0
  lq := Vector.replicate 8 LaunchQueue.reset
  cqBase := 0
  cqEnable := false
  intMask := false
  phase := true
  cqLog2 := 0
  cqTail := 0
  cqHead := 0
  heldRecs := []
  cfgErr := false
  qerr := 0
  lswin := 0
  msixTable := 0x100000000000000000000000000000001000000000000000000000000
  msixCtl := 1
  pba := 0
  status := []
  lnum := 0
  tdi := 0
  nfw := false
  condemned := []
  nonce := 0
  report := []
  ide := ⟨0, 0, 0⟩
  secure := false
  frozen := ⟨none, none, none, none⟩
  resetting := false
  scrubbing := false
  aborts := []
  stopRsp := none

/-- The timing table of class A0 (R140): entries 0-7 of the scalar slots, 8-17 of the vector slots, 18-22 of vector memory and tiles, 23-28 of
the matrix engine, copies, sends, branches and `rswap`. -/
def tableA0 : List (BitVec 16) :=
  [1, 3, 20, 4, 16, 18, 4, 3] ++ [2, 4, 3, 10, 14, 12, 6, 8, 14, 6] ++ [5, 9, 3, 2, 5] ++ [6, 8, 34, 2, 0, 288]

/-- CORESTATE at reset (R133). -/
def CoreState.reset : CoreState := ⟨0xA00, false, 3⟩

/-- The part right after package reset: the control cores run, no task is dispatched, every table holds its reset values, no
environment event is waiting. The focal core is Curator A. -/
def State.reset : State where
  power := true
  core := Core.control 512 .running
  others := [Core.control 513 .inReset, Core.control 514 .running, Core.control 515 .running]
  toGo := 3
  inputs := []
  fresh := 0
  time := ⟨0, 0, false, false, 0, false, false, 0, false, none, false, 0, false, 0⟩
  links := []
  pwrmap := #v[0x00000000, 0x55555555, 0xAAAAAAAA, 0xFFFFFFFF]
  regs := Vector.replicate 4 Regulator.reset
  pendLevel := []
  pf := ⟨false, 0, 0, 0, 0, true, false, 0, ⟨0, 0, 0⟩⟩
  vfs := []
  doe := []
  s2root := []
  s2inv := none
  walk := []
  tdiEvt := none
  tdiQueue := []
  tdiRsp := []
  worlds := []
  partOf := []
  partWorld := []
  slotOwner := []
  drbg := 0
  firmware := []
  certChain := []
  spdmOnly := false
  meas := []
  tasks := []
  nextTask := 1
  served := []
  lastVf := []
  window := 0
  cur := ⟨false, false, false, false, [], 0, 0, false, false, [], [], none, 0, 0, 0⟩
  slots := []
  slotScrub := []
  orphans := []
  passed := []
  colls := []
  collEnds := []
  collWrites := []
  cutGroups := []
  lines := []
  l2tick := 0
  l2limit := []
  l2col := []
  fills := []
  nextFill := 1
  released := []
  ckptFaults := []
  draining := 0
  training := 0
  heldWb := []
  walkEcc := []
  hbm := []
  hbmTags := []
  curatorKey := List.replicate 64 1
  fot := []
  stackBad := 0
  hostMem := []
  flash := []
  errRing := []
  errHead := 0
  errTail := 0
  errOverflow := false
  errLost := 0
  cstate := []
  plotmap := []
  measured := []
  tables := []
  shadow := []
  active := []
  shifted := []
  headers := []
  overpaints := []
  condemned := []
  suspects := []
  transients := []
  consResult := 0
  selftest := none
  testFrom := 0
  detours := []
  out := []

end Sys2Proof.Machine
end

