-- ==== Sys2Proof/Machine/Mem.lean ====
section
/-! DEFINITION. Sparse tables and byte memories: reading, and writing that keeps the one canonical form; little-endian values
(R3). -/

namespace Sys2Proof.Machine

/-! ## Sparse tables -/

/-- What a table holds at a key; `d` where nothing is listed. -/
def SMap.get (d : α) (k : Nat) : SMap α → α
  | [] => d
  | (j, x) :: t => if j = k then x else SMap.get d k t

/-- Writing a key: the keys stay rising, and an entry equal to the default is not listed. -/
def SMap.put [DecidableEq α] (d : α) (k : Nat) (x : α) : SMap α → SMap α
  | [] => if x = d then [] else [(k, x)]
  | (j, y) :: t =>
    if k < j then (if x = d then (j, y) :: t else (k, x) :: (j, y) :: t)
    else if k = j then (if x = d then t else (k, x) :: t)
    else (j, y) :: SMap.put d k x t

/-- Changing what a table holds at a key. -/
def SMap.modify [DecidableEq α] (d : α) (k : Nat) (f : α → α) (m : SMap α) : SMap α :=
  SMap.put d k (f (SMap.get d k m)) m

/-- Keys strictly rising from `lo` on, no entry equal to the default. -/
def SMap.wfFrom [DecidableEq α] (d : α) : Nat → SMap α → Bool
  | _, [] => true
  | lo, (k, x) :: t => decide (lo ≤ k) && decide (x ≠ d) && SMap.wfFrom d (k + 1) t

/-! ## Byte memories -/

/-- The byte at an address; 0 where nothing is listed (log 4, DESIGN CHOICE). -/
def Memory.read (m : Memory) (a : Nat) : Byte := SMap.get Memory.blank a m

/-- The memory with one byte written. -/
def Memory.write (m : Memory) (a : Nat) (b : Byte) : Memory := SMap.put Memory.blank a b m

/-- The canonical form: addresses strictly rising, no entry that an unlisted address would read as. -/
def Memory.wf (m : Memory) : Bool := SMap.wfFrom Memory.blank 0 m

/-- The `n` bytes from address `a` on. -/
def Memory.readBytes (m : Memory) (a n : Nat) : List Byte :=
  (List.range n).map fun i => m.read (a + i)

/-- Writing bytes at given addresses, first to last. -/
def Memory.writeCells (m : Memory) : List (Nat × Byte) → Memory
  | [] => m
  | (a, b) :: t => Memory.writeCells (m.write a b) t

/-- The places of consecutive bytes from `a` on. -/
def cellsAt (a : Nat) : List Byte → List (Nat × Byte)
  | [] => []
  | b :: t => (a, b) :: cellsAt (a + 1) t

/-- Writing consecutive bytes from address `a` on. -/
def Memory.writeBytes (m : Memory) (a : Nat) (bs : List Byte) : Memory :=
  m.writeCells (cellsAt a bs)

/-- The memory with the `n` bytes from `a` on back at what an unlisted address reads as. -/
def Memory.clear (m : Memory) (a n : Nat) : Memory :=
  m.filter fun c => decide (c.1 < a) || decide (a + n ≤ c.1)

/-- The listed cells of the range of `n` bytes from `a` on, moved to begin at `b`. -/
def Memory.window (m : Memory) (a n b : Nat) : Memory :=
  (m.filter fun c => decide (a ≤ c.1) && decide (c.1 < a + n)).map fun c => (c.1 - a + b, c.2)

/-- Copying the `n` bytes from `a` on of one memory over those from `b` on of another. -/
def Memory.copyRange (src : Memory) (a n b : Nat) (dst : Memory) : Memory :=
  (dst.clear b n).writeCells (src.window a n b)

/-! ## Values and bytes, least significant first (R3) -/

/-- The number that bytes stand for. -/
def leNat : List Byte → Nat
  | [] => 0
  | b :: t => b.toNat + 256 * leNat t

/-- The `n` low bytes of a number. -/
def leBytes : Nat → Nat → List Byte
  | 0, _ => []
  | n + 1, x => BitVec.ofNat 8 x :: leBytes n (x / 256)

/-- The little-endian value of `n` bytes at `a`. -/
def Memory.readNat (m : Memory) (a n : Nat) : Nat := leNat (m.readBytes a n)

/-- The little-endian field of `n` bytes at offset `o` of a byte string; bytes past its end count as 0. -/
def fieldAt (bs : List Byte) (o n : Nat) : Nat := leNat ((bs.drop o).take n)

/-- Bits hi:lo of a number. -/
def bitsOf (x hi lo : Nat) : Nat := (x / 2 ^ lo) % 2 ^ (hi + 1 - lo)

/-- The value of a signed field of `n` bits. -/
def signedOf (n x : Nat) : Int :=
  let y := x % 2 ^ n
  if 2 * y < 2 ^ n then (y : Int) else (y : Int) - (2 ^ n : Nat)

/-- The first element of a list that meets a test is changed. -/
def modifyFirst (p : α → Bool) (f : α → α) : List α → List α
  | [] => []
  | x :: t => if p x then f x :: t else x :: modifyFirst p f t

/-- Insertion into a list sorted by a measure; an element goes behind those of the same measure. -/
def insertBy (key : α → Nat) (x : α) : List α → List α
  | [] => [x]
  | y :: t => if key x < key y then x :: y :: t else y :: insertBy key x t

/-- A stable sort by a measure. -/
def sortBy (key : α → Nat) (l : List α) : List α :=
  l.foldl (fun acc x => insertBy key x acc) []

end Sys2Proof.Machine
end

