-- ==== Sys2Proof/Machine/Cipher.lean ====
section
/-! DEFINITION. AES-256 and what the spec builds on it: XTS for the two layers of memory encryption, the GMAC tag, the key wrap (R64, R69, R76,
R84); and the check of an ECDSA signature (R57). -/

namespace Sys2Proof.Machine

/-! ## AES-256 (FIPS 197) -/

/-- The substitution of AES: byte i at bits 8i + 7 : 8i. -/
def aesSub : BitVec 2048 :=
    0x16BB54B00F2D99416842E6BF0D89A18CDF2855CEE9871E9B948ED9691198F8E1#256 ++
    0x9E1DC186B95735610EF6034866B53E708A8BBD4B1F74DDE8C6B4A61C2E2578BA#256 ++
    0x08AE7A65EAF4566CA94ED58D6D37C8E779E4959162ACD3C25C2406490A3A32E0#256 ++
    0xDB0B5EDE14B8EE4688902A22DC4F816073195D643D7EA7C41744975FEC130CCD#256 ++
    0xD2F3FF1021DAB6BCF5389D928F40A351A89F3C507F02F94585334D43FBAAEFD0#256 ++
    0xCF584C4A39BECB6A5BB1FC20ED00D153842FE329B3D63B52A05A6E1B1A2C8309#256 ++
    0x75B227EBE28012079A059618C323C7041531D871F1E5A534CCF73F362693FDB7#256 ++
    0xC072A49CAFA2D4ADF04759FA7DC982CA76ABD7FE2B670130C56F6BF27B777C63#256

/-- The inverse of the substitution. -/
def aesUnsub : BitVec 2048 :=
    0x7D0C2155631469E126D677BA7E042B17619953833CBBEBC8B0F52AAE4D3BE0A0#256 ++
    0xEF9CC9939F7AE52D0D4AB519A97F51605FEC8027591012B131C7078833A8DD1F#256 ++
    0xF45ACD78FEC0DB9A2079D2C64B3E56FC1BBE18AA0E62B76F89C5291D711AF147#256 ++
    0x6EDF751CE837F9E28535ADE72274AC9673E6B4F0CECFF297EADC674F4111913A#256 ++
    0x6B8A130103BDAFC1020F3FCA8F1E2CD00645B3B80558E4F70AD3BC8C00ABD890#256 ++
    0x849D8DA75746155EDAB9EDFD5048706C92B6655DCC5CA4D41698688664F6F872#256 ++
    0x25D18B6D49A25B76B224D92866A12E084EC3FA420B954CEE3D23C2A632947B54#256 ++
    0xCBE9DEC444438E3487FF2F9B8239E37CFBD7F3819EA340BF38A53630D56A0952#256

/-- A byte through a substitution. -/
def subByte (table : BitVec 2048) (b : Byte) : Byte := table.extractLsb' (8 * b.toNat) 8

/-- Twice a byte in the field of AES. -/
def aesTwice (b : Byte) : Byte := (b <<< 1) ^^^ (if b.getLsbD 7 then 0x1B else 0)

/-- The exclusive-or of two byte strings. -/
def xorBytes (a b : List Byte) : List Byte := List.zipWith (· ^^^ ·) a b

/-- The next eight bytes-of-four words of the key schedule, after the eight given; `r` is the round constant. -/
def keyWords (k : List (List Byte)) (r : Byte) : List (List Byte) :=
  let sub := fun (w : List Byte) => w.map (subByte aesSub)
  let last := k.getD 7 []
  let turned := sub (last.drop 1 ++ last.take 1)
  let start := xorBytes turned [r, 0, 0, 0]
  let row := fun (x : List Byte) (ws : List (List Byte)) =>
    (ws.foldl (fun (p : List Byte × List (List Byte)) w => let y := xorBytes p.1 w; (y, p.2 ++ [y])) (x, [])).2
  let low := row start (k.take 4)
  low ++ row (sub (low.getD 3 [])) (k.drop 4)

/-- The 15 round keys of a 32-byte key. -/
def roundKeys (key : List Byte) : List (List Byte) :=
  let first := groupsOf 4 8 key
  let all := (List.range 7).foldl (fun (p : List (List Byte) × List (List Byte) × Byte) _ =>
    let next := keyWords p.2.1 p.2.2
    (p.1 ++ next, next, aesTwice p.2.2)) (first, first, 1)
  (groupsOf 4 15 all.1).map List.flatten

/-- The bytes of a block, those of row r of its four columns moved r columns on. -/
def shiftRows (b : List Byte) : List Byte := (List.range 16).map fun i => b.getD ((i + 4 * (i % 4)) % 16) 0
def unshiftRows (b : List Byte) : List Byte := (List.range 16).map fun i => b.getD ((i + 12 * (i % 4)) % 16) 0

/-- One column mixed: each byte is twice itself, three times the next one and the other two. -/
def mixColumn (w : List Byte) : List Byte :=
  let all := w.foldl (· ^^^ ·) 0
  xorBytes w (xorBytes ((w.zip (w.drop 1 ++ w.take 1)).map fun p => aesTwice (p.1 ^^^ p.2)) (List.replicate 4 all))

/-- The inverse: first the bytes two apart are combined, then the column is mixed. -/
def unmixColumn (w : List Byte) : List Byte :=
  let pair := fun (i : Nat) => aesTwice (aesTwice (w.getD i 0 ^^^ w.getD (i + 2) 0))
  mixColumn (xorBytes w [pair 0, pair 1, pair 0, pair 1])

/-- A block under 15 round keys. -/
def aesForward (rks : List (List Byte)) (b : List Byte) : List Byte :=
  let inner := ((rks.drop 1).take 13).foldl (fun x rk =>
    xorBytes ((groupsOf 4 4 (shiftRows (x.map (subByte aesSub)))).flatMap mixColumn) rk) (xorBytes b (rks.headD []))
  xorBytes (shiftRows (inner.map (subByte aesSub))) (rks.getD 14 [])

/-- The inverse cipher under the same round keys. -/
def aesBackward (rks : List (List Byte)) (b : List Byte) : List Byte :=
  let open' := fun (x : List Byte) => (unshiftRows x).map (subByte aesUnsub)
  let inner := ((rks.drop 1).take 13).reverse.foldl (fun x rk => open' ((groupsOf 4 4 (xorBytes x rk)).flatMap unmixColumn))
    (open' (xorBytes b (rks.getD 14 [])))
  xorBytes inner (rks.headD [])

/-! ## XTS (IEEE 1619) -/

/-- The tweaks of the `n` blocks of a data unit, from that of the first. -/
def xtsTweaks : Nat → BitVec 128 → List (List Byte)
  | 0, _ => []
  | n + 1, t => leBytes 16 t.toNat :: xtsTweaks n ((t <<< 1) ^^^ (if t.getLsbD 127 then 0x87 else 0))

/-- The blocks of a data unit of 128 bytes through a block function between their tweaks: the first half of the key is the data key, the
second half the tweak key. -/
def xtsUnit (block : List (List Byte) → List Byte → List Byte) (key : List Byte) (unit : Nat) (bytes : List Byte) : List Byte :=
  let rks := roundKeys (key.take 32)
  let first := aesForward (roundKeys (key.drop 32)) (leBytes 16 unit)
  ((xtsTweaks 8 (BitVec.ofNat 128 (leNat first))).zip (groupsOf 16 8 bytes)).flatMap fun p =>
    xorBytes p.1 (block rks (xorBytes p.1 p.2))

/-- AES-256-XTS of one data unit of 128 bytes under a key pair of 64 bytes and a tweak (R64, R76, R84), and its inverse. -/
def xtsEncrypt (key : List Byte) (unit : Nat) (bytes : List Byte) : List Byte := xtsUnit aesForward key unit bytes
def xtsDecrypt (key : List Byte) (unit : Nat) (bytes : List Byte) : List Byte := xtsUnit aesBackward key unit bytes

/-! ## GMAC (SP 800-38D) -/

/-- The product of two blocks in the field of GCM, whose first bit is the most significant one: `n` bits of x are still to come. -/
def gcmTimes (x : BitVec 128) : Nat → BitVec 128 → BitVec 128 → BitVec 128
  | 0, _, z => z
  | n + 1, v, z =>
    gcmTimes x n ((v >>> 1) ^^^ (if v.getLsbD 0 then 0xE1#128 <<< 120 else 0)) (if x.getLsbD n then z ^^^ v else z)

/-- The GMAC of a byte string of whole blocks under a key of 32 bytes and an IV of 12: 16 bytes. -/
def gmac (key iv bytes : List Byte) : List Byte :=
  let rks := roundKeys key
  let h := BitVec.ofNat 128 (beNat (aesForward rks (List.replicate 16 0)))
  let blocks := groupsOf 16 (bytes.length / 16) bytes ++ [beBytes 8 (8 * bytes.length) ++ List.replicate 8 0]
  let s := blocks.foldl (fun y b => gcmTimes (y ^^^ BitVec.ofNat 128 (beNat b)) 128 h 0) 0
  xorBytes (aesForward rks (iv ++ [0, 0, 0, 1])) (beBytes 16 s.toNat)

/-! ## Key wrap (RFC 3394) -/

/-- One step of the wrap: the register and a block of 8 bytes, with the step's number. -/
def wrapStep (rks : List (List Byte)) (a r : List Byte) (t : Nat) : List Byte × List Byte :=
  let b := aesForward rks (a ++ r)
  (xorBytes (b.take 8) (beBytes 8 t), b.drop 8)

/-- Its inverse. -/
def unwrapStep (rks : List (List Byte)) (a r : List Byte) (t : Nat) : List Byte × List Byte :=
  let b := aesBackward rks (xorBytes a (beBytes 8 t) ++ r)
  (b.take 8, b.drop 8)

/-- Six rounds of steps over the blocks of a key; `order` lists the places of the blocks, `num` numbers the step of a round and a place. -/
def wrapRounds (step : List Byte → List Byte → Nat → List Byte × List Byte) (rounds order : List Nat) (num : Nat → Nat → Nat)
    (a : List Byte) (blocks : List (List Byte)) : List Byte × List (List Byte) :=
  rounds.foldl (fun p j => order.foldl (fun (p : List Byte × List (List Byte)) i =>
    let x := step p.1 (p.2.getD i []) (num j i)
    (x.1, p.2.set i x.2)) p) (a, blocks)

/-- AES-256 key wrap of a key of whole 8-byte blocks: 8 bytes more than the key (R69). -/
def keyWrap (kek key : List Byte) : List Byte :=
  let n := key.length / 8
  let x := wrapRounds (wrapStep (roundKeys kek)) (List.range 6) (List.range n) (fun j i => n * j + i + 1)
    (List.replicate 8 0xA6) (groupsOf 8 n key)
  x.1 ++ x.2.flatten

/-- The key of n 8-byte blocks that a wrap holds: none where the integrity check fails, as of a wrap of another length (R70). -/
def keyUnwrap (kek : List Byte) (n : Nat) (wrapped : List Byte) : Option (List Byte) :=
  let x := wrapRounds (unwrapStep (roundKeys kek)) (List.range 6).reverse (List.range n).reverse (fun j i => n * j + i + 1)
    (wrapped.take 8) (groupsOf 8 n (wrapped.drop 8))
  if wrapped.length = 8 * n + 8 ∧ x.1 = List.replicate 8 0xA6 then some x.2.flatten else none

/-! ## ECDSA over brainpoolP384r1 (RFC 5639) -/

/-- The field, the coefficients, the base point and the order of the curve. -/
def curveP : Nat := 0x8CB91E82A3386D280F5D6F7E50E641DF152F7109ED5456B412B1DA197FB71123ACD3A729901D1A71874700133107EC53
def curveA : Nat := 0x7BC382C63D8C150C3C72080ACE05AFA0C2BEA28E4FB22787139165EFBA91F90F8AA5814A503AD4EB04A8C7DD22CE2826
def curveB : Nat := 0x04A8C7DD22CE28268B39B55416F0447C2FB77DE107DCD2A62E880EA53EEB62D57CB4390295DBC9943AB78696FA504C11
def curveX : Nat := 0x1D1C64F068CF45FFA2A63A81B7C13F6B8847A3E77EF14FE3DB7FCAFE0CBD10E8E826E03436D646AAEF87B2E247D4AF1E
def curveY : Nat := 0x8ABE1D7520F9C2A45CB1EB8E95CFD55262B70B29FEEC5864E19C054FF99129280E4646217791811142820341263C5315
def curveQ : Nat := 0x8CB91E82A3386D280F5D6F7E50E641DF152F7109ED5456B31F166E6CAC0425A7CF3AB6AF6B7FC3103B883202E9046565

/-- A power modulo m, by the bits of the exponent; `n` bounds their number. -/
def powMod (m : Nat) : Nat → Nat → Nat → Nat
  | 0, _, _ => 1 % m
  | n + 1, b, e =>
    let h := powMod m n (b * b % m) (e / 2)
    if e % 2 = 1 then h * b % m else h

/-- The inverse modulo a prime. -/
def invMod (m x : Nat) : Nat := powMod m 384 (x % m) (m - 2)

/-- The difference modulo m. -/
def subMod (m x y : Nat) : Nat := (x % m + (m - y % m)) % m

/-- The sum of two points of the curve; none is the point at infinity. -/
def addPoint (a b : Option (Nat × Nat)) : Option (Nat × Nat) :=
  match a, b with
  | none, y => y
  | x, none => x
  | some (x1, y1), some (x2, y2) =>
    let meet := fun (l : Nat) =>
      let x := subMod curveP (l * l) (x1 + x2)
      some (x, subMod curveP (l * subMod curveP x1 x) y1)
    if x1 ≠ x2 then meet (subMod curveP y2 y1 * invMod curveP (subMod curveP x2 x1))
    else if (y1 + y2) % curveP = 0 then none
    else meet ((3 * x1 * x1 + curveA) * invMod curveP (2 * y1))

/-- A multiple of a point, by the bits of the factor; `n` bounds their number. -/
def mulPoint : Nat → Nat → Option (Nat × Nat) → Option (Nat × Nat)
  | 0, _, _ => none
  | n + 1, k, x =>
    let h := mulPoint n (k / 2) (addPoint x x)
    if k % 2 = 1 then addPoint h x else h

/-- Whether a pair is a point of the curve. -/
def onCurve (x : Nat × Nat) : Bool :=
  decide (x.1 < curveP) && decide (x.2 < curveP) && x.2 * x.2 % curveP == (x.1 * x.1 * x.1 + curveA * x.1 + curveB) % curveP

/-- The check of a signature r||s over the SHA-384 digest of a message under a public key (R57, R134). -/
def ecdsaOk (key : Nat × Nat) (msg sig : List Byte) : Bool :=
  let r := beNat (sig.take 48)
  let s := beNat ((sig.drop 48).take 48)
  let w := invMod curveQ s
  let u := mulPoint 384 (beNat (sha384 msg) * w % curveQ) (some (curveX, curveY))
  let v := mulPoint 384 (r * w % curveQ) (some key)
  onCurve key && sig.length == 96 && decide (0 < r) && decide (r < curveQ) && decide (0 < s) && decide (s < curveQ)
    && (match addPoint u v with
      | some p => p.1 % curveQ == r
      | none => false)

end Sys2Proof.Machine
end

