-- ==== Sys2Proof/WellFormed.lean ====
section
/-! DEFINITION. The field values that the encodings name as illegal (R239, R245, R248-R266): a word that holds one
raises ILLEGAL_OP when decoded, so it decodes to no instruction. Rows without a word have no such field. -/

namespace Sys2Proof

/-- Number of elements of a vector type code (R307); 0 for code 7, which is no type (R245). -/
def laneCount (t : BitVec 3) : Nat :=
  match t.toNat with
  | 0 => 32 | 1 => 64 | 2 => 64 | 3 => 32 | 4 => 64 | 5 => 128 | 6 => 32 | _ => 0

/-- A type code that names a type (R245). -/
def anyType (t : BitVec 3) : Bool := t != 7

/-- A floating-point type code: f32, bf16 or f16 (R307). -/
def fpType (t : BitVec 3) : Bool := t.toNat < 3

/-- An integer type code: i32, i16, i8 or n32 (R307). -/
def intType (t : BitVec 3) : Bool := 3 ≤ t.toNat && t.toNat ≤ 6

/-- FP, i32, i16 or i8: the types of vabs and vneg (R309). -/
def signedOrFpType (t : BitVec 3) : Bool := t.toNat ≤ 5

/-- i32, i16 or i8: the types of vsra (R310). -/
def signedIntType (t : BitVec 3) : Bool := 3 ≤ t.toNat && t.toNat ≤ 5

/-- The legal pairs of vpack: destination, source, Q4 (R320). -/
def packPair (t s : BitVec 3) (q : BitVec 1) : Bool :=
  (t.toNat, s.toNat, q.toNat) ∈ [(4, 3, 0), (5, 4, 0), (5, 5, 1), (1, 0, 0), (2, 0, 0)]

/-- The legal pairs of vunpack: destination, source, Q4 (R320). -/
def unpackPair (t s : BitVec 3) (q : BitVec 1) : Bool :=
  (t.toNat, s.toNat, q.toNat) ∈ [(3, 4, 0), (4, 5, 0), (5, 5, 1), (0, 1, 0), (0, 2, 0)]

/-- An output format of the matrix engine (R262). -/
def outFormat (f : BitVec 3) : Bool := f.toNat ≤ 4

/-- The word of this instruction holds no field value that the encodings name as illegal (R239). -/
def wellFormed : Instr → Bool
  | .idle n => n != 0
  | .gset _ _ _ c => c != 7
  | .glog _ _ _ o => o != 3
  | .fcmp _ _ _ _ u => u.toNat < 4
  | .fcvt _ _ _ u => u != 7
  | .lockb _ n => n != 0
  | .idr _ i => i != 7 && i != 14 && i != 15
  | .vadd _ _ _ t => anyType t
  | .vsub _ _ _ t => anyType t
  | .vmul _ _ _ t => anyType t
  | .vfma _ _ _ t _ => anyType t
  | .vfms _ _ _ t _ => anyType t
  | .vmin _ _ _ t => anyType t
  | .vmax _ _ _ t => anyType t
  | .vabs _ _ t => signedOrFpType t
  | .vneg _ _ t => signedOrFpType t
  | .vand _ _ _ t => intType t
  | .vor _ _ _ t => intType t
  | .vxor _ _ _ t => intType t
  | .vnot _ _ t => intType t
  | .vshl _ _ _ t => intType t
  | .vshr _ _ _ t => intType t
  | .vsra _ _ _ t => signedIntType t
  | .vcmpeq _ _ _ t => anyType t
  | .vcmplt _ _ _ t => anyType t
  | .vcmple _ _ _ t => anyType t
  | .vsel _ _ _ t _ => anyType t
  | .vsplat _ t _ => anyType t
  | .vext _ _ t l => l.toNat < laneCount t
  | .vins _ _ t l => l.toNat < laneCount t
  | .vcvt _ _ t s => anyType t && anyType s && t != s
  | .vidx _ t => anyType t
  | .vexp _ _ t => fpType t
  | .vexp2 _ _ t => fpType t
  | .vlog2 _ _ t => fpType t
  | .vrcp _ _ t => fpType t
  | .vrsqrt _ _ t => fpType t
  | .vsqrt _ _ t => fpType t
  | .vdiv _ _ _ t => fpType t
  | .vtanh _ _ t => fpType t
  | .vsigm _ _ t => fpType t
  | .vredsum _ _ t => anyType t
  | .vredmax _ _ t => anyType t
  | .vredmin _ _ t => anyType t
  | .vscan _ _ t => anyType t
  | .vsortk d _ t c => anyType t && d != c
  | .vperm _ _ _ t => anyType t
  | .vrotl _ _ t l => l.toNat < laneCount t
  | .vpack _ _ _ t s q => packPair t s q
  | .vunpack _ _ t s _ q => unpackPair t s q
  | .vrnd _ _ _ t => t == 6 || t == 0
  | .vbVfma _ _ _ t _ => anyType t
  | .vbVadd _ _ _ t => anyType t
  | .vbVmul _ _ _ t => anyType t
  | .vlds _ _ x _ _ => x != 63
  | .vsts _ _ x _ _ _ _ => x != 63
  | .mnest _ l f _ => l.toNat ≤ 5 && f.toNat ≤ 4
  | .mfmt _ f _ => f.toNat ≤ 6
  | .msel _ _ f => outFormat f
  | .macc _ _ _ f _ => outFormat f
  | .mret _ _ f _ => outFormat f
  | .cpy2 _ _ _ _ n _ => n != 63
  | .coll _ _ o t => o.toNat ≤ 2 && t != 3
  | .dbgrd _ _ k => k != 3
  | _ => true

/-- The field values that are illegal only on one kind of core: a non-zero canvas field on a compute core
(R263, R265), and on a control core a va above 15 in rput and rboard (R265). -/
def wellFormedOn (control : Bool) : Instr → Bool
  | .rget _ _ k => control || k == 0
  | .rput _ _ v k => if control then v.toNat ≤ 15 else k == 0
  | .radd _ _ _ _ k => control || k == 0
  | .rmax _ _ _ _ k => control || k == 0
  | .rmin _ _ _ _ k => control || k == 0
  | .rand _ _ _ _ k => control || k == 0
  | .ror _ _ _ _ k => control || k == 0
  | .rcas _ _ _ _ _ k => control || k == 0
  | .rboard _ _ v k => if control then v.toNat ≤ 15 else k == 0
  | .ralight _ _ k => control || k == 0
  | _ => true

end Sys2Proof
end

