-- ==== Sys2Proof/Decode.lean ====
section
/-! DEFINITION. Decoding: from the words of a bundle to instructions (R237-R266), and the encoder. A word is read by the
map of its own slot (R241): the fields are taken out by position, and the word is accepted exactly when the
encoder gives it back (so every reserved bit is zero) and no field holds an illegal value (R239). -/

namespace Sys2Proof

/-- The word of an instruction, from the encoding tables R248-R266; 0 (the no-op) for the rows that have no word. -/
def encode : Instr → SlotWord
  | .nop => 0#32
  | .br g t => 0x1#6 ++ g ++ 0x0#10 ++ t
  | .jmp t => 0x2#6 ++ 0x0#14 ++ t
  | .jmpr a => 0x3#6 ++ a ++ 0x0#20
  | .call t => 0x4#6 ++ 0x0#14 ++ t
  | .ret => 0x5#6 ++ 0x0#26
  | .loop c l => 0x6#6 ++ c ++ 0x0#2 ++ l
  | .loopr a l => 0x7#6 ++ a ++ 0x0#8 ++ l
  | .lbrk g => 0x8#6 ++ g ++ 0x0#22
  | .ckpt s => 0x9#6 ++ 0x0#14 ++ s
  | .ckptP s => 0x9#6 ++ 0x2000#14 ++ s
  | .halt => 0xA#6 ++ 0x0#26
  | .trap c => 0xB#6 ++ 0x0#10 ++ c
  | .tret => 0xC#6 ++ 0x0#26
  | .wgcy a => 0xD#6 ++ a ++ 0x0#20
  | .scall c => 0xE#6 ++ 0x0#10 ++ c
  | .rswap => 0xF#6 ++ 0x0#26
  | .idle n => 0x10#6 ++ 0x0#10 ++ n
  | .brk c => 0x11#6 ++ 0x0#10 ++ c
  | .add d a b => 0x1#6 ++ d ++ a ++ b ++ 0x0#8
  | .sub d a b => 0x1#6 ++ d ++ a ++ b ++ 0x1#8
  | .and d a b => 0x1#6 ++ d ++ a ++ b ++ 0x2#8
  | .or d a b => 0x1#6 ++ d ++ a ++ b ++ 0x3#8
  | .xor d a b => 0x1#6 ++ d ++ a ++ b ++ 0x4#8
  | .andn d a b => 0x1#6 ++ d ++ a ++ b ++ 0x5#8
  | .orn d a b => 0x1#6 ++ d ++ a ++ b ++ 0x6#8
  | .shl d a b => 0x1#6 ++ d ++ a ++ b ++ 0x7#8
  | .shr d a b => 0x1#6 ++ d ++ a ++ b ++ 0x8#8
  | .sra d a b => 0x1#6 ++ d ++ a ++ b ++ 0x9#8
  | .rotl d a b => 0x1#6 ++ d ++ a ++ b ++ 0xA#8
  | .rotr d a b => 0x1#6 ++ d ++ a ++ b ++ 0xB#8
  | .slt d a b => 0x1#6 ++ d ++ a ++ b ++ 0xC#8
  | .sltu d a b => 0x1#6 ++ d ++ a ++ b ++ 0xD#8
  | .seq d a b => 0x1#6 ++ d ++ a ++ b ++ 0xE#8
  | .sne d a b => 0x1#6 ++ d ++ a ++ b ++ 0xF#8
  | .min d a b => 0x1#6 ++ d ++ a ++ b ++ 0x10#8
  | .max d a b => 0x1#6 ++ d ++ a ++ b ++ 0x11#8
  | .minu d a b => 0x1#6 ++ d ++ a ++ b ++ 0x12#8
  | .maxu d a b => 0x1#6 ++ d ++ a ++ b ++ 0x13#8
  | .mul d a b => 0x1#6 ++ d ++ a ++ b ++ 0x14#8
  | .mulh d a b => 0x1#6 ++ d ++ a ++ b ++ 0x15#8
  | .mulhu d a b => 0x1#6 ++ d ++ a ++ b ++ 0x16#8
  | .div d a b => 0x1#6 ++ d ++ a ++ b ++ 0x17#8
  | .divu d a b => 0x1#6 ++ d ++ a ++ b ++ 0x18#8
  | .rem d a b => 0x1#6 ++ d ++ a ++ b ++ 0x19#8
  | .remu d a b => 0x1#6 ++ d ++ a ++ b ++ 0x1A#8
  | .clz d a => 0x1#6 ++ d ++ a ++ 0x1B#14
  | .ctz d a => 0x1#6 ++ d ++ a ++ 0x1C#14
  | .popc d a => 0x1#6 ++ d ++ a ++ 0x1D#14
  | .bext d a b => 0x1#6 ++ d ++ a ++ b ++ 0x1E#8
  | .bdep d a b => 0x1#6 ++ d ++ a ++ b ++ 0x1F#8
  | .addi d a i => 0x2#6 ++ d ++ a ++ i
  | .andi d a i => 0x3#6 ++ d ++ a ++ i
  | .ori d a i => 0x4#6 ++ d ++ a ++ i
  | .xori d a i => 0x5#6 ++ d ++ a ++ i
  | .slti d a i => 0x6#6 ++ d ++ a ++ i
  | .shli d a m => 0x7#6 ++ d ++ a ++ 0x0#8 ++ m
  | .shri d a m => 0x8#6 ++ d ++ a ++ 0x0#8 ++ m
  | .srai d a m => 0x9#6 ++ d ++ a ++ 0x0#8 ++ m
  | .lui d i => 0xA#6 ++ d ++ i
  | .sel d a b g => 0xB#6 ++ d ++ a ++ b ++ 0x0#4 ++ g
  | .gset d a b c => 0xC#6 ++ d ++ 0x0#3 ++ a ++ b ++ 0x0#5 ++ c
  | .glog d a b o => 0xD#6 ++ d ++ a ++ b ++ o ++ 0x0#13
  | .gmovToScalar s => 0xE#6 ++ 0x0#1 ++ s ++ 0x0#19
  | .gmovToGuards s => 0xE#6 ++ 0x1#1 ++ s ++ 0x0#19
  | .latq d e => 0xF#6 ++ d ++ 0x0#14 ++ e
  | .fadd d a b p => 0x10#6 ++ d ++ a ++ b ++ p ++ 0x0#7
  | .fsub d a b p => 0x10#6 ++ d ++ a ++ b ++ p ++ 0x1#7
  | .fmul d a b p => 0x10#6 ++ d ++ a ++ b ++ p ++ 0x2#7
  | .fdiv d a b p => 0x10#6 ++ d ++ a ++ b ++ p ++ 0x3#7
  | .fsqrt d a p => 0x10#6 ++ d ++ a ++ 0x0#6 ++ p ++ 0x4#7
  | .fmin d a b p => 0x10#6 ++ d ++ a ++ b ++ p ++ 0x5#7
  | .fmax d a b p => 0x10#6 ++ d ++ a ++ b ++ p ++ 0x6#7
  | .fcmp d a b p u => 0x10#6 ++ d ++ a ++ b ++ p ++ u ++ 0x7#4
  | .fcvt d a p u => 0x10#6 ++ d ++ a ++ 0x0#6 ++ p ++ u ++ 0x8#4
  | .fclass d a p => 0x10#6 ++ d ++ a ++ 0x0#6 ++ p ++ 0x9#7
  | .fmadd d a b c p => 0x11#6 ++ d ++ a ++ b ++ c ++ p ++ 0x0#1
  | .ldB d e x i => 0x1#6 ++ d ++ e ++ x ++ i
  | .ldBz d e x i => 0x2#6 ++ d ++ e ++ x ++ i
  | .ldH d e x i => 0x3#6 ++ d ++ e ++ x ++ i
  | .ldHz d e x i => 0x4#6 ++ d ++ e ++ x ++ i
  | .ldW d e x i => 0x5#6 ++ d ++ e ++ x ++ i
  | .ldWz d e x i => 0x6#6 ++ d ++ e ++ x ++ i
  | .ldD d e x i => 0x7#6 ++ d ++ e ++ x ++ i
  | .stB v e x g i => 0x8#6 ++ v ++ e ++ x ++ g ++ i
  | .stH v e x g i => 0x9#6 ++ v ++ e ++ x ++ g ++ i
  | .stW v e x g i => 0xA#6 ++ v ++ e ++ x ++ g ++ i
  | .stD v e x g i => 0xB#6 ++ v ++ e ++ x ++ g ++ i
  | .aadd d x v g => 0x10#6 ++ d ++ x ++ v ++ g ++ 0x0#4
  | .aand d x v g => 0x10#6 ++ d ++ x ++ v ++ g ++ 0x1#4
  | .aor d x v g => 0x10#6 ++ d ++ x ++ v ++ g ++ 0x2#4
  | .axor d x v g => 0x10#6 ++ d ++ x ++ v ++ g ++ 0x3#4
  | .amin d x v g => 0x10#6 ++ d ++ x ++ v ++ g ++ 0x4#4
  | .amax d x v g => 0x10#6 ++ d ++ x ++ v ++ g ++ 0x5#4
  | .aminu d x v g => 0x10#6 ++ d ++ x ++ v ++ g ++ 0x6#4
  | .amaxu d x v g => 0x10#6 ++ d ++ x ++ v ++ g ++ 0x7#4
  | .aswap d x v g => 0x10#6 ++ d ++ x ++ v ++ g ++ 0x8#4
  | .acas d x n g => 0x11#6 ++ d ++ x ++ n ++ g ++ 0x0#4
  | .lockb m n => 0x18#6 ++ m ++ 0x0#6 ++ n
  | .csrr d c => 0x1A#6 ++ d ++ 0x0#8 ++ c
  | .csrw a c => 0x1B#6 ++ a ++ 0x0#8 ++ c
  | .csrs a c => 0x1C#6 ++ a ++ 0x0#8 ++ c
  | .csrc a c => 0x1D#6 ++ a ++ 0x0#8 ++ c
  | .fence p s k => 0x1E#6 ++ p ++ s ++ k ++ 0x0#7
  | .idr d i => 0x1F#6 ++ d ++ 0x0#16 ++ i
  | .vadd d a b t => 0x1#6 ++ d ++ a ++ b ++ t ++ 0x0#8
  | .vsub d a b t => 0x2#6 ++ d ++ a ++ b ++ t ++ 0x0#8
  | .vmul d a b t => 0x3#6 ++ d ++ a ++ b ++ t ++ 0x0#8
  | .vfma d a b t c => 0x4#6 ++ d ++ a ++ b ++ t ++ c ++ 0x0#3
  | .vfms d a b t c => 0x5#6 ++ d ++ a ++ b ++ t ++ c ++ 0x0#3
  | .vmin d a b t => 0x6#6 ++ d ++ a ++ b ++ t ++ 0x0#8
  | .vmax d a b t => 0x7#6 ++ d ++ a ++ b ++ t ++ 0x0#8
  | .vabs d a t => 0x8#6 ++ d ++ a ++ 0x0#5 ++ t ++ 0x0#8
  | .vneg d a t => 0x9#6 ++ d ++ a ++ 0x0#5 ++ t ++ 0x0#8
  | .vand d a b t => 0xA#6 ++ d ++ a ++ b ++ t ++ 0x0#8
  | .vor d a b t => 0xB#6 ++ d ++ a ++ b ++ t ++ 0x0#8
  | .vxor d a b t => 0xC#6 ++ d ++ a ++ b ++ t ++ 0x0#8
  | .vnot d a t => 0xD#6 ++ d ++ a ++ 0x0#5 ++ t ++ 0x0#8
  | .vshl d a b t => 0xE#6 ++ d ++ a ++ b ++ t ++ 0x0#8
  | .vshr d a b t => 0xF#6 ++ d ++ a ++ b ++ t ++ 0x0#8
  | .vsra d a b t => 0x10#6 ++ d ++ a ++ b ++ t ++ 0x0#8
  | .vcmpeq d a b t => 0x11#6 ++ d ++ 0x0#2 ++ a ++ b ++ t ++ 0x0#8
  | .vcmplt d a b t => 0x12#6 ++ d ++ 0x0#2 ++ a ++ b ++ t ++ 0x0#8
  | .vcmple d a b t => 0x13#6 ++ d ++ 0x0#2 ++ a ++ b ++ t ++ 0x0#8
  | .vsel d a b t m => 0x14#6 ++ d ++ a ++ b ++ t ++ 0x0#5 ++ m
  | .vmov d a => 0x15#6 ++ d ++ a ++ 0x0#16
  | .vsplat d t i => 0x16#6 ++ d ++ t ++ i ++ 0x0#2
  | .vext d a t l => 0x17#6 ++ d ++ a ++ 0x0#5 ++ t ++ l ++ 0x0#1
  | .vins d a t l => 0x18#6 ++ d ++ a ++ 0x0#5 ++ t ++ l ++ 0x0#1
  | .vcvt d a t s => 0x19#6 ++ d ++ a ++ 0x0#5 ++ t ++ s ++ 0x0#5
  | .vidx d t => 0x1A#6 ++ d ++ 0x0#10 ++ t ++ 0x0#8
  | .mand d a b => 0x1B#6 ++ d ++ a ++ b ++ 0x0#17
  | .mor d a b => 0x1C#6 ++ d ++ a ++ b ++ 0x0#17
  | .mxor d a b => 0x1D#6 ++ d ++ a ++ b ++ 0x0#17
  | .mnot d a => 0x1E#6 ++ d ++ a ++ 0x0#20
  | .mpop a d => 0x1F#6 ++ 0x0#3 ++ a ++ 0x0#3 ++ d ++ 0x0#12
  | .mfirst a d => 0x20#6 ++ 0x0#3 ++ a ++ 0x0#3 ++ d ++ 0x0#12
  | .vexp d a t => 0x1#6 ++ d ++ a ++ 0x0#5 ++ t ++ 0x0#8
  | .vexp2 d a t => 0x2#6 ++ d ++ a ++ 0x0#5 ++ t ++ 0x0#8
  | .vlog2 d a t => 0x3#6 ++ d ++ a ++ 0x0#5 ++ t ++ 0x0#8
  | .vrcp d a t => 0x4#6 ++ d ++ a ++ 0x0#5 ++ t ++ 0x0#8
  | .vrsqrt d a t => 0x5#6 ++ d ++ a ++ 0x0#5 ++ t ++ 0x0#8
  | .vsqrt d a t => 0x6#6 ++ d ++ a ++ 0x0#5 ++ t ++ 0x0#8
  | .vdiv d a b t => 0x7#6 ++ d ++ a ++ b ++ t ++ 0x0#8
  | .vtanh d a t => 0x8#6 ++ d ++ a ++ 0x0#5 ++ t ++ 0x0#8
  | .vsigm d a t => 0x9#6 ++ d ++ a ++ 0x0#5 ++ t ++ 0x0#8
  | .vredsum d a t => 0xA#6 ++ d ++ a ++ 0x0#5 ++ t ++ 0x0#8
  | .vredmax d a t => 0xB#6 ++ d ++ a ++ 0x0#5 ++ t ++ 0x0#8
  | .vredmin d a t => 0xC#6 ++ d ++ a ++ 0x0#5 ++ t ++ 0x0#8
  | .vscan d a t => 0xD#6 ++ d ++ a ++ 0x0#5 ++ t ++ 0x0#8
  | .vsortk d a t c => 0xE#6 ++ d ++ a ++ 0x0#5 ++ t ++ c ++ 0x0#3
  | .vperm d a b t => 0xF#6 ++ d ++ a ++ b ++ t ++ 0x0#8
  | .vrotl d a t l => 0x10#6 ++ d ++ a ++ 0x0#5 ++ t ++ l ++ 0x0#1
  | .vpack d a b t s q => 0x11#6 ++ d ++ a ++ b ++ t ++ s ++ 0x0#1 ++ q ++ 0x0#3
  | .vunpack d a t s h q => 0x12#6 ++ d ++ a ++ 0x0#5 ++ t ++ s ++ h ++ q ++ 0x0#3
  | .vrnd d a b t => 0x13#6 ++ d ++ a ++ b ++ t ++ 0x0#8
  | .vbVfma d a b t c => 0x14#6 ++ d ++ a ++ b ++ t ++ c ++ 0x0#3
  | .vbVadd d a b t => 0x15#6 ++ d ++ a ++ b ++ t ++ 0x0#8
  | .vbVmul d a b t => 0x16#6 ++ d ++ a ++ b ++ t ++ 0x0#8
  | .vld v e x l i => 0x1#6 ++ v ++ e ++ x ++ l ++ 0x0#4 ++ i
  | .vst v e x l g m i => 0x2#6 ++ v ++ e ++ x ++ l ++ g ++ m ++ i
  | .vlds v e x l z => 0x3#6 ++ v ++ e ++ x ++ l ++ 0x0#4 ++ z ++ 0x0#3
  | .vsts v e x l g m z => 0x4#6 ++ v ++ e ++ x ++ l ++ g ++ m ++ z ++ 0x0#3
  | .vgath v e x l b => 0x5#6 ++ v ++ e ++ x ++ l ++ 0x0#4 ++ b
  | .vscat v e x l g m b => 0x6#6 ++ v ++ e ++ x ++ l ++ g ++ m ++ b
  | .vldb d e x l z i => 0x7#6 ++ d ++ e ++ x ++ l ++ z ++ i
  | .tcfg t s => 0x10#6 ++ t ++ s ++ 0x0#15
  | .tld t e x l => 0x11#6 ++ t ++ e ++ x ++ l ++ 0x0#11
  | .tst t e x l => 0x12#6 ++ t ++ e ++ x ++ l ++ 0x0#11
  | .trowv v t i h => 0x13#6 ++ v ++ t ++ i ++ h ++ 0x0#13
  | .tvrow v t i h => 0x14#6 ++ v ++ t ++ i ++ h ++ 0x0#13
  | .tcolv v t i h => 0x15#6 ++ v ++ t ++ i ++ h ++ 0x0#13
  | .tvcol v t i h => 0x16#6 ++ v ++ t ++ i ++ h ++ 0x0#13
  | .tzero t => 0x17#6 ++ t ++ 0x0#23
  | .tsave t e x => 0x18#6 ++ t ++ e ++ x ++ 0x0#13
  | .trest t e x => 0x19#6 ++ t ++ e ++ x ++ 0x0#13
  | .mnest k l f a => 0x1#6 ++ k ++ l ++ f ++ a ++ 0x0#13
  | .mfmt e f a => 0x2#6 ++ e ++ f ++ a ++ 0x0#12
  | .mspar a => 0x3#6 ++ a ++ 0x0#20
  | .msparOff => 0x3#6 ++ 0x80000#26
  | .mtree a => 0x4#6 ++ a ++ 0x0#20
  | .mtreeOff => 0x4#6 ++ 0x80000#26
  | .msel c m f => 0x5#6 ++ 0x1#1 ++ c ++ m ++ f ++ 0x0#19
  | .mselOff => 0x5#6 ++ 0x0#26
  | .mgo b => 0x6#6 ++ b ++ 0x0#25
  | .macc c r a f m => 0x7#6 ++ c ++ r ++ a ++ f ++ m ++ 0x0#8
  | .mzero m => 0x8#6 ++ m ++ 0x0#22
  | .mret c a f m => 0x9#6 ++ c ++ 0x0#6 ++ a ++ f ++ m ++ 0x0#8
  | .mstat a => 0xA#6 ++ 0x0#8 ++ a ++ 0x0#12
  | .mabort => 0xB#6 ++ 0x0#26
  | .mrest => 0xC#6 ++ 0x0#26
  | .cpy f e l x n y => 0x1#6 ++ f ++ e ++ l ++ x ++ n ++ y ++ 0x0#1
  | .cpy2 f e l x n y => 0x2#6 ++ f ++ e ++ l ++ x ++ n ++ y ++ 0x0#1
  | .mwait p => 0x3#6 ++ p ++ 0x0#19
  | .cflush e x n => 0x4#6 ++ e ++ x ++ n ++ 0x0#10
  | .cinv e x n => 0x5#6 ++ e ++ x ++ n ++ 0x0#10
  | .send l a r s => 0x6#6 ++ l ++ a ++ r ++ s ++ 0x0#6
  | .recv l d t => 0x7#6 ++ l ++ d ++ t ++ 0x0#3
  | .rget q s k => 0x8#6 ++ q ++ s ++ 0x0#14 ++ k
  | .rput q s v k => 0x9#6 ++ q ++ s ++ 0x0#1 ++ v ++ 0x0#8 ++ k
  | .radd q s o w k => 0xA#6 ++ q ++ s ++ o ++ w ++ 0x0#6 ++ k
  | .rmax q s o w k => 0xB#6 ++ q ++ s ++ o ++ w ++ 0x0#6 ++ k
  | .rmin q s o w k => 0xC#6 ++ q ++ s ++ o ++ w ++ 0x0#6 ++ k
  | .rand q s o w k => 0xD#6 ++ q ++ s ++ o ++ w ++ 0x0#6 ++ k
  | .ror q s o w k => 0xE#6 ++ q ++ s ++ o ++ w ++ 0x0#6 ++ k
  | .rcas q s o w c k => 0xF#6 ++ q ++ s ++ o ++ w ++ c ++ k
  | .rboard q s v k => 0x10#6 ++ q ++ s ++ 0x0#1 ++ v ++ 0x0#8 ++ k
  | .ralight q s k => 0x11#6 ++ q ++ s ++ 0x0#14 ++ k
  | .rcol d q w => 0x12#6 ++ d ++ q ++ w ++ 0x0#16
  | .rcolRev d q => 0x12#6 ++ d ++ q ++ 0x8000#18
  | .gpass d s o p n => 0x13#6 ++ d ++ s ++ o ++ p ++ n
  | .kvcommit e p n => 0x14#6 ++ e ++ p ++ n ++ 0x0#10
  | .coll e p o t => 0x15#6 ++ e ++ p ++ o ++ t ++ 0x0#11
  | .cwait d => 0x16#6 ++ d ++ 0x0#20
  | .fxcall d a i f => 0x17#6 ++ d ++ a ++ i ++ f ++ 0x0#4
  | .iload e x c n => 0x18#6 ++ e ++ x ++ c ++ n ++ 0x0#4
  | .ovpload e x c => 0x19#6 ++ e ++ x ++ c ++ 0x0#10
  | .gcommit c => 0x1A#6 ++ c ++ 0x0#20
  | .dbgrd d w k => 0x1C#6 ++ d ++ w ++ k ++ 0x0#12
  | _ => 0#32

/-- The slot whose engine runs the instruction (R143, R248-R264); the no-op stands in any slot, and the rows without a
word have none: both give 8. -/
def slotOf : Instr → Nat
  | .br _ _ => 0
  | .jmp _ => 0
  | .jmpr _ => 0
  | .call _ => 0
  | .ret => 0
  | .loop _ _ => 0
  | .loopr _ _ => 0
  | .lbrk _ => 0
  | .ckpt _ => 0
  | .ckptP _ => 0
  | .halt => 0
  | .trap _ => 0
  | .tret => 0
  | .wgcy _ => 0
  | .scall _ => 0
  | .rswap => 0
  | .idle _ => 0
  | .brk _ => 0
  | .add _ _ _ => 1
  | .sub _ _ _ => 1
  | .and _ _ _ => 1
  | .or _ _ _ => 1
  | .xor _ _ _ => 1
  | .andn _ _ _ => 1
  | .orn _ _ _ => 1
  | .shl _ _ _ => 1
  | .shr _ _ _ => 1
  | .sra _ _ _ => 1
  | .rotl _ _ _ => 1
  | .rotr _ _ _ => 1
  | .slt _ _ _ => 1
  | .sltu _ _ _ => 1
  | .seq _ _ _ => 1
  | .sne _ _ _ => 1
  | .min _ _ _ => 1
  | .max _ _ _ => 1
  | .minu _ _ _ => 1
  | .maxu _ _ _ => 1
  | .mul _ _ _ => 1
  | .mulh _ _ _ => 1
  | .mulhu _ _ _ => 1
  | .div _ _ _ => 1
  | .divu _ _ _ => 1
  | .rem _ _ _ => 1
  | .remu _ _ _ => 1
  | .clz _ _ => 1
  | .ctz _ _ => 1
  | .popc _ _ => 1
  | .bext _ _ _ => 1
  | .bdep _ _ _ => 1
  | .addi _ _ _ => 1
  | .andi _ _ _ => 1
  | .ori _ _ _ => 1
  | .xori _ _ _ => 1
  | .slti _ _ _ => 1
  | .shli _ _ _ => 1
  | .shri _ _ _ => 1
  | .srai _ _ _ => 1
  | .lui _ _ => 1
  | .sel _ _ _ _ => 1
  | .gset _ _ _ _ => 1
  | .glog _ _ _ _ => 1
  | .gmovToScalar _ => 1
  | .gmovToGuards _ => 1
  | .latq _ _ => 1
  | .fadd _ _ _ _ => 1
  | .fsub _ _ _ _ => 1
  | .fmul _ _ _ _ => 1
  | .fdiv _ _ _ _ => 1
  | .fsqrt _ _ _ => 1
  | .fmin _ _ _ _ => 1
  | .fmax _ _ _ _ => 1
  | .fcmp _ _ _ _ _ => 1
  | .fcvt _ _ _ _ => 1
  | .fclass _ _ _ => 1
  | .fmadd _ _ _ _ _ => 1
  | .ldB _ _ _ _ => 2
  | .ldBz _ _ _ _ => 2
  | .ldH _ _ _ _ => 2
  | .ldHz _ _ _ _ => 2
  | .ldW _ _ _ _ => 2
  | .ldWz _ _ _ _ => 2
  | .ldD _ _ _ _ => 2
  | .stB _ _ _ _ _ => 2
  | .stH _ _ _ _ _ => 2
  | .stW _ _ _ _ _ => 2
  | .stD _ _ _ _ _ => 2
  | .aadd _ _ _ _ => 2
  | .aand _ _ _ _ => 2
  | .aor _ _ _ _ => 2
  | .axor _ _ _ _ => 2
  | .amin _ _ _ _ => 2
  | .amax _ _ _ _ => 2
  | .aminu _ _ _ _ => 2
  | .amaxu _ _ _ _ => 2
  | .aswap _ _ _ _ => 2
  | .acas _ _ _ _ => 2
  | .lockb _ _ => 2
  | .csrr _ _ => 2
  | .csrw _ _ => 2
  | .csrs _ _ => 2
  | .csrc _ _ => 2
  | .fence _ _ _ => 2
  | .idr _ _ => 2
  | .vadd _ _ _ _ => 3
  | .vsub _ _ _ _ => 3
  | .vmul _ _ _ _ => 3
  | .vfma _ _ _ _ _ => 3
  | .vfms _ _ _ _ _ => 3
  | .vmin _ _ _ _ => 3
  | .vmax _ _ _ _ => 3
  | .vabs _ _ _ => 3
  | .vneg _ _ _ => 3
  | .vand _ _ _ _ => 3
  | .vor _ _ _ _ => 3
  | .vxor _ _ _ _ => 3
  | .vnot _ _ _ => 3
  | .vshl _ _ _ _ => 3
  | .vshr _ _ _ _ => 3
  | .vsra _ _ _ _ => 3
  | .vcmpeq _ _ _ _ => 3
  | .vcmplt _ _ _ _ => 3
  | .vcmple _ _ _ _ => 3
  | .vsel _ _ _ _ _ => 3
  | .vmov _ _ => 3
  | .vsplat _ _ _ => 3
  | .vext _ _ _ _ => 3
  | .vins _ _ _ _ => 3
  | .vcvt _ _ _ _ => 3
  | .vidx _ _ => 3
  | .mand _ _ _ => 3
  | .mor _ _ _ => 3
  | .mxor _ _ _ => 3
  | .mnot _ _ => 3
  | .mpop _ _ => 3
  | .mfirst _ _ => 3
  | .vexp _ _ _ => 4
  | .vexp2 _ _ _ => 4
  | .vlog2 _ _ _ => 4
  | .vrcp _ _ _ => 4
  | .vrsqrt _ _ _ => 4
  | .vsqrt _ _ _ => 4
  | .vdiv _ _ _ _ => 4
  | .vtanh _ _ _ => 4
  | .vsigm _ _ _ => 4
  | .vredsum _ _ _ => 4
  | .vredmax _ _ _ => 4
  | .vredmin _ _ _ => 4
  | .vscan _ _ _ => 4
  | .vsortk _ _ _ _ => 4
  | .vperm _ _ _ _ => 4
  | .vrotl _ _ _ _ => 4
  | .vpack _ _ _ _ _ _ => 4
  | .vunpack _ _ _ _ _ _ => 4
  | .vrnd _ _ _ _ => 4
  | .vbVfma _ _ _ _ _ => 4
  | .vbVadd _ _ _ _ => 4
  | .vbVmul _ _ _ _ => 4
  | .vld _ _ _ _ _ => 5
  | .vst _ _ _ _ _ _ _ => 5
  | .vlds _ _ _ _ _ => 5
  | .vsts _ _ _ _ _ _ _ => 5
  | .vgath _ _ _ _ _ => 5
  | .vscat _ _ _ _ _ _ _ => 5
  | .vldb _ _ _ _ _ _ => 5
  | .tcfg _ _ => 5
  | .tld _ _ _ _ => 5
  | .tst _ _ _ _ => 5
  | .trowv _ _ _ _ => 5
  | .tvrow _ _ _ _ => 5
  | .tcolv _ _ _ _ => 5
  | .tvcol _ _ _ _ => 5
  | .tzero _ => 5
  | .tsave _ _ _ => 5
  | .trest _ _ _ => 5
  | .mnest _ _ _ _ => 6
  | .mfmt _ _ _ => 6
  | .mspar _ => 6
  | .msparOff => 6
  | .mtree _ => 6
  | .mtreeOff => 6
  | .msel _ _ _ => 6
  | .mselOff => 6
  | .mgo _ => 6
  | .macc _ _ _ _ _ => 6
  | .mzero _ => 6
  | .mret _ _ _ _ => 6
  | .mstat _ => 6
  | .mabort => 6
  | .mrest => 6
  | .cpy _ _ _ _ _ _ => 7
  | .cpy2 _ _ _ _ _ _ => 7
  | .mwait _ => 7
  | .cflush _ _ _ => 7
  | .cinv _ _ _ => 7
  | .send _ _ _ _ => 7
  | .recv _ _ _ => 7
  | .rget _ _ _ => 7
  | .rput _ _ _ _ => 7
  | .radd _ _ _ _ _ => 7
  | .rmax _ _ _ _ _ => 7
  | .rmin _ _ _ _ _ => 7
  | .rand _ _ _ _ _ => 7
  | .ror _ _ _ _ _ => 7
  | .rcas _ _ _ _ _ _ => 7
  | .rboard _ _ _ _ => 7
  | .ralight _ _ _ => 7
  | .rcol _ _ _ => 7
  | .rcolRev _ _ => 7
  | .gpass _ _ _ _ _ => 7
  | .kvcommit _ _ _ => 7
  | .coll _ _ _ _ => 7
  | .cwait _ => 7
  | .fxcall _ _ _ _ => 7
  | .iload _ _ _ _ => 7
  | .ovpload _ _ _ => 7
  | .gcommit _ => 7
  | .dbgrd _ _ _ => 7
  | _ => 8

/-- The instruction whose opcode (major and function) word w has in slot 0's map, with the fields at their places; none where
the opcode is unassigned. -/
def candidate0 (w : SlotWord) : Option Instr :=
  match (w.extractLsb' 26 6).toNat with
  | 1 => some (.br (w.extractLsb' 22 4) (w.extractLsb' 0 12))
  | 2 => some (.jmp (w.extractLsb' 0 12))
  | 3 => some (.jmpr (w.extractLsb' 20 6))
  | 4 => some (.call (w.extractLsb' 0 12))
  | 5 => some (.ret)
  | 6 => some (.loop (w.extractLsb' 14 12) (w.extractLsb' 0 12))
  | 7 => some (.loopr (w.extractLsb' 20 6) (w.extractLsb' 0 12))
  | 8 => some (.lbrk (w.extractLsb' 22 4))
  | 9 =>
    match (w.extractLsb' 25 1).toNat with
    | 0 => some (.ckpt (w.extractLsb' 0 12))
    | 1 => some (.ckptP (w.extractLsb' 0 12))
    | _ => none
  | 10 => some (.halt)
  | 11 => some (.trap (w.extractLsb' 0 16))
  | 12 => some (.tret)
  | 13 => some (.wgcy (w.extractLsb' 20 6))
  | 14 => some (.scall (w.extractLsb' 0 16))
  | 15 => some (.rswap)
  | 16 => some (.idle (w.extractLsb' 0 16))
  | 17 => some (.brk (w.extractLsb' 0 16))
  | _ => none

/-- The instruction whose opcode (major and function) word w has in slot 1's map, with the fields at their places; none where
the opcode is unassigned. -/
def candidate1 (w : SlotWord) : Option Instr :=
  match (w.extractLsb' 26 6).toNat with
  | 1 =>
    match (w.extractLsb' 0 5).toNat with
    | 0 => some (.add (w.extractLsb' 20 6) (w.extractLsb' 14 6) (w.extractLsb' 8 6))
    | 1 => some (.sub (w.extractLsb' 20 6) (w.extractLsb' 14 6) (w.extractLsb' 8 6))
    | 2 => some (.and (w.extractLsb' 20 6) (w.extractLsb' 14 6) (w.extractLsb' 8 6))
    | 3 => some (.or (w.extractLsb' 20 6) (w.extractLsb' 14 6) (w.extractLsb' 8 6))
    | 4 => some (.xor (w.extractLsb' 20 6) (w.extractLsb' 14 6) (w.extractLsb' 8 6))
    | 5 => some (.andn (w.extractLsb' 20 6) (w.extractLsb' 14 6) (w.extractLsb' 8 6))
    | 6 => some (.orn (w.extractLsb' 20 6) (w.extractLsb' 14 6) (w.extractLsb' 8 6))
    | 7 => some (.shl (w.extractLsb' 20 6) (w.extractLsb' 14 6) (w.extractLsb' 8 6))
    | 8 => some (.shr (w.extractLsb' 20 6) (w.extractLsb' 14 6) (w.extractLsb' 8 6))
    | 9 => some (.sra (w.extractLsb' 20 6) (w.extractLsb' 14 6) (w.extractLsb' 8 6))
    | 10 => some (.rotl (w.extractLsb' 20 6) (w.extractLsb' 14 6) (w.extractLsb' 8 6))
    | 11 => some (.rotr (w.extractLsb' 20 6) (w.extractLsb' 14 6) (w.extractLsb' 8 6))
    | 12 => some (.slt (w.extractLsb' 20 6) (w.extractLsb' 14 6) (w.extractLsb' 8 6))
    | 13 => some (.sltu (w.extractLsb' 20 6) (w.extractLsb' 14 6) (w.extractLsb' 8 6))
    | 14 => some (.seq (w.extractLsb' 20 6) (w.extractLsb' 14 6) (w.extractLsb' 8 6))
    | 15 => some (.sne (w.extractLsb' 20 6) (w.extractLsb' 14 6) (w.extractLsb' 8 6))
    | 16 => some (.min (w.extractLsb' 20 6) (w.extractLsb' 14 6) (w.extractLsb' 8 6))
    | 17 => some (.max (w.extractLsb' 20 6) (w.extractLsb' 14 6) (w.extractLsb' 8 6))
    | 18 => some (.minu (w.extractLsb' 20 6) (w.extractLsb' 14 6) (w.extractLsb' 8 6))
    | 19 => some (.maxu (w.extractLsb' 20 6) (w.extractLsb' 14 6) (w.extractLsb' 8 6))
    | 20 => some (.mul (w.extractLsb' 20 6) (w.extractLsb' 14 6) (w.extractLsb' 8 6))
    | 21 => some (.mulh (w.extractLsb' 20 6) (w.extractLsb' 14 6) (w.extractLsb' 8 6))
    | 22 => some (.mulhu (w.extractLsb' 20 6) (w.extractLsb' 14 6) (w.extractLsb' 8 6))
    | 23 => some (.div (w.extractLsb' 20 6) (w.extractLsb' 14 6) (w.extractLsb' 8 6))
    | 24 => some (.divu (w.extractLsb' 20 6) (w.extractLsb' 14 6) (w.extractLsb' 8 6))
    | 25 => some (.rem (w.extractLsb' 20 6) (w.extractLsb' 14 6) (w.extractLsb' 8 6))
    | 26 => some (.remu (w.extractLsb' 20 6) (w.extractLsb' 14 6) (w.extractLsb' 8 6))
    | 27 => some (.clz (w.extractLsb' 20 6) (w.extractLsb' 14 6))
    | 28 => some (.ctz (w.extractLsb' 20 6) (w.extractLsb' 14 6))
    | 29 => some (.popc (w.extractLsb' 20 6) (w.extractLsb' 14 6))
    | 30 => some (.bext (w.extractLsb' 20 6) (w.extractLsb' 14 6) (w.extractLsb' 8 6))
    | 31 => some (.bdep (w.extractLsb' 20 6) (w.extractLsb' 14 6) (w.extractLsb' 8 6))
    | _ => none
  | 2 => some (.addi (w.extractLsb' 20 6) (w.extractLsb' 14 6) (w.extractLsb' 0 14))
  | 3 => some (.andi (w.extractLsb' 20 6) (w.extractLsb' 14 6) (w.extractLsb' 0 14))
  | 4 => some (.ori (w.extractLsb' 20 6) (w.extractLsb' 14 6) (w.extractLsb' 0 14))
  | 5 => some (.xori (w.extractLsb' 20 6) (w.extractLsb' 14 6) (w.extractLsb' 0 14))
  | 6 => some (.slti (w.extractLsb' 20 6) (w.extractLsb' 14 6) (w.extractLsb' 0 14))
  | 7 => some (.shli (w.extractLsb' 20 6) (w.extractLsb' 14 6) (w.extractLsb' 0 6))
  | 8 => some (.shri (w.extractLsb' 20 6) (w.extractLsb' 14 6) (w.extractLsb' 0 6))
  | 9 => some (.srai (w.extractLsb' 20 6) (w.extractLsb' 14 6) (w.extractLsb' 0 6))
  | 10 => some (.lui (w.extractLsb' 20 6) (w.extractLsb' 0 20))
  | 11 => some (.sel (w.extractLsb' 20 6) (w.extractLsb' 14 6) (w.extractLsb' 8 6) (w.extractLsb' 0 4))
  | 12 => some (.gset (w.extractLsb' 23 3) (w.extractLsb' 14 6) (w.extractLsb' 8 6) (w.extractLsb' 0 3))
  | 13 => some (.glog (w.extractLsb' 23 3) (w.extractLsb' 19 4) (w.extractLsb' 15 4) (w.extractLsb' 13 2))
  | 14 =>
    match (w.extractLsb' 25 1).toNat with
    | 0 => some (.gmovToScalar (w.extractLsb' 19 6))
    | 1 => some (.gmovToGuards (w.extractLsb' 19 6))
    | _ => none
  | 15 => some (.latq (w.extractLsb' 20 6) (w.extractLsb' 0 6))
  | 16 =>
    match (w.extractLsb' 0 4).toNat with
    | 0 => some (.fadd (w.extractLsb' 20 6) (w.extractLsb' 14 6) (w.extractLsb' 8 6) (w.extractLsb' 7 1))
    | 1 => some (.fsub (w.extractLsb' 20 6) (w.extractLsb' 14 6) (w.extractLsb' 8 6) (w.extractLsb' 7 1))
    | 2 => some (.fmul (w.extractLsb' 20 6) (w.extractLsb' 14 6) (w.extractLsb' 8 6) (w.extractLsb' 7 1))
    | 3 => some (.fdiv (w.extractLsb' 20 6) (w.extractLsb' 14 6) (w.extractLsb' 8 6) (w.extractLsb' 7 1))
    | 4 => some (.fsqrt (w.extractLsb' 20 6) (w.extractLsb' 14 6) (w.extractLsb' 7 1))
    | 5 => some (.fmin (w.extractLsb' 20 6) (w.extractLsb' 14 6) (w.extractLsb' 8 6) (w.extractLsb' 7 1))
    | 6 => some (.fmax (w.extractLsb' 20 6) (w.extractLsb' 14 6) (w.extractLsb' 8 6) (w.extractLsb' 7 1))
    | 7 => some (.fcmp (w.extractLsb' 20 6) (w.extractLsb' 14 6) (w.extractLsb' 8 6) (w.extractLsb' 7 1) (w.extractLsb' 4 3))
    | 8 => some (.fcvt (w.extractLsb' 20 6) (w.extractLsb' 14 6) (w.extractLsb' 7 1) (w.extractLsb' 4 3))
    | 9 => some (.fclass (w.extractLsb' 20 6) (w.extractLsb' 14 6) (w.extractLsb' 7 1))
    | _ => none
  | 17 => some (.fmadd (w.extractLsb' 20 6) (w.extractLsb' 14 6) (w.extractLsb' 8 6) (w.extractLsb' 2 6) (w.extractLsb' 1 1))
  | _ => none

/-- The instruction whose opcode (major and function) word w has in slot 2's map, with the fields at their places; none where
the opcode is unassigned. -/
def candidate2 (w : SlotWord) : Option Instr :=
  match (w.extractLsb' 26 6).toNat with
  | 1 => some (.ldB (w.extractLsb' 20 6) (w.extractLsb' 16 4) (w.extractLsb' 10 6) (w.extractLsb' 0 10))
  | 2 => some (.ldBz (w.extractLsb' 20 6) (w.extractLsb' 16 4) (w.extractLsb' 10 6) (w.extractLsb' 0 10))
  | 3 => some (.ldH (w.extractLsb' 20 6) (w.extractLsb' 16 4) (w.extractLsb' 10 6) (w.extractLsb' 0 10))
  | 4 => some (.ldHz (w.extractLsb' 20 6) (w.extractLsb' 16 4) (w.extractLsb' 10 6) (w.extractLsb' 0 10))
  | 5 => some (.ldW (w.extractLsb' 20 6) (w.extractLsb' 16 4) (w.extractLsb' 10 6) (w.extractLsb' 0 10))
  | 6 => some (.ldWz (w.extractLsb' 20 6) (w.extractLsb' 16 4) (w.extractLsb' 10 6) (w.extractLsb' 0 10))
  | 7 => some (.ldD (w.extractLsb' 20 6) (w.extractLsb' 16 4) (w.extractLsb' 10 6) (w.extractLsb' 0 10))
  | 8 => some (.stB (w.extractLsb' 20 6) (w.extractLsb' 16 4) (w.extractLsb' 10 6) (w.extractLsb' 6 4) (w.extractLsb' 0 6))
  | 9 => some (.stH (w.extractLsb' 20 6) (w.extractLsb' 16 4) (w.extractLsb' 10 6) (w.extractLsb' 6 4) (w.extractLsb' 0 6))
  | 10 => some (.stW (w.extractLsb' 20 6) (w.extractLsb' 16 4) (w.extractLsb' 10 6) (w.extractLsb' 6 4) (w.extractLsb' 0 6))
  | 11 => some (.stD (w.extractLsb' 20 6) (w.extractLsb' 16 4) (w.extractLsb' 10 6) (w.extractLsb' 6 4) (w.extractLsb' 0 6))
  | 16 =>
    match (w.extractLsb' 0 4).toNat with
    | 0 => some (.aadd (w.extractLsb' 20 6) (w.extractLsb' 14 6) (w.extractLsb' 8 6) (w.extractLsb' 4 4))
    | 1 => some (.aand (w.extractLsb' 20 6) (w.extractLsb' 14 6) (w.extractLsb' 8 6) (w.extractLsb' 4 4))
    | 2 => some (.aor (w.extractLsb' 20 6) (w.extractLsb' 14 6) (w.extractLsb' 8 6) (w.extractLsb' 4 4))
    | 3 => some (.axor (w.extractLsb' 20 6) (w.extractLsb' 14 6) (w.extractLsb' 8 6) (w.extractLsb' 4 4))
    | 4 => some (.amin (w.extractLsb' 20 6) (w.extractLsb' 14 6) (w.extractLsb' 8 6) (w.extractLsb' 4 4))
    | 5 => some (.amax (w.extractLsb' 20 6) (w.extractLsb' 14 6) (w.extractLsb' 8 6) (w.extractLsb' 4 4))
    | 6 => some (.aminu (w.extractLsb' 20 6) (w.extractLsb' 14 6) (w.extractLsb' 8 6) (w.extractLsb' 4 4))
    | 7 => some (.amaxu (w.extractLsb' 20 6) (w.extractLsb' 14 6) (w.extractLsb' 8 6) (w.extractLsb' 4 4))
    | 8 => some (.aswap (w.extractLsb' 20 6) (w.extractLsb' 14 6) (w.extractLsb' 8 6) (w.extractLsb' 4 4))
    | _ => none
  | 17 => some (.acas (w.extractLsb' 20 6) (w.extractLsb' 14 6) (w.extractLsb' 8 6) (w.extractLsb' 4 4))
  | 24 => some (.lockb (w.extractLsb' 10 16) (w.extractLsb' 0 4))
  | 26 => some (.csrr (w.extractLsb' 20 6) (w.extractLsb' 0 12))
  | 27 => some (.csrw (w.extractLsb' 20 6) (w.extractLsb' 0 12))
  | 28 => some (.csrs (w.extractLsb' 20 6) (w.extractLsb' 0 12))
  | 29 => some (.csrc (w.extractLsb' 20 6) (w.extractLsb' 0 12))
  | 30 => some (.fence (w.extractLsb' 18 8) (w.extractLsb' 10 8) (w.extractLsb' 7 3))
  | 31 => some (.idr (w.extractLsb' 20 6) (w.extractLsb' 0 4))
  | _ => none

/-- The instruction whose opcode (major and function) word w has in slot 3's map, with the fields at their places; none where
the opcode is unassigned. -/
def candidate3 (w : SlotWord) : Option Instr :=
  match (w.extractLsb' 26 6).toNat with
  | 1 => some (.vadd (w.extractLsb' 21 5) (w.extractLsb' 16 5) (w.extractLsb' 11 5) (w.extractLsb' 8 3))
  | 2 => some (.vsub (w.extractLsb' 21 5) (w.extractLsb' 16 5) (w.extractLsb' 11 5) (w.extractLsb' 8 3))
  | 3 => some (.vmul (w.extractLsb' 21 5) (w.extractLsb' 16 5) (w.extractLsb' 11 5) (w.extractLsb' 8 3))
  | 4 => some (.vfma (w.extractLsb' 21 5) (w.extractLsb' 16 5) (w.extractLsb' 11 5) (w.extractLsb' 8 3) (w.extractLsb' 3 5))
  | 5 => some (.vfms (w.extractLsb' 21 5) (w.extractLsb' 16 5) (w.extractLsb' 11 5) (w.extractLsb' 8 3) (w.extractLsb' 3 5))
  | 6 => some (.vmin (w.extractLsb' 21 5) (w.extractLsb' 16 5) (w.extractLsb' 11 5) (w.extractLsb' 8 3))
  | 7 => some (.vmax (w.extractLsb' 21 5) (w.extractLsb' 16 5) (w.extractLsb' 11 5) (w.extractLsb' 8 3))
  | 8 => some (.vabs (w.extractLsb' 21 5) (w.extractLsb' 16 5) (w.extractLsb' 8 3))
  | 9 => some (.vneg (w.extractLsb' 21 5) (w.extractLsb' 16 5) (w.extractLsb' 8 3))
  | 10 => some (.vand (w.extractLsb' 21 5) (w.extractLsb' 16 5) (w.extractLsb' 11 5) (w.extractLsb' 8 3))
  | 11 => some (.vor (w.extractLsb' 21 5) (w.extractLsb' 16 5) (w.extractLsb' 11 5) (w.extractLsb' 8 3))
  | 12 => some (.vxor (w.extractLsb' 21 5) (w.extractLsb' 16 5) (w.extractLsb' 11 5) (w.extractLsb' 8 3))
  | 13 => some (.vnot (w.extractLsb' 21 5) (w.extractLsb' 16 5) (w.extractLsb' 8 3))
  | 14 => some (.vshl (w.extractLsb' 21 5) (w.extractLsb' 16 5) (w.extractLsb' 11 5) (w.extractLsb' 8 3))
  | 15 => some (.vshr (w.extractLsb' 21 5) (w.extractLsb' 16 5) (w.extractLsb' 11 5) (w.extractLsb' 8 3))
  | 16 => some (.vsra (w.extractLsb' 21 5) (w.extractLsb' 16 5) (w.extractLsb' 11 5) (w.extractLsb' 8 3))
  | 17 => some (.vcmpeq (w.extractLsb' 23 3) (w.extractLsb' 16 5) (w.extractLsb' 11 5) (w.extractLsb' 8 3))
  | 18 => some (.vcmplt (w.extractLsb' 23 3) (w.extractLsb' 16 5) (w.extractLsb' 11 5) (w.extractLsb' 8 3))
  | 19 => some (.vcmple (w.extractLsb' 23 3) (w.extractLsb' 16 5) (w.extractLsb' 11 5) (w.extractLsb' 8 3))
  | 20 => some (.vsel (w.extractLsb' 21 5) (w.extractLsb' 16 5) (w.extractLsb' 11 5) (w.extractLsb' 8 3) (w.extractLsb' 0 3))
  | 21 => some (.vmov (w.extractLsb' 21 5) (w.extractLsb' 16 5))
  | 22 => some (.vsplat (w.extractLsb' 21 5) (w.extractLsb' 18 3) (w.extractLsb' 2 16))
  | 23 => some (.vext (w.extractLsb' 21 5) (w.extractLsb' 16 5) (w.extractLsb' 8 3) (w.extractLsb' 1 7))
  | 24 => some (.vins (w.extractLsb' 21 5) (w.extractLsb' 16 5) (w.extractLsb' 8 3) (w.extractLsb' 1 7))
  | 25 => some (.vcvt (w.extractLsb' 21 5) (w.extractLsb' 16 5) (w.extractLsb' 8 3) (w.extractLsb' 5 3))
  | 26 => some (.vidx (w.extractLsb' 21 5) (w.extractLsb' 8 3))
  | 27 => some (.mand (w.extractLsb' 23 3) (w.extractLsb' 20 3) (w.extractLsb' 17 3))
  | 28 => some (.mor (w.extractLsb' 23 3) (w.extractLsb' 20 3) (w.extractLsb' 17 3))
  | 29 => some (.mxor (w.extractLsb' 23 3) (w.extractLsb' 20 3) (w.extractLsb' 17 3))
  | 30 => some (.mnot (w.extractLsb' 23 3) (w.extractLsb' 20 3))
  | 31 => some (.mpop (w.extractLsb' 20 3) (w.extractLsb' 12 5))
  | 32 => some (.mfirst (w.extractLsb' 20 3) (w.extractLsb' 12 5))
  | _ => none

/-- The instruction whose opcode (major and function) word w has in slot 4's map, with the fields at their places; none where
the opcode is unassigned. -/
def candidate4 (w : SlotWord) : Option Instr :=
  match (w.extractLsb' 26 6).toNat with
  | 1 => some (.vexp (w.extractLsb' 21 5) (w.extractLsb' 16 5) (w.extractLsb' 8 3))
  | 2 => some (.vexp2 (w.extractLsb' 21 5) (w.extractLsb' 16 5) (w.extractLsb' 8 3))
  | 3 => some (.vlog2 (w.extractLsb' 21 5) (w.extractLsb' 16 5) (w.extractLsb' 8 3))
  | 4 => some (.vrcp (w.extractLsb' 21 5) (w.extractLsb' 16 5) (w.extractLsb' 8 3))
  | 5 => some (.vrsqrt (w.extractLsb' 21 5) (w.extractLsb' 16 5) (w.extractLsb' 8 3))
  | 6 => some (.vsqrt (w.extractLsb' 21 5) (w.extractLsb' 16 5) (w.extractLsb' 8 3))
  | 7 => some (.vdiv (w.extractLsb' 21 5) (w.extractLsb' 16 5) (w.extractLsb' 11 5) (w.extractLsb' 8 3))
  | 8 => some (.vtanh (w.extractLsb' 21 5) (w.extractLsb' 16 5) (w.extractLsb' 8 3))
  | 9 => some (.vsigm (w.extractLsb' 21 5) (w.extractLsb' 16 5) (w.extractLsb' 8 3))
  | 10 => some (.vredsum (w.extractLsb' 21 5) (w.extractLsb' 16 5) (w.extractLsb' 8 3))
  | 11 => some (.vredmax (w.extractLsb' 21 5) (w.extractLsb' 16 5) (w.extractLsb' 8 3))
  | 12 => some (.vredmin (w.extractLsb' 21 5) (w.extractLsb' 16 5) (w.extractLsb' 8 3))
  | 13 => some (.vscan (w.extractLsb' 21 5) (w.extractLsb' 16 5) (w.extractLsb' 8 3))
  | 14 => some (.vsortk (w.extractLsb' 21 5) (w.extractLsb' 16 5) (w.extractLsb' 8 3) (w.extractLsb' 3 5))
  | 15 => some (.vperm (w.extractLsb' 21 5) (w.extractLsb' 16 5) (w.extractLsb' 11 5) (w.extractLsb' 8 3))
  | 16 => some (.vrotl (w.extractLsb' 21 5) (w.extractLsb' 16 5) (w.extractLsb' 8 3) (w.extractLsb' 1 7))
  | 17 => some (.vpack (w.extractLsb' 21 5) (w.extractLsb' 16 5) (w.extractLsb' 11 5) (w.extractLsb' 8 3) (w.extractLsb' 5 3) (w.extractLsb' 3 1))
  | 18 => some (.vunpack (w.extractLsb' 21 5) (w.extractLsb' 16 5) (w.extractLsb' 8 3) (w.extractLsb' 5 3) (w.extractLsb' 4 1) (w.extractLsb' 3 1))
  | 19 => some (.vrnd (w.extractLsb' 21 5) (w.extractLsb' 16 5) (w.extractLsb' 11 5) (w.extractLsb' 8 3))
  | 20 => some (.vbVfma (w.extractLsb' 21 5) (w.extractLsb' 16 5) (w.extractLsb' 11 5) (w.extractLsb' 8 3) (w.extractLsb' 3 5))
  | 21 => some (.vbVadd (w.extractLsb' 21 5) (w.extractLsb' 16 5) (w.extractLsb' 11 5) (w.extractLsb' 8 3))
  | 22 => some (.vbVmul (w.extractLsb' 21 5) (w.extractLsb' 16 5) (w.extractLsb' 11 5) (w.extractLsb' 8 3))
  | _ => none

/-- The instruction whose opcode (major and function) word w has in slot 5's map, with the fields at their places; none where
the opcode is unassigned. -/
def candidate5 (w : SlotWord) : Option Instr :=
  match (w.extractLsb' 26 6).toNat with
  | 1 => some (.vld (w.extractLsb' 21 5) (w.extractLsb' 17 4) (w.extractLsb' 11 6) (w.extractLsb' 9 2) (w.extractLsb' 0 5))
  | 2 => some (.vst (w.extractLsb' 21 5) (w.extractLsb' 17 4) (w.extractLsb' 11 6) (w.extractLsb' 9 2) (w.extractLsb' 8 1) (w.extractLsb' 5 3) (w.extractLsb' 0 5))
  | 3 => some (.vlds (w.extractLsb' 21 5) (w.extractLsb' 17 4) (w.extractLsb' 11 6) (w.extractLsb' 9 2) (w.extractLsb' 3 2))
  | 4 => some (.vsts (w.extractLsb' 21 5) (w.extractLsb' 17 4) (w.extractLsb' 11 6) (w.extractLsb' 9 2) (w.extractLsb' 8 1) (w.extractLsb' 5 3) (w.extractLsb' 3 2))
  | 5 => some (.vgath (w.extractLsb' 21 5) (w.extractLsb' 17 4) (w.extractLsb' 11 6) (w.extractLsb' 9 2) (w.extractLsb' 0 5))
  | 6 => some (.vscat (w.extractLsb' 21 5) (w.extractLsb' 17 4) (w.extractLsb' 11 6) (w.extractLsb' 9 2) (w.extractLsb' 8 1) (w.extractLsb' 5 3) (w.extractLsb' 0 5))
  | 7 => some (.vldb (w.extractLsb' 21 5) (w.extractLsb' 17 4) (w.extractLsb' 11 6) (w.extractLsb' 9 2) (w.extractLsb' 7 2) (w.extractLsb' 0 7))
  | 16 => some (.tcfg (w.extractLsb' 23 3) (w.extractLsb' 15 8))
  | 17 => some (.tld (w.extractLsb' 23 3) (w.extractLsb' 19 4) (w.extractLsb' 13 6) (w.extractLsb' 11 2))
  | 18 => some (.tst (w.extractLsb' 23 3) (w.extractLsb' 19 4) (w.extractLsb' 13 6) (w.extractLsb' 11 2))
  | 19 => some (.trowv (w.extractLsb' 21 5) (w.extractLsb' 18 3) (w.extractLsb' 14 4) (w.extractLsb' 13 1))
  | 20 => some (.tvrow (w.extractLsb' 21 5) (w.extractLsb' 18 3) (w.extractLsb' 14 4) (w.extractLsb' 13 1))
  | 21 => some (.tcolv (w.extractLsb' 21 5) (w.extractLsb' 18 3) (w.extractLsb' 14 4) (w.extractLsb' 13 1))
  | 22 => some (.tvcol (w.extractLsb' 21 5) (w.extractLsb' 18 3) (w.extractLsb' 14 4) (w.extractLsb' 13 1))
  | 23 => some (.tzero (w.extractLsb' 23 3))
  | 24 => some (.tsave (w.extractLsb' 23 3) (w.extractLsb' 19 4) (w.extractLsb' 13 6))
  | 25 => some (.trest (w.extractLsb' 23 3) (w.extractLsb' 19 4) (w.extractLsb' 13 6))
  | _ => none

/-- The instruction whose opcode (major and function) word w has in slot 6's map, with the fields at their places; none where
the opcode is unassigned. -/
def candidate6 (w : SlotWord) : Option Instr :=
  match (w.extractLsb' 26 6).toNat with
  | 1 => some (.mnest (w.extractLsb' 25 1) (w.extractLsb' 22 3) (w.extractLsb' 19 3) (w.extractLsb' 13 6))
  | 2 => some (.mfmt (w.extractLsb' 22 4) (w.extractLsb' 18 4) (w.extractLsb' 12 6))
  | 3 =>
    match (w.extractLsb' 19 1).toNat with
    | 0 => some (.mspar (w.extractLsb' 20 6))
    | 1 => some (.msparOff)
    | _ => none
  | 4 =>
    match (w.extractLsb' 19 1).toNat with
    | 0 => some (.mtree (w.extractLsb' 20 6))
    | 1 => some (.mtreeOff)
    | _ => none
  | 5 =>
    match (w.extractLsb' 25 1).toNat with
    | 1 => some (.msel (w.extractLsb' 23 2) (w.extractLsb' 22 1) (w.extractLsb' 19 3))
    | 0 => some (.mselOff)
    | _ => none
  | 6 => some (.mgo (w.extractLsb' 25 1))
  | 7 => some (.macc (w.extractLsb' 24 2) (w.extractLsb' 18 6) (w.extractLsb' 12 6) (w.extractLsb' 9 3) (w.extractLsb' 8 1))
  | 8 => some (.mzero (w.extractLsb' 22 4))
  | 9 => some (.mret (w.extractLsb' 24 2) (w.extractLsb' 12 6) (w.extractLsb' 9 3) (w.extractLsb' 8 1))
  | 10 => some (.mstat (w.extractLsb' 12 6))
  | 11 => some (.mabort)
  | 12 => some (.mrest)
  | _ => none

/-- The instruction whose opcode (major and function) word w has in slot 7's map, with the fields at their places; none where
the opcode is unassigned. -/
def candidate7 (w : SlotWord) : Option Instr :=
  match (w.extractLsb' 26 6).toNat with
  | 1 => some (.cpy (w.extractLsb' 25 1) (w.extractLsb' 21 4) (w.extractLsb' 15 6) (w.extractLsb' 9 6) (w.extractLsb' 3 6) (w.extractLsb' 1 2))
  | 2 => some (.cpy2 (w.extractLsb' 25 1) (w.extractLsb' 21 4) (w.extractLsb' 15 6) (w.extractLsb' 9 6) (w.extractLsb' 3 6) (w.extractLsb' 1 2))
  | 3 => some (.mwait (w.extractLsb' 19 7))
  | 4 => some (.cflush (w.extractLsb' 22 4) (w.extractLsb' 16 6) (w.extractLsb' 10 6))
  | 5 => some (.cinv (w.extractLsb' 22 4) (w.extractLsb' 16 6) (w.extractLsb' 10 6))
  | 6 => some (.send (w.extractLsb' 24 2) (w.extractLsb' 19 5) (w.extractLsb' 12 7) (w.extractLsb' 6 6))
  | 7 => some (.recv (w.extractLsb' 24 2) (w.extractLsb' 19 5) (w.extractLsb' 3 16))
  | 8 => some (.rget (w.extractLsb' 24 2) (w.extractLsb' 16 8) (w.extractLsb' 0 2))
  | 9 => some (.rput (w.extractLsb' 24 2) (w.extractLsb' 16 8) (w.extractLsb' 10 5) (w.extractLsb' 0 2))
  | 10 => some (.radd (w.extractLsb' 24 2) (w.extractLsb' 16 8) (w.extractLsb' 10 6) (w.extractLsb' 8 2) (w.extractLsb' 0 2))
  | 11 => some (.rmax (w.extractLsb' 24 2) (w.extractLsb' 16 8) (w.extractLsb' 10 6) (w.extractLsb' 8 2) (w.extractLsb' 0 2))
  | 12 => some (.rmin (w.extractLsb' 24 2) (w.extractLsb' 16 8) (w.extractLsb' 10 6) (w.extractLsb' 8 2) (w.extractLsb' 0 2))
  | 13 => some (.rand (w.extractLsb' 24 2) (w.extractLsb' 16 8) (w.extractLsb' 10 6) (w.extractLsb' 8 2) (w.extractLsb' 0 2))
  | 14 => some (.ror (w.extractLsb' 24 2) (w.extractLsb' 16 8) (w.extractLsb' 10 6) (w.extractLsb' 8 2) (w.extractLsb' 0 2))
  | 15 => some (.rcas (w.extractLsb' 24 2) (w.extractLsb' 16 8) (w.extractLsb' 10 6) (w.extractLsb' 8 2) (w.extractLsb' 2 6) (w.extractLsb' 0 2))
  | 16 => some (.rboard (w.extractLsb' 24 2) (w.extractLsb' 16 8) (w.extractLsb' 10 5) (w.extractLsb' 0 2))
  | 17 => some (.ralight (w.extractLsb' 24 2) (w.extractLsb' 16 8) (w.extractLsb' 0 2))
  | 18 =>
    match (w.extractLsb' 15 1).toNat with
    | 0 => some (.rcol (w.extractLsb' 20 6) (w.extractLsb' 18 2) (w.extractLsb' 16 2))
    | 1 => some (.rcolRev (w.extractLsb' 20 6) (w.extractLsb' 18 2))
    | _ => none
  | 19 => some (.gpass (w.extractLsb' 22 4) (w.extractLsb' 18 4) (w.extractLsb' 12 6) (w.extractLsb' 6 6) (w.extractLsb' 0 6))
  | 20 => some (.kvcommit (w.extractLsb' 22 4) (w.extractLsb' 16 6) (w.extractLsb' 10 6))
  | 21 => some (.coll (w.extractLsb' 22 4) (w.extractLsb' 16 6) (w.extractLsb' 13 3) (w.extractLsb' 11 2))
  | 22 => some (.cwait (w.extractLsb' 20 6))
  | 23 => some (.fxcall (w.extractLsb' 21 5) (w.extractLsb' 16 5) (w.extractLsb' 8 8) (w.extractLsb' 4 4))
  | 24 => some (.iload (w.extractLsb' 22 4) (w.extractLsb' 16 6) (w.extractLsb' 10 6) (w.extractLsb' 4 6))
  | 25 => some (.ovpload (w.extractLsb' 22 4) (w.extractLsb' 16 6) (w.extractLsb' 10 6))
  | 26 => some (.gcommit (w.extractLsb' 20 6))
  | 28 => some (.dbgrd (w.extractLsb' 20 6) (w.extractLsb' 14 6) (w.extractLsb' 12 2))
  | _ => none

/-- The instruction whose opcode a word has in the map of slot k. -/
def candidate (k : Nat) (w : SlotWord) : Option Instr :=
  match k with
  | 0 => candidate0 w
  | 1 => candidate1 w
  | 2 => candidate2 w
  | 3 => candidate3 w
  | 4 => candidate4 w
  | 5 => candidate5 w
  | 6 => candidate6 w
  | 7 => candidate7 w
  | _ => none

/-- Decode word w in slot k: the no-op (R238), an instruction, or none: an ILLEGAL_OP word (R239). -/
def decodeSlot (k : Nat) (w : SlotWord) : Option Instr :=
  if w = 0#32 then some .nop
  else
    match candidate k w with
    | none => none
    | some i => if encode i = w && wellFormed i then some i else none

/-- How many bits of word w the encoding of `candidate k w` fixes: the bits that no field covers. It orders the slots in
`tableSlot` only. -/
def fieldBits : Instr → Nat
  | .br _ _ => 16
  | .jmp _ => 12
  | .jmpr _ => 6
  | .call _ => 12
  | .ret => 0
  | .loop _ _ => 24
  | .loopr _ _ => 18
  | .lbrk _ => 4
  | .ckpt _ => 12
  | .ckptP _ => 12
  | .halt => 0
  | .trap _ => 16
  | .tret => 0
  | .wgcy _ => 6
  | .scall _ => 16
  | .rswap => 0
  | .idle _ => 16
  | .brk _ => 16
  | .add _ _ _ => 18
  | .sub _ _ _ => 18
  | .and _ _ _ => 18
  | .or _ _ _ => 18
  | .xor _ _ _ => 18
  | .andn _ _ _ => 18
  | .orn _ _ _ => 18
  | .shl _ _ _ => 18
  | .shr _ _ _ => 18
  | .sra _ _ _ => 18
  | .rotl _ _ _ => 18
  | .rotr _ _ _ => 18
  | .slt _ _ _ => 18
  | .sltu _ _ _ => 18
  | .seq _ _ _ => 18
  | .sne _ _ _ => 18
  | .min _ _ _ => 18
  | .max _ _ _ => 18
  | .minu _ _ _ => 18
  | .maxu _ _ _ => 18
  | .mul _ _ _ => 18
  | .mulh _ _ _ => 18
  | .mulhu _ _ _ => 18
  | .div _ _ _ => 18
  | .divu _ _ _ => 18
  | .rem _ _ _ => 18
  | .remu _ _ _ => 18
  | .clz _ _ => 12
  | .ctz _ _ => 12
  | .popc _ _ => 12
  | .bext _ _ _ => 18
  | .bdep _ _ _ => 18
  | .addi _ _ _ => 26
  | .andi _ _ _ => 26
  | .ori _ _ _ => 26
  | .xori _ _ _ => 26
  | .slti _ _ _ => 26
  | .shli _ _ _ => 18
  | .shri _ _ _ => 18
  | .srai _ _ _ => 18
  | .lui _ _ => 26
  | .sel _ _ _ _ => 22
  | .gset _ _ _ _ => 18
  | .glog _ _ _ _ => 13
  | .gmovToScalar _ => 6
  | .gmovToGuards _ => 6
  | .latq _ _ => 12
  | .fadd _ _ _ _ => 19
  | .fsub _ _ _ _ => 19
  | .fmul _ _ _ _ => 19
  | .fdiv _ _ _ _ => 19
  | .fsqrt _ _ _ => 13
  | .fmin _ _ _ _ => 19
  | .fmax _ _ _ _ => 19
  | .fcmp _ _ _ _ _ => 22
  | .fcvt _ _ _ _ => 16
  | .fclass _ _ _ => 13
  | .fmadd _ _ _ _ _ => 25
  | .ldB _ _ _ _ => 26
  | .ldBz _ _ _ _ => 26
  | .ldH _ _ _ _ => 26
  | .ldHz _ _ _ _ => 26
  | .ldW _ _ _ _ => 26
  | .ldWz _ _ _ _ => 26
  | .ldD _ _ _ _ => 26
  | .stB _ _ _ _ _ => 26
  | .stH _ _ _ _ _ => 26
  | .stW _ _ _ _ _ => 26
  | .stD _ _ _ _ _ => 26
  | .aadd _ _ _ _ => 22
  | .aand _ _ _ _ => 22
  | .aor _ _ _ _ => 22
  | .axor _ _ _ _ => 22
  | .amin _ _ _ _ => 22
  | .amax _ _ _ _ => 22
  | .aminu _ _ _ _ => 22
  | .amaxu _ _ _ _ => 22
  | .aswap _ _ _ _ => 22
  | .acas _ _ _ _ => 22
  | .lockb _ _ => 20
  | .csrr _ _ => 18
  | .csrw _ _ => 18
  | .csrs _ _ => 18
  | .csrc _ _ => 18
  | .fence _ _ _ => 19
  | .idr _ _ => 10
  | .vadd _ _ _ _ => 18
  | .vsub _ _ _ _ => 18
  | .vmul _ _ _ _ => 18
  | .vfma _ _ _ _ _ => 23
  | .vfms _ _ _ _ _ => 23
  | .vmin _ _ _ _ => 18
  | .vmax _ _ _ _ => 18
  | .vabs _ _ _ => 13
  | .vneg _ _ _ => 13
  | .vand _ _ _ _ => 18
  | .vor _ _ _ _ => 18
  | .vxor _ _ _ _ => 18
  | .vnot _ _ _ => 13
  | .vshl _ _ _ _ => 18
  | .vshr _ _ _ _ => 18
  | .vsra _ _ _ _ => 18
  | .vcmpeq _ _ _ _ => 16
  | .vcmplt _ _ _ _ => 16
  | .vcmple _ _ _ _ => 16
  | .vsel _ _ _ _ _ => 21
  | .vmov _ _ => 10
  | .vsplat _ _ _ => 24
  | .vext _ _ _ _ => 20
  | .vins _ _ _ _ => 20
  | .vcvt _ _ _ _ => 16
  | .vidx _ _ => 8
  | .mand _ _ _ => 9
  | .mor _ _ _ => 9
  | .mxor _ _ _ => 9
  | .mnot _ _ => 6
  | .mpop _ _ => 8
  | .mfirst _ _ => 8
  | .vexp _ _ _ => 13
  | .vexp2 _ _ _ => 13
  | .vlog2 _ _ _ => 13
  | .vrcp _ _ _ => 13
  | .vrsqrt _ _ _ => 13
  | .vsqrt _ _ _ => 13
  | .vdiv _ _ _ _ => 18
  | .vtanh _ _ _ => 13
  | .vsigm _ _ _ => 13
  | .vredsum _ _ _ => 13
  | .vredmax _ _ _ => 13
  | .vredmin _ _ _ => 13
  | .vscan _ _ _ => 13
  | .vsortk _ _ _ _ => 18
  | .vperm _ _ _ _ => 18
  | .vrotl _ _ _ _ => 20
  | .vpack _ _ _ _ _ _ => 22
  | .vunpack _ _ _ _ _ _ => 18
  | .vrnd _ _ _ _ => 18
  | .vbVfma _ _ _ _ _ => 23
  | .vbVadd _ _ _ _ => 18
  | .vbVmul _ _ _ _ => 18
  | .vld _ _ _ _ _ => 22
  | .vst _ _ _ _ _ _ _ => 26
  | .vlds _ _ _ _ _ => 19
  | .vsts _ _ _ _ _ _ _ => 23
  | .vgath _ _ _ _ _ => 22
  | .vscat _ _ _ _ _ _ _ => 26
  | .vldb _ _ _ _ _ _ => 26
  | .tcfg _ _ => 11
  | .tld _ _ _ _ => 15
  | .tst _ _ _ _ => 15
  | .trowv _ _ _ _ => 13
  | .tvrow _ _ _ _ => 13
  | .tcolv _ _ _ _ => 13
  | .tvcol _ _ _ _ => 13
  | .tzero _ => 3
  | .tsave _ _ _ => 13
  | .trest _ _ _ => 13
  | .mnest _ _ _ _ => 13
  | .mfmt _ _ _ => 14
  | .mspar _ => 6
  | .msparOff => 0
  | .mtree _ => 6
  | .mtreeOff => 0
  | .msel _ _ _ => 6
  | .mselOff => 0
  | .mgo _ => 1
  | .macc _ _ _ _ _ => 18
  | .mzero _ => 4
  | .mret _ _ _ _ => 12
  | .mstat _ => 6
  | .mabort => 0
  | .mrest => 0
  | .cpy _ _ _ _ _ _ => 25
  | .cpy2 _ _ _ _ _ _ => 25
  | .mwait _ => 7
  | .cflush _ _ _ => 16
  | .cinv _ _ _ => 16
  | .send _ _ _ _ => 20
  | .recv _ _ _ => 23
  | .rget _ _ _ => 12
  | .rput _ _ _ _ => 17
  | .radd _ _ _ _ _ => 20
  | .rmax _ _ _ _ _ => 20
  | .rmin _ _ _ _ _ => 20
  | .rand _ _ _ _ _ => 20
  | .ror _ _ _ _ _ => 20
  | .rcas _ _ _ _ _ _ => 26
  | .rboard _ _ _ _ => 17
  | .ralight _ _ _ => 12
  | .rcol _ _ _ => 10
  | .rcolRev _ _ => 8
  | .gpass _ _ _ _ _ => 26
  | .kvcommit _ _ _ => 16
  | .coll _ _ _ _ => 15
  | .cwait _ => 6
  | .fxcall _ _ _ _ => 22
  | .iload _ _ _ _ => 22
  | .ovpload _ _ _ => 16
  | .gcommit _ => 6
  | .dbgrd _ _ _ => 14
  | _ => 0

/-- The slot in whose map a word of the opcode table is read when nothing says its slot (the table's rows carry none): of
the slots that decode it, the one whose encoding leaves the fewest bits to fields, and of those the lowest. -/
def tableSlot (w : SlotWord) : Option (Nat × Instr) :=
  (List.range 8).foldl
    (fun best k =>
      match decodeSlot k w, best with
      | none, _ => best
      | some i, none => some (k, i)
      | some i, some (_, j) => if fieldBits i < fieldBits j then some (k, i) else best)
    none

/-- The instruction that the decoder reads from a row of opcode_table.json: a 32-bit slot word, read in the slot that
`tableSlot` gives. The table's rows are one word wide; a row without bits (nbits = 0) has no word. -/
def decodeTableWord (nbits w : Nat) : Option Instr :=
  if nbits = 0 then none
  else (tableSlot (BitVec.ofNat 32 w)).map (·.2)

/-- Word k of a bundle of 32 bytes laid out little-endian (R237). -/
def bundleWord (bytes : List Byte) (k : Nat) : SlotWord :=
  let b := fun j => bytes.getD (4 * k + j) 0
  b 3 ++ b 2 ++ b 1 ++ b 0

/-- The four bytes of a slot word, least significant first (R3). -/
def wordBytes (w : SlotWord) : List Byte :=
  [w.extractLsb' 0 8, w.extractLsb' 8 8, w.extractLsb' 16 8, w.extractLsb' 24 8]

end Sys2Proof
end

