-- ==== Sys2Proof/Machine/Regs.lean ====
section
/-! DEFINITION. Named operations on the registers of a core, on the timing table and on the operations in flight; raising a
fault. -/

namespace Sys2Proof.Machine

/-! ## Cores and their places (R105, R176, R177) -/

/-- A control core (R176): Curator A 512, Curator B 513, Conservator 514, Primer 515. -/
def Core.isControl (c : Core) : Bool := decide (512 ≤ c.id)

/-- The Curators (R242). -/
def Core.isCurator (c : Core) : Bool := c.id == 512 || c.id == 513

/-- A compute core that is running a trap handler (R229). -/
def Core.inHandler (c : Core) : Bool := !c.isControl && c.inh

/-- The canvas of a compute core (R105). -/
def canvasOf (id : Nat) : Nat := id / 128

/-- The cluster of a compute core, 16 × canvas + k (R94, R105). -/
def clusterOf (id : Nat) : Nat := id / 8

/-- The position of the roundel stop of a core: compute cores at 2(8k + s), the Curator at 1, the Conservator at 3 (R105, R176). -/
def stopOf (id : Nat) : Nat :=
  if id < 512 then 2 * (id % 128) else if id = 514 then 3 else 1

/-- All cores of the part that hold a program, the focal one first. -/
def State.cores (s : State) : List Core := s.core :: s.others

/-- The core with a number. -/
def State.coreOf (s : State) (id : Nat) : Option Core := s.cores.find? fun c => c.id == id

/-- Changing every core. -/
def State.mapCores (f : Core → Core) (s : State) : State :=
  { s with core := f s.core, others := s.others.map f }

/-- Changing the core with a number. -/
def State.onCore (id : Nat) (f : Core → Core) (s : State) : State :=
  s.mapCores fun c => if c.id = id then f c else c

/-- Changing the focal core: the core whose operation is issuing. -/
def State.upd (f : Core → Core) (s : State) : State := { s with core := f s.core }

/-- The cores of a cohort (R178). -/
def State.cohort (s : State) (coh : Nat) : List Core := s.cores.filter fun c => c.coh == coh

/-! ## Reading registers (R149, R243, R244) -/

/-- Scalar register n; s0 reads 0 (R149). -/
def Core.sreg (c : Core) (n : BitVec 6) : Word :=
  if n = 0 then 0 else c.r.s[n.toNat]'n.isLt

/-- Vector register n. -/
def Core.vreg (c : Core) (n : BitVec 5) : Vec := c.r.v[n.toNat]'n.isLt

/-- Mask register n. -/
def Core.mreg (c : Core) (n : BitVec 3) : Mask := c.r.m[n.toNat]'n.isLt

/-- Guard n; g0 reads 1 (R149). -/
def Core.greg (c : Core) (n : BitVec 3) : Bool := n == 0 || c.r.g.getLsbD n.toNat

/-- The value of a guard field (R244). -/
def Core.guardOf (c : Core) (f : BitVec 4) : Bool :=
  c.greg (f.extractLsb' 0 3) != f.getLsbD 3

/-- The guards g7…g0 as a byte, g0 reading 1. -/
def Core.guardByte (c : Core) : BitVec 8 := c.r.g ||| 1

/-! ## Writing registers -/

/-- The dirty bits of an image with line k of it dirty (R151). -/
def dirtied (lines : BitVec 64) (k : Nat) : BitVec 64 := lines ||| (1 <<< k)

/-- Writing scalar register n; a write to s0 is discarded (R145). -/
def ArchRegs.setS (r : ArchRegs) (n : BitVec 6) (x : Word) : ArchRegs :=
  if n = 0 then r else { r with s := r.s.set n.toNat x n.isLt, lines := dirtied r.lines (n.toNat / 16) }

def ArchRegs.setV (r : ArchRegs) (n : BitVec 5) (x : Vec) : ArchRegs :=
  { r with v := r.v.set n.toNat x n.isLt, lines := dirtied r.lines (32 + n.toNat) }

def ArchRegs.setM (r : ArchRegs) (n : BitVec 3) (x : Mask) : ArchRegs :=
  { r with m := r.m.set n.toNat x n.isLt, lines := dirtied r.lines 4 }

/-- Writing the guards that `mask` selects; a write to g0 is discarded (R145). -/
def ArchRegs.setG (r : ArchRegs) (mask x : BitVec 8) : ArchRegs :=
  let k := mask &&& 0xFE
  { r with g := (r.g &&& ~~~k) ||| (x &&& k), lines := dirtied r.lines 5 }

def ArchRegs.setQ (r : ArchRegs) (n : BitVec 2) (x : QReg) : ArchRegs :=
  { r with q := r.q.set n.toNat x n.isLt, lines := dirtied r.lines (6 + n.toNat / 2) }

/-- Writing landing register n: its value, and its tag and FULL. -/
def ArchRegs.setL (r : ArchRegs) (n : BitVec 2) (x : Landing) : ArchRegs :=
  { r with l := r.l.set n.toNat x n.isLt, lines := dirtied (dirtied r.lines (8 + n.toNat)) 12 }

/-- Clearing FULL of landing register n. -/
def ArchRegs.emptyL (r : ArchRegs) (n : BitVec 2) : ArchRegs :=
  { r with l := r.l.set n.toNat { r.l[n.toNat]'n.isLt with full := false } n.isLt, lines := dirtied r.lines 12 }

def ArchRegs.setTile (r : ArchRegs) (t : BitVec 3) (x : TileBits) : ArchRegs :=
  { r with tiles := r.tiles.set t.toNat x t.isLt }

def Core.qreg (c : Core) (n : BitVec 2) : QReg := c.r.q[n.toNat]'n.isLt
def Core.lreg (c : Core) (n : BitVec 2) : Landing := c.r.l[n.toNat]'n.isLt
def Core.tile (c : Core) (t : BitVec 3) : TileBits := c.r.tiles[t.toNat]'t.isLt

/-! ## The timing table (R140, R279) -/

/-- The latency of an entry in class A0; entries 29 to 63 are 0 (R140). -/
def entryA0 (e : Nat) : BitVec 16 := tableA0.getD e 0

/-- Entry e of a core's timing table. -/
def State.tableEntry (s : State) (core e : Nat) : BitVec 16 := SMap.get (entryA0 e) (64 * core + e) s.tables

/-- The 64 entries of a core's timing table. -/
def State.tableOf (s : State) (core : Nat) : List (BitVec 16) := (List.range 64).map (s.tableEntry core)

/-- The latency of an operation class on the focal core: bits 11:0 of its entry; a control core has the A0 values (R279). -/
def State.lat (s : State) (e : Nat) : Nat :=
  ((if s.core.isControl then entryA0 e else s.tableEntry s.core.id e).extractLsb' 0 12).toNat

/-! ## Operations in flight (R144, R145) -/

/-- Scheduling an effect of the operation in `slot`, for core cycle `due`. -/
def Core.at' (c : Core) (slot due : Nat) (e : Effect) : Core :=
  { c with late := c.late ++ [⟨due, c.ccy, slot, c.pc, e⟩] }

/-- Scheduling an effect `n` core cycles after issue. -/
def Core.after (c : Core) (slot n : Nat) (e : Effect) : Core := c.at' slot (c.ccy + n) e

/-! ## Faults -/

/-- A fault raised at the bundle (R227). -/
def Core.raise (c : Core) (slot : Nat) (cause : Cause) (tval : Option Word) : Core :=
  { c with faults := c.faults ++ [⟨cause, tval, slot, c.pc⟩] }

/-- A fault raised by an operation already issued, at core cycle `due`. -/
def Core.raiseAt (c : Core) (slot due : Nat) (cause : Cause) (tval : Option Word) : Core :=
  c.at' slot due (.raise ⟨cause, tval, slot, c.pc⟩)

/-- csr.tval of an ILLEGAL_OP raised at issue whose description states no contents: the word and the slot, bit 63 clear (R239). -/
def wordTval (i : Instr) : Word :=
  (encode i).setWidth 64 ||| (BitVec.ofNat 64 (slotOf i) <<< 32)

/-- The word and the slot with bit 63 set (R239, R240). -/
def decodeTval (slot : Nat) (w : SlotWord) : Word :=
  (w.setWidth 64 ||| (BitVec.ofNat 64 slot <<< 32)) ||| 0x8000000000000000

/-- An operation that raises ILLEGAL_OP at issue with its word in csr.tval. -/
def Core.illegal (c : Core) (i : Instr) : Core := c.raise (slotOf i) .illegalOp (some (wordTval i))

/-! ## Free values (log 11, DESIGN CHOICE) -/

/-- The next free value, and the state that has drawn it. -/
def State.draw (s : State) : BitVec 512 × State :=
  (Config.free s.fresh, { s with fresh := s.fresh + 1 })

/-! ## Causes (R235) -/

/-- The code of a cause. -/
def Cause.code : Cause → Nat
  | .illegalOp => 0x01 | .privilege => 0x02 | .slotProfile => 0x03 | .misaligned => 0x04
  | .extentBound => 0x10 | .extentPerm => 0x11 | .fotViolation => 0x12
  | .sealedLoad => 0x18 | .sealedCopy => 0x19 | .sealedDebug => 0x1A | .sealedPolicy => 0x1B
  | .gateDenied => 0x1C | .keygenStale => 0x1D
  | .schedLate => 0x20 | .xferTag => 0x21 | .portCollision => 0x22 | .layoutMismatch => 0x23
  | .predUnfinished => 0x24 | .timingClass => 0x25 | .stampDeviation => 0x26
  | .undoFull => 0x27 | .gateBufferFull => 0x28
  | .tileUnconfig => 0x30 | .tileShape => 0x31 | .mxFormat => 0x32 | .mxScaleShort => 0x33
  | .mxNest => 0x34 | .mxCkpt => 0x35 | .ringOwner => 0x40 | .ringState => 0x41
  | .eccImem => 0x50 | .eccSp => 0x51 | .eccReg => 0x52 | .twinMismatch => 0x53
  | .unitCondemned => 0x54 | .scall => 0x60 | .trapInsn => 0x61 | .brk => 0x62

/-- The recovery class of a cause (R235): 0 rollback, 1 handler, 2 task-fatal. PRED_UNFINISHED is the dispatcher's alone. -/
def Cause.cls : Cause → Nat
  | .schedLate | .xferTag | .portCollision | .stampDeviation | .keygenStale
  | .eccImem | .eccSp | .eccReg | .twinMismatch => 0
  | .misaligned | .extentBound | .extentPerm | .sealedLoad | .sealedCopy | .sealedDebug | .gateDenied
  | .layoutMismatch | .tileUnconfig | .tileShape | .mxFormat | .mxNest | .ringState
  | .scall | .trapInsn | .brk => 1
  | .illegalOp | .privilege | .slotProfile | .fotViolation | .sealedPolicy | .predUnfinished | .timingClass
  | .undoFull | .gateBufferFull | .mxScaleShort | .mxCkpt | .ringOwner | .unitCondemned => 2

/-- The causes that R228 never escalates (R68, R235). -/
def Cause.neverEscalates : Cause → Bool
  | .keygenStale | .twinMismatch => true
  | _ => false

/-! ## Condemned units (R127, R131, R175) -/

/-- Whether a unit of a core is condemned and no committed overpaint bypasses it. -/
def State.unitDead (s : State) (core : Nat) (unit : BitVec 16) : Bool :=
  s.condemned.any (fun x => x.1 == core && x.2 == unit) &&
    !(s.overpaints.any fun o => o.core == core && o.unit == unit && o.role != 1)

/-- The instances of the unit kinds with several instances (R127). -/
def unitCodes : Nat → List (BitVec 16)
  | 5 => (List.range 16).map fun i => BitVec.ofNat 16 (0x500 + i)
  | 6 => (List.range 16).map fun i => BitVec.ofNat 16 (0x600 + i)
  | 8 => (List.range 4).map fun i => BitVec.ofNat 16 (0x800 + i)
  | k => [BitVec.ofNat 16 (0x100 * k)]

/-- Whether an operation of the focal core would be issued to a condemned unit of the kind (R131). -/
def State.dead (s : State) (kind : Nat) : Bool :=
  !s.condemned.isEmpty && (unitCodes kind).any (s.unitDead s.core.id)

/-- The unit kind that runs the operations of a slot (R127, R143). -/
def unitOfSlot : Nat → Nat
  | 0 => 1 | 1 => 3 | 2 => 4 | 3 => 5 | 4 => 6 | 5 => 7 | 6 => 8 | _ => 9

/-- The unit kinds that an operation is issued to: a ring operation to the transfer engine and to the roundel stop (R127, R131, R174). -/
def unitsOf (i : Instr) : List Nat :=
  match i with
  | .rget .. | .rput .. | .radd .. | .rmax .. | .rmin .. | .rand .. | .ror .. | .rcas .. | .rboard .. | .ralight .. => [9, 12]
  | i => [unitOfSlot (slotOf i)]

end Sys2Proof.Machine
end

