-- ==== Sys2Proof/Machine/Sources.lean ====
section
/-! DEFINITION. The registers that an instruction reads at its issue, and the faults that an error detected before takes at the first
read of its word, or at the next result of its unit (R139, R163). -/

namespace Sys2Proof.Machine

/-! ## What an instruction reads at issue (R243-R247) -/

/-- Scalar registers as words of the register file; s0 holds none. -/
def scalarWords (l : List (BitVec 6)) : List RegWord := (l.filter (· != 0)).map .s

/-- The guards' word, where a guard field names another guard than g0. -/
def guardWord (f : BitVec 4) : List RegWord := if f.extractLsb' 0 3 = 0 then [] else [.g]

/-- The word of a CSR that lies in the register file (R150, R268). -/
def csrWord (n : BitVec 12) : List RegWord :=
  match n.toNat with
  | 0x010 => [.g]
  | 0x011 => [.mxc]
  | 0x020 => [.tshape]
  | _ => []

/-- The mask of a masked store. -/
def maskWord (g : BitVec 1) (m : BitVec 3) : List RegWord := if g = 0 then [] else [.m m]

/-- The words of the register file that an instruction of a slot reads. -/
def sources : Instr → List RegWord
  | .jmpr a | .loopr a _ | .wgcy a => scalarWords [a]
  | .ret => scalarWords [62]
  | .br g _ | .lbrk g => guardWord g
  | .add _ a b | .sub _ a b | .and _ a b | .or _ a b | .xor _ a b | .andn _ a b | .orn _ a b | .shl _ a b | .shr _ a b | .sra _ a b
  | .rotl _ a b | .rotr _ a b | .slt _ a b | .sltu _ a b | .seq _ a b | .sne _ a b | .min _ a b | .max _ a b | .minu _ a b
  | .maxu _ a b | .mul _ a b | .mulh _ a b | .mulhu _ a b | .div _ a b | .divu _ a b | .rem _ a b | .remu _ a b | .bext _ a b
  | .bdep _ a b | .gset _ a b _ | .fadd _ a b _ | .fsub _ a b _ | .fmul _ a b _ | .fdiv _ a b _ | .fmin _ a b _ | .fmax _ a b _
  | .fcmp _ a b _ _ => scalarWords [a, b]
  | .clz _ a | .ctz _ a | .popc _ a | .addi _ a _ | .andi _ a _ | .ori _ a _ | .xori _ a _ | .slti _ a _ | .shli _ a _ | .shri _ a _
  | .srai _ a _ | .gmovToGuards a | .fsqrt _ a _ | .fcvt _ a _ _ | .fclass _ a _ | .csrw a _ => scalarWords [a]
  | .csrr _ n => csrWord n
  | .csrs a n | .csrc a n => scalarWords [a] ++ csrWord n
  | .sel _ a b g => scalarWords [a, b] ++ guardWord g
  | .glog _ a b _ => guardWord a ++ guardWord b
  | .gmovToScalar _ => [.g]
  | .fmadd _ a b c _ => scalarWords [a, b, c]
  | .ldB _ _ x _ | .ldBz _ _ x _ | .ldH _ _ x _ | .ldHz _ _ x _ | .ldW _ _ x _ | .ldWz _ _ x _ | .ldD _ _ x _ => scalarWords [x]
  | .stB v _ x g _ | .stH v _ x g _ | .stW v _ x g _ | .stD v _ x g _ => scalarWords [v, x] ++ guardWord g
  | .aadd _ x v g | .aand _ x v g | .aor _ x v g | .axor _ x v g | .amin _ x v g | .amax _ x v g | .aminu _ x v g | .amaxu _ x v g
  | .aswap _ x v g => scalarWords [x, v] ++ guardWord g
  | .acas d x n g => scalarWords [d, x, n] ++ guardWord g
  | .vadd _ a b _ | .vsub _ a b _ | .vmul _ a b _ | .vmin _ a b _ | .vmax _ a b _ | .vand _ a b _ | .vor _ a b _ | .vxor _ a b _
  | .vshl _ a b _ | .vshr _ a b _ | .vsra _ a b _ | .vcmpeq _ a b _ | .vcmplt _ a b _ | .vcmple _ a b _ | .vdiv _ a b _
  | .vperm _ a b _ | .vpack _ a b _ _ _ | .vrnd _ a b _ | .vbVadd _ a b _ | .vbVmul _ a b _ => [.v a, .v b]
  | .vfma _ a b _ c | .vfms _ a b _ c | .vbVfma _ a b _ c => [.v a, .v b, .v c]
  | .vabs _ a _ | .vneg _ a _ | .vnot _ a _ | .vmov _ a | .vext _ a _ _ | .vcvt _ a _ _ | .vexp _ a _ | .vexp2 _ a _ | .vlog2 _ a _
  | .vrcp _ a _ | .vrsqrt _ a _ | .vsqrt _ a _ | .vtanh _ a _ | .vsigm _ a _ | .vredsum _ a _ | .vredmax _ a _ | .vredmin _ a _
  | .vscan _ a _ | .vsortk _ a _ _ | .vrotl _ a _ _ | .vunpack _ a _ _ _ _ | .fxcall _ a _ _ => [.v a]
  | .vins d a _ _ => [.v d, .v a]
  | .vsel _ a b _ m => [.v a, .v b, .m m]
  | .mand _ a b | .mor _ a b | .mxor _ a b => [.m a, .m b]
  | .mnot _ a | .mpop a _ | .mfirst a _ => [.m a]
  | .vld _ _ x _ _ | .vldb _ _ x _ _ _ | .tsave _ _ x | .trest _ _ x => scalarWords [x]
  | .tld _ _ x _ | .tst _ _ x _ => .tshape :: scalarWords [x]
  | .vst v _ x _ g m _ => .v v :: scalarWords [x] ++ maskWord g m
  | .vlds _ _ x _ _ => scalarWords [x, x + 1]
  | .vsts v _ x _ g m _ => .v v :: scalarWords [x, x + 1] ++ maskWord g m
  | .vgath _ _ x _ b => .v b :: scalarWords [x]
  | .vscat v _ x _ g m b => [.v v, .v b] ++ scalarWords [x] ++ maskWord g m
  | .tvrow v _ _ _ | .tvcol v _ _ _ => [.v v, .tshape]
  | .trowv _ _ _ _ | .tcolv _ _ _ _ | .tzero _ => [.tshape]
  | .mnest _ _ _ a | .mfmt _ _ a | .mspar a | .mtree a | .macc _ _ a _ _ | .mret _ a _ _ | .mstat a => scalarWords [a]
  | .cpy _ _ l x n _ => scalarWords [l, x, n]
  | .cpy2 _ _ l x n _ => scalarWords [l, x, n, n + 1]
  | .cflush _ x n | .cinv _ x n => scalarWords [x, n]
  | .send _ a _ t => .v a :: scalarWords [t]
  | .recv l _ _ => [.l l]
  | .rput _ _ v _ | .rboard _ _ v _ => [.v v]
  | .radd _ _ o _ _ | .rmax _ _ o _ _ | .rmin _ _ o _ _ | .rand _ _ o _ _ | .ror _ _ o _ _ => scalarWords [o]
  | .rcas _ _ o _ c _ => scalarWords [o, c]
  | .rcol _ q _ | .rcolRev _ q => [.q q]
  | .gpass _ _ o p n => scalarWords [o, p, n]
  | .kvcommit _ p n => scalarWords [p, n]
  | .coll _ p _ _ => scalarWords [p]
  | .iload _ x c n => scalarWords [x, c, n]
  | .ovpload _ x c => scalarWords [x, c]
  | .gcommit c => scalarWords [c]
  | .dbgrd _ w _ => scalarWords [w]
  | _ => []

/-! ## Words with an error (R163) -/

/-- The fault of the first read of a word of the registers, the tile file, the accumulators or the B buffer that meets a test, where one
of these is bad. -/
def Core.badReg (c : Core) (p : RegWord → Bool) : Option (Cause × Option Word) :=
  c.bad.findSome? fun x => match x with
    | .register w off => if p w then some (.eccReg, some (BitVec.ofNat 64 off)) else none
    | _ => none

/-- The fault of the first read of bytes of the scratchpad, at their physical places, where a word of them is bad. -/
def Core.badWord (c : Core) (places : List Nat) : Option (Cause × Option Word) :=
  if c.bad.isEmpty then none
  else (places.find? fun o => c.bad.contains (.scratchpad (8 * (o / 8)))).map fun o => (.eccSp, some (BitVec.ofNat 64 (8 * (o / 8))))

/-- The bad word of IMEM that the bundle at a PC holds, if one does. -/
def Core.badBundle (c : Core) (pc : Nat) : Option Nat :=
  c.bad.findSome? fun x => match x with
    | .imem off => if off / 32 = pc / 32 then some off else none
    | _ => none

/-- The words that meet a test have been written whole: they are bad no more. -/
def Core.mend (c : Core) (p : ErrorPlace → Bool) : Core :=
  if c.bad.isEmpty then c else { c with bad := c.bad.filter fun x => !p x }

/-- The same for the words of a register. -/
def Core.mendReg (c : Core) (p : RegWord → Bool) : Core :=
  c.mend fun x => match x with
    | .register w _ => p w
    | _ => false

/-- The words of the scratchpad that some bytes cover whole are bad no more. -/
def Core.mendBytes (c : Core) (bytes : List (Nat × Byte)) : Core :=
  c.mend fun x => match x with
    | .scratchpad off => (List.range 8).all fun k => bytes.any fun b => b.1 == off + k
    | _ => false

/-! ## At issue -/

/-- Whether a unit whose twin differs makes the next result of an operation: a converter makes that of `fxcall` (R139, R375). -/
def twinMakes (i : Instr) (u : BitVec 16) : Bool :=
  (unitsOf i).contains (u.toNat / 256) || match i with
    | .fxcall _ _ ident _ => u.toNat == 0x2000 + ident.toNat
    | _ => false

/-- The fault that an error detected before takes at an operation: ECC_REG where it reads a bad word; TWIN_MISMATCH where its unit is a twin
whose instances differ in their next result, which is the operation's (R139, R163; log 73, DEDUCED). -/
def Core.strikes (c : Core) (i : Instr) : Option (Cause × Option Word) :=
  match c.badReg fun w => (sources i).contains w with
  | some f => some f
  | none => if c.twin.any (twinMakes i) then some (.twinMismatch, none) else none

/-- Taking that fault. -/
def Core.struck (c : Core) (slot : Nat) (f : Cause × Option Word) : Core :=
  { c.raise slot f.1 f.2 with twin := if f.1 = .twinMismatch then none else c.twin }

/-- An operation: where an error strikes it, or a unit of it is condemned without a bypass (R131), the fault at its bundle; else its
effect. -/
def State.issue (i : Instr) (f : State → State) (s : State) : State :=
  if (unitsOf i).any s.dead then s.upd fun c => c.raise (slotOf i) .unitCondemned none
  else
    match s.core.strikes i with
    | some x => s.upd fun c => c.struck (slotOf i) x
    | none => f s

end Sys2Proof.Machine
end

