-- ==== Sys2Proof/Machine/Ports.lean ====
section
/-! DEFINITION. The scratchpad: layouts, banks and ports, atomic windows, the undo log and plate tags (R157-R167, R220). -/

namespace Sys2Proof.Machine

/-! ## Places (R157, R167) -/

/-- The bank row, counted over all banks, of a scratchpad offset: 128 bytes. -/
def rowOf (a : Nat) : Nat := a / 128

/-- The bank of a scratchpad offset (R157). -/
def bankOf (a : Nat) : Nat := (a / 128) % 32

/-- The plate of a scratchpad offset (R157, R269). -/
def plateOf (a : Nat) : Nat := a / 4096

/-- The physical place of a logical scratchpad offset under a layout code (R167). -/
def physOf (layout a : Nat) : Nat :=
  let plate := a / 4096
  let r := (a / 128) % 32
  let k := (a / 16) % 8
  let r' := if layout = 3 then 2 * (r % 16) + r / 16 else r
  let k' := if layout = 1 then k ^^^ (r % 4) else if layout = 2 then k ^^^ (r % 8) else k
  4096 * plate + 128 * r' + 16 * k' + a % 16

/-- The physical places of `n` consecutive logical bytes. -/
def physRange (layout a n : Nat) : List Nat := (List.range n).map fun i => physOf layout (a + i)

/-- The bytes at physical places. -/
def Core.lclAt (c : Core) (places : List Nat) : List Byte := places.map c.lcl.read

/-- The distinct values of a list, in order of first appearance. -/
def distinct (l : List Nat) : List Nat :=
  l.foldl (fun acc x => if acc.contains x then acc else acc ++ [x]) []

/-- The size of `lcl` (R176, R270). -/
def Core.lclSize (c : Core) : Nat := if c.isControl then 262144 else 524288

/-! ## Ports (R158-R160) -/

/-- csr.tval of a scratchpad port collision (R158). -/
def portTval (port : Port) (bank : Nat) : Word :=
  let p := match port with | .S => 0 | .M => 1 | .W => 2 | .C => 3 | .F => 4
  BitVec.ofNat 64 (2 ^ 63 + 256 * p + bank)

/-- Whether an atomic window holds ports S and M of a bank at a core cycle (R159). -/
def Core.inWindow (c : Core) (bank at' : Nat) : Bool :=
  c.windows.any fun w => w.1 == bank && decide (w.2 ≤ at') && decide (at' < w.2 + 3)

/-- The first bank of those that a port-S access would use at a core cycle that a window or an earlier access holds: one of port S, or for
a rank of a sweep one of port M too (R158, R159, R325). -/
def Core.busyBank (c : Core) (sweep : Bool) (at' : Nat) (banks : List Nat) : Option Nat :=
  banks.find? fun b =>
    c.inWindow b at' || c.uses.any fun u => (u.port == .S || sweep && u.port == .M) && u.bank == b && u.ccy == at'

/-- Recording that an operation issued at `issued` uses a port of banks at a core cycle. -/
def Core.usePort (c : Core) (port : Port) (slot issued at' : Nat) (sweep : Bool) (banks : List Nat) : Core :=
  { c with uses := c.uses ++ banks.map fun b => ⟨port, b, at', issued, slot, sweep⟩ }

/-- A port-S access at core cycle `at'`, which may be a rank of a sweep: where a bank is held, the operation takes PORT_COLLISION at that
core cycle and does not perform (R158, R159, R325); else its use is recorded and `f` schedules what it does. -/
def Core.portAccess (c : Core) (sweep : Bool) (slot at' : Nat) (places : List Nat) (f : Core → Core) : Core :=
  let banks := distinct (places.map bankOf)
  match c.busyBank sweep at' banks with
  | some b => c.raiseAt slot at' .portCollision (some (portTval .S b))
  | none => f (c.usePort .S slot c.ccy at' sweep banks)

/-- A port-S access that is no sweep. -/
def Core.portS (c : Core) (slot at' : Nat) (places : List Nat) (f : Core → Core) : Core := c.portAccess false slot at' places f

/-- The rank of a sweep that uses a bank of an access through port M at a core cycle, if one does (R325). -/
def Core.sweepAt (c : Core) (at' : Nat) (places : List Nat) : Option PortUse :=
  let banks := distinct (places.map bankOf)
  c.uses.find? fun u => u.sweep && u.ccy == at' && banks.contains u.bank

/-- A rank of a sweep that loses its bank to an access issued earlier: it does not perform, and its operation takes PORT_COLLISION now. -/
def Core.loseRank (c : Core) (u : PortUse) : Core :=
  let mine := fun (l : Late) => l.issued == u.issued && l.slot == u.slot && l.due == u.ccy
  let pc := ((c.late.find? fun l => l.issued == u.issued && l.slot == u.slot).map (·.pc)).getD c.pc
  { c with
    uses := c.uses.filter fun x => x != u
    late := c.late.filter fun l => !(mine l && match l.eff with
      | .sweepRead .. | .store .. => true
      | _ => false)
    faults := c.faults ++ [⟨.portCollision, some (portTval .S u.bank), u.slot, pc⟩] }

/-- A use of port M at the present core cycle by an operation issued at `op`: the bank that a window or a rank of a sweep of an
operation issued no later holds against it, where there is one (R158, R159, R325). -/
def Core.heldM (c : Core) (op : Nat) (places : List Nat) : Option Nat :=
  match (distinct (places.map bankOf)).find? fun b => c.inWindow b c.ccy with
  | some b => some b
  | none => match c.sweepAt c.ccy places with
    | some u => if u.issued ≤ op then some u.bank else none
    | none => none

/-- The core with that use made: a rank of a sweep issued later loses its bank. -/
def Core.useM (c : Core) (slot op : Nat) (places : List Nat) : Core :=
  (match c.sweepAt c.ccy places with
    | some u => c.loseRank u
    | none => c).usePort .M slot op c.ccy false (distinct (places.map bankOf))

/-- Taking an atomic window on a bank (R159): accesses of operations already issued that fall inside it do not perform, and
take PORT_COLLISION at their core cycle. -/
def Core.openWindow (c : Core) (bank start : Nat) : Core :=
  let hit := fun (u : PortUse) =>
    (u.port == .S || u.port == .M) && u.bank == bank && decide (start ≤ u.ccy) && decide (u.ccy < start + 3)
  let losers := c.uses.filter hit
  let lost := fun (l : Late) => losers.any fun u =>
    u.issued == l.issued && u.slot == l.slot && (match l.eff with
      | .store .. | .sweepRead .. | .vreg .. | .sreg .. | .tile .. => true
      | _ => false)
  let pcOf := fun (u : PortUse) =>
    ((c.late.find? fun l => l.issued == u.issued && l.slot == u.slot).map (·.pc)).getD c.pc
  let raises := losers.map fun u =>
    (⟨u.ccy, u.issued, u.slot, pcOf u, .raise ⟨.portCollision, some (portTval u.port bank), u.slot, pcOf u⟩⟩ : Late)
  { c with
    windows := c.windows ++ [(bank, start)]
    uses := c.uses.filter fun u => !hit u
    late := (c.late.filter fun l => !lost l) ++ raises }

/-- Whether a lock holds a bank against port C at a core cycle (R160). -/
def Core.locked (c : Core) (bank at' : Nat) : Bool :=
  match c.lock with
  | some (pairs, last) => pairs.getLsbD (bank / 2) && decide (at' ≤ last)
  | none => false

/-! ## The undo log (R220) -/

/-- Whether writes are recorded: not on a control core, and not by a trap handler (R220, R236). -/
def Core.undoable (c : Core) : Bool := !c.isControl && !c.inh

/-- The rows that have an entry or a reservation. -/
def Core.undoRows (c : Core) : List Nat :=
  c.undo.map (·.1) ++ c.reserved.filter fun r => !(c.undo.any fun u => u.1 == r)

/-- Reserving entries for the rows an operation will write: the row that would need a 65th entry, or the core with them
reserved. -/
def Core.reserve (c : Core) (rows : List Nat) : Except Nat Core :=
  if !c.undoable then .ok c
  else
    let have' := c.undoRows
    let fresh := (distinct rows).filter fun r => !have'.contains r
    match fresh.drop (64 - have'.length) with
    | r :: _ => .error r
    | [] => .ok { c with reserved := c.reserved ++ fresh }

/-- Recording the previous bytes of a row before its first write since the checkpoint. -/
def Core.recordRow (c : Core) (row : Nat) : Core :=
  if c.undoable && !(c.undo.any fun u => u.1 == row) then
    { c with undo := c.undo ++ [(row, c.lcl.readBytes (128 * row) 128)] }
  else c

/-- A write of bytes at physical places that performs now. -/
def Core.storeLcl (c : Core) (bytes : List (Nat × Byte)) : Core :=
  let c' := (distinct (bytes.map fun b => rowOf b.1)).foldl Core.recordRow c
  Core.mendBytes { c' with lcl := c'.lcl.writeCells bytes } bytes

/-- Changing the bytes that a row's undo entry holds. -/
def patchRow (row : Nat) (old : List Byte) (bytes : List (Nat × Byte)) : List Byte :=
  bytes.foldl (fun acc b => if rowOf b.1 = row then acc.set (b.1 % 128) b.2 else acc) old

/-- A port-C write of a copy issued before the checkpoint: no entry is taken, and entries of its rows take the bytes too. -/
def Core.storeOlder (c : Core) (bytes : List (Nat × Byte)) : Core :=
  Core.mendBytes { c with
    lcl := c.lcl.writeCells bytes
    undo := c.undo.map fun u => (u.1, patchRow u.1 u.2 bytes) } bytes

/-! ## Plate tags (R164-R166) -/

/-- The tag of a plate. -/
def Core.plate (c : Core) (p : Nat) : PlateTag := SMap.get PlateTag.reset p c.plates

/-- Changing the tag of a plate. -/
def Core.setPlate (c : Core) (p : Nat) (t : PlateTag) : Core :=
  { c with plates := SMap.put PlateTag.reset p t c.plates }

/-- The tag word that `dbgrd` returns (R164). -/
def PlateTag.word (t : PlateTag) : Word :=
  BitVec.ofNat 64 (t.expSeq.toNat + 2 ^ 16 * t.actSeq.toNat + 2 ^ 32 * t.layout.toNat + 2 ^ 36 * t.checked.toNat
    + 2 ^ 37 * t.poison.toNat + 2 ^ 38 * t.refused.toNat + 2 ^ 39 * t.sealed.toNat)

/-- The first of some offsets that lies in a sealed plate (R80). -/
def Core.sealedOff (c : Core) (offs : List Nat) : Option Nat :=
  offs.find? fun o => (c.plate (plateOf o)).sealed

/-- The check of one plate at a read that states a layout, or none (R166). -/
def Core.plateFault (c : Core) (layout : Option Nat) (p : Nat) : Option (Cause × Option Word) :=
  let t := c.plate p
  if !t.checked && t.refused then some (.fotViolation, some (BitVec.ofNat 64 t.badFrame))
  else if !t.checked && t.actSeq != t.expSeq then some (.schedLate, some (BitVec.ofNat 64 p))
  else if !t.checked && t.poison then some (.eccSp, some (BitVec.ofNat 64 t.badUnit))
  else
    match layout with
    | some l => if l ≠ t.layout.toNat then some (.layoutMismatch, none) else none
    | none => none

/-- The checks of plates that a read touches, in order; a read that passes sets CHECKED in each (R166), which is noted until the core cycle
ends (R379). -/
def Core.checkPlates (c : Core) (layout : Option Nat) (plates : List Nat) : Except (Cause × Option Word) Core :=
  match plates.findSome? (c.plateFault layout) with
  | some f => .error f
  | none => .ok (plates.foldl (fun (d : Core) p =>
      let t := d.plate p
      { d.setPlate p { t with checked := true } with checkedNow := if t.checked then d.checkedNow else p :: d.checkedNow }) c)

/-- The checks of a read of bytes at physical places: of their plates, then of bad words (R163, R166). -/
def Core.readPlates (c : Core) (layout : Option Nat) (places : List Nat) : Except (Cause × Option Word) Core :=
  match c.checkPlates layout (distinct (places.map plateOf)), c.badWord places with
  | .error f, _ => .error f
  | .ok _, some f => .error f
  | .ok d, none => .ok d

/-! ## Extents (R149, R247, R270) -/

/-- What an access does, for the permission it needs. -/
inductive AccessKind where
  | load | store | both
deriving DecidableEq, Repr

/-- The declared extent of a number. -/
def Core.extent (c : Core) (e : BitVec 4) : Option Extent := c.exts.find? fun x => x.num == e.toNat

/-- Whether a range of `lcl` touches an image region that the mode closes (R152). -/
def Core.touchesImage (c : Core) (off len : Nat) : Bool :=
  let hits := fun (b : Nat) => decide (off < b + 16384) && decide (b < off + len)
  match c.mode with
  | .task => hits c.r.rsb || hits c.r.rsbalt
  | .service => hits c.r.rsb
  | .control => false

/-- The checks of ext_access on `lcl` (R270): the first that fails, with csr.tval = off. -/
def Core.lclFault (c : Core) (off len align : Nat) : Option (Cause × Option Word) :=
  let v := some (BitVec.ofNat 64 off)
  if c.lclSize < off + len then some (.extentBound, v)
  else if c.touchesImage off len then some (.extentPerm, v)
  else if off % align ≠ 0 then some (.misaligned, v)
  else none

/-- The permission an extent must carry for a kind of access. -/
def Extent.permits (x : Extent) : AccessKind → Bool
  | .load => x.r
  | .store => x.w
  | .both => x.r && x.w

/-- The checks of ext_access on an extent (R270); `accepts` is the instruction's own condition on the extent (R247). -/
def Core.extFault (c : Core) (e : BitVec 4) (off len align : Nat) (kind : AccessKind) (accepts : Extent → Bool) :
    Option (Cause × Option Word) :=
  let v := some (BitVec.ofNat 64 off)
  match c.extent e with
  | none => some (.extentBound, v)
  | some x =>
    if x.length < off + len then some (.extentBound, v)
    else if !(x.permits kind) || !(accepts x) then some (.extentPerm, v)
    else if off % align ≠ 0 then some (.misaligned, v)
    else none

/-- The effective offset of a memory operand: s_x plus the scaled immediate, modulo 2^64 (R247). -/
def Core.offset (c : Core) (x : BitVec 6) (imm : Nat) : Nat := (c.sreg x + BitVec.ofNat 64 imm).toNat

/-- The address that byte `off` of an extent lies at: in the pinned run that covers it (R110). -/
def Extent.address (x : Extent) (off : Nat) : Nat :=
  match x.runs.find? fun r => decide (r.1 ≤ off) && decide (off < r.1 + r.2.2) with
  | some r => r.2.1 + (off - r.1)
  | none => 0

/-- The key that the bank port uses for an extent (R64, R84). -/
def Extent.key (x : Extent) (control : Bool) : MemKey :=
  if control then .curator else .comp x.world x.comp x.gen

end Sys2Proof.Machine
end

