-- ==== Sys2Proof/Machine/L2.lean ====
section
/-! DEFINITION. HBM, the frame ownership table and the L2 of a cluster: lookup, fill, victim, writeback (R83-R102). -/

namespace Sys2Proof.Machine

/-! ## HBM (R83-R85) -/

/-- The first of the 96 FOT frames (R98). -/
def fotFirst : Nat := 6291360

/-- The owner byte of a frame: the FOT frames belong to the Curator, every other unlisted frame is in SCRUB (R98, R103). A number from 6,291,456
on, which names no frame, reads as the FOT frames do (R99; log 86, DESIGN CHOICE). -/
def State.owner (s : State) (frame : Nat) : BitVec 8 :=
  if fotFirst ≤ frame then 0xFD else SMap.get 0xFE frame s.fot

/-- The frame of a line index (R83, R86). -/
def frameOfLine (index : Nat) : Nat := index / 512

/-- The stack that holds a line (R83). -/
def stackOfLine (index : Nat) : Nat := index / (48 * 2 ^ 23)

/-- 128 bytes as the value of a line, lowest address in the low bits. -/
def lineOf (bs : List Byte) : Vec := BitVec.ofNat 1024 (leNat bs)

/-- The bytes of a line. -/
def lineBytes (x : Vec) : List Byte := leBytes 128 x.toNat

/-- Byte k of a line. -/
def lineByte (x : Vec) (k : Nat) : Byte := x.extractLsb' (8 * k) 8

/-- A line with byte k replaced. -/
def setLineByte (x : Vec) (k : Nat) (b : Byte) : Vec :=
  (x &&& ~~~((0xFF : Vec) <<< (8 * k))) ||| (b.setWidth 1024 <<< (8 * k))

/-- Whether an extent has a run in an HBM stack. -/
def Extent.inStack (x : Extent) (n : Nat) : Bool :=
  x.backing != .host && x.runs.any fun r =>
    decide (stackOfLine (r.2.1 / 128) ≤ n) && decide (n ≤ stackOfLine ((r.2.1 + r.2.2 - 1) / 128))

/-! ## Memory encryption (R64, R84, R85) -/

/-- A world, if it exists. -/
def State.world (s : State) (w : Nat) : Option World := (s.worlds.find? fun x => x.1 == w).map (·.2)

/-- The world key of a generation (R64). -/
def State.worldKey (s : State) (w gen : Nat) : List Byte := ((s.world w).map fun x => SMap.get [] gen x.keys).getD []

/-- The key pair of the outer layer (R64, R84). -/
def State.keyPair (s : State) : MemKey → List Byte
  | .comp w c gen => hkdfExpand (s.worldKey w gen) [BitVec.ofNat 8 c] 64
  | .curator => s.curatorKey
  | .null => List.replicate 64 0

/-- The GMAC key (R84); those of the Curator key and of the null key are derived as for compartment 0 (log 9, DEDUCED). -/
def State.tagKey (s : State) : MemKey → List Byte
  | .comp w c gen => hkdfExpand (s.worldKey w gen) [BitVec.ofNat 8 (0x80 + c)] 32
  | .curator => hkdfExpand s.curatorKey [0x80] 32
  | .null => hkdfExpand (List.replicate 64 0) [0x80] 32

/-- The generation in the IV of a tag (R84); 0 for the Curator key and the null key (log 9, DEDUCED). -/
def MemKey.gen : MemKey → Nat
  | .comp _ _ gen => gen
  | _ => 0

/-- The first 8 B of the GMAC of a ciphertext at a line index (R84). -/
def tagWith (key : List Byte) (index gen : Nat) (cipher : List Byte) : Word :=
  BitVec.ofNat 64 (leNat ((gmac key (leBytes 8 index ++ leBytes 2 gen ++ [0, 0]) cipher).take 8))

/-- The tag of a ciphertext under a key. -/
def State.tagOf (s : State) (key : MemKey) (index : Nat) (cipher : List Byte) : Word := tagWith (s.tagKey key) index key.gen cipher

/-- The blank line of a DPA and its tag (R85). -/
def blankLine (index : Nat) : List Byte := xtsEncrypt (List.replicate 64 0) index (List.replicate 128 0)
def blankTag (index : Nat) : Word := tagWith (hkdfExpand (List.replicate 64 0) [0x80] 32) index 0 (blankLine index)

/-- A data unit under a key: its ciphertext and its tag. -/
def State.encrypted (s : State) (key : MemKey) (index : Nat) (x : Vec) : Vec × Word :=
  let cipher := xtsEncrypt (s.keyPair key) index (lineBytes x)
  (lineOf cipher, s.tagOf key index cipher)

/-- The data of a ciphertext under a key, at the bank port. -/
def State.decrypted (s : State) (key : MemKey) (index : Nat) (cipher : Vec) : Vec :=
  lineOf (xtsDecrypt (s.keyPair key) index (lineBytes cipher))

/-- The ciphertext and the tag that HBM holds at an index: what is listed is the difference from the blank line. -/
def State.hbmCipher (s : State) (index : Nat) : List Byte :=
  xorBytes ((s.hbm.window (128 * index) 128 0).readBytes 0 128) (blankLine index)
def State.hbmTag (s : State) (index : Nat) : Word := SMap.get 0 index s.hbmTags ^^^ blankTag index

/-- Whether HBM holds the blank line at an index, with its tag. -/
def State.hbmBlank (s : State) (index : Nat) : Bool :=
  (s.hbm.window (128 * index) 128 0).isEmpty && SMap.get 0 index s.hbmTags == 0

/-- What a read of HBM under a key delivers: the data where the tag matches, zeros for the blank line, none (poison) where the
tag differs (R85). -/
def State.hbmRead (s : State) (index : Nat) (key : MemKey) : Option Vec :=
  let cipher := s.hbmCipher index
  if s.tagOf key index cipher = s.hbmTag index then some (s.decrypted key index (lineOf cipher))
  else if s.hbmBlank index then some 0
  else none

/-- A ciphertext with its tag put into HBM. -/
def State.hbmPut (s : State) (index : Nat) (cipher : Vec) (tag : Word) : State :=
  { s with
    hbm := s.hbm.writeBytes (128 * index) (xorBytes (lineBytes cipher) (blankLine index))
    hbmTags := SMap.put 0 index (tag ^^^ blankTag index) s.hbmTags }

/-- Writing a data unit to HBM under a key. -/
def State.hbmWrite (s : State) (index : Nat) (key : MemKey) (x : Vec) : State :=
  let e := s.encrypted key index x
  s.hbmPut index e.1 e.2

/-- Whether a stack has failed its training, so that its frames give poison (R104). -/
def State.badStack (s : State) (index : Nat) : Bool := s.stackBad.getLsbD (stackOfLine index)

/-- What a read of a data unit delivers: poison from a stack that has failed its training, else what HBM holds (R85, R104). -/
def State.unitRead (s : State) (index : Nat) (key : MemKey) : Option Vec := if s.badStack index then none else s.hbmRead index key

/-- Whether a stack is in training: what needs it waits (R104). -/
def State.inTraining (s : State) (index : Nat) : Bool := s.training.getLsbD (stackOfLine index)

/-- The bytes at some addresses, each with its place; the first data unit that delivers poison instead, where there is one (R85). -/
def State.hbmBytes (s : State) (key : MemKey) (moves : List (Nat × Nat)) : Except Nat (List (Nat × Byte)) :=
  let units := (distinct (moves.map fun m => m.1 / 128)).map fun i => (i, s.unitRead i key)
  match units.find? fun u => u.2.isNone with
  | some u => .error u.1
  | none => .ok (moves.map fun m => (m.2, lineByte ((SMap.get none (m.1 / 128) units).getD 0) (m.1 % 128)))

/-- Writing bytes straight to HBM (an NC extent, R363): the rest of each data unit keeps what the key reads. -/
def State.hbmStore (s : State) (key : MemKey) (bytes : List (Nat × Byte)) : State :=
  (distinct (bytes.map fun b => b.1 / 128)).foldl (fun t i =>
    t.hbmWrite i key (bytes.foldl (fun x b => if b.1 / 128 = i then setLineByte x (b.1 % 128) b.2 else x)
      ((t.hbmRead i key).getD 0))) s

/-! ## Error records (R128, R129) -/

/-- The bytes of an error record (R128). -/
def errorRecord (gcy core unit kind detail : Nat) (info : Word) : List Byte :=
  leBytes 8 gcy ++ leBytes 2 core ++ leBytes 2 unit ++ leBytes 1 kind ++ leBytes 1 detail ++ leBytes 2 0
    ++ leBytes 8 info.toNat ++ leBytes 8 0

/-- CORESTATE of a core (R133). -/
def State.cs (s : State) (core : Nat) : CoreState := SMap.get CoreState.reset core s.cstate

def State.setCs (s : State) (core : Nat) (x : CoreState) : State :=
  { s with cstate := SMap.put CoreState.reset core x s.cstate }

/-- Free places of the error ring (R129). -/
def State.errFree (s : State) : Nat := 511 - (s.errTail - s.errHead).toNat

/-- Reporting an error: the record is written into the ring, or is discarded and counted (R129). -/
def State.report (s : State) (core unit kind detail : Nat) (info : Word) : State :=
  let admitted := if kind = 1 then decide (64 < s.errFree) else decide (0 < s.errFree)
  if admitted then
    { s with
      errRing := SMap.put [] s.errTail.toNat (errorRecord s.time.gcy core unit kind detail info) s.errRing
      errTail := s.errTail + 1 }
  else
    let t := { s with
      errLost := if s.errLost = 0xFFFF then s.errLost else s.errLost + 1
      errOverflow := s.errOverflow || kind != 1 }
    if core < 512 then t.setCs core { t.cs core with errsum := true } else t

/-- Reporting an error for whose source the spec states no contents of INFO: a free value (R128, log 11, DESIGN CHOICE). -/
def State.reportFree (s : State) (core unit kind detail : Nat) : State :=
  let (x, t) := s.draw
  t.report core unit kind detail (x.extractLsb' 0 64)

/-- The record of an HBM event (R85): UNIT 0xF000 + the stack, the DPA in INFO. -/
def State.reportUnit (kind index : Nat) (s : State) : State :=
  s.report 0xFFFF (0xF000 + stackOfLine index) kind 0 (BitVec.ofNat 64 (128 * index))

/-- The record of a data unit that delivers poison: KIND 2 from a stack that has failed its training, KIND 11 where the tag differs. -/
def State.reportPoison (index : Nat) (s : State) : State := s.reportUnit (if s.badStack index then 2 else 11) index

/-! ## Places in a cluster's L2 (R86, R95) -/

/-- L2COL of a cluster (R96). -/
def State.col (s : State) (cluster : Nat) : L2Col := SMap.get ⟨false, 0, none⟩ cluster s.l2col

/-- Whether the column of a line is switched off, so that the line folds onto the partner column (R95). -/
def State.folded (s : State) (cluster index : Nat) : Bool := (s.col cluster).off.getLsbD (index % 4)

/-- The slice of a line: 4 × column + row (R86, R95). -/
def State.sliceOf (s : State) (cluster index : Nat) : Nat :=
  let c := if s.folded cluster index then (index % 4) ^^^ 1 else index % 4
  4 * c + (index / 4) % 4

/-- The set and the sub-bank of a line (R86). -/
def setOf (index : Nat) : Nat := (index / 16) % 2048
def subBankOf (index : Nat) : Nat := (index / 16) % 8

/-- The lines of the set in which a line stands. -/
def State.setLines (s : State) (cluster index : Nat) : List Line :=
  s.lines.filter fun l => l.cluster == cluster && setOf l.index == setOf index
    && s.sliceOf cluster l.index == s.sliceOf cluster index

/-- The line that a lookup hits: index, world, compartment and generation match (R88). -/
def State.hit (s : State) (cluster index : Nat) (key : MemKey) : Option Line :=
  s.lines.find? fun l => l.cluster == cluster && l.index == index && l.key == key

/-- Whether a line is the one of a cluster, an index and a key. -/
def Line.is (l : Line) (cluster index : Nat) (key : MemKey) : Bool :=
  l.cluster == cluster && l.index == index && l.key == key

/-- Changing the line of a cluster, index and key. -/
def State.onLine (s : State) (cluster index : Nat) (key : MemKey) (f : Line → Line) : State :=
  { s with lines := s.lines.map fun l => if l.is cluster index key then f l else l }

/-- Placing a line most recently used in its set (R93). -/
def State.touch (s : State) (cluster index : Nat) (key : MemKey) : State :=
  { (s.onLine cluster index key fun l => { l with used := s.l2tick }) with l2tick := s.l2tick + 1 }

/-- COUNT of a context of a cluster (R92). -/
def State.ctxCount (s : State) (cluster ctx : Nat) : Nat :=
  (s.lines.filter fun l => l.cluster == cluster && l.ctx == ctx).length

/-- LIMIT of a context of a cluster (R94). -/
def State.ctxLimit (s : State) (cluster ctx : Nat) : BitVec 12 := SMap.get 0xC00 (16 * cluster + ctx) s.l2limit

/-- Whether a context holds more lines than its limit. -/
def State.overLimit (s : State) (cluster ctx : Nat) : Bool :=
  decide (128 * (s.ctxLimit cluster ctx).toNat < s.ctxCount cluster ctx)

/-- Whether a timed read of a copy still needs a line: a hit line is kept from replacement until then (R186). -/
def State.pinned (s : State) (l : Line) : Bool :=
  s.cores.any fun c => !c.isControl && clusterOf c.id == l.cluster && (c.late ++ c.parkedLate).any fun x =>
    match x.eff with
    | .l2Chunk _ key line _ _ _ _ => line == l.index && key == l.key
    | _ => false

/-- The least recently used of some lines. -/
def leastRecent : List Line → Option Line
  | [] => none
  | l :: t =>
    match leastRecent t with
    | none => some l
    | some m => if m.used < l.used then some m else some l

/-- Whether a writeback to a data unit waits: its stack is in training, or a fill or a writeback that came before it waits still (R104). -/
def State.wbWaits (s : State) (w : HeldWrite) : Bool :=
  s.inTraining w.index || s.fills.any fun f => f.index == w.index && f.held && decide (f.id < w.fill)

/-- Writing a dirty line back to HBM (R93, R194); a writeback to a stack in training waits at its controller (R104). -/
def State.writeback (s : State) (l : Line) : State :=
  if !l.dirty then s
  else
    let w : HeldWrite := ⟨l.index, l.data, l.tag, s.nextFill⟩
    if s.wbWaits w || s.heldWb.any (·.index == l.index) then { s with heldWb := s.heldWb ++ [w] } else s.hbmPut l.index l.data l.tag

/-- The writebacks that wait no more are done, in the order in which they came (R104). -/
def State.drainWb (s : State) : State :=
  s.heldWb.foldl (fun (t : State) w =>
    if s.wbWaits w then { t with heldWb := t.heldWb ++ [w] } else t.hbmPut w.index w.cipher w.tag) { s with heldWb := [] }

/-- The way a fill takes: an invalid way, or the victim of R93 among the lines that no timed read keeps; none where each way holds a line
that is kept (R186; log 24, DEDUCED). -/
def State.chooseWay (s : State) (cluster index ctx : Nat) : Option (Nat × Option Line) :=
  let all := s.setLines cluster index
  match (List.range 12).find? fun w => !(all.any fun l => l.way == w) with
  | some w => some (w, none)
  | none =>
    let ls := all.filter fun l => !s.pinned l
    let own := ls.filter fun l => l.ctx == ctx
    let heavy := ls.filter fun l => s.overLimit cluster l.ctx
    let pick :=
      if s.overLimit cluster ctx && !own.isEmpty then leastRecent own
      else if !heavy.isEmpty then leastRecent heavy
      else leastRecent ls
    pick.map fun l => (l.way, some l)

/-- Whether a line is there, or can be installed now. -/
def State.hasRoom (s : State) (cluster index : Nat) (key : MemKey) (ctx : Nat) : Bool :=
  (s.hit cluster index key).isSome || (s.chooseWay cluster index ctx).isSome

/-- The data of a line, decrypted. -/
def State.lineData (s : State) (l : Line) : Vec := s.decrypted l.key l.index l.data

/-- Installing a line where there is room (R91, R93): the victim is written back if dirty, the line is most recently used. -/
def State.install (s : State) (cluster index : Nat) (key : MemKey) (ctx : Nat) (data : Vec) (dirty : Bool) : State :=
  let e := s.encrypted key index data
  match s.hit cluster index key with
  | some _ =>
    (s.onLine cluster index key fun l => { l with data := e.1, tag := e.2, dirty := l.dirty || dirty }).touch cluster index key
  | none =>
    match s.chooseWay cluster index ctx with
    | none => s
    | some (way, victim) =>
      let t := match victim with
        | some v => { s.writeback v with lines := s.lines.filter fun l => !(l.is v.cluster v.index v.key) }
        | none => s
      { t with
        lines := t.lines ++ [⟨cluster, index, way, e.1, e.2, s.folded cluster index, key, ctx, dirty, t.l2tick⟩]
        l2tick := t.l2tick + 1 }

/-- Writing bytes into a resident line. -/
def State.mergeLine (s : State) (cluster index : Nat) (key : MemKey) (bytes : List (Nat × Byte)) : State :=
  (s.onLine cluster index key fun l =>
    let e := s.encrypted key index (bytes.foldl (fun x b => setLineByte x (b.1 % 128) b.2) (s.lineData l))
    { l with data := e.1, tag := e.2, dirty := true }).touch cluster index key

/-- Writing back the dirty lines of a list of indices of a cluster, which stay clean (R194). -/
def State.flushLines (s : State) (cluster : Nat) (indices : List Nat) : State :=
  let ls := s.lines.filter fun l => l.cluster == cluster && indices.contains l.index
  let t := ls.foldl State.writeback s
  { t with lines := t.lines.map fun l =>
      if l.cluster == cluster && indices.contains l.index then { l with dirty := false } else l }

/-- A core whose timed reads of some lines are still to be made finds there what the lines hold now (R186). -/
def Core.keepReads (c : Core) (find : Nat → MemKey → Option Vec) : Core :=
  let keep := fun (l : Late) => match l.eff with
    | .l2Chunk copy key line off dst at' none => { l with eff := .l2Chunk copy key line off dst at' (find line key) }
    | _ => l
  { c with late := c.late.map keep, parkedLate := c.parkedLate.map keep }

/-- Removing lines without writing them back; a copy that hit one still reads it on its core cycle (R186). -/
def State.dropLines (s : State) (p : Line → Bool) : State :=
  let gone := s.lines.filter p
  let t := if gone.any s.pinned then
      s.mapCores fun c => c.keepReads fun index key => (gone.find? fun l => l.is (clusterOf c.id) index key).map s.lineData
    else s
  { t with lines := s.lines.filter fun l => !p l }

/-- Writing back the dirty lines that meet a condition, then invalidating them. -/
def State.evictLines (s : State) (p : Line → Bool) : State :=
  ((s.lines.filter p).foldl State.writeback s).dropLines p

/-! ## Fills (R91, R100) -/

/-- Whether the FOT allows a fill under a key (R100). -/
def State.fotAllows (s : State) (index : Nat) (key : MemKey) : Bool :=
  match key with
  | .comp w _ _ => s.owner (frameOfLine index) == BitVec.ofNat 8 w
  | .curator => s.owner (frameOfLine index) == 0xFD
  | .null => false

/-- Starting a fill, or joining one under way (R186). -/
def State.requestFill (s : State) (cluster index : Nat) (key : MemKey) (ctx : Nat) (use : FillUse) : State :=
  if s.fills.any fun f => f.cluster == cluster && f.index == index && f.key == key then
    { s with fills := s.fills.map fun f =>
        if f.cluster == cluster && f.index == index && f.key == key then { f with uses := f.uses ++ [use] } else f }
  else
    { s with
      fills := s.fills ++ [⟨s.nextFill, cluster, index, key, ctx, [use], false⟩]
      nextFill := s.nextFill + 1 }

/-- The occupancy context of a core's task in its cluster: the Curator's number, here the task's number modulo 16 (log 6, DESIGN CHOICE). -/
def Core.ctx (c : Core) : Nat := c.task % 16

/-- The line indices that a range of `n` bytes at address `a` touches. -/
def linesOf (a n : Nat) : List Nat :=
  if n = 0 then [] else (List.range ((a + n - 1) / 128 - a / 128 + 1)).map fun i => a / 128 + i

/-- The line indices of a range of an extent, through its pinned runs, in order. -/
def Extent.lines (x : Extent) (off n : Nat) : List Nat :=
  (linesOf off n).map fun i => x.address (128 * i) / 128

end Sys2Proof.Machine
end

