-- ==== Sys2Proof/Machine/Flags.lean ====
section
/-! DEFINITION. Floating-point values, their rounding, and the flags that the operations set (R199-R207, R213, R297-R299,
R309-R318). Every value is held exactly, as a sign, a natural number and a power of two, and is rounded once. -/

namespace Sys2Proof.Machine

/-! ## Formats (R200) -/

/-- A floating-point format: exponent bits and mantissa bits. -/
structure FpFmt where
  ebits : Nat
  mbits : Nat
deriving DecidableEq, Repr

def fp64 : FpFmt := ⟨11, 52⟩
def fp32 : FpFmt := ⟨8, 23⟩
def bf16 : FpFmt := ⟨8, 7⟩
def fp16 : FpFmt := ⟨5, 10⟩

/-- The bias. -/
def FpFmt.bias (f : FpFmt) : Int := 2 ^ (f.ebits - 1) - 1

/-- The exponent of the least normal number. -/
def FpFmt.emin (f : FpFmt) : Int := 1 - f.bias

/-- The place of the sign bit. -/
def FpFmt.signBit (f : FpFmt) : Nat := f.ebits + f.mbits

/-- The bits of an infinity. -/
def FpFmt.inf (f : FpFmt) (neg : Bool) : Nat := neg.toNat * 2 ^ f.signBit + (2 ^ f.ebits - 1) * 2 ^ f.mbits

/-- The canonical NaN (R200). -/
def FpFmt.nan (f : FpFmt) : Nat := (2 ^ f.ebits - 1) * 2 ^ f.mbits + 2 ^ (f.mbits - 1)

/-- The bits of a zero. -/
def FpFmt.zero (f : FpFmt) (neg : Bool) : Nat := neg.toNat * 2 ^ f.signBit

/-- The flags of csr.fflags (R213). -/
def flagNV : BitVec 5 := 16
def flagDZ : BitVec 5 := 8
def flagOF : BitVec 5 := 4
def flagUF : BitVec 5 := 2
def flagNX : BitVec 5 := 1

/-- A value of a format: a NaN, an infinity, or (-1)^neg * m * 2^e. -/
inductive FpVal where
  | nan (signalling : Bool)
  | inf (neg : Bool)
  | num (neg : Bool) (m : Nat) (e : Int)
deriving DecidableEq, Repr

/-- The value that bits of a format stand for (R200). -/
def FpFmt.unpack (f : FpFmt) (x : Nat) : FpVal :=
  let neg := x.testBit f.signBit
  let ex := bitsOf x (f.signBit - 1) f.mbits
  let man := x % 2 ^ f.mbits
  if ex = 2 ^ f.ebits - 1 then
    if man = 0 then .inf neg else .nan (!(man.testBit (f.mbits - 1)))
  else if ex = 0 then .num neg man (f.emin - f.mbits)
  else .num neg (man + 2 ^ f.mbits) (ex - f.bias - f.mbits)

/-! ## Rounding to nearest, ties to even (R206) -/

/-- m shifted right by sh places, rounded to nearest even; `sticky` says that the value lies above m by less than one unit. The
flag says that the result is inexact. -/
def rne (m sh : Nat) (sticky : Bool) : Nat × Bool :=
  let kept := m / 2 ^ sh
  let rest := m % 2 ^ sh
  let half := 2 ^ sh / 2
  let up := decide (half < rest) || (decide (rest = half) && decide (sh ≠ 0) && (sticky || kept % 2 == 1))
  (kept + up.toNat, decide (rest ≠ 0) || sticky)

/-- m * 2^e, m not 0, rounded once to a format as if its exponent field had no end: exponent and mantissa fields as one number, with the
flags of underflow (tininess after rounding) and inexactness. -/
def FpFmt.roundMag (f : FpFmt) (m : Nat) (e : Int) (sticky : Bool) : Nat × BitVec 5 :=
  let top : Int := m.log2 + e
  let lead := max top f.emin
  let q := lead - f.mbits
  let (man, inexact) := if q ≤ e then (m * 2 ^ (e - q).toNat, sticky) else rne m (q - e).toNat sticky
  let free := (rne m (top - f.mbits - e).toNat sticky).1
  let tiny := decide (top < f.emin) && !(decide (top = f.emin - 1) && decide (free = 2 ^ (f.mbits + 1)))
  ((lead + f.bias - 1).toNat * 2 ^ f.mbits + man,
    (if inexact then flagNX else 0) ||| (if tiny && inexact then flagUF else 0))

/-- Rounding (-1)^neg * m * 2^e once to a format, with the flags of overflow, underflow (tininess after rounding) and inexactness
(R206, R207). With `sticky`, m has more bits than the format keeps. -/
def FpFmt.round (f : FpFmt) (neg : Bool) (m : Nat) (e : Int) (sticky : Bool) : Nat × BitVec 5 :=
  if m = 0 then (f.zero neg, if sticky then flagUF ||| flagNX else 0)
  else
    let (packed, flags) := f.roundMag m e sticky
    if (2 ^ f.ebits - 1) * 2 ^ f.mbits ≤ packed then (f.inf neg, flagOF ||| flagNX)
    else (neg.toNat * 2 ^ f.signBit + packed, flags)

/-! ## Exact sums and products -/

/-- An exact signed sum of m1 * 2^e1 and m2 * 2^e2. -/
def addExact (m1 : Int) (e1 : Int) (m2 : Int) (e2 : Int) : Int × Int :=
  let e := min e1 e2
  (m1 * 2 ^ (e1 - e).toNat + m2 * 2 ^ (e2 - e).toNat, e)

/-- A signed mantissa. -/
def signedMant (neg : Bool) (m : Nat) : Int := if neg then -(m : Int) else m

/-- Rounding a signed exact value; `zeroNeg` is the sign of an exact zero. -/
def FpFmt.roundInt (f : FpFmt) (x : Int) (e : Int) (zeroNeg : Bool) : Nat × BitVec 5 :=
  if x = 0 then (f.zero zeroNeg, 0) else f.round (decide (x < 0)) x.natAbs e false

/-- The NV of signalling NaNs among some operands (R207). -/
def nvOf (vs : List FpVal) : BitVec 5 := if vs.any fun v => v == .nan true then flagNV else 0

/-- Whether some operand is a NaN. -/
def anyNan (vs : List FpVal) : Bool := vs.any fun v => v == .nan true || v == .nan false

/-- The opposite value. -/
def FpVal.neg : FpVal → FpVal
  | .nan s => .nan s
  | .inf n => .inf (!n)
  | .num n m e => .num (!n) m e

/-- The sum of two values that are no NaNs, rounded once: opposite infinities are invalid, an exact zero sum of unlike signs is +0. -/
def FpFmt.sum (f : FpFmt) (a b : FpVal) : Nat × BitVec 5 :=
  match a, b with
  | .inf n, .inf k => if n = k then (f.inf n, 0) else (f.nan, flagNV)
  | .inf n, _ => (f.inf n, 0)
  | _, .inf n => (f.inf n, 0)
  | .num n m e, .num k p g =>
    let (x, q) := addExact (signedMant n m) e (signedMant k p) g
    f.roundInt x q (n && k)
  | _, _ => (f.nan, 0)

/-- The product of two values that are no NaNs: none for 0 times infinity. -/
def FpVal.mul (a b : FpVal) : Option FpVal :=
  match a, b with
  | .inf n, .inf k => some (.inf (n != k))
  | .inf n, .num k m _ => if m = 0 then none else some (.inf (n != k))
  | .num n m _, .inf k => if m = 0 then none else some (.inf (n != k))
  | .num n m e, .num k p g => some (.num (n != k) (m * p) (e + g))
  | _, _ => none

/-! ## Arithmetic (R207) -/

/-- a + b. -/
def FpFmt.add (f : FpFmt) (a b : FpVal) : Nat × BitVec 5 :=
  if anyNan [a, b] then (f.nan, nvOf [a, b]) else f.sum a b

/-- a * b + c, rounded once. -/
def FpFmt.fma (f : FpFmt) (a b c : FpVal) : Nat × BitVec 5 :=
  let prod := if anyNan [a, b] then none else a.mul b
  if anyNan [a, b, c] then
    let invalid := !(anyNan [a, b]) && prod.isNone && Config.fmaQuietNanInvalid
    (f.nan, nvOf [a, b, c] ||| (if invalid then flagNV else 0))
  else
    match prod with
    | none => (f.nan, flagNV)
    | some p => f.sum p c

/-- a * b. -/
def FpFmt.mul (f : FpFmt) (a b : FpVal) : Nat × BitVec 5 :=
  if anyNan [a, b] then (f.nan, nvOf [a, b])
  else
    match a.mul b with
    | none => (f.nan, flagNV)
    | some (.num n m e) => f.round n m e false
    | some (.inf n) => (f.inf n, 0)
    | some (.nan _) => (f.nan, 0)

/-- The quotient of two natural numbers to at least `bits` bits: mantissa, exponent, sticky. -/
def divBits (m p bits : Nat) : Nat × Int × Bool :=
  let k := bits + p.log2 + 1 - min (bits + p.log2 + 1) m.log2
  (m * 2 ^ k / p, -(k : Int), decide (m * 2 ^ k % p ≠ 0))

/-- a / b. -/
def FpFmt.div (f : FpFmt) (a b : FpVal) : Nat × BitVec 5 :=
  if anyNan [a, b] then (f.nan, nvOf [a, b])
  else
    match a, b with
    | .inf _, .inf _ => (f.nan, flagNV)
    | .inf n, .num k _ _ => (f.inf (n != k), 0)
    | .num n _ _, .inf k => (f.zero (n != k), 0)
    | .num n m e, .num k p g =>
      if p = 0 then (if m = 0 then (f.nan, flagNV) else (f.inf (n != k), flagDZ))
      else if m = 0 then (f.zero (n != k), 0)
      else
        let (q, sh, sticky) := divBits m p (f.mbits + 4)
        f.round (n != k) q (e - g + sh) sticky
    | _, _ => (f.nan, 0)

/-- The integer square root, by bits from 2^n down. -/
def isqrt (n x : Nat) : Nat :=
  (List.range (n + 1)).foldl (fun r i => let t := r + 2 ^ (n - i); if t * t ≤ x then t else r) 0

/-- The square root of m * 2^e to at least `bits` bits: mantissa, exponent, sticky. -/
def sqrtBits (m : Nat) (e : Int) (bits : Nat) : Nat × Int × Bool :=
  let k := 2 * bits
  let odd := (e % 2).toNat
  let x := m * 2 ^ (k + odd)
  let r := isqrt (x.log2 / 2 + 1) x
  (r, (e - odd) / 2 - bits, decide (r * r ≠ x))

/-- The square root. -/
def FpFmt.sqrt (f : FpFmt) (a : FpVal) : Nat × BitVec 5 :=
  match a with
  | .nan s => (f.nan, nvOf [.nan s])
  | .inf n => if n then (f.nan, flagNV) else (f.inf false, 0)
  | .num n m e =>
    if m = 0 then (f.zero n, 0)
    else if n then (f.nan, flagNV)
    else
      let (r, g, sticky) := sqrtBits m e (f.mbits + 4)
      f.round false r g sticky

/-! ## Order, minimum and maximum, comparison (R207, R298, R311) -/

/-- Whether a < b for values that are no NaNs; the zeros are equal. -/
def FpVal.lt (a b : FpVal) : Bool :=
  match a, b with
  | .inf n, .inf k => n && !k
  | .inf n, _ => n
  | _, .inf k => !k
  | .num n m e, .num k p g =>
    decide ((addExact (signedMant n m) e (-(signedMant k p)) g).1 < 0)
  | _, _ => false

/-- Whether a = b for values that are no NaNs; the zeros are equal. -/
def FpVal.eqv (a b : FpVal) : Bool := !(a.lt b) && !(b.lt a)

/-- The sign of a value. -/
def FpVal.isNeg : FpVal → Bool
  | .nan _ => false
  | .inf n => n
  | .num n _ _ => n

/-- Minimum or maximum, over the bits of the operands: a NaN yields to a number, -0 lies below +0. -/
def FpFmt.minMax (f : FpFmt) (isMax : Bool) (x y : Nat) : Nat × BitVec 5 :=
  let a := f.unpack x
  let b := f.unpack y
  let flags := nvOf [a, b]
  if anyNan [a] && anyNan [b] then (f.nan, flags)
  else if anyNan [a] then (y, flags)
  else if anyNan [b] then (x, flags)
  else
    let aLess := a.lt b || (a.eqv b && a.isNeg && !b.isNeg)
    (if aLess != isMax then x else y, flags)

/-- The relations of `fcmp` and the vector compares: 0 equal, 1 less, 2 less or equal, 3 unordered (R298, R311). -/
def fpRelation (rel : Nat) (a b : FpVal) : Bool × BitVec 5 :=
  let un := anyNan [a, b]
  let loud := if un then flagNV else 0
  match rel with
  | 0 => (!un && a.eqv b, nvOf [a, b])
  | 1 => (!un && a.lt b, loud)
  | 2 => (!un && (a.lt b || a.eqv b), loud)
  | _ => (un, nvOf [a, b])

/-- The class mask of `fclass` (R298). -/
def FpFmt.classMask (f : FpFmt) (x : Nat) : Nat :=
  match f.unpack x with
  | .nan s => if s then 2 ^ 8 else 2 ^ 9
  | .inf n => if n then 1 else 2 ^ 7
  | .num n m e =>
    let sub := decide (m < 2 ^ f.mbits) && decide (e = f.emin - f.mbits)
    match n, decide (m = 0), sub with
    | true, true, _ => 2 ^ 3
    | false, true, _ => 2 ^ 4
    | true, _, true => 2 ^ 2
    | false, _, true => 2 ^ 5
    | true, _, _ => 2 ^ 1
    | false, _, _ => 2 ^ 6

/-! ## Conversions (R206, R299, R313) -/

/-- A value in another format: widened exactly or rounded once; a NaN becomes canonical. -/
def FpFmt.convert (f : FpFmt) (a : FpVal) : Nat × BitVec 5 :=
  match a with
  | .nan s => (f.nan, nvOf [.nan s])
  | .inf n => (f.inf n, 0)
  | .num n m e => f.round n m e false

/-- rne_to_int: rounded, saturated to lo … hi with NV, a NaN giving 0 with NV; NX when inexact and in range (R206). -/
def FpVal.toInt (a : FpVal) (lo hi : Int) : Int × BitVec 5 :=
  match a with
  | .nan _ => (0, flagNV)
  | .inf n => (if n then lo else hi, flagNV)
  | .num n m e =>
    let (v, inexact) := if 0 ≤ e then (m * 2 ^ e.toNat, false) else rne m (-e).toNat false
    let x := signedMant n v
    if x < lo then (lo, flagNV) else if hi < x then (hi, flagNV) else (x, if inexact then flagNX else 0)

/-- An integer rounded to a format. -/
def FpFmt.ofInt (f : FpFmt) (x : Int) : Nat × BitVec 5 := f.roundInt x 0 false

/-- An integer saturated to lo … hi, with NV when it saturates (R313, R320). -/
def saturate (x lo hi : Int) : Int × BitVec 5 :=
  if x < lo then (lo, flagNV) else if hi < x then (hi, flagNV) else (x, 0)

/-! ## The functions of vector B (R207, R315; log 10, DEDUCED)

Each is evaluated in fixed point with 320 fraction bits, with an error of a few units of the last place, and rounded once with the
result marked inexact; the arguments for which the exact value is a dyadic number are treated apart. -/

/-- The fraction bits of the fixed point. -/
def fpBits : Nat := 320

/-- ln 2 in fixed point: 2 * sum of 1 / ((2k+1) 3^(2k+1)). -/
def ln2Fixed : Nat :=
  (List.range 102).foldl (fun acc k => acc + 2 * 2 ^ fpBits / ((2 * k + 1) * 3 ^ (2 * k + 1))) 0

/-- e^r in fixed point for 0 ≤ r < 1, by its series. -/
def expSeries (r : Nat) : Nat :=
  ((List.range 90).foldl (fun (acc : Nat × Nat) k =>
    let t := acc.2 * r / 2 ^ fpBits / (k + 1)
    (acc.1 + t, t)) (2 ^ fpBits, 2 ^ fpBits)).1

/-- The natural logarithm of a fixed-point number between 1 and 2, by the series of atanh. -/
def lnSeries (x : Nat) : Nat :=
  let one := 2 ^ fpBits
  let z := (x - one) * one / (x + one)
  let z2 := z * z / one
  ((List.range 110).foldl (fun (acc : Nat × Nat) k => (acc.1 + 2 * acc.2 / (2 * k + 1), acc.2 * z2 / one)) (0, z)).1

/-- A signed value m * 2^e in fixed point, toward minus infinity. -/
def toFixed (x : Int) (e : Int) : Int :=
  let k := e + fpBits
  if 0 ≤ k then x * 2 ^ k.toNat else x / 2 ^ (-k).toNat

/-- e^t for a fixed-point t: a mantissa in fixed point and a power of two. -/
def expFixed (t : Int) : Nat × Int :=
  let n := t / (ln2Fixed : Int)
  (expSeries (t - n * ln2Fixed).toNat, n)

/-- Values of this size or more overflow or underflow every format under e^x and 2^x, and saturate tanh and sigm. -/
def isHuge (m : Nat) (e : Int) : Bool := decide (10 ≤ m.log2 + e)

/-- A result far above or far below every format's range, to be rounded. -/
def FpFmt.far (f : FpFmt) (below : Bool) : Nat × BitVec 5 :=
  f.round false (2 ^ 80) (if below then -100000 else 100000) true

/-- e^x. -/
def FpFmt.exp (f : FpFmt) (a : FpVal) : Nat × BitVec 5 :=
  match a with
  | .nan s => (f.nan, nvOf [.nan s])
  | .inf n => (if n then f.zero false else f.inf false, 0)
  | .num n m e =>
    if m = 0 then f.round false 1 0 false
    else if isHuge m e then f.far n
    else
      let (v, k) := expFixed (toFixed (signedMant n m) e)
      f.round false v (k - fpBits) true

/-- 2^x: exact for an integer x. -/
def FpFmt.exp2 (f : FpFmt) (a : FpVal) : Nat × BitVec 5 :=
  match a with
  | .nan s => (f.nan, nvOf [.nan s])
  | .inf n => (if n then f.zero false else f.inf false, 0)
  | .num n m e =>
    if m = 0 then f.round false 1 0 false
    else if isHuge m e then f.far n
    else
      let t := toFixed (signedMant n m) e
      let k := t / 2 ^ fpBits
      let r := t % 2 ^ fpBits
      if r = 0 then f.round false 1 k false
      else f.round false (expSeries (r.toNat * ln2Fixed / 2 ^ fpBits)) (k - fpBits) true

/-- log2 of x: exact for a power of two. -/
def FpFmt.log2 (f : FpFmt) (a : FpVal) : Nat × BitVec 5 :=
  match a with
  | .nan s => (f.nan, nvOf [.nan s])
  | .inf n => if n then (f.nan, flagNV) else (f.inf false, 0)
  | .num n m e =>
    if m = 0 then (f.inf true, flagDZ)
    else if n then (f.nan, flagNV)
    else
      let top := m.log2
      let k : Int := top + e
      if m = 2 ^ top then f.roundInt k 0 false
      else
        let frac := lnSeries (m * 2 ^ (fpBits - top)) * 2 ^ fpBits / ln2Fixed
        let x := k * 2 ^ fpBits + frac
        f.round (decide (x < 0)) x.natAbs (-(fpBits : Int)) true

/-- 1 / x. -/
def FpFmt.rcp (f : FpFmt) (a : FpVal) : Nat × BitVec 5 := f.div (.num false 1 0) a

/-- 1 / sqrt x. -/
def FpFmt.rsqrt (f : FpFmt) (a : FpVal) : Nat × BitVec 5 :=
  match a with
  | .nan s => (f.nan, nvOf [.nan s])
  | .inf n => if n then (f.nan, flagNV) else (f.zero false, 0)
  | .num n m e =>
    if m = 0 then (f.inf n, flagDZ)
    else if n then (f.nan, flagNV)
    else
      let odd := (e % 2).toNat
      let x := m * 2 ^ odd
      let k := x.log2 + f.mbits + 8
      let r := isqrt (k + 1) (2 ^ (2 * k) / x)
      f.round false r (-((e - odd) / 2) - k) (decide (r * r * x ≠ 2 ^ (2 * k)))

/-- tanh x: odd, and just below x in magnitude for a small x. -/
def FpFmt.tanh (f : FpFmt) (a : FpVal) : Nat × BitVec 5 :=
  match a with
  | .nan s => (f.nan, nvOf [.nan s])
  | .inf n => f.round n 1 0 false
  | .num n m e =>
    if m = 0 then (f.zero n, 0)
    else if isHuge m e then f.round n (2 ^ 80 - 1) (-80) true
    else if (m.log2 : Int) + e < -40 then f.round n (m * 2 ^ 80 - 1) (e - 80) true
    else
      let (v, k) := expFixed (toFixed (2 * m : Int) e)
      let x := v * 2 ^ k.toNat
      f.round n ((x - 2 ^ fpBits) * 2 ^ fpBits / (x + 2 ^ fpBits)) (-(fpBits : Int)) true

/-- 1 / (1 + e^-x). -/
def FpFmt.sigm (f : FpFmt) (a : FpVal) : Nat × BitVec 5 :=
  match a with
  | .nan s => (f.nan, nvOf [.nan s])
  | .inf n => if n then (f.zero false, 0) else f.round false 1 0 false
  | .num n m e =>
    if m = 0 then f.round false 1 (-1) false
    else if isHuge m e then (if n then f.far true else f.round false (2 ^ 80 - 1) (-80) true)
    else
      let (v, k) := expFixed (toFixed (signedMant (!n) m) e)
      let d := if 0 ≤ k then 2 ^ fpBits + v * 2 ^ k.toNat else 2 ^ fpBits + v / 2 ^ (-k).toNat
      f.round false (2 ^ (3 * fpBits) / d) (-(2 * fpBits : Int)) true

end Sys2Proof.Machine
end

