-- ==== Sys2Proof/Machine/MatrixArith.lean ====
section
/-! DEFINITION. Matrix arithmetic: elements and scales as they enter the array, exact block sums, the roundings of the loop, and the
down-converter (R201, R205, R208-R212, R349). -/

namespace Sys2Proof.Machine

/-- Adding events. -/
def Events.plus (a b : Events) : Events :=
  ⟨a.flags ||| b.flags, a.subin + b.subin, a.ofl + b.ofl, a.ftz + b.ftz, a.nans + b.nans⟩

/-- The event of a NaN that arises in the loop (R209), and of an overflow or saturation. -/
def nanEvent : Events := ⟨flagNV, 0, 0, 0, 1⟩
def oflEvent : Events := ⟨flagOF, 0, 1, 0, 0⟩
def noEvent : Events := ⟨0, 0, 0, 0, 0⟩

/-! ## Formats (R205, R262) -/

/-- Bits of an element of a format code. -/
def fmtBits (code : Nat) : Nat :=
  match code with
  | 0 => 32 | 1 => 16 | 2 => 16 | 3 => 32 | 4 => 8 | 5 => 4 | 6 => 8 | _ => 4

/-- The floating-point format of a code. -/
def fmtFp (code : Nat) : Option FpFmt :=
  match code with
  | 0 => some fp32 | 1 => some bf16 | 2 => some fp16 | _ => none

/-- The pairs that the array accepts, with the core cycles of a 64-deep dense step (R205). -/
def pairCycles (a b : Nat) : Option Nat :=
  match a, b with
  | 0, 0 => some 256 | 1, 1 => some 64 | 2, 2 => some 64 | 4, 4 => some 32 | 5, 5 => some 16
  | 1, 6 => some 16 | 4, 6 => some 16 | 1, 7 => some 8 | _, _ => none

/-- The format of a converter output or an A operand of a width in bytes. -/
def outBytes (ofmt : Nat) : Nat := fmtBits ofmt / 8

/-! ## Values entering the array (R201, R208) -/

/-- A term of a BIPOW element, in units of 2^-6 (R201). -/
def bipowTerm (s : Bool) (c : Nat) : Int := if c = 7 then 0 else if s then -(2 ^ (6 - c) : Nat) else (2 ^ (6 - c) : Nat)

/-- A signed number as a value. -/
def intVal (x : Int) (e : Int) : FpVal := .num (decide (x < 0)) x.natAbs e

/-- An element as it enters the array, and whether it was a subnormal input taken as zero. -/
def matElem (code x : Nat) : FpVal × Bool :=
  match fmtFp code with
  | some f =>
    (match f.unpack x with
    | .num n m e => if m ≠ 0 ∧ m < 2 ^ f.mbits then (.num n 0 e, true) else (.num n m e, false)
    | v => (v, false))
  | none =>
    let v := match code with
      | 4 => intVal (signedOf 8 x) 0
      | 5 => intVal (signedOf 4 x) 0
      | 6 => intVal (bipowTerm (x.testBit 7) (x / 16 % 8) + bipowTerm (x.testBit 3) (x % 8)) (-6)
      | _ => intVal (bipowTerm (x.testBit 3) (x % 8)) (-6)
    (v, false)

/-! ## Block sums (R209) -/

def BlockSum.zero : BlockSum := ⟨0, 0, false, false, false⟩

/-- Adding one product. -/
def BlockSum.add (s : BlockSum) (a b : FpVal) : BlockSum :=
  if anyNan [a, b] then { s with nan := true }
  else
    match a.mul b with
    | none => { s with nan := true }
    | some (.inf n) => if n then { s with ninf := true } else { s with pinf := true }
    | some (.num n m e) =>
      if m = 0 then s else let r := addExact s.m s.e (signedMant n m) e; { s with m := r.1, e := r.2 }
    | some (.nan _) => { s with nan := true }

/-- rne_to_fp32 of an exact number in the loop: a subnormal result becomes zero of its sign, an overflow sets OF. -/
def loopRound (m e : Int) (zeroNeg : Bool) : BitVec 32 × Events :=
  let r := (fp32.roundInt m e zeroNeg).1
  let ex := bitsOf r 30 23
  if ex = 0 then (BitVec.ofNat 32 (r / 2 ^ 31 * 2 ^ 31), noEvent)
  else (BitVec.ofNat 32 r, if ex = 255 then oflEvent else noEvent)

/-- The canonical NaN of FP32. -/
def nan32 : BitVec 32 := BitVec.ofNat 32 fp32.nan

/-- An infinity of FP32. -/
def inf32 (neg : Bool) : BitVec 32 := BitVec.ofNat 32 (fp32.inf neg)

/-- s = rne_to_fp32(t) for a block sum. -/
def BlockSum.round (t : BlockSum) : BitVec 32 × Events :=
  if t.nan || (t.pinf && t.ninf) then (nan32, nanEvent)
  else if t.pinf then (inf32 false, noEvent)
  else if t.ninf then (inf32 true, noEvent)
  else loopRound t.m t.e false

/-- A product of the loop: a NaN operand propagates, a new NaN is counted. -/
def loopScale (s : BitVec 32) (scale : FpVal) : BitVec 32 × Events :=
  let a := fp32.unpack s.toNat
  if anyNan [a] then (nan32, noEvent)
  else if anyNan [scale] then (nan32, nanEvent)
  else
    match a.mul scale with
    | none => (nan32, nanEvent)
    | some (.inf n) => (inf32 n, noEvent)
    | some (.num n m e) => loopRound (signedMant n m) e n
    | some (.nan _) => (nan32, nanEvent)

/-- acc + s in FP32. -/
def loopAdd (acc s : BitVec 32) : BitVec 32 × Events :=
  let a := fp32.unpack acc.toNat
  let b := fp32.unpack s.toNat
  if anyNan [a, b] then (nan32, noEvent)
  else
    match a, b with
    | .inf n, .inf k => if n = k then (inf32 n, noEvent) else (nan32, nanEvent)
    | .inf n, _ => (inf32 n, noEvent)
    | _, .inf k => (inf32 k, noEvent)
    | .num n m e, .num k p g =>
      let (x, q) := addExact (signedMant n m) e (signedMant k p) g
      loopRound x q (n && k)
    | _, _ => (nan32, noEvent)

/-- acc + s in INT32, saturating (R210). -/
def loopAddInt (acc s : BitVec 32) : BitVec 32 × Events :=
  let x := acc.toInt + s.toInt
  if x < -(2 ^ 31) then (0x80000000, oflEvent)
  else if 2 ^ 31 ≤ x then (0x7FFFFFFF, oflEvent)
  else (BitVec.ofInt 32 x, noEvent)

/-- Adding the block results of one element to its accumulator, in block order. -/
def accumulate (int32 : Bool) (acc : BitVec 32) (ss : List (BitVec 32)) : BitVec 32 × Events :=
  ss.foldl (fun (p : BitVec 32 × Events) s =>
    let r := if int32 then loopAddInt p.1 s else loopAdd p.1 s
    (r.1, p.2.plus r.2)) (acc, noEvent)

/-! ## The down-converter (R212) -/

/-- An integer saturated to an INT output. -/
def saturateOut (ofmt : Nat) (x : Int) : Nat × Events :=
  let w := fmtBits ofmt
  let lo : Int := -(2 ^ (w - 1) : Nat)
  let hi : Int := (2 ^ (w - 1) : Nat) - 1
  let y := if x < lo then lo else if hi < x then hi else x
  ((y % (2 ^ w : Nat)).toNat, if y = x then noEvent else oflEvent)

/-- The largest finite number of a format. -/
def FpFmt.largest (f : FpFmt) (neg : Bool) : Nat := f.inf neg - 1

/-- Converting an accumulator element to an output format; `sat` is the mode. -/
def downConvert (x : BitVec 32) (int32 : Bool) (ofmt : Nat) (sat : Bool) : Nat × Events :=
  let v := if int32 then intVal x.toInt 0 else fp32.unpack x.toNat
  match fmtFp ofmt with
  | none =>
    (match v with
    | .nan _ => (0, nanEvent)
    | .inf n => saturateOut ofmt (if n then -(2 ^ 40) else 2 ^ 40)
    | .num n m e => saturateOut ofmt (signedMant n (if 0 ≤ e then m * 2 ^ e.toNat else (rne m (-e).toNat false).1)))
  | some f =>
    match v with
    | .nan _ => if sat then (0, nanEvent) else (f.nan, ⟨0, 0, 0, 0, 1⟩)
    | .inf n => if sat then (f.largest n, oflEvent) else (f.inf n, noEvent)
    | .num n m e =>
      if m = 0 then (f.zero n, noEvent)
      else
        let r := (f.round n m e false).1
        let ex := bitsOf r (f.signBit - 1) f.mbits
        if ex = 2 ^ f.ebits - 1 then (if sat then f.largest n else f.inf n, oflEvent)
        else if ex = 0 then (f.zero n, ⟨flagUF, 0, 0, 1, 0⟩)
        else (r, noEvent)

/-! ## The tree mask (R349) -/

/-- Whether v is u or an ancestor of u, through at most `fuel` parents. -/
def isAncestor (parent : Nat → Nat) (v : Nat) : Nat → Nat → Bool
  | 0, u => u == v
  | k + 1, u => u == v || (decide (parent u < u) && isAncestor parent v k (parent u))

/-- Whether element (i, j) is masked under a tree descriptor. -/
def treeMasks (d : List Byte) (i j : Nat) : Bool :=
  let n := (d.getD 0 0).toNat
  let row0 := (d.getD 1 0).toNat
  let col0 := (d.getD 2 0).toNat
  if i < row0 ∨ row0 + n ≤ i then false
  else if j < col0 then false
  else if col0 + n ≤ j then true
  else !(isAncestor (fun u => (d.getD (64 + u) 0xFF).toNat) (j - col0) 64 (i - row0))

/-- What a masked element is written as (R349). -/
def maskedOut (ofmt : Nat) (sat : Bool) : Nat :=
  match fmtFp ofmt with
  | some f => if sat then f.largest true else f.inf true
  | none => 2 ^ (fmtBits ofmt - 1)

/-- Row i of a bank, down-converted under a tree descriptor in force: its bytes and events (R342, R352). -/
def convertRow (rows : SMap (BitVec 32)) (key : Nat) (int32 : Bool) (ofmt : Nat) (sat : Bool) (tree : Option (List Byte))
    (i : Nat) : List Byte × Events :=
  let rs := (List.range 64).map fun j =>
    if (tree.map fun d => treeMasks d i j).getD false then (maskedOut ofmt sat, noEvent)
    else downConvert (SMap.get 0 (key + 64 * i + j) rows) int32 ofmt sat
  (rs.flatMap fun r => leBytes (outBytes ofmt) r.1, rs.foldl (fun a r => a.plus r.2) noEvent)

end Sys2Proof.Machine
end

