-- ==== Sys2Proof/Machine/Perform.lean ====
section
/-! DEFINITION. What operations in flight do when they fall due: register writes, scratchpad writes, reads made after issue, port-C
arrivals (R144, R158-R161, R165, R186, R191, R215). -/

namespace Sys2Proof.Machine

/-! ## Flags and counts (R213-R215) -/

/-- A count that saturates at 65,535 (R214). -/
def satCount (x : BitVec 16) (n : Nat) : BitVec 16 := BitVec.ofNat 16 (min 65535 (x.toNat + n))

/-- Whether there is nothing to apply. -/
def Events.isNone (e : Events) : Bool := e.flags == 0 && e.subin + e.ofl + e.ftz + e.nans == 0

/-- Applying flags and counts. -/
def ArchRegs.applyEvents (r : ArchRegs) (e : Events) : ArchRegs :=
  { r with
    lines := if e.isNone then r.lines else dirtied r.lines 5
    fflags := r.fflags ||| e.flags
    mxc := ⟨satCount r.mxc.subin e.subin, satCount r.mxc.ofl e.ofl, satCount r.mxc.ftz e.ftz, satCount r.mxc.nans e.nans⟩ }

/-- An event set without counts. -/
def Events.ofFlags (f : BitVec 5) : Events := ⟨f, 0, 0, 0, 0⟩

/-! ## CSR writes (R153, R230, R267, R268) -/

/-- A shape byte as it is stored: CONF is cleared where TYPE is 5 to 7 (R153). -/
def fixShape (x : BitVec 8) : BitVec 8 :=
  if x.getLsbD 7 && decide (5 ≤ (x.extractLsb' 4 3).toNat) then x &&& 0x7F else x

/-- Every byte of csr.tshape as it is stored. -/
def fixShapes (x : Word) : Word :=
  (List.range 8).foldl (fun acc i =>
    acc ||| ((fixShape (x.extractLsb' (8 * i) 8)).setWidth 64 <<< (8 * i))) 0

/-- Replacing byte t of a word. -/
def setByte (x : Word) (t : Nat) (b : BitVec 8) : Word :=
  (x &&& ~~~((0xFF : Word) <<< (8 * t))) ||| (b.setWidth 64 <<< (8 * t))

/-- What the CSRs that can be written hold. -/
def Core.csrHeld (c : Core) (num : BitVec 12) : Word :=
  match num.toNat with
  | 0x001 => c.r.tvec
  | 0x002 => c.tcause.setWidth 64
  | 0x003 => c.tval
  | 0x004 => c.tepc.setWidth 64
  | 0x010 => c.r.fflags.setWidth 64
  | 0x011 => c.r.mxc.subin ++ c.r.mxc.ofl ++ c.r.mxc.ftz ++ c.r.mxc.nans
  | 0x020 => c.r.tshape
  | 0x031 => BitVec.ofNat 64 c.r.rsbalt
  | _ => 0

/-- A CSR write that the mode allows, taking effect (R267). -/
def Core.csrSet (c : Core) (num : BitVec 12) (x : Word) : Core :=
  match num.toNat with
  | 0x001 => { c with r := { c.r with tvec := x &&& 0x800000000001FFE0 } }
  | 0x002 => { c with tcause := x.extractLsb' 0 17 }
  | 0x003 => { c with tval := x }
  | 0x004 => { c with tepc := x.extractLsb' 0 17 &&& 0x1FFE0 }
  | 0x010 => { c with r := { c.r with fflags := x.extractLsb' 0 5, lines := dirtied c.r.lines 5 } }
  | 0x011 => Core.mendReg { c with r := { c.r with
      lines := dirtied c.r.lines 5
      mxc := ⟨x.extractLsb' 48 16, x.extractLsb' 32 16, x.extractLsb' 16 16, x.extractLsb' 0 16⟩ } } (· == .mxc)
  | 0x020 => Core.mendReg { c with r := { c.r with tshape := fixShapes x, lines := dirtied c.r.lines 5 } } (· == .tshape)
  | 0x031 =>
    let n := (x &&& 0x7C000).toNat
    if n = c.r.rsb then c else { c with r := { c.r with rsbalt := n } }
  | _ => c

/-! ## Register images in the scratchpad (R150, R151) -/

/-- The 34 bytes of a q register's value, revision and state byte (R150). -/
def QReg.bytes (q : QReg) : List Byte :=
  leBytes 32 q.val.toNat ++ leBytes 1 q.rev.toNat ++
    leBytes 1 (q.arrived.toNat + 2 * q.state.toNat + 4 * q.casOk.toNat + 8 * q.err.toNat)

/-- The place of image `img` in the scratchpad: the active one is at csr.rsb (R150, R155). -/
def Core.imageBase (c : Core) (img : Bool) : Nat := if img = c.r.act then c.r.rsb else c.r.rsbalt

/-- A landing that performs: into the register file, or into the image that was active when its `send` was issued (R151, R185). -/
def Core.landNow (c : Core) (l : BitVec 2) (val : Vec) (tag : BitVec 16) (img : Bool) : Core :=
  if c.isControl || img == c.r.act then Core.mendReg { c with r := c.r.setL l ⟨val, tag, true⟩ } (· == .l l)
  else
    let b := c.imageBase img
    let k := l.toNat
    let full := c.lcl.read (b + 0x608) ||| (1 <<< k)
    c.storeLcl (cellsAt (b + 0x400 + 128 * k) (lineBytes val) ++ cellsAt (b + 0x600 + 2 * k) (leBytes 2 tag.toNat)
      ++ [(b + 0x608, full)])

/-- The sealed plate that a landing into an image of the scratchpad would write (R80). -/
def Core.landFault (c : Core) (l : BitVec 2) (img : Bool) : Option (Cause × Option Word) :=
  if c.isControl || img == c.r.act then none
  else
    let b := c.imageBase img
    (c.sealedOff ((List.range 128).map (b + 0x400 + 128 * l.toNat + ·) ++ [b + 0x600 + 2 * l.toNat, b + 0x608])).map fun o =>
      (.sealedCopy, some (BitVec.ofNat 64 o))

/-! ## Tiles (R153-R156) -/

/-- A tile with byte k replaced. -/
def setTileByte (x : TileBits) (k : Nat) (b : Byte) : TileBits :=
  (x &&& ~~~((0xFF : TileBits) <<< (8 * k))) ||| (b.setWidth 8192 <<< (8 * k))

/-- Writing bytes of a tile; DIRTY is set (R155). -/
def Core.writeTile (c : Core) (t : BitVec 3) (bytes : List (Nat × Byte)) : Core :=
  let x := bytes.foldl (fun x b => setTileByte x b.1 b.2) (c.tile t)
  Core.mendReg { c with r := { c.r.setTile t x with dirty := c.r.dirty ||| (1 <<< t.toNat) } } fun w => match w with
    | .tile u k => u == t && (List.range 8).all fun j => bytes.any fun b => b.1 == 8 * k + j
    | _ => false

/-- Byte k of a tile. -/
def tileByte (x : TileBits) (k : Nat) : Byte := x.extractLsb' (8 * k) 8

/-! ## Copies into plates (R161, R165, R186) -/

/-- Whether a copy was issued before the checkpoint, so that a rollback does not cancel it (R187, R220). -/
def Core.older (c : Core) (x : PlateCopy) : Bool := x.adopted || decide (x.issued < c.snap.ccy)

/-- Changing the tag of a plate; where an older copy does it, in the checkpoint's tags too (R187). -/
def Core.tagPlate (c : Core) (older : Bool) (p : Nat) (f : PlateTag → PlateTag) : Core :=
  let d := c.setPlate p (f (c.plate p))
  if older then { d with snap := { d.snap with plates := SMap.modify PlateTag.reset p f d.snap.plates } } else d

/-- Counting bytes of a copy as done in the plates they lie in; a plate whose last byte is done takes the copy's sequence
number, unless a write of the copy into it was discarded (R165, R186). -/
def Core.copyDone (c : Core) (copy : Nat) (offs : List Nat) (late dropped : Bool) : Core :=
  c.copies.foldl (fun (d : Core) (x : PlateCopy) =>
    let n := (offs.filter fun o => plateOf o == x.plate).length
    if x.copy ≠ copy ∨ n = 0 then { d with copies := d.copies ++ [x] }
    else
      let y := { x with
        left := (x.left - n)
        lateLeft := (if late then x.lateLeft - n else x.lateLeft)
        dropped := (x.dropped || dropped) }
      if y.left ≠ 0 then { d with copies := d.copies ++ [y] }
      else if y.dropped then d
      else d.tagPlate (c.older x) x.plate fun p => { p with actSeq := x.seq })
    { c with copies := [] }

/-- Whether a copy was issued before the checkpoint (R187, R220). -/
def Core.isOlder (c : Core) (copy : Nat) : Bool := c.copies.any fun x => x.copy == copy && c.older x

/-- Bytes of a copy written through port C now. -/
def Core.writeC (c : Core) (copy : Nat) (bytes : List (Nat × Byte)) (late : Bool) : Core :=
  let d := if c.isOlder copy then c.storeOlder bytes else c.storeLcl bytes
  d.copyDone copy (bytes.map (·.1)) late false

/-- The places of 16 B that the write buffer holds (R161). -/
def Core.wbufPlaces (c : Core) : Nat :=
  c.wbuf.foldl (fun n d => n + (d.writes.length + 15) / 16) 0

/-- The places of the scratchpad that an access put off reads, or writes. -/
def Deferred.places (d : Deferred) : List Nat :=
  match d.read with
  | some l => (match l.eff with
    | .lclChunk _ src _ => src
    | .outRow _ src _ => src
    | _ => [])
  | none => d.writes.map (·.1)

/-- The bank rows that it touches (R158). -/
def Deferred.rows (d : Deferred) : List Nat := distinct (d.places.map (· / 128))

/-- Whether a control core waits in a `fence`: its accesses in flight go on (R305). -/
def Core.fencing (c : Core) : Bool :=
  c.isControl && c.wait.any fun w => match w with
    | .fence _ => true
    | _ => false

/-- Whether a core stands still between two bundles: in a hold, in the extra clocks of a bundle issued in parts, or a control core in a wait
(R36, R184). -/
def Core.stands (c : Core) : Bool := (c.inHold || c.stall != 0 || !c.wait.isEmpty) && !c.turn && !c.fencing

/-- Whether a lock, or against a write an atomic window, holds a bank against port C (R159, R160); while the core stands still they
hold as at the core cycle that issued last (R184). -/
def Core.heldC (c : Core) (write : Bool) (banks : List Nat) : Bool :=
  let at' := if c.stands then c.ccy - 1 else c.ccy
  banks.any fun b => c.locked b at' || write && c.inWindow b at'

/-- Whether an access of port C to some places is put off: a bank of it is held (R158-R160). -/
def Core.waitsC (c : Core) (write : Bool) (places : List Nat) : Bool := c.heldC write (distinct (places.map bankOf))

/-- Bytes of a copy arriving at port C: written, put off in the write buffer, or discarded where it has no free place
(R159-R161). -/
def Core.arriveC (c : Core) (copy : Nat) (bytes : List (Nat × Byte)) (late : Bool) : Core :=
  let places := bytes.map (·.1)
  if bytes.isEmpty then c
  else if !(c.waitsC true places) then c.writeC copy bytes late
  else if c.wbufPlaces + (bytes.length + 15) / 16 ≤ 512 then
    { c with wbuf := c.wbuf ++ [⟨copy, bytes, late, none, !(c.waitsC false places)⟩] }
  else c.copyDone copy places late true

/-- Which accesses put off perform on a core cycle, and which stay. What windows alone put off goes as soon as nothing holds it (R159); of
what a lock put off, a bank lets one row go in a core cycle, in arrival order (R158, R160; log 74, DEDUCED); of a core that stands still, only
late writes go (R161, R184). `used` lists the rows that earlier ones take, `shut` those that earlier ones still wait for. -/
def Core.pickC (c : Core) : List Nat → List Nat → List Deferred → List Deferred × List Deferred
  | _, _, [] => ([], [])
  | used, shut, d :: ds =>
    let late := d.late && d.read.isNone
    let meets := d.rows.any fun r =>
      shut.any (fun u => u % 32 == r % 32) || used.any fun u => u != r && u % 32 == r % 32
    if c.waitsC d.read.isNone d.places || c.stands && !late || !d.window && meets then
      let p := c.pickC used (if d.window then shut else shut ++ d.rows) ds
      (p.1, d :: p.2)
    else
      let p := c.pickC (if d.window then used else used ++ d.rows) shut ds
      (d :: p.1, p.2)

/-! ## Gated effects filled after issue (R193) -/

/-- The bytes that a row read puts into a gated effect. -/
def OutEffect.fill (e : OutEffect) (dst : List Nat) (bs : List Byte) : OutEffect :=
  match e with
  | .write b k bytes => .write b k (bytes ++ dst.zip bs)
  | e => e

/-- Putting the bytes of one read into the gated effect with a number, whether or not it has been released. -/
def State.fillEffect (s : State) (effect : Nat) (dst : List Nat) (bs : List Byte) : State :=
  let f := fun (g : Gated) => if g.id = effect then { g with reads := g.reads - 1, eff := g.eff.fill dst bs } else g
  { s.mapCores (fun c => { c with gated := c.gated.map f }) with released := s.released.map f }

/-! ## Atomics (R302) -/

/-- The result of an atomic function (R253, R302). -/
def atomicResult (fn : Nat) (old v : Word) : Word :=
  match fn with
  | 0 => old + v
  | 1 => old &&& v
  | 2 => old ||| v
  | 3 => old ^^^ v
  | 4 => if v.toInt < old.toInt then v else old
  | 5 => if old.toInt < v.toInt then v else old
  | 6 => if v.toNat < old.toNat then v else old
  | 7 => if old.toNat < v.toNat then v else old
  | _ => v

/-! ## One effect falling due -/

/-- Whether the effect is seen by the bundle at its due core cycle: a write of a register, or a lock (R144, R160, R304). -/
def Effect.early : Effect → Bool
  | .sreg .. | .vreg .. | .vbits .. | .mreg .. | .guards .. | .csr .. | .lock .. | .tshapeByte .. | .nestValue .. | .fmtEntry ..
  | .sparsity .. | .treeDesc .. | .source .. => true
  | _ => false

/-- The order of effects that perform on one core cycle: reads, writes through port C, the sums of a nest step, writes through ports M
and S, a retirement row first, then the rest (R158, R191, R342). -/
def Effect.rank : Effect → Nat
  | .atomic .. | .sweepRead .. | .tile .. | .l2Chunk .. | .lclChunk .. | .outRow .. => 0
  | .portC .. => 1
  | .store .C _ => 1
  | .sums _ => 2
  | .retRow .. => 3
  | .store .M _ => 4
  | .store .. => 5
  | .land .. => 7
  | _ => 6

/-- A register write taking effect (R144, R145, R304). -/
def Core.applyEarly (c : Core) (e : Effect) : Core :=
  match e with
  | .sreg n x => Core.mendReg { c with r := c.r.setS n x } (· == .s n)
  | .vreg n x => Core.mendReg { c with r := c.r.setV n x } (· == .v n)
  | .vbits n mask x => { c with r := c.r.setV n ((c.vreg n &&& ~~~mask) ||| (x &&& mask)) }
  | .mreg n x => Core.mendReg { c with r := c.r.setM n x } (· == .m n)
  | .guards mask x => Core.mendReg { c with r := c.r.setG mask x } (· == .g && mask ||| 1 == 0xFF)
  | .csr num x => c.csrSet num x
  | .lock pairs last => { c with lock := if pairs = 0 then none else some (pairs, last) }
  | .tshapeByte t x => { c with r := { c.r with tshape := setByte c.r.tshape t.toNat (fixShape x), lines := dirtied c.r.lines 5 } }
  | .nestValue bank level field x =>
    let upd := fun (l : NestLevel) => match field with
      | 0 => { l with count := x }
      | 1 => { l with astride := x }
      | 2 => { l with bstride := x }
      | 3 => { l with cstride := x }
      | _ => { l with endv := x }
    let bk := c.r.nests.getD bank (Vector.replicate 6 ⟨0, 0, 0, 0, 0⟩)
    let bk' := bk.setIfInBounds level (upd (bk.getD level ⟨0, 0, 0, 0, 0⟩))
    { c with r := { c.r with nests := c.r.nests.setIfInBounds bank bk' } }
  | .fmtEntry n x => { c with r := { c.r with fmt := c.r.fmt.setIfInBounds n x } }
  | .sparsity co sp => { c with r := { c.r with coarse := co, sp24 := sp } }
  | .treeDesc d => { c with r := { c.r with tree := d } }
  | .source a => { c with r := { c.r with src := a } }
  | _ => c

/-- Adding a fault of an operation already issued. -/
def Core.faultOf (c : Core) (l : Late) (cause : Cause) (tval : Option Word) : Core :=
  { c with faults := c.faults ++ [⟨cause, tval, l.slot, l.pc⟩] }

/-- The fault of a check of an operation already issued, or what it does where there is none. -/
def Core.unless (c : Core) (l : Late) (f : Option (Cause × Option Word)) (d : Core) : Core :=
  match f with
  | some x => c.faultOf l x.1 x.2
  | none => d

/-- The fault of a read of bytes of a tile, where a word of them is bad (R163). -/
def Core.badTile (c : Core) (t : BitVec 3) (bytes : List Nat) : Option (Cause × Option Word) :=
  c.badReg fun w => match w with
    | .tile u k => u == t && bytes.any fun b => b / 8 == k
    | _ => false

/-- What an operation that reads the tile file or the scratchpad at its performance point does there (R328-R332). -/
def Core.tileNow (c : Core) (l : Late) (lat : Nat) (op : TileOp) : Core :=
  let put := fun (d : Core) (e : Effect) => { d with late := d.late ++ [{ l with due := l.due + lat, eff := e }] }
  let fill := fun (t : BitVec 3) (layout : Option Nat) (places : List Nat) (bytes : Core → List (Nat × Byte)) =>
    match c.readPlates layout places with
    | .error f => c.faultOf l f.1 f.2
    | .ok d => put d (.tileBytes t (bytes d))
  match op with
  | .load t layout rows =>
    fill t (some layout) (rows.flatMap (·.2)) fun d => rows.flatMap fun r => cellsAt (64 * r.1) (d.lclAt r.2)
  | .storeLcl t rows =>
    let at' := fun (r : Nat × List Nat) => (List.range r.2.length).map (64 * r.1 + ·)
    c.unless l (c.badTile t (rows.flatMap at')) (put c (.store .S (rows.flatMap fun r =>
      r.2.zip ((at' r).map (tileByte (c.tile t))))))
  | .storeOut .. => c
  | .rowToVec v t places =>
    c.unless l (c.badTile t (places.map (·.2)))
      (put c (.vreg v (places.foldl (fun x p => setLineByte x p.1 (tileByte (c.tile t) p.2)) 0)))
  | .vecToTile t bytes => put c (.tileBytes t bytes)
  | .save t base =>
    c.unless l (c.badTile t (List.range 1024)) (put c (.store .S (cellsAt base ((List.range 1024).map (tileByte (c.tile t))))))
  | .restore t base => fill t none (physRange 0 base 1024) fun d => cellsAt 0 (d.lcl.readBytes base 1024)

/-! ## The matrix engine at work (R339-R342) -/

/-- Two sparse tables laid over each other, the second before the first; `fuel` is the sum of their lengths. -/
def overlay : Nat → SMap α → SMap α → SMap α
  | 0, _, _ => []
  | _ + 1, [], b => b
  | _ + 1, a, [] => a
  | k + 1, (i, x) :: a, (j, y) :: b =>
    if i < j then (i, x) :: overlay k a ((j, y) :: b)
    else if j < i then (j, y) :: overlay k ((i, x) :: a) b
    else (j, y) :: overlay k a b

/-- The elements of an accumulator bank, numbered from 0; element (i, j) of bank b is entry 4096 b + 64 i + j. -/
def Engine.bank (g : Engine) (b : Nat) : SMap (BitVec 32) :=
  (g.acc.filter fun x => x.1 / 4096 == b).map fun x => (x.1 % 4096, x.2)

/-- Zeroing accumulator banks. -/
def Core.zeroBanks (c : Core) (p : Nat → Bool) : Core :=
  Core.mendReg { c with eng := { c.eng with acc := c.eng.acc.filter fun x => !p (x.1 / 4096) } } fun w => match w with
    | .acc b _ => p b
    | _ => false

/-- The fault of a read of elements of an accumulator bank, where a word of them is bad (R163). -/
def Core.badAcc (c : Core) (bank : Nat) (elem : Nat → Bool) : Option (Cause × Option Word) :=
  c.badReg fun w => match w with
    | .acc b k => b == bank && (elem (2 * k) || elem (2 * k + 1))
    | _ => false

/-- A retirement that starts now, for an operation issued at `op`: the bank passes to the retirement buffer and becomes zero, and its rows
follow, `lat` core cycles later and then one a core cycle; a destination in a sealed plate raises SEALED_COPY (R80, R342). -/
def Core.retire (c : Core) (slot op : Nat) (pc : BitVec 17) (bank : Nat) (ofmt : BitVec 3) (sat : Bool) (dst layout lat : Nat) :
    Core :=
  let l : Late := ⟨c.ccy, c.ccy, slot, pc, .retRow 0⟩
  match c.sealedOff ((List.range (4096 * outBytes ofmt.toNat)).map (dst + ·)) with
  | some o => c.faultOf l .sealedCopy (some (BitVec.ofNat 64 o))
  | none =>
    c.unless l (c.badAcc bank fun _ => true) (let d := c.zeroBanks (· == bank)
      { d with
        eng := { d.eng with
          rets := d.eng.rets ++ [⟨c.ccy, op, c.eng.bank bank, c.eng.int32.getLsbD bank, ofmt, sat, dst, layout, c.r.tree⟩]
          lastRet := some c.ccy }
        late := d.late ++ (List.range 64).map fun r => { l with due := c.ccy + lat + r, eff := .retRow r } })

/-- The end actions of one level, in the order RET, SWAP, FADV (R336). -/
def Core.endActions (c : Core) (n : Nest) (st : StepSums) (lat : Nat) (e : BitVec 4) : Core × Nest :=
  let ofmt := ((c.r.fmt.getD n.entry ⟨0, 0, 0, 0, 0, 0, 0⟩).ofmt).extractLsb' 0 3
  let c := if e.getLsbD 0 then c.retire 8 n.started n.mgoPc n.acc ofmt (e.getLsbD 1) st.c st.layout lat else c
  let n := if e.getLsbD 0 then { n with unretired := n.unretired &&& ~~~((1 : BitVec 4) <<< n.acc) } else n
  let n := if e.getLsbD 2 then { n with acc := n.acc ^^^ 1 } else n
  (c, if e.getLsbD 3 then { n with entry := (n.entry + 1) % 16, fresh := true } else n)

/-- The sums of a step going into the bank in use, its events, and its end actions (R209, R339, R340). -/
def Core.sumsNow (c : Core) (lat : Nat) : Core :=
  match c.eng.step, c.eng.nest with
  | some st, some n =>
    let base := 4096 * n.acc
    let rs := st.elems.map fun x => (base + x.1, accumulate st.int32 (SMap.get 0 (base + x.1) c.eng.acc) x.2)
    let ev := rs.foldl (fun a r => a.plus r.2.2) st.ev
    let acc := (overlay (c.eng.acc.length + rs.length) c.eng.acc (rs.map fun r => (r.1, r.2.1))).filter fun x => x.2 != 0
    let bit := (1 : BitVec 4) <<< n.acc
    let d : Core := { c with
      r := c.r.applyEvents ev
      eng := { c.eng with
        acc := acc
        int32 := if st.int32 then c.eng.int32 ||| bit else c.eng.int32 &&& ~~~bit
        step := none } }
    let n := if st.elems.any (fun x => !x.2.isEmpty) then { n with unretired := n.unretired ||| bit } else n
    let (d, n) := st.ends.foldl (fun (p : Core × Nest) e => p.1.endActions p.2 st lat e) (d, n)
    let read := st.elems.filter fun x => !x.2.isEmpty
    c.unless ⟨c.ccy, c.ccy, 8, n.mgoPc, .sums lat⟩ (c.badAcc n.acc fun i => read.any fun x => x.1 == i)
      { d with eng := { d.eng with nest := if st.last then none else some n } }
  | _, _ => c

/-- A write that performs now; one that would need a 65th undo entry raises UNDO_FULL and does not perform (R220). -/
def Core.storeChecked (c : Core) (l : Late) (bytes : List (Nat × Byte)) : Core :=
  let have' := c.undoRows
  let fresh := (distinct (bytes.map fun b => rowOf b.1)).filter fun r => !have'.contains r
  match (if c.undoable then fresh.drop (64 - have'.length) else []) with
  | r :: _ => c.faultOf l .undoFull (some (BitVec.ofNat 64 (r % 4096)))
  | [] => c.storeLcl bytes

/-- A write through port M that performs now, for an operation issued at `op`, unless a bank of it is held (R158, R159, R325). -/
def Core.storeM (c : Core) (l : Late) (op : Nat) (bytes : List (Nat × Byte)) : Core :=
  let places := bytes.map (·.1)
  match c.heldM op places with
  | some b => c.faultOf l .portCollision (some (portTval .M b))
  | none => (c.useM l.slot op places).storeChecked l bytes

/-- A row of a retirement being written (R342). -/
def Core.retRowNow (c : Core) (l : Late) (row : Nat) : Core :=
  match c.eng.rets.find? fun x => x.start == l.issued with
  | none => c
  | some x =>
    let (bytes, ev) := convertRow x.rows 0 x.int32 x.ofmt.toNat x.sat x.tree row
    let places := physRange x.layout (x.dst + row * bytes.length) bytes.length
    let d := c.storeM l x.op (places.zip bytes)
    { d with
      r := d.r.applyEvents ev
      eng := if row = 63 then { d.eng with rets := d.eng.rets.filter fun y => y.start != x.start } else d.eng }

/-- An effect of a core that performs now and touches nothing outside it. -/
def Core.performOwn (c : Core) (l : Late) : Core :=
  match l.eff with
  | .raise f => { c with faults := c.faults ++ [f] }
  | .events e => { c with r := c.r.applyEvents e }
  | .store .M bytes => c.storeM l l.issued bytes
  | .store _ bytes => c.storeChecked l bytes
  | .sums lat => c.sumsNow lat
  | .retRow row => c.retRowNow l row
  | .tileBytes t bytes => c.writeTile t bytes
  | .land n val tag img _ => c.unless l (c.landFault n img) (c.landNow n val tag img)
  | .portC copy bytes => c.arriveC copy bytes false
  | .atomic fn addr d v cmp lat =>
    let old := BitVec.ofNat 64 (c.lcl.readNat addr 8)
    let w := match cmp with
      | some e => if old = e then v else old
      | none => atomicResult fn old v
    c.unless l (c.badWord (physRange 0 addr 8)) { c with late := c.late ++
        [{ l with due := l.issued + lat, eff := .sreg d old }, { l with due := l.issued + 3, eff := .store .S (cellsAt addr (leBytes 8 w.toNat)) }] }
  | .sweepRead n width elems at' =>
    let mask : Vec := elems.foldl (fun (m : Vec) e =>
      m ||| (((1 <<< (8 * width)) - 1 : Vec) <<< (8 * width * e.1))) 0
    let val : Vec := elems.foldl (fun (x : Vec) e =>
      x ||| (BitVec.ofNat 1024 (leNat (c.lclAt e.2)) <<< (8 * width * e.1))) 0
    c.unless l (c.badWord (elems.flatMap (·.2))) { c with late := c.late ++ [{ l with due := at', eff := .vbits n mask val }] }
  | .tile op lat => c.tileNow l lat op
  | _ => c

/-- A read through port C that performs now: of a row of a copy within `lcl`, written a core cycle later, or of a row for a gated effect
(R163, R363). -/
def State.readC (id : Nat) (s : State) (l : Late) : State :=
  match s.coreOf id with
  | none => s
  | some c =>
    match l.eff, c.badWord (match l.eff with
      | .lclChunk _ src _ => src
      | .outRow _ src _ => src
      | _ => []) with
    | _, some f => s.onCore id fun c => c.faultOf l f.1 f.2
    | .lclChunk copy src dst, none => s.onCore id fun c =>
        { c with late := c.late ++ [{ l with due := c.ccy + 1, eff := .portC copy (dst.zip (c.lclAt src)) }] }
    | .outRow effect src dst, none => s.fillEffect effect dst (c.lclAt src)
    | _, none => s

/-- Such a read, or its putting off. -/
def State.readOrWait (id : Nat) (s : State) (l : Late) (src : List Nat) : State :=
  match s.coreOf id with
  | none => s
  | some c =>
    if c.waitsC false src then s.onCore id fun c => { c with wbuf := c.wbuf ++ [⟨0, [], false, some l, false⟩] } else s.readC id l

/-- The data that a timed read of a copy finds: of the line, or what the line held when it was invalidated (R186). -/
def State.chunkData (s : State) (cluster line : Nat) (key : MemKey) (kept : Option Vec) : Option Vec :=
  match s.hit cluster line key with
  | some x => some (s.lineData x)
  | none => kept

/-- The bytes that a copy reads from a line. -/
def chunkBytes (data : Vec) (off : Nat) (dst : List Nat) : List (Nat × Byte) :=
  dst.zip ((List.range dst.length).map fun k => lineByte data (off + k))

/-- An effect of core `id` that performs now. -/
def State.perform (id : Nat) (s : State) (l : Late) : State :=
  match s.coreOf id with
  | none => s
  | some c =>
    match l.eff with
    | .l2Chunk copy key line off dst at' kept =>
      match s.chunkData (clusterOf id) line key kept with
      | some x => s.onCore id fun c => { c with late := c.late ++ [{ l with due := at', eff := .portC copy (chunkBytes x off dst) }] }
      | none => s.onCore id fun c => c.copyDone copy dst false true
    | .lclChunk _ src _ => s.readOrWait id l src
    | .outRow _ src _ => s.readOrWait id l src
    | .tile (.storeOut t effect rows) _ =>
      let bytes := rows.flatMap fun r => (List.range r.2.length).map (64 * r.1 + ·)
      match c.badTile t bytes with
      | some f => s.onCore id fun c => c.faultOf l f.1 f.2
      | none => s.fillEffect effect (rows.flatMap (·.2)) (bytes.map (tileByte (c.tile t)))
    | _ => s.onCore id fun c => c.performOwn l

/-- The reads, or the writes, of some accesses put off. -/
def State.goReads (id : Nat) (ds : List Deferred) (s : State) : State :=
  ds.foldl (fun s d => match d.read with
    | some l => s.readC id l
    | none => s) s
def State.goWrites (id : Nat) (ds : List Deferred) (s : State) : State :=
  s.onCore id fun c => ds.foldl (fun c d => if d.read.isSome then c else c.writeC d.copy d.writes d.late) c

end Sys2Proof.Machine
end

