-- ==== Sys2Proof/Machine/Ops.lean ====
section
/-! DEFINITION. The operations that many steps share: issuing under the mode and profile checks, gated effects and their release,
hold requests, checkpoints, taking an exception, ending a task, the end of a core cycle and of a clock. -/

namespace Sys2Proof.Machine

/-! ## Whether an instruction may issue (R131, R240, R242, R243) -/

/-- A word that names a resource a control core does not have (R240, R243, R265). -/
def notOnControl (i : Instr) : Bool :=
  let k := slotOf i
  (3 ≤ k && k ≤ 6) || (match i with
    | .send .. | .recv .. | .fxcall .. => true
    | .dbgrd _ _ k => k == 2
    | _ => false)

/-- An instruction, or a CSR access, that the mode does not allow (R230, R242, R267). -/
def Core.privileged (c : Core) (i : Instr) : Bool :=
  let tvecHeld := fun (n : BitVec 12) => n == 1 && c.mode == .task && c.r.tvec.getLsbD 63
  match i with
  | .tret | .rswap | .mabort | .mrest | .dbgrd .. => c.mode == .task
  | .iload .. => !c.isCurator
  | .ovpload .. | .gcommit .. => c.id != 514
  | .csrw _ n => tvecHeld n
  | .csrs _ n => tvecHeld n
  | .csrc _ n => tvecHeld n
  | _ => false

/-- The first of the checks of R240 that an instruction fails, after its word has decoded. -/
def Core.issueFault (c : Core) (i : Instr) : Option Cause :=
  if c.isControl && notOnControl i then some .slotProfile
  else if !(wellFormedOn c.isControl i) then some .illegalOp
  else if c.privileged i then some .privilege
  else none

/-- Issuing an instruction on the focal core: under the checks of R240, and UNIT_CONDEMNED where its unit is condemned without
a bypass (R131); then its own effect. -/
def State.run (i : Instr) (f : State → State) (s : State) : State :=
  let slot := slotOf i
  match s.core.issueFault i with
  | some cause => s.upd fun c => c.raise slot cause (some (decodeTval slot (encode i)))
  | none => s.issue i f

/-- The same, for an effect on the focal core alone. -/
def State.runCore (i : Instr) (f : Core → Core) (s : State) : State := s.run i fun t => t.upd f

/-! ## Gated effects (R193, R221, R360) -/

/-- The strand that an effect belongs to: 1024 × task + strand, or the number of a control core. -/
def Core.strand (c : Core) : Nat := if c.isControl then c.id else 1024 * c.task + c.tstrand

/-- Bytes that the outbound buffer holds for a strand: an effect leaves it once it has been released, its last row has been read, and those
released before it at its cluster have left (R193, R363). -/
def State.outbound (s : State) (c : Core) : Nat :=
  let waiting := (s.released.filter fun g => g.cluster == clusterOf c.id).dropWhile fun g => g.reads == 0
  ((waiting.filter fun g => g.strand == c.strand) ++ c.gated).foldl (fun n g => n + g.reserved) 0

/-- Holding an effect until the next release; the 65th raises GATE_BUFFER_FULL. On a control core it leaves at issue. -/
def State.gate (slot cls reserved reads : Nat) (eff : OutEffect) (s : State) : State :=
  let c := s.core
  let g : Gated := ⟨s.nextFill, c.id, clusterOf c.id, c.strand, c.ccy, slot, cls, reads, reserved, eff⟩
  if c.isControl then { s with released := s.released ++ [g], nextFill := s.nextFill + 1 }
  else if 64 ≤ c.gated.length then s.upd fun c => c.raise slot .gateBufferFull none
  else { s with core := { c with gated := c.gated ++ [g] }, nextFill := s.nextFill + 1 }

/-- Whether a gated effect is a ring mutation: it is armed at its release (R188). -/
def Gated.isRing (g : Gated) : Bool := match g.eff with | .ring _ => true | _ => false

/-- The ring entries that a release arms. -/
def Core.armRings (c : Core) (gcy : Nat) : Core :=
  let arm := fun (q : QReg) => match q.entry with
    | some e => (match e.phase with
      | .gated => { q with entry := some { e with phase := .armed gcy } }
      | .armed _ => q)
    | none => q
  { c with r := { c.r with q := c.r.q.map arm } }

/-- Releasing the gated effects of some cores: in the order of issue CCY, core, slot (R193). -/
def State.release (ids : List Nat) (s : State) : State :=
  let gs := (s.cores.filter fun c => ids.contains c.id).flatMap (·.gated)
  let gs := sortBy (fun g => 65536 * g.issued + 16 * g.core + g.slot) gs
  let t := s.mapCores fun c =>
    if ids.contains c.id then { c.armRings s.time.gcy with gated := [] } else c
  { t with released := t.released ++ gs.filter fun g => !g.isRing }

/-! ## Hold requests (R182, R183) -/

/-- Requesting a hold, which takes effect 8 core cycles later. -/
def Core.requestHold (c : Core) (cond : HoldCond) (fin : HoldEnd) : Core :=
  { c with holds := c.holds ++ [⟨c.ccy + 8, cond, fin, false⟩] }

/-- Whether an effect that has been released counts for a fence, and has still to perform at its scope (R195, R196). -/
def Gated.openAt (g : Gated) (pred : Nat) (scope : Nat) : Bool :=
  (pred &&& g.cls) != 0 &&
    (match g.eff with
      | .flush _ => decide (3 ≤ scope)
      | .write .host _ _ => decide (6 ≤ scope)
      | .ring _ => false
      | _ => decide (2 ≤ scope))

/-- The fence classes of the accesses that an effect in flight makes or leads to (R195). -/
def Effect.classes : Effect → Nat
  | .atomic .. => 0x03
  | .sweepRead .. => 0x01
  | .tile (.load ..) _ => 0x01
  | .tile (.restore ..) _ => 0x01
  | .tile (.storeLcl ..) _ => 0x02
  | .tile (.save ..) _ => 0x02
  | .store .M _ => 0x20
  | .store .. => 0x02
  | .l2Chunk .. => 0x0C
  | .lclChunk .. => 0x0C
  | .outRow .. => 0x0C
  | .portC .. => 0x08
  | .retRow _ => 0x20
  | _ => 0

/-- Whether an access in flight counts for a fence: it was issued before, its class is named, and what it reads for, if anything, had been
released (R196). -/
def Late.countsFor (l : Late) (pred issued : Nat) (counted : List Nat) : Bool :=
  decide (l.issued < issued) && pred &&& l.eff.classes != 0 && (match l.eff with
    | .outRow e _ _ => counted.contains e
    | _ => true)

/-- Whether a core still has accesses of some classes in flight, of operations issued before a CCY. -/
def Core.flying (c : Core) (pred issued : Nat) (counted : List Nat) : Bool :=
  (c.late.any fun l => l.countsFor pred issued counted)
  || (c.wbuf.any fun d => match d.read with
      | some l => l.countsFor pred issued counted
      | none => pred &&& 0x08 != 0 && !d.late && c.copies.any fun x => x.copy == d.copy && decide (x.issued < issued))
  || (pred &&& 0x30 != 0 && c.eng.nest.any fun n => decide (n.started < issued))

/-- Whether a fence's predecessors of one core have all performed at its scope: accesses in flight, released effects (a `cinv` among
them), and the late writes of copies. What stands still in a hold, or in a strand that holds for a handler of its cohort, is not waited for
(log 20, DEDUCED). -/
def State.fenceDone (s : State) (c : Core) (pred scope issued : Nat) (counted : List Nat) : Bool :=
  let bit := fun (k : Nat) => decide (pred / 2 ^ k % 2 = 1)
  let still := c.inHold || c.run == .heldForHandler
  (still || !c.flying pred issued counted)
  && !(s.released.any fun g => g.strand == c.strand && (!still || g.reads == 0) && g.openAt pred scope
      && counted.contains g.id && (match g.eff with | .inval _ => g.issued != issued | _ => true))
  && !(c.copies.any fun x => decide (x.issued < issued) && decide (0 < x.lateLeft) && (bit 2 || bit 3 || (bit 6 && x.host)))

/-- Fences issued on the clock that ends count the effects released by then (R196). -/
def State.countFences (s : State) : State :=
  s.mapCores fun c => { c with holds := c.holds.map fun h =>
    match h.cond with
    | .fence p k i [] => if h.at' == c.ccy + 7 then { h with cond := .fence p k i (s.released.map (·.id)) } else h
    | _ => h }

/-- Whether the condition of a request holds. -/
def State.condMet (s : State) (c : Core) : HoldCond → Bool
  | .mwait p => !(c.copies.any fun x =>
      x.plate == p && x.seq == (c.plate p).expSeq && decide (0 < x.lateLeft))
  | .rcol q => (c.qreg q).arrived
  | .collective k => ((c.colls[k]?).map fun x => x.status.isSome).getD true
  | .gcy t => decide (t ≤ s.time.gcy)
  | .clocks n => n == 0
  | .fence pred scope issued counted =>
    let strands := if scope = 0 ∨ c.isControl then [c] else s.cohort c.coh
    strands.all fun d => s.fenceDone d pred scope issued counted

/-! ## Register-space images (R150, R151) -/

/-- The offsets of the bytes of an image that are not reserved (R150). -/
def imageOffsets : List Nat :=
  ([(0, 0x282), (0x288, 16), (0x300, 35), (0x340, 35), (0x380, 35), (0x3C0, 35), (0x400, 0x209), (0x1000, 0x1000)] : List (Nat × Nat)).flatMap
    fun r => (List.range r.2).map (r.1 + ·)

/-- The non-reserved bytes of the active image, as the register file holds them (R150). -/
def Core.registerCells (c : Core) : List (Nat × Byte) :=
  let b := c.r.rsb
  let per := fun (n stride off : Nat) (f : Nat → List Byte) =>
    (List.range n).flatMap fun k => cellsAt (b + off + stride * k) (f k)
  per 64 8 0 (fun k => leBytes 8 (if k = 0 then 0 else (c.r.s.getD k 0).toNat))
  ++ per 8 16 0x200 (fun k => leBytes 16 (c.r.m.getD k 0).toNat)
  ++ cellsAt (b + 0x280) [c.guardByte, c.r.fflags.setWidth 8]
  ++ cellsAt (b + 0x288) (leBytes 2 c.r.mxc.nans.toNat ++ leBytes 2 c.r.mxc.ftz.toNat ++ leBytes 2 c.r.mxc.ofl.toNat
      ++ leBytes 2 c.r.mxc.subin.toNat)
  ++ cellsAt (b + 0x290) (leBytes 8 c.r.tshape.toNat)
  ++ per 4 64 0x300 (fun k => (c.r.q.getD k QReg.reset).bytes ++ [(c.r.q.getD k QReg.reset).slot])
  ++ per 4 128 0x400 (fun k => lineBytes (c.r.l.getD k ⟨0, 0, false⟩).val)
  ++ per 4 2 0x600 (fun k => leBytes 2 (c.r.l.getD k ⟨0, 0, false⟩).tag.toNat)
  ++ cellsAt (b + 0x608)
      [BitVec.ofNat 8 ((List.range 4).foldl (fun n k => n + 2 ^ k * (c.r.l.getD k ⟨0, 0, false⟩).full.toNat) 0)]
  ++ per 32 128 0x1000 (fun k => lineBytes (c.r.v.getD k 0))

/-- What is written back of the active image: its dirty lines (R151). -/
def Core.imageCells (c : Core) : List (Nat × Byte) :=
  c.registerCells.filter fun x => c.r.lines.getLsbD ((x.1 - c.r.rsb) / 128)

/-- The registers loaded from the image at an offset, every line clean; ring entries at the stop are not part of an image. -/
def Core.loadImage (c : Core) (b : Nat) : ArchRegs :=
  let rd := fun (o n : Nat) => c.lcl.readNat (b + o) n
  let byte := fun (o : Nat) => c.lcl.read (b + o)
  let vec := fun (n : Nat) (w : Nat) (f : Nat → Nat) => (List.range n).map fun k => BitVec.ofNat w (f k)
  let fill := fun {n w : Nat} (v : Vector (BitVec w) n) (xs : List (BitVec w)) =>
    xs.zipIdx.foldl (fun (v : Vector (BitVec w) n) p => v.setIfInBounds p.2 p.1) v
  let q := (List.range 4).foldl (fun (v : Vector QReg 4) k =>
    let o := 0x300 + 64 * k
    let old := v.getD k QReg.reset
    let st := byte (o + 33)
    v.setIfInBounds k { old with
      val := BitVec.ofNat 256 (rd o 32), rev := byte (o + 32), arrived := st.getLsbD 0, state := st.getLsbD 1
      casOk := st.getLsbD 2, err := st.getLsbD 3, slot := byte (o + 34) }) c.r.q
  let l := (List.range 4).foldl (fun (v : Vector Landing 4) k =>
    v.setIfInBounds k ⟨BitVec.ofNat 1024 (rd (0x400 + 128 * k) 128), BitVec.ofNat 16 (rd (0x600 + 2 * k) 2),
      (byte 0x608).getLsbD k⟩) c.r.l
  { c.r with
    lines := 0
    s := fill c.r.s (vec 64 64 fun k => if k = 0 then 0 else rd (8 * k) 8)
    m := fill c.r.m (vec 8 128 fun k => rd (0x200 + 16 * k) 16)
    g := byte 0x280
    fflags := (byte 0x281).setWidth 5
    mxc := ⟨BitVec.ofNat 16 (rd 0x28E 2), BitVec.ofNat 16 (rd 0x28C 2), BitVec.ofNat 16 (rd 0x28A 2),
      BitVec.ofNat 16 (rd 0x288 2)⟩
    tshape := fixShapes (BitVec.ofNat 64 (rd 0x290 8))
    q := q
    l := l
    v := fill c.r.v (vec 32 1024 fun k => rd (0x1000 + 128 * k) 128) }

/-- The lines of the active image in which a word of a register lies (R150). -/
def registerLine : RegWord → Option Nat
  | .s n => some (n.toNat / 16)
  | .v n => some (32 + n.toNat)
  | .m _ => some 4
  | .g | .mxc | .tshape => some 5
  | .q n => some (6 + n.toNat / 2)
  | .l n => some (8 + n.toNat)
  | .tile .. | .acc .. | .bbuf _ => none

/-- The checks of loading the image at an offset, as of any read of the scratchpad: one that lies in a sealed plate stays there (R76, R80, R163,
R166; log 82, DEDUCED). -/
def Core.readImage (c : Core) (b : Nat) : Except (Cause × Option Word) Core :=
  match c.sealedOff [b, b + 4096] with
  | some o => .error (.sealedLoad, some (BitVec.ofNat 64 o))
  | none => c.readPlates none (imageOffsets.map (b + ·))

/-- The exchange of the images that `rswap` performs (R151): the dirty lines of the active image are read (R163) and written back, csr.rsb
and csr.rsbalt change places, the other image is loaded under its checks, the accumulators and the B buffer are zeroed; a swap point
(R155). -/
def Core.swapImages (c : Core) : Core :=
  let fails := fun (d : Core) (f : Cause × Option Word) => { d with faults := d.faults ++ [⟨f.1, f.2, 0, d.lastPc⟩] }
  match c.badReg fun w => ((registerLine w).map c.r.lines.getLsbD).getD false with
  | some f => fails c f
  | none =>
  let d := Core.mendBytes { c with lcl := c.lcl.writeCells c.imageCells } c.imageCells
  match d.readImage c.r.rsbalt with
  | .error f => fails d f
  | .ok d =>
    let d := d.zeroBanks fun _ => true
    Core.mendReg { d with
      r := { d.loadImage c.r.rsbalt with rsb := c.r.rsbalt, rsbalt := c.r.rsb, act := !c.r.act, claimed := 0 }
      eng := { d.eng with bbuf := [], half := false, bsealed := false } } fun w => match w with
        | .tile .. => false
        | _ => true

/-! ## The members of a resident pair (R121, R122) -/

/-- The seal slots with the slot of one image filled. -/
def fillSlot (act : Bool) (x : Option Nat) (slots : Option Nat × Option Nat) : Option Nat × Option Nat :=
  if act then (slots.1, x) else (x, slots.2)

/-- The scratchpad with the copies under way, the tile file and the seal slots pass to the parked member of a resident pair from the member
that leaves the core, and with them what the roundel stop holds, where that member stays on the core: else its own seal slot is cleared
(R79). The parked member's registers come back from its image, and a fault of that load stops its first bundle. -/
def Core.handOver (stays : Bool) (p a : Core) : Core :=
  let d := { p with
    lcl := a.lcl.writeCells a.imageCells, plates := a.plates, imem := a.imem
    sealSlots := if stays then a.sealSlots else fillSlot a.sealImage none a.sealSlots
    copies := a.copies.map (fun (x : PlateCopy) => { x with adopted := true }), uncached := a.uncached, wbuf := a.wbuf, bad := a.bad }
  let (d, r) := match d.readImage p.r.rsb with
    | .ok d => (d, d.loadImage p.r.rsb)
    | .error f => (({ d with faults := d.faults ++ [(⟨f.1, f.2, 0, p.lastPc⟩ : TrapRec)] } : Core), p.r)
  let q := (List.range 4).foldl (fun (v : Vector QReg 4) k =>
    let x := a.r.q.getD k QReg.reset
    v.setIfInBounds k { v.getD k QReg.reset with
      entry := (if stays then x.entry else none), result := (if stays then x.result else none) }) r.q
  let r := { r with
    q := q, tiles := a.r.tiles, owner := a.r.owner, valid := a.r.valid, dirty := a.r.dirty, claimed := 0, act := !a.r.act }
  { d with r := r, snap := { d.snap with regs := r, plates := d.plates } }

/-- Zeroing sealed plates, whose sealed bits go (R81). -/
def Core.unsealed (p : PlateTag → Bool) (c : Core) : Core :=
  c.plates.foldl (fun d x =>
    if x.2.sealed && p x.2 then
      { d.setPlate x.1 { x.2 with sealed := false, sealId := 0, sealIndex := 0, sealer := 0 } with lcl := d.lcl.clear (4096 * x.1) 4096 }
    else d) c

/-- The plates that a task sealed are zeroed on the cores which it leaves to its parked partner (R81). -/
def State.unsealPartners (task : Nat) (s : State) : State :=
  { s with tasks := s.tasks.map fun k =>
      if k.phase = .parked ∧ k.partner = some task then
        { k with parkedCores := k.parkedCores.map fun p =>
            let d := p.unsealed fun t => t.sealer == task
            { d with snap := { d.snap with plates := d.plates } } }
      else k }

/-- The parked partners of a task take over what its cores leave. -/
def State.handOver (task : Nat) (stays : Bool) (cores : List Core) (s : State) : State :=
  { s with tasks := s.tasks.map fun k =>
      if k.phase = .parked ∧ k.partner = some task then
        { k with parkedCores := k.parkedCores.map fun p => match cores.find? fun a => a.id == p.id with
          | some a => p.handOver stays a
          | none => p }
      else k }

/-- A core without ring entries and results under way, in its registers and its checkpoint. -/
def Core.ringless (c : Core) : Core :=
  let f := fun (r : ArchRegs) => { r with q := r.q.map fun (q : QReg) => { q with entry := none, result := none } }
  { c with r := f c.r, snap := { c.snap with regs := f c.snap.regs } }

/-- The armed mutations of a core, which a task leaves behind. -/
def Core.armedRings (task : Nat) (c : Core) : List Orphan :=
  (List.range 4).filterMap fun k => match (c.r.q.getD k QReg.reset).entry with
    | some e => (match e.phase, e.kind with
      | .gated, _ => none
      | _, .rget => none
      | _, _ => some ⟨task, c.id, k, e⟩)
    | none => none

/-! ## What falls due on a core cycle (R144, R145, R158-R161) -/

/-- The place of an operation among those of its rank: in issue order; landings in the order of their senders (R367). -/
def Late.place (l : Late) : Nat :=
  match l.eff with
  | .land _ _ _ _ sender => sender
  | _ => 16 * l.issued + l.slot

/-- The operations of a rank that perform on the present core cycle of a core, in their order. -/
def Core.dueNow (c : Core) (rank : Nat) : List Late :=
  sortBy Late.place (c.late.filter fun l => !l.eff.early && l.eff.rank == rank && decide (l.due ≤ c.ccy))

/-- They perform; a read of L2 that loses its sub-bank does not, and raises PORT_COLLISION (R90). -/
def State.performRank (losers : List (Nat × Late × Word)) (id rank : Nat) (s : State) : State :=
  match s.coreOf id with
  | none => s
  | some c =>
    let due := c.dueNow rank
    let s := s.onCore id fun c => { c with late := c.late.filter fun l => !due.contains l }
    due.foldl (fun s l => match losers.find? fun x => x.1 == id && x.2.1 == l with
      | some x => s.onCore id fun c => c.faultOf l .portCollision (some x.2.2)
      | none => s.perform id l) s

/-- The effects of a core that perform on this core cycle: reads, those put off at port C last; writes through port C, those put off last;
then the others (R158-R161). -/
def State.performDue (losers : List (Nat × Late × Word)) (id : Nat) (s : State) : State :=
  match s.coreOf id with
  | none => s
  | some c =>
    let p := c.pickC [] [] c.wbuf
    let s := (s.performRank losers id 0).goReads id p.1
    let s := (s.performRank losers id 1).goWrites id p.1
    let s := s.onCore id fun d => { d with wbuf := p.2 ++ d.wbuf.drop c.wbuf.length }
    [2, 3, 4, 5, 6, 7].foldl (fun s k => s.performRank losers id k) s

/-- The late writes that the write buffer of a core which stands still lets go (R160, R161, R184). -/
def State.drainStanding (id : Nat) (s : State) : State :=
  match s.coreOf id with
  | none => s
  | some c =>
    let p := c.pickC [] [] c.wbuf
    (s.goWrites id p.1).onCore id fun d => { d with wbuf := p.2 }

/-- The accesses in flight of a control core that waits in a `fence` go on, while its bundles, and with them its register results, do not
(R279, R305). -/
def State.performFencing (id : Nat) (s : State) : State :=
  (s.performDue [] id).onCore id fun c =>
    let sooner := fun (l : Late) => if l.eff.classes != 0 && decide (c.ccy < l.due) then { l with due := l.due - 1 } else l
    { c with late := c.late.map sooner }

/-- The scalar register that a request writes when it is met. -/
def HoldEnd.dest : HoldEnd → BitVec 6
  | .rcolWrite d .. => d
  | .cwaitWrite d => d
  | _ => 0

/-- A request whose write is lost: s0 discards it. -/
def HoldEnd.lose : HoldEnd → HoldEnd
  | .rcolWrite _ q word rev pc => .rcolWrite 0 q word rev pc
  | .cwaitWrite _ => .cwaitWrite 0
  | e => e

/-- Requests whose register a write of an operation issued after them reaches at the same core cycle lose theirs (R145). -/
def loseWrites (due : List Late) (holds : List HoldReq) : List HoldReq :=
  holds.map fun h =>
    if due.any fun l => l.due == h.at' && decide (h.at' < l.issued + 8) && (match l.eff with
      | .sreg n _ => n == h.fin.dest
      | _ => false)
    then { h with fin := h.fin.lose } else h

/-- The register writes due by a core cycle, in issue order: of two that meet, the later remains (R144, R145). -/
def Core.applyDue (upTo : Nat) (c : Core) : Core :=
  let due := sortBy (fun l => 16 * l.issued + l.slot)
    (c.late.filter fun l => l.eff.early && decide (l.due ≤ upTo))
  due.foldl (fun d l => d.applyEarly l.eff)
    { c with
      late := c.late.filter fun l => !(l.eff.early && decide (l.due ≤ upTo))
      holds := loseWrites due c.holds }

/-- The same at the end of a core cycle, with what took effect noted for a checkpoint that is taken then (R219). -/
def Core.applySeen (upTo : Nat) (c : Core) : Core :=
  { c.applyDue upTo with seen := c.late.filter fun l => l.eff.early && decide (l.due ≤ upTo) }

/-! ## Reads for released effects (R193, R226) -/

/-- A tile access that reads for an effect held or released. -/
def TileOp.effect : TileOp → Option Nat
  | .storeOut _ e _ => some e
  | _ => none

/-- The released effect that an operation in flight reads for, if it is one. -/
def Effect.readsFor : Effect → Option Nat
  | .outRow e _ _ => some e
  | .tile op _ => op.effect
  | _ => none

/-- Whether some cores have still to read for effects that have been released. -/
def State.readsLeft (s : State) (ids : List Nat) : Bool :=
  let reads := fun (e : Effect) => match e.readsFor with
    | some g => s.released.any fun x => x.id == g
    | none => false
  s.cores.any fun c => ids.contains c.id &&
    ((c.late.any fun l => reads l.eff) || c.wbuf.any fun d => (d.read.map fun l => reads l.eff).getD false)

/-- What falls due on some cores in the core cycles to come, up to the last read for a released effect; `n` bounds the core cycles. -/
def State.runOn (ids : List Nat) : Nat → State → State
  | 0, s => s
  | n + 1, s =>
    if s.readsLeft ids then
      let t := ids.foldl (fun s id => s.performDue [] id) s
      (t.mapCores fun c => if ids.contains c.id then { c.applyDue (c.ccy + 1) with ccy := c.ccy + 1 } else c).runOn ids n
    else s

/-- The released effects with the reads made that some cores, which stop now, have still to make for them (R193, R226). -/
def State.settle (ids : List Nat) (s : State) : State :=
  let t := s.mapCores fun c =>
    if ids.contains c.id && c.inHandler then { c with inHold := false, late := c.parkedLate, ccy := c.snap.ccy } else { c with inHold := false }
  let far := fun (c : Core) => c.wbuf.length + c.late.foldl (fun n l => max n (l.due - c.ccy)) (((c.lock.map (·.2)).getD 0) - c.ccy)
  let fuel := (t.cores.filter fun c => ids.contains c.id).foldl (fun n c => max n (far c)) 0 + 8
  { s with released := (t.runOn ids fuel).released }

/-! ## Collectives that end (R17, R123, R373) -/

/-- The collectives of a strand whose numbers meet a test take a status (R373). -/
def Core.collStatus (hit : Nat → Bool) (status : BitVec 8) (c : Core) : Core :=
  let f := fun (w : CollWait) => if hit w.num ∧ w.status = none then { w with status := some status } else w
  { c with colls := c.colls.map f, snap := { c.snap with colls := c.snap.colls.map f } }

/-- Changing the strands that take part in a group, those of pre-empted tasks too. -/
def State.onGroup (group : Nat) (f : Core → Core) (s : State) : State :=
  let g := fun (c : Core) => if c.collgrp = some group then f c else c
  { s.mapCores g with tasks := s.tasks.map fun k => { k with parkedCores := k.parkedCores.map g } }

/-- The strands of a group on this device, by their numbers. -/
def State.members (s : State) (group : Nat) : List Core :=
  (s.cores ++ s.tasks.flatMap (·.parkedCores)).filter fun c => c.collgrp == some group && c.task != 0

/-- How many collectives of a group have ended. -/
def State.collDone (s : State) (group : Nat) : Nat := (SMap.get [] group s.collEnds).length

/-- The status of collective n of a group, if it has ended: across a removed link every one ends with PEER_RESET (R17). -/
def State.collEnd (s : State) (group n : Nat) : Option (BitVec 8) :=
  match (SMap.get [] group s.collEnds)[n - 1]? with
  | some x => some x
  | none => if s.cutGroups.contains group then some 0x71 else none

/-- The next `k` collectives of a group end with a status, which every strand that has issued its part receives, and every other one when
it issues it; their contributions leave the engine. -/
def State.endColls (group k : Nat) (status : BitVec 8) (s : State) : State :=
  let last := s.collDone group + k
  { s.onGroup group (Core.collStatus (fun n => decide (n ≤ last)) status) with
    collEnds := SMap.modify [] group (fun l => l ++ List.replicate k status) s.collEnds
    collWrites := SMap.put [] group [] s.collWrites
    colls := s.colls.filter fun x => !(x.group == group && decide (x.desc.num ≤ last)) }

/-- Every collective of a group that a strand of it has begun, be the strand gone since, ends with a status, and nothing more is
written. -/
def State.abortGroup (group : Nat) (status : BitVec 8) (s : State) : State :=
  let sent := s.released.filterMap fun g => match g.eff with
    | .gather _ _ _ _ (.coll k d) => if k = group then some d.num else none
    | _ => none
  let begun := ((s.members group).map (·.collNum) ++ (s.colls.filter fun x => x.group == group).map (·.desc.num) ++ sent).foldl max 0
  s.endColls group (begun - s.collDone group) status

/-- The third step of a VF reset: once no task of the VF runs, the collectives of the groups noted are aborted with PEER_RESET (R123). -/
def State.abortAfter (v : Nat) (s : State) : State :=
  if s.tasks.any fun k => k.vf == v && k.phase == .running then s
  else
    let f := SMap.get Vf.reset v s.vfs
    let t := f.aborts.foldl (fun s g => s.abortGroup g 0x71) s
    if f.aborts.isEmpty then t else { t with vfs := SMap.put Vf.reset v { f with aborts := [] } t.vfs }

/-! ## Exceptions (R227-R236) -/

/-- A word of IMEM. -/
def ErrorPlace.inImem : ErrorPlace → Bool
  | .imem _ => true
  | _ => false

/-- A core that its task leaves: what is in flight, held or waited for is discarded, or saved by the caller; the registers, the
accumulators, the scratchpad with its tags, the B buffer and the seal slots stay as they are until the task's completion record is written
(R221, R413, R419, R423). -/
def Core.stop (c : Core) : Core :=
  { c with
    run := .ended, gated := [], late := [], parkedLate := [], seen := [], uses := [], windows := [], holds := [], inHold := false, stall := 0
    idle := 0, rest := [], faults := [], call := none, swap := none, ckptWord := none, copies := [], uncached := [], wbuf := []
    exts := [], preempt := none, task := 0, coh := c.id, was := c.task
    eng := { Engine.reset with
      acc := c.eng.acc, int32 := c.eng.int32, bbuf := c.eng.bbuf, half := c.eng.half, bsealed := c.eng.bsealed } }

/-- What is cleared once the completion record is written: the sealed plates are zeroed, the B buffer and the seal slots cleared (R79, R81,
R169). -/
def Core.emptied (c : Core) : Core :=
  { c.unsealed fun _ => true with
    sealSlots := (none, none), was := 0, eng := { c.eng with bbuf := [], half := false, bsealed := false } }

/-- A core that is left with nothing of its task: at a pre-emption, which saves it, and in the reset of its virtual function (R79, R118,
R123, R169). -/
def Core.wiped (c : Core) : Core :=
  { c.stop with
    lcl := [], plates := [], eng := Engine.reset, sealSlots := (none, none), was := 0, bad := c.bad.filter ErrorPlace.inImem }

/-- A task ends with a status: its cores are freed, its unreleased effects are discarded; armed ring operations perform as released
(R118, R123, R227). GCY_END is a free value, since the spec states none for a task that ends before its last strand has halted (R46; log 39,
DESIGN CHOICE). -/
def State.endTask (task status cause : Nat) (tval : Word) (s : State) : State :=
  let mine := s.cores.filter fun c => !c.isControl && c.task == task && c.run != .ended
  let saved := (s.tasks.filter fun k => k.id == task).flatMap (·.parkedCores)
  let vf := ((s.tasks.find? fun k => k.id == task).map (·.vf)).getD 128
  let s := ((s.settle (mine.map (·.id))).handOver task false mine).unsealPartners task
  let (x, s) := s.draw
  let t := s.mapCores fun c =>
    if !c.isControl && c.task == task && c.run != .ended then (if status = 9 then c.ringless.wiped else c.ringless.stop) else c
  State.abortAfter vf { t with
    orphans := t.orphans ++ (mine ++ saved).flatMap (Core.armedRings task)
    pendLevel := t.pendLevel.filter fun p => p.1 / 1024 != task
    tasks := t.tasks.map fun k =>
      if k.id = task then
        { k with phase := .ended, parkedCores := [], exts := [], pages := [],
                 fin := some ⟨status, cause, tval, s.time.gcy, x.extractLsb' 0 64⟩ }
      else if k.partner = some task then { k with partner := none } else k }

/-- csr.tcause as the entry to a handler sets it (R230). -/
def causeWord (cause : Cause) (slot : Nat) (esc : Bool) : BitVec 17 :=
  BitVec.ofNat 17 (cause.code + 256 * slot + 65536 * esc.toNat)

/-- The contents of csr.tval for a fault: as the spec states them, else a free value (log 11, DESIGN CHOICE). -/
def State.faultTval (s : State) (f : TrapRec) : Word × State :=
  match f.tval with
  | some v => (v, s)
  | none => let (x, t) := s.draw; (x.extractLsb' 0 64, t)

/-- Entry to the handler on a compute core (R229): `resume` is csr.tepc. The entry is a swap point, the accumulators are zeroed,
the interrupted matrix state goes to the trap save buffer (R233), and what is in flight stands still while the handler runs (R231). -/
def Core.enterHandler (c : Core) (f : TrapRec) (tval : Word) (esc : Bool) (resume : BitVec 17) : Core :=
  let c := c.zeroBanks fun _ => true
  { c with
    tcause := causeWord f.cause f.slot esc
    tval := tval
    tbpc := f.pc
    tepc := resume
    savedMode := c.mode
    savedLoops := c.loops
    mode := .service
    inh := true
    loops := []
    pc := c.r.tvec.extractLsb' 0 17 &&& 0x1FFE0
    r := { c.r with claimed := 0 }
    eng := { c.eng with nest := none, step := none, carry := [], lastRet := none, rets := [], suspended := true }
    save := some ⟨c.r.nests, c.r.fmt, c.r.coarse, c.r.sp24, c.r.tree, c.r.src, c.eng.nest, c.eng.lastRet, c.eng.rets⟩
    parkedLate := c.late
    late := []
    uses := []
    windows := []
    holds := []
    run := .running
    idle := 0 }

/-- Whether every operation that a handler issued has written (R234): nothing is in flight, no request waits, no copy of its own lacks bytes, no ring
operation of its own is armed or awaits its result. -/
def Core.handlerDone (c : Core) : Bool :=
  c.late.isEmpty && c.holds.isEmpty && (List.range 4).all (fun k =>
      let q := c.r.q.getD k QReg.reset
      (match q.entry with
        | some e => e.phase == .gated || decide (e.issued < c.snap.ccy)
        | none => true)
      && (match q.result with
        | some r => decide (r.issued < c.snap.ccy)
        | none => true)) && !(c.copies.any fun x => decide (c.snap.ccy ≤ x.issued)) && c.wbuf.isEmpty
    && (c.eng.suspended || c.eng.nest.isNone)

/-- The matrix engine with the state of the trap save buffer back in it, and the registers with the descriptors and tables
(R233, R234). -/
def Core.restoreMatrix (c : Core) : Core :=
  let c := c.zeroBanks fun _ => true
  match c.save with
  | none => { c with eng := { c.eng with suspended := false, step := c.snap.step, carry := c.snap.carry } }
  | some m =>
    { c with
      eng := { c.eng with
        suspended := false, nest := m.nest, lastRet := m.lastRet, rets := m.rets, step := c.snap.step, carry := c.snap.carry }
      r := { c.r with nests := m.nests, fmt := m.fmt, coarse := m.coarse, sp24 := m.sp24, tree := m.tree, src := m.src }
      save := none }

/-- Leaving a handler on a compute core (R232, R234, steps 2 to 5): the strand stands at its checkpoint again, which takes the
present registers, and waits for the other handlers of its cohort. -/
def Core.leaveHandler (c : Core) : Core :=
  let d := c.restoreMatrix
  let r := { d.r with valid := d.r.valid &&& ~~~d.r.claimed, claimed := 0 }
  { d with
    r := r
    mode := d.savedMode
    loops := d.savedLoops
    inh := false
    retHandler := false
    pc := d.tepc
    ccy := d.snap.ccy
    pbFrom := d.pbFrom - (d.ccy - d.snap.ccy : Nat)
    late := d.parkedLate
    parkedLate := []
    uses := d.snap.uses
    windows := d.snap.windows
    holds := d.snap.holds
    lock := d.snap.lock
    idle := d.snap.idle
    undo := []
    reserved := []
    snap := { d.snap with regs := r, pc := d.tepc, loops := d.savedLoops, plates := d.plates, colls := d.colls, collNum := d.collNum }
    run := .heldForHandler }

/-- Entry to the handler on a control core (R236): operations in flight go on, the mode stays control. -/
def Core.enterControl (c : Core) (f : TrapRec) (tval : Word) (resume : BitVec 17) : Core :=
  { c with
    tcause := causeWord f.cause f.slot false
    tval := tval
    tbpc := f.pc
    tepc := resume
    savedLoops := c.loops
    loops := []
    inh := true
    idle := 0
    pc := c.r.tvec.extractLsb' 0 17 &&& 0x1FFE0 }

/-- The restart of a control core (R236): the state of package reset, but for its IMEM and its extents. -/
def Core.restart (c : Core) : Core :=
  { Core.control c.id .running with imem := c.imem, exts := c.exts, bad := c.bad.filter ErrorPlace.inImem }

/-- TAKING AN EXCEPTION, on any core (R229, R231, R234, R236). On a compute core the rollback or the checkpoint has been done
before; without a valid handler, and for a fault in a handler, the task ends with STATUS 7 and the fault's cause. On a control
core the handler is entered, or the core restarts. `resume` is the bundle that csr.tepc names. -/
def State.takeException (id : Nat) (f : TrapRec) (esc : Bool) (resume : BitVec 17) (s : State) : State :=
  match s.coreOf id with
  | none => s
  | some c =>
    let (v, t) := s.faultTval f
    if c.isControl then
      if c.inh || !c.r.tvec.getLsbD 63 then t.onCore id Core.restart
      else t.onCore id fun c => c.enterControl f v resume
    else if c.inh || !c.r.tvec.getLsbD 63 then t.endTask c.task 7 f.cause.code v
    else t.onCore id fun c => c.enterHandler f v esc resume

/-- The slot of the operation whose fault it is: the checkpoint markers and the calls stand in slot 0. -/
def TrapRec.standsIn (f : TrapRec) : Nat := if 9 ≤ f.slot then 0 else f.slot

/-- The fault that a strand reports: of the operation in the lowest slot, and of that the first (R227). -/
def Core.reported (c : Core) : Option TrapRec :=
  c.faults.foldl (fun best f => match best with
    | none => some f
    | some b => if f.standsIn < b.standsIn then some f else some b) none

/-! ## Checkpoints (R217-R224) -/

/-- Whether an operation in flight is an entry of the LWB image (R219). -/
def Effect.inLwb : Effect → Bool
  | .sreg .. | .vreg .. | .vbits .. | .mreg .. | .guards .. | .csr .. | .tshapeByte .. | .nestValue .. | .fmtEntry ..
  | .sparsity .. | .treeDesc .. | .source .. | .land .. | .store .. | .atomic .. | .sweepRead .. | .tile .. | .tileBytes ..
  | .retRow .. => true
  | _ => false

/-- The writes that an effect stands for: an atomic writes its register and its window (R219). -/
def Effect.lwbWrites : Effect → Nat
  | .atomic .. => 2
  | .tile (.storeOut ..) _ => 0
  | e => e.inLwb.toNat

/-- Whether a request writes a register when it is met. -/
def HoldReq.writes (h : HoldReq) : Bool :=
  match h.fin with
  | .rcolWrite .. => true
  | .cwaitWrite _ => true
  | _ => false

/-- How many entries an LWB image has, of effects in flight and of requests: a retirement is one entry, and so are the element writes of one
gather (R219). -/
def lwbCount (late : List Late) (holds : List HoldReq) : Nat :=
  let multi := fun (l : Late) => match l.eff with | .retRow .. | .vbits .. | .sweepRead .. => true | _ => false
  ((late.filter fun l => !multi l).map fun l => l.eff.lwbWrites).sum +
    (distinct ((late.filter multi).map fun l => 16 * l.issued + l.slot)).length + (holds.filter HoldReq.writes).length

/-- The reads for effects that bank locks and atomic windows put off: they belong to the checkpoint too (R193). -/
def Core.readsPutOff (c : Core) : List Late :=
  c.wbuf.filterMap fun d => match d.read with
    | some l => if l.eff.readsFor.isSome then some { l with due := c.ccy } else none
    | none => none

/-- Recording the checkpoint of a core at its present CCY (R217, steps 3 to 8). A register write due now is in the shadow set, and it is an
entry of the LWB image too: it is made again when the core cycle comes again (R219, R231). -/
def Core.takeSnap (c : Core) : Core :=
  { c with
    snap := ⟨c.ccy, c.r, c.seen.filter (fun l => l.due == c.ccy) ++ c.late ++ c.readsPutOff, c.uses, c.windows, c.holds,
      c.eng.nest, c.eng.lastRet, c.eng.rets, c.eng.int32, c.eng.step, c.eng.carry, c.claims, c.pc, c.loops, c.lock,
      c.idle, c.run == .halted, c.plates, c.colls, c.collNum⟩
    undo := []
    reserved := []
    rbcnt := 0 }

/-- The register writes of the checkpoint that are due at its own core cycle. -/
def Core.dueAtSnap (c : Core) : List Late := c.snap.late.filter fun l => l.eff.early && decide (l.due ≤ c.snap.ccy)

/-- Whether the bundle that has just issued may hold a checkpoint for the nest (R222, R343): no nest is open, or it was opened by
this bundle, or its next step starts now, after a step that retired, with no sum left unretired. -/
def Core.atBoundary (c : Core) : Bool :=
  match c.eng.nest with
  | none => true
  | some n =>
    n.started + 1 == c.ccy || (n.next == c.ccy && n.unretired == 0 && c.eng.lastRet == some (c.ccy - 1))

/-- The checks of a checkpoint on one strand, apart from its own stamp (R190, R217, R219, R222): the first that fails. -/
def State.ckptCheck (s : State) (c : Core) : Option TrapRec :=
  let fault := fun (cause : Cause) (v : Option Word) => some (⟨cause, v, 9, c.lastPc⟩ : TrapRec)
  match (List.range 4).find? fun q => (c.r.q.getD q QReg.reset).err && (c.r.q.getD q QReg.reset).arrived with
  | some q => fault .ringState (some (BitVec.ofNat 64 ((c.r.q.getD q QReg.reset).slot.toNat + 1024 * q)))
  | none =>
    match s.ckptFaults.find? fun x => x.1 == c.strand with
    | some (_, f) => some { f with slot := 9, pc := c.lastPc }
    | none =>
      if !c.atBoundary then fault .mxCkpt none
      else if 256 < lwbCount (c.seen.filter (fun l => l.due == c.ccy) ++ c.late) c.holds then fault .undoFull (some (BitVec.ofNat 64 (2 ^ 63)))
      else none

/-- The call entries of a cohort whose checkpoint has been taken: their strands enter their handlers, and the others hold (R234, R286). -/
def State.enterCalls (coh : Nat) (s : State) : State :=
  let callers := (s.cohort coh).filter fun c => c.call.isSome
  if callers.isEmpty then s
  else
    let t := s.mapCores fun c => if c.coh = coh then { c with call := none, run := .heldForHandler, late := c.dueAtSnap ++ c.late } else c
    callers.foldl (fun t c => match c.call, (t.coreOf c.id).map (·.run) with
      | some (cause, code), some .heldForHandler => t.takeException c.id ⟨cause, some (code.setWidth 64), 10, c.lastPc⟩ false c.pc
      | _, _ => t) t

/-! ## Regulators -/

/-- The regulator of a cluster (R27, R30). -/
def State.regOf (s : State) (cluster : Nat) : Nat :=
  (((s.pwrmap.getD (cluster / 16) 0) >>> (2 * (cluster % 16))).extractLsb' 0 2).toNat

end Sys2Proof.Machine
end

