-- ==== Sys2Proof/Machine/Mesh.lean ====
section
/-! DEFINITION. Timed transfers on the mesh of a canvas: routes, transit times, and meetings on a link (R105, R140, R142, R171, R172,
R185). -/

namespace Sys2Proof.Machine

/-- The mesh column and row of a core (R105). -/
def meshXY (id : Nat) : Nat × Nat :=
  let k := id % 128 / 8
  (2 * (k % 8) + id % 2, 4 * (k / 8) + id % 8 / 2)

/-- The core of a canvas at a mesh column and row. -/
def coreAt (canvas : Nat) (xy : Nat × Nat) : Nat :=
  128 * canvas + 8 * (8 * (xy.2 / 4) + xy.1 / 2) + 2 * (xy.2 % 4) + xy.1 % 2

/-- The numbers from a to b, a included and b not. -/
def stepsTo (a b : Nat) : List Nat := if a ≤ b then (List.range (b - a)).map (a + ·) else (List.range (a - b)).map (a - ·)

/-- The cores that a transfer stands at, from the sender to the receiver: column first, then row (R142). -/
def route (a b : Nat) : List Nat :=
  let (x, y) := meshXY a
  let (x', y') := meshXY b
  ((stepsTo x x').map fun i => coreAt (canvasOf a) (i, y)) ++ ((stepsTo y y').map fun j => coreAt (canvasOf a) (x', j)) ++ [b]

/-- The core cycles that a transfer spends in a router that it leaves: entry 26 (R140). -/
def State.transit (s : State) (core : Nat) : Nat := ((s.tableEntry core 26).extractLsb' 0 12).toNat

/-- The links of a path, each with the core cycle at which the transfer enters its router. -/
def State.hops (s : State) : List Nat → Nat → List (Nat × Nat × Nat)
  | a :: b :: rest, t => (a, b, t) :: s.hops (b :: rest) (t + s.transit a)
  | _, _ => []

/-- The core cycles between issue and landing, apart from the first: the sum over the routers left (R185). -/
def State.transitSum (s : State) (a b : Nat) : Nat := ((route a b).dropLast.map s.transit).foldl (· + ·) 0

/-- A transfer under way to a core: the links on which one of its two beats stands at a core cycle, with its rank in a meeting there: the
core cycle at which it entered the router, then its sender (R171, R172). -/
def State.beatsAt (s : State) (receiver : Nat) (l : Late) (at' : Nat) : List ((Nat × Nat) × Nat × Nat) :=
  match l.eff with
  | .land _ _ _ _ sender =>
    ((s.hops (route sender receiver) (l.issued + 1)).filter fun h => h.2.2 == at' || h.2.2 + 1 == at').map fun h =>
      ((h.1, h.2.1), h.2.2, sender)
  | _ => []

/-- The transfers of a cohort that meet another, which goes on, on this core cycle: receiver, issue and sender (R172). -/
def State.meshLosers (s : State) (members : List Core) : List (Nat × Nat × Nat) :=
  let beats := members.flatMap fun c => c.late.flatMap fun l => (s.beatsAt c.id l c.ccy).map fun b => (c.id, l.issued, b)
  beats.filterMap fun x =>
    let (c, issued, link, entered, sender) := x
    if beats.any fun y => y.2.2.1 == link && (decide (y.2.2.2.1 < entered) || (y.2.2.2.1 == entered && decide (y.2.2.2.2 < sender))) then
      some (c, issued, sender)
    else none

/-- The transfers that lose a meeting on this core cycle are discarded whole. -/
def State.meetOnMesh (coh : Nat) (s : State) : State :=
  let lost := s.meshLosers ((s.cohort coh).filter fun c => c.turn)
  if lost.isEmpty then s
  else s.mapCores fun c => { c with late := c.late.filter fun l => match l.eff with
    | .land _ _ _ _ sender => !lost.contains (c.id, l.issued, sender)
    | _ => true }

end Sys2Proof.Machine
end

