-- ==== Sys2Proof/Machine/Records.lean ====
section
/-! DEFINITION. Virtual functions and launches: the fields of a launch record, places and status words (R41-R49, R105, R106, R114, R117). -/

namespace Sys2Proof.Machine

/-! ## Virtual functions -/

/-- A virtual function. -/
def State.vf (s : State) (v : Nat) : Vf := SMap.get Vf.reset v s.vfs

/-- Changing a virtual function, of the 128 there are. -/
def State.onVf (v : Nat) (f : Vf → Vf) (s : State) : State :=
  if v < 128 then { s with vfs := SMap.modify Vf.reset v f s.vfs } else s

/-- Launch queue q of a virtual function. -/
def Vf.queue (f : Vf) (q : Nat) : LaunchQueue := f.lq.getD q LaunchQueue.reset

/-- Changing a launch queue. -/
def State.onQueue (v q : Nat) (g : LaunchQueue → LaunchQueue) (s : State) : State :=
  s.onVf v fun f => { f with lq := f.lq.setIfInBounds q (g (f.queue q)) }

/-- The active Curator (R125, R126). -/
def State.activeCurator (s : State) : Nat := if s.cur.activeB then 513 else 512

/-! ## Fields of a launch record (R106) -/

/-- A field of a task's launch record: `n` bytes at offset `o`. -/
def Task.field (k : Task) (o n : Nat) : Nat := fieldAt k.record o n

/-- TYPE, TIER and SEAL_ID. -/
def Task.type (k : Task) : Nat := k.field 0 1
def Task.tier (k : Task) : Nat := k.field 1 1 % 8
def Task.sealId (k : Task) : Nat := k.field 2 1

/-- FLAGS. -/
def Task.foldOk (k : Task) : Bool := k.field 3 1 % 2 == 1
def Task.forceClass (k : Task) : Bool := k.field 3 1 / 2 % 2 == 1

/-- WIDTH, HEIGHT, COHSIZE and COHORTS. -/
def Task.width (k : Task) : Nat := k.field 4 1
def Task.height (k : Task) : Nat := k.field 5 1
def Task.cohsize (k : Task) : Nat := k.field 6 2
def Task.cohorts (k : Task) : Nat := k.field 8 2

/-- The timing classes of the record. -/
def Task.classes (k : Task) : List Nat := (List.range (k.field 10 1)).map fun j => k.field (32 + 4 * j) 4

/-- SLIP_GROUP, IMAGE_LEN, ENTRY, PBOUND, RSB, RSBALT, COLLGRP, PARTNER, ARG0 and ARG1. -/
def Task.slipGroup (k : Task) : Nat := k.field 14 2
def Task.imageLen (k : Task) : Nat := k.field 56 4
def Task.entry (k : Task) : Nat := k.field 60 4
def Task.pbound (k : Task) : Nat := k.field 80 4
def Task.rsb (k : Task) : Nat := k.field 84 4
def Task.rsbalt (k : Task) : Nat := k.field 88 4
def Task.collgrp (k : Task) : Nat := k.field 92 4
def Task.partnerNum (k : Task) : Nat := k.field 104 4
def Task.arg0 (k : Task) : Nat := k.field 112 8
def Task.arg1 (k : Task) : Nat := k.field 120 8

/-- START_OFS. -/
def Task.startOfs (k : Task) : Nat := fieldAt k.record 72 8

/-- The predecessors of the record. -/
def Task.preds (k : Task) : List Nat := (List.range (min 4 (k.field 12 1))).map fun i => k.field (16 + 4 * i) 4

/-- A stage-1 invalidation, and the switch of a resident pair (R111, R122): records without strands. -/
def Task.isInvalidation (k : Task) : Bool := k.type == 3 && k.imageLen == 0
def Task.isSwitch (k : Task) : Bool := k.type == 1 && k.imageLen == 0

/-- A task that is dispatched on the device: placed, and not yet gone from its cores (R121). -/
def Task.dispatched (k : Task) : Bool := k.phase == .waiting || k.phase == .running || k.phase == .parked

/-- The task with a number, and changing it. -/
def State.task (s : State) (id : Nat) : Option Task := s.tasks.find? fun k => k.id == id
def State.onTask (id : Nat) (f : Task → Task) (s : State) : State :=
  { s with tasks := s.tasks.map fun k => if k.id = id then f k else k }

/-! ## Places (R105, R114) -/

/-- The core of strand i of a cohort at a place (R114). -/
def placeCore (p : Place) (cohsize width i : Nat) : Nat :=
  if cohsize ≤ 8 then 128 * p.canvas + 8 * (8 * p.y0 + p.x0) + (p.b + i)
  else 128 * p.canvas + 8 * (8 * (p.y0 + i / (8 * width)) + p.x0 + i / 8 % width) + i % 8

/-- The cores of a cohort of a task at a place. -/
def Task.coresAt (k : Task) (p : Place) : List Nat := (List.range k.cohsize).map (placeCore p k.cohsize k.width)

/-- The cores that a task holds. -/
def Task.cores (k : Task) : List Nat := k.places.flatMap k.coresAt

/-- The cores that dispatched tasks hold, and those of an ended task whose record has not been formed (R126). -/
def State.heldCores (s : State) : List Nat :=
  (s.tasks.filter Task.dispatched).flatMap Task.cores ++ (s.cores.filter fun c => !c.isControl && c.task != 0).map (·.id)

/-- Whether a task is dispatched on a cluster. -/
def State.clusterBusy (s : State) (g : Nat) : Bool := s.heldCores.any fun c => clusterOf c == g

/-- The partition of a cluster, if it belongs to one, and the world of a partition. -/
def State.partitionOf (s : State) (g : Nat) : Option Nat := SMap.get none g s.partOf
def State.worldOf (s : State) (p : Nat) : Option Nat := SMap.get none p s.partWorld

/-- The clusters of the partitions bound to a virtual function (R41). -/
def State.boundClusters (s : State) (v : Nat) : List Nat :=
  (List.range 64).filter fun g => match s.partitionOf g with
    | some p => (s.vf v).parts.getLsbD p
    | none => false

/-- csr.tclass of a core (R133, R140). -/
def State.tclass (s : State) (core : Nat) : BitVec 32 := (s.cs core).tclass

/-- The distinct timing classes, ascending, of the cores in service in the partitions bound to a virtual function (R55). -/
def State.boundClasses (s : State) (v : Nat) : List Nat :=
  let cores := (s.boundClusters v).flatMap fun g => (List.range 8).map fun i => 8 * g + i
  sortBy id (distinct ((cores.filter fun c => (s.cs c).state == 0).map fun c => (s.tclass c).toNat))

/-! ## Placement (R28, R114, R115) -/

/-- The clusters of the rectangle of a cohort at a place. -/
def Task.clustersAt (k : Task) (p : Place) : List Nat :=
  if k.cohsize ≤ 8 then [16 * p.canvas + 8 * p.y0 + p.x0]
  else (List.range k.height).flatMap fun y => (List.range k.width).map fun x => 16 * p.canvas + 8 * (p.y0 + y) + p.x0 + x

/-- Whether a place lies on a canvas. -/
def Task.placeValid (k : Task) (p : Place) : Bool :=
  decide (p.canvas < 4) &&
    (if k.cohsize ≤ 8 then decide (p.x0 < 8) && decide (p.y0 < 2) && k.cohsize != 0 && p.b % k.cohsize == 0 && decide (p.b < 8)
     else decide (p.x0 + k.width ≤ 8) && decide (p.y0 + k.height ≤ 2) && p.b == 0)

/-- Whether all clusters of a partition lie in one regulator's domain (R28). -/
def State.oneDomain (s : State) (part : Nat) : Bool :=
  let rs := ((List.range 64).filter fun g => s.partitionOf g == some part).map s.regOf
  rs.all fun r => r == rs.headD 0

/-- Whether a core may take a strand of a task: never one that is dropped, held back or under test (R114, R115, R133, R142). -/
def State.coreFits (s : State) (k : Task) (core : Nat) : Bool :=
  let st := (s.cs core).state
  if k.forceClass then st == 0 || st == 4 else st == 0 && k.classes.contains (s.tclass core).toNat

/-- Whether a cohort of a task may stand at a place, its cores apart (R28, R97, R114). -/
def State.clustersFit (s : State) (k : Task) (p : Place) : Bool :=
  let gs := k.clustersAt p
  match gs.map s.partitionOf with
  | some part :: rest =>
    (s.vf k.vf).parts.getLsbD part && s.worldOf part == some k.world && rest.all (· == some part) && s.oneDomain part
      && gs.all fun g => (s.col g).change.isNone && ((s.col g).off == 0 || k.foldOk)
  | _ => false

/-- Whether R114 allows the places of a task: every cohort at a place of its own, on cores that fit (R28, R41, R114, R133). -/
def State.placesAllowed (s : State) (k : Task) (places : List Place) : Bool :=
  let cores := places.flatMap k.coresAt
  places.length == k.cohorts && (distinct cores).length == cores.length
    && places.all (fun p => k.placeValid p && s.clustersFit k p)
    && cores.all (s.coreFits k)

/-! ## Status words (R48) -/

/-- A status word. -/
def statusWord (lnum : BitVec 32) (cause queue state : Nat) : Word :=
  BitVec.ofNat 64 (2 ^ 32 * lnum.toNat + 2 ^ 24 * (cause % 256) + 2 ^ 16 * queue + state)

/-- STATE of a launch that the Curator holds (R48). The rule names no state for a record that is invalidating (1 here, fetched), a pair
switch (3) and a parked member of a pair (4) (log 80, DESIGN CHOICE). -/
def Task.stateCode (k : Task) : Nat :=
  match k.fin with
  | some e => e.status
  | none => match k.phase with
    | .invalidating => 1
    | .switching => 3
    | .translating => 2
    | .ready => 3
    | .waiting => 3
    | .running => 4
    | .parked => 4
    | .preempted => 5
    | .ended => 6

/-- The status word of a task now. -/
def Task.word (k : Task) : Word := statusWord k.lnum ((k.fin.map (·.cause)).getD 0) k.queue k.stateCode

/-- Whether a launch number is one of the VF's 131,072 newest. -/
def Vf.keeps (f : Vf) (lnum : BitVec 32) : Bool := decide ((f.lnum - 1 - lnum).toNat < 131072)

/-- The status word of a launch number of a virtual function, if the device keeps it. -/
def State.launchWord (s : State) (v : Nat) (lnum : BitVec 32) : Word :=
  if !(s.vf v).keeps lnum then 0
  else
    match s.tasks.find? fun k => k.vf == v && k.lnum == lnum with
    | some k => k.word
    | none =>
      let w := SMap.get 0 (lnum.toNat % 131072) (s.vf v).status
      if w.extractLsb' 32 32 = lnum then w else 0

/-- The words of BAR 2: the word at offset 8i of the window (R48). -/
def State.bar2Word (s : State) (v i : Nat) : Word :=
  s.launchWord v (BitVec.ofNat 32 ((s.vf v).lswin.toNat * 131072 + i))

/-- Keeping the status word of a launch. -/
def State.keepWord (v : Nat) (w : Word) (s : State) : State :=
  s.onVf v fun f =>
    if f.keeps (w.extractLsb' 32 32) then
      { f with status := SMap.put 0 ((w.extractLsb' 32 32).toNat % 131072) w f.status }
    else f

/-! ## Predecessors (R117) -/

/-- The launch number of a predecessor that failed. -/
def State.failedPred (s : State) (k : Task) : Option Nat :=
  k.preds.find? fun p =>
    let st := ((s.launchWord k.vf (BitVec.ofNat 32 p)).extractLsb' 0 4).toNat
    decide (7 ≤ st) && decide (st ≤ 9)

/-- The predecessors that have not completed. -/
def State.openPreds (s : State) (k : Task) : List Nat :=
  k.preds.filter fun p =>
    let st := ((s.launchWord k.vf (BitVec.ofNat 32 p)).extractLsb' 0 4).toNat
    decide (1 ≤ st) && decide (st ≤ 5)

/-! ## The members of a resident pair (R121, R122) -/

/-- Whether a virtual function neither fetches nor dispatches: it is being reset, or in ERROR (R54, R123). -/
def State.vfStopped (s : State) (v : Nat) : Bool := (s.vf v).resetting || (s.vf v).tdi == 3

/-- The launches that switch a pair to a task, whose predecessors have completed. -/
def State.switchesTo (s : State) (id : Nat) : List Task :=
  s.tasks.filter fun z => z.phase == .switching && z.partner == some id && (s.openPreds z).isEmpty

/-- Whether a partner of a parked member has still to start on its cores (R121). -/
def State.installs (s : State) (id : Nat) : Bool :=
  s.tasks.any fun y => y.partner == some id && y.type == 1 && !y.isSwitch
    && (y.phase == .translating || y.phase == .ready || y.phase == .waiting)

/-- Whether a parked member goes on now, where R28 and R114 allow its places: it is the one that a switch asks for, and its partner has left
the cores; or its partner is gone, and none is about to start on them (R121, R122, R130). -/
def State.mayUnpark (s : State) (k : Task) : Bool :=
  !s.cur.paused && !s.vfStopped k.vf && k.phase == .parked && s.placesAllowed k k.places &&
    match k.partner.bind s.task with
    | none => !s.installs k.id
    | some a => a.phase == .parked && !(s.switchesTo k.id).isEmpty

end Sys2Proof.Machine
end

