-- ==== Sys2Proof/Machine/Schedule.lean ====
section
/-! DEFINITION. What comes next: an event of the environment, an event that falls due inside the part, or the next word of a bundle;
fetching a bundle and the checks of R240. -/

namespace Sys2Proof.Machine

/-- What the machine does next. -/
inductive Action where
  | stop
  | event (i : Instr) (s : State)
  | word (i : Instr) (s : State)
deriving DecidableEq, Repr

/-! ## Events that fall due inside the part -/

/-- Whether a core is on the way to its next bundle on this clock: neither held, nor in an extra clock, nor stopped. -/
def Core.goes (c : Core) : Bool :=
  (c.run == .running || c.run == .halted) && !c.inHold && c.stall == 0 && !c.turn

/-- The requests of a core that have taken effect. -/
def Core.inEffect (c : Core) : List HoldReq := c.holds.filter fun h => decide (h.at' ≤ c.ccy)

/-- The strands that a hold of a core stops: its cohort, or in a handler the strand alone (R182, R414). -/
def State.holdGroup (s : State) (c : Core) : List Core := if c.inHandler then [c] else s.cohort c.coh

/-- Whether a request is an `rcol` whose result has arrived with the state-error mark (R190). -/
def Core.reqMarked (c : Core) (h : HoldReq) : Bool :=
  match h.fin with
  | .rcolWrite _ q _ _ _ => (c.qreg q).arrived && (c.qreg q).err
  | _ => false

/-- csr.tval of RING_STATE for a marked q register (R190). -/
def Core.markTval (c : Core) (q : Nat) : Word := BitVec.ofNat 64 ((c.r.q.getD q QReg.reset).slot.toNat + 1024 * q)

/-- The fault of an `rcol` whose marked result arrives after it: one of the core cycle before the bundle that waits (R190). -/
def Core.rcolFault (c : Core) : Core :=
  match c.inEffect.find? c.reqMarked with
  | some h => (match h.fin with
    | .rcolWrite _ q _ _ pc => { c with faults := c.faults ++ [⟨.ringState, some (c.markTval q.toNat), 7, pc⟩] }
    | _ => c)
  | none => c

/-- Whether a request that has taken effect on the strands of a hold is so marked. -/
def State.holdMarked (s : State) (c : Core) : Bool := (s.holdGroup c).any fun d => d.inEffect.any d.reqMarked

/-- Whether an armed entry performs at the stop of a core on this clock: its slot stands there, after the clock of its arming, the core
is neither dropped nor out of service, and no other operation has performed there on this passage (R131, R142, R174, R188). -/
def State.entryDue (s : State) (id : Nat) (e : RingEntry) : Bool :=
  match e.phase with
  | .armed g => decide (g < s.time.gcy) && (e.slot + s.time.gcy) % 256 == stopOf id && (s.cs id).state != 5
      && (s.cs id).state != 4 && !s.passed.contains (id, e.canvas)
  | .gated => false

/-- The q register of a core whose armed entry performs on this clock, if one does: of several, the lowest (R174, R188). -/
def State.ringDue (s : State) (c : Core) : Option Nat :=
  (List.range 4).find? fun q => ((c.r.q.getD q QReg.reset).entry.map (s.entryDue c.id)).getD false

/-- The q register of a core whose result arrives on this clock, if one does (R190). -/
def State.ringArrives (s : State) (c : Core) : Option Nat :=
  (List.range 4).find? fun q => match (c.r.q.getD q QReg.reset).result with
    | some r => decide (r.arrives ≤ s.time.gcy)
    | none => false

/-- The cores of pre-empted and parked tasks: what their stops hold performs where it was armed. -/
def State.savedCores (s : State) : List Core := (s.tasks.filter fun k => k.phase == .preempted || k.phase == .parked).flatMap (·.parkedCores)

/-- The ring event that is due on this clock for cores without a strand that issues, if any. -/
def State.strayRing (s : State) : Option Instr :=
  match s.savedCores.findSome? fun c => match s.ringArrives c, s.ringDue c with
    | some q, _ => some (Instr.ringResultArrive c.id q)
    | none, some q => some (.ringOpPerform c.id q)
    | none, none => none with
  | some i => some i
  | none => (s.orphans.find? fun o => s.entryDue o.core o.entry).map fun o => .ringOpPerform o.core o.q

/-- Whether a core waits for a ring passage or a ring result (R179). -/
def Core.ringBusy (c : Core) : Bool :=
  (List.range 4).any fun q => (c.r.q.getD q QReg.reset).entry.isSome || (c.r.q.getD q QReg.reset).result.isSome

/-- Whether a cohort ends: on a core cycle, with every strand halted, no fault, and no ring operation armed or awaiting its result, nor
a mark that came with one (R179, R190). -/
def State.cohortOver (s : State) (c : Core) : Bool :=
  (s.cohort c.coh).all fun d => d.run == .halted && d.goes && d.faults.isEmpty && !d.ringBusy
    && !(d.late.any fun l => match l.eff with
      | .raise f => f.cause == .ringState
      | _ => false)

/-- What is to be done on a core before any engine's core cycle begins: a rollback, a resumption, a hold (R183, R184, R225). -/
def State.coreStops (s : State) (c : Core) : Option Instr :=
  if c.run == .faulted then
    some (if c.id = 512 then .takeover else .rollback c.id)
  else if c.run == .rolledBack && !(s.cohort c.coh).any (fun d => d.waitFills.any fun f => s.fills.any fun x => x.id == f) then
    some (.rollbackResume c.id)
  else if c.goes && !c.isControl && !c.inEffect.isEmpty then some (.holdTakeEffect c.id)
  else none

/-- The event that a core's own state makes due, if any. -/
def State.coreDue (s : State) (c : Core) : Option Instr :=
  match s.ringArrives c, s.ringDue c with
  | some q, _ => some (.ringResultArrive c.id q)
  | none, some q => some (.ringOpPerform c.id q)
  | none, none =>
    if c.inHold && ((s.holdGroup c).all fun d => d.inEffect.all fun h => h.met) || c.inHold && s.holdMarked c then some (.holdEnd c.id)
    else if c.goes && !c.eng.suspended && c.faults.isEmpty && (match c.eng.nest with | some n => n.next == c.ccy | none => false) then
      some (.nestStep c.id)
    else if c.goes && (match c.lock with | some (_, last) => decide (last < c.ccy) | none => false) then some (.lockExpire c.id)
    else if !c.isControl && c.run == .halted && s.cohortOver c then
      some (.cohortEnd c.id)
    else if c.preempt.isSome && decide ((c.pbound : Int) < c.ccy - c.pbFrom) && !c.isControl then some (.pboundKill c.task)
    else none

/-- The next multiple of n that GCY would take if it advanced normally on this tick. -/
def Time.nextIs (t : Time) (n : Nat) : Bool := (t.gcy + 1) % n == 0

/-- Whether a level change may come: at a bundle boundary of its whole cohort, which is on its cores (R35). -/
def State.levelDue (s : State) (p : Nat × Nat × Nat) : Bool :=
  !(s.cohort p.1).isEmpty && (s.cohort p.1).all fun c => c.goes && decide (p.2.2 ≤ c.ccy)

/-- Whether the Primer runs the task of R392 on the arrival that TDIEVT shows: where its IMEM holds an image, the bundles of that image run
(R57; log 84, DESIGN CHOICE). -/
def State.primerTask (s : State) : Bool :=
  s.tdiEvt.isSome && s.cores.any fun c => c.id == 515 && c.run == .running && c.imem.isEmpty

/-- The event of the package that is due on this clock, if any (R17, R18, R21, R22, R33, R35, R38, R62, R117, R119,
R122, R380, R392). -/
def State.packageDue (s : State) : Option Instr :=
  let t := s.time
  if s.primerTask then s.tdiEvt.map fun e => if e.kind = 1 then .spdmRequest e.vf true e.msg else .tdidone 515 (BitVec.ofNat 64 e.len)
  else if t.nextIs 4096 && t.pending != 0 && t.slewDone != t.gcy + 1 then some .slewStep
  else if t.nextIs 1048576 && t.enable && t.queuedAt != t.gcy + 1 then some .timeFlitQueue
  else if s.window + 1700000 ≤ t.gcy then some .dispatchWindow
  else
    match s.links.findSome? fun (n, l) =>
      if 8 ≤ l.asks ∧ l.up then some (Instr.linkDown n)
      else (l.pauses.find? fun p => decide (p.2 ≤ t.gcy)).map fun p => Instr.pauseExpire n p.1 with
    | some i => some i
    | none =>
      match s.pendLevel.find? s.levelDue with
      | some p => some (.levelChange p.1)
      | none =>
        match (List.range 4).find? fun n => 16 ≤ (s.regs.getD n Regulator.reset).overRuns with
        | some n => some (.domainReport n)
        | none =>
        match (List.range 4).find? fun n => decide ((s.regs.getD n Regulator.reset).lastRun + 2048 ≤ t.gcy) with
        | some n => some (.powerInterval n ((List.range 8).map fun k =>
            ⟨(Config.powerEstimate n t.gcy k).1, (Config.powerEstimate n t.gcy k).2⟩) (Config.meanPower n t.gcy))
        | none =>
          match s.tasks.find? fun k => k.phase == .waiting &&
              (if k.slipped then !s.cur.paused && (s.openPreds k).isEmpty else decide (k.anchor + k.startOfs ≤ t.gcy)) with
          | some k => some (.taskStart k.id)
          | none =>
          match s.tasks.find? s.mayUnpark with
          | some k => some (.taskResume k.id [])
          | none =>
            match s.slotScrub.find? fun p => (p.2 + t.gcy) % 256 == 1 with
            | some p => some (.roundelScrub p.1 p.2)
            | none =>
              match s.selftest with
              | some (core, unit) =>
                if s.testFrom + 68000 ≤ t.gcy then
                  some (.selfTestDone (Config.testVerdict s.testFrom core unit).1 (Config.testVerdict s.testFrom core unit).2)
                else if 1048576 ≤ s.drbg then some .drbgReseed else none
              | none => if 1048576 ≤ s.drbg then some .drbgReseed else none

/-- The event that is due at the beginning of this clock, if any. -/
def State.dueEvent (s : State) : Option Instr :=
  match (s.cores.findSome? s.coreStops).or (s.cores.findSome? s.coreDue) with
  | some i => some i
  | none => match s.strayRing with
    | some i => some i
    | none => s.packageDue

/-! ## Arrivals at the functions of the port (R52, R56, R387) -/

/-- Whether a TDI is in CONFIG_LOCKED or RUN. -/
def Vf.isLocked (f : Vf) : Bool := f.tdi == 1 || f.tdi == 2

/-- Whether a TDISP message of a virtual function is with the Primer. -/
def State.withPrimer (s : State) (v : Nat) : Bool :=
  (s.tdiEvt.toList ++ s.tdiQueue).any fun e => e.kind == 1 && e.vf == v

/-- A function's mailbox. -/
def State.mailbox (s : State) (fn : Nat) : Doe := SMap.get Doe.reset fn s.doe
def State.setMailbox (fn : Nat) (d : Doe) (s : State) : State := { s with doe := SMap.put Doe.reset fn d s.doe }

/-- Whether a secured request whose Go a function has received is not answered: its message comes as an event of its own row (R52). -/
def State.securedHeld (s : State) (fn : Nat) : Bool := (s.mailbox fn).busy && (s.mailbox fn).secured

/-- Whether an arrival at a virtual function is not processed completely, so that the next one waits: a message of it is with the Primer,
a STOP has not been answered, or a secured request has not (R52, R387, R389). -/
def State.unfinished (s : State) (v : Nat) : Bool := s.withPrimer v || (s.vf v).stopRsp.isSome || s.securedHeld (1 + v)

/-- Whether a PF write that touches the locked sets of some VFs waits: one of those that are locked or running has a message with the
Primer (R387). -/
def State.pfWaits (s : State) (touched : List Nat) : Bool :=
  touched.any fun v => (s.vf v).isLocked && s.withPrimer v

/-- Whether a WORLD_DESTROY waits for its frames: the Primer has not answered it (R62). -/
def State.destroyPending (s : State) : Bool := s.worlds.any fun w => w.2.destroying

/-- The function that an arrival is at (a VF's number, or 128 for the PF), and whether it waits there. -/
def State.arrivalAt (s : State) (i : Instr) : Option (Nat × Bool) :=
  let bar := fun (v : Nat) => some (v, s.unfinished v)
  let doe := fun (v : Nat) => some (min v 128, s.withPrimer v || (s.vf v).resetting)
  let held := s.securedHeld 0
  let pf := some (128, held)
  let locked := fun (vs : List Nat) => some (128, held || s.pfWaits vs)
  -- the Primer takes one service request at a time: a WORLD_DESTROY that is not answered holds back the next (R61, R62)
  let service := fun (mb : Mailbox) => match mb.vf with
    | some v => some (min v 128, s.withPrimer v || (s.vf v).resetting || s.destroyPending)
    | none => some (128, s.destroyPending)
  match i with
  | .doorbell v _ _ => bar v
  | .lqbaseWrite v _ _ _ => bar v
  | .lqcfgWrite v _ _ _ => bar v
  | .cqbaseWrite v _ _ => bar v
  | .cqcfgWrite v _ _ => bar v
  | .cqheadWrite v _ => bar v
  | .vfFlr v => bar v
  | .ideStreamLoss v => bar v
  | .registerWrite w => (match w.space with
    | .vfBar0 v => bar v
    | .vfBar2 v => bar v
    | .vfConfig v => bar v
    | .pfBar0 => pf
    | .pfConfig => pf
    | .stretcher => none)
  | .s2inv _ => pf
  | .pfReset => some (128, held || (List.range 128).any s.unfinished)
  | .ideKm stream secure => some (128, decide (1 ≤ stream) && !secure && s.unfinished (stream - 1))
  | .worldCreate mb _ _ _ => service mb
  | .worldRekey mb _ => service mb
  | .worldDestroy mb _ => service mb
  | .worldExport mb _ => service mb
  | .worldImport mb _ _ _ _ => service mb
  | .sealInstall mb _ _ _ => service mb
  | .sealRemove mb _ => service mb
  | .getTdispVersion v => doe v
  | .getTdispCapabilities v => doe v
  | .getDeviceInterfaceState v => doe v
  | .lockInterfaceRequest v _ => doe v
  | .getDeviceInterfaceReport v _ _ => doe v
  | .startInterfaceRequest v _ => doe v
  | .stopInterfaceRequest v => doe v
  | .bindP2pStreamRequest v => doe v
  | .unbindP2pStreamRequest v => doe v
  | .setMmioAttributeRequest v => doe v
  | .tdispVendorRequest v => doe v
  | .getMeasurements v _ => doe v
  | .spdmRequest v _ _ => doe v
  | .vfbindWrite v _ => locked [v]
  | .lockedSetWrite v reg w => (match reg with
    | .msixEntry _ => bar v
    | .msixControl => bar v
    | .streamControl => locked [v]
    | .ridAssociation _ => locked [v]
    | .addressAssociation _ => locked [v]
    | .vfbind => locked [v]
    | .bar0 => locked (List.range 128)
    | .bar2 => locked (List.range 128)
    | .command => locked (List.range 128)
    | .sriovControl =>
      -- clearing VF Enable resets the virtual functions, each behind what it has not finished (R51, R387)
      let resets := w.be.getLsbD 0 && !w.val.getLsbD 0
      some (128, held || s.pfWaits (List.range 128) || resets && (List.range 128).any s.unfinished))
  | _ => none

/-- The next event of the environment whose time has come: an arrival that waits at its function keeps its place, and so do the
arrivals behind it there. `stuck` lists the functions at which one waits. -/
def State.nextInput (s : State) : List Nat → List (Nat × Instr) → Option (Instr × List (Nat × Instr))
  | _, [] => none
  | stuck, (t, i) :: rest =>
    if s.time.gcy < t then none
    else
      match s.arrivalAt i with
      | some (f, waits) =>
        if waits || stuck.contains f then
          (s.nextInput (f :: stuck) rest).map fun p => (p.1, (t, i) :: p.2)
        else some (i, rest)
      | none => some (i, rest)

/-! ## Fetch (R237-R240) -/

/-- The fault of one word of a bundle, in the order of R240. -/
def Core.wordFault (c : Core) (k : Nat) (w : SlotWord) : Option Cause :=
  if w = 0 then none
  else if c.isControl && (decide (3 ≤ k) && decide (k ≤ 6) || ((candidate k w).map notOnControl).getD false) then
    some .slotProfile
  else
    match decodeSlot k w with
    | none => some .illegalOp
    | some i => c.issueFault i

/-- The words of the bundle at the PC, slot by slot. -/
def Core.fetchWords (c : Core) : List SlotWord :=
  let bytes := c.imem.readBytes c.pc.toNat 32
  (List.range 8).map (bundleWord bytes)

/-- Issuing the bundle at the PC: a bad word of it raises ECC_IMEM (R163), a check that fails raises its fault, and no operation issues;
else its words follow in slot order, the no-op of a slot doing nothing. -/
def State.fetch (s : State) : Action :=
  let c := s.core
  let ws := c.fetchWords
  let numbered := ws.zipIdx.map fun p => (p.2, p.1)
  let c := { c with bundle := ws, started := true, turn := true, rest := [] }
  match c.badBundle c.pc.toNat, numbered.findSome? fun p => (c.wordFault p.1 p.2).map fun f => (p, f) with
  | some off, _ => .word .nop { s with core := c.raise 0 .eccImem (some (BitVec.ofNat 64 off)) }
  | none, some (p, f) => .word .nop { s with core := c.raise p.1 f (some (decodeTval p.1 p.2)) }
  | none, none =>
    match numbered.filterMap fun p => if p.2 = 0 then none else (decodeSlot p.1 p.2).map fun i => (p, i) with
    | [] => .word .nop { s with core := c }
    | (_, i) :: t => .word i { s with core := { c with rest := t.map (·.1) } }

/-- A clock on which the focal core issues nothing (`turn` false) or the no-op bundle (R179, R281). -/
def State.skip (turn : Bool) (s : State) : Action :=
  .word .nop { s with core := { s.core with started := true, turn := turn, rest := [], bundle := [] } }

/-- The word of a q register's result that `rcol` reads (R370). -/
def QReg.word (q : QReg) (word : Nat) (rev : Bool) : Word :=
  if rev then BitVec.ofNat 64 (q.rev.toNat + 256 * q.state.toNat + 512 * q.casOk.toNat)
  else q.val.extractLsb' (64 * word) 64

/-- One wait of a control core on this clock: the core goes on from it, or keeps it (R288, R305, R360, R370). -/
def State.waitStep (s : State) (c : Core) (w : CtlWait) : Core :=
  let keep := { c with wait := c.wait ++ [w] }
  match w with
  | .mwait p => if s.condMet c (.mwait p) then c else keep
  | .gcy t => if t ≤ s.time.gcy then c else keep
  | .fence pred => if s.fenceDone c pred 6 (c.ccy + 1) (s.released.map (·.id)) then c else keep
  | .clocks n => if n = 0 then c else { c with wait := c.wait ++ [.clocks (n - 1)] }
  | .rcol d q word rev =>
    let x := c.qreg q
    if !x.arrived then keep
    else if x.err then
      { c with faults := c.faults ++ [⟨.ringState, some (BitVec.ofNat 64 (x.slot.toNat + 1024 * q.toNat)), 7, c.lastPc⟩] }
    else { c with r := c.r.setS d (x.word word rev) }

/-- The focal core after its waits on this clock: its next bundle issues once none is left. -/
def State.waitOver (s : State) : Core :=
  s.core.wait.foldl (fun c w => s.waitStep c w) { s.core with wait := [] }

/-- The turn of the focal core on this clock begins. -/
def State.startTurn (s : State) : Action :=
  let c := s.core
  match c.run with
  | .inReset | .faulted | .rolledBack | .heldForHandler | .ended => s.skip false
  | .halted => if c.inHold || c.stall != 0 then s.skip false else s.skip true
  | .running =>
    if c.inHold || c.stall != 0 then s.skip false
    else
      let t := { s with core := s.waitOver }
      if !t.core.wait.isEmpty then t.skip false
      else if t.core.isControl && !t.core.faults.isEmpty || t.core.retHandler || t.core.idle != 0 then t.skip true
      else t.fetch

/-- Whether a clock is about to begin: no core has had its turn on it. -/
def State.boundary (s : State) : Bool := s.toGo == s.others.length && !s.core.started

/-- A package reset, which alone brings the part back to power (R132). -/
def isPackageReset : Instr → Bool
  | .packageReset .. => true
  | _ => false

/-- What comes next: nothing without power until a package reset; between two clocks an event of the environment whose time has come, then an event
that is due; else the next word of the focal core. -/
def State.nextAction (s : State) : Action :=
  if !s.power then
    match s.inputs.dropWhile fun p => !isPackageReset p.2 with
    | (_, i) :: rest => .event i { s with inputs := rest }
    | [] => .stop
  else if s.boundary then
    match s.nextInput [] s.inputs with
    | some (i, rest) => .event i { s with inputs := rest }
    | none =>
      match s.dueEvent with
      | some i => .event i s
      | none => s.startTurn
  else if s.core.started then
    match s.core.rest with
    | (k, w) :: t =>
      let u := { s with core := { s.core with rest := t } }
      match decodeSlot k w with
      | some i => .word i u
      | none => .word .nop u
    | [] => s.skip s.core.turn
  else s.startTurn

/-! ## Placing a word where the next step fetches it (log 2, DESIGN CHOICE) -/

/-- A bundle whose slot k holds a word, every other slot the no-op. -/
def bundleBytes (k : Nat) (w : SlotWord) : List Byte :=
  (List.range 8).flatMap fun j => wordBytes (if j = k then w else 0)

/-- The core that can run an instruction: Curator A for `iload`, the Conservator for `ovpload` and `gcommit`, else a compute strand at
the first bundle of a task (R116), in service mode for the instructions that task mode may not issue (R242). -/
def State.strandFor (s : State) (i : Instr) : Core :=
  let control := fun (id : Nat) =>
    { (s.coreOf id).getD (Core.control id .running) with run := .running, wait := [], idle := 0 }
  match i with
  | .iload .. => control 512
  | .ovpload .. | .gcommit .. => control 514
  | .tret | .rswap | .mabort | .mrest | .dbgrd .. =>
    Core.fresh 0 .running .service { ArchRegs.reset with rsbalt := 16384 } 0
  | _ => Core.fresh 0 .running .task { ArchRegs.reset with rsbalt := 16384 } 0

/-- The state in which the very next step fetches a word in slot k on a core that can run it. -/
def State.placeWord (s : State) (k : Nat) (w : SlotWord) (i : Instr) : State :=
  let c := s.strandFor i
  let others := s.cores.filter fun d => d.id != c.id
  { s with
    core := { c with imem := c.imem.writeBytes c.pc.toNat (bundleBytes k w), started := false, rest := [] }
    others := others
    toGo := others.length
    inputs := [] }

end Sys2Proof.Machine
end

