-- ==== Sys2Proof/Machine/Clock.lean ====
section
/-! DEFINITION. The end of an operation, of a core cycle and of a clock: what falls due, the next position, the verdict on a cohort,
pre-emption landing, the tick of the global cycle count (R20, R34, R118, R144-R146, R217, R225, R234). -/

namespace Sys2Proof.Machine

/-! ## The end of a core cycle (R144-R146) -/

/-- The PC and the loop stack after a bundle that took no branch (R146). -/
def loopNext (pc : BitVec 17) : List LoopEntry → BitVec 17 × List LoopEntry
  | [] => (pc + 32, [])
  | e :: t =>
    if pc = e.start + BitVec.ofNat 17 (32 * (e.len - 1)) then
      if 1 < e.count.toNat then (e.start, { e with count := e.count - 1, index := e.index + 1 } :: t)
      else loopNext pc t
    else (pc + 32, e :: t)

/-- The PC and the loop stack after the bundle of this core cycle (R146, R280-R283). -/
def Core.nextPos (c : Core) : BitVec 17 × List LoopEntry :=
  match c.nextPc, c.loopAct with
  | some t, some none => (t, c.loops.drop 1)
  | some t, _ => (t, c.loops)
  | none, some (some e) => (c.pc + 32, e :: c.loops)
  | none, _ => loopNext c.pc c.loops

/-- Whether a word of the present bundle is bad or has failed a check at decode, so that no operation of it issues (R239, R240). -/
def Core.refused (c : Core) : Bool :=
  c.faults.any fun f => f.pc == c.pc && (f.cause == .eccImem
    || (f.cause == .slotProfile || f.cause == .illegalOp || f.cause == .privilege) && ((f.tval.map fun x => x.getLsbD 63).getD false))

/-- The operations that the present bundle has issued. -/
def Core.issuedOps (c : Core) : Nat := if c.refused then 0 else (c.bundle.filter fun w => w != 0).length

/-- Whether the turn of a core is a core cycle: a control core counts bundles, so not a clock on which it only takes a fault, nor one
whose bundle is refused at decode (R268). -/
def Core.counts (c : Core) : Bool := !(c.isControl && (c.refused || c.bundle.isEmpty && !c.faults.isEmpty))

/-- The core cycle by which register writes take effect before the next bundle: on the last core cycle of an exchange of images, those due
at its end wait for it (R144, R289). -/
def Core.seenBy (c : Core) : Nat :=
  let left := if c.bundle.isEmpty then c.idle - 1 else c.idle
  if c.swap.isSome && left == 0 then c.ccy else c.ccy + 1

/-- The core cycle ends: the next position is chosen, CCY advances, bookkeeping of the cycle is dropped. A control core stays at a bundle that
raises a fault, with its loop stack (R236). The performance counters count the bundle and its operations (R226; log 65, DESIGN CHOICE). `counts`
says that it is a core cycle. -/
def Core.advance (counts : Bool) (c : Core) : Core :=
  let fetched := !c.bundle.isEmpty
  let stays := c.isControl && c.faults.any fun f => f.pc == c.pc
  let pos := if fetched && !stays then c.nextPos else (c.pc, c.loops)
  { c with
    lastPc := (if fetched then c.pc else c.lastPc)
    pc := pos.1
    loops := pos.2
    idle := (if fetched then c.idle else c.idle - 1)
    ccy := c.ccy + counts.toNat
    bundleCount := c.bundleCount + counts.toNat
    opCount := c.opCount + c.issuedOps
    nextPc := none
    loopAct := none
    rest := []
    checkedNow := []
    uses := c.uses.filter fun u => decide (c.ccy < u.ccy)
    windows := c.windows.filter fun w => decide (c.ccy < w.2 + 2) }

/-- The sub-bank reads of one clock that lose to another read (R90): those of a higher core, or of a later copy of the same core. -/
def State.subBankLosers (s : State) (ids : List Nat) : List (Nat × Late × Word) :=
  let reads := (s.cores.filter fun c => ids.contains c.id).flatMap fun c =>
    (c.dueNow 0).filterMap fun l => match l.eff with
      | .l2Chunk _ _ line _ _ _ _ =>
        let slice := s.sliceOf (clusterOf c.id) line
        some ((c.id, l, BitVec.ofNat 64 (slice + 16 * subBankOf line)), clusterOf c.id)
      | _ => none
  (reads.filter fun r => reads.any fun q => q.2 == r.2 && q.1.2.2 == r.1.2.2
    && (decide (q.1.1 < r.1.1) || (q.1.1 == r.1.1 && decide (q.1.2.1.issued < r.1.2.1.issued)))).map (·.1)

/-! ## The verdict on a cohort at the end of a core cycle (R217, R225, R234) -/

/-- The clocks after the first that the bundle of a cohort takes (R34, R36). -/
def State.extraClocks (s : State) (members : List Core) : Nat :=
  match members with
  | [] => 0
  | c :: _ =>
    match c.level with
    | 0 => 0
    | 1 =>
      let mask := (s.regs.getD (s.regOf (clusterOf c.id)) Regulator.reset).slotmask
      if members.any fun d => (List.range 8).any fun k => mask.getLsbD k && (d.bundle.getD k 0) != 0 then 1 else 0
    | 2 => 1
    | _ => 3

/-- Whether a task is ended, and not saved, at its next `ckpt.p`: its virtual function is being reset or in ERROR (R54, R123). -/
def State.doomed (s : State) (task : Nat) : Bool :=
  s.tasks.any fun k => k.id == task &&
    (let f := SMap.get Vf.reset k.vf s.vfs; f.resetting || f.tdi == 3)

/-- Whether a task that lands stays on its cores: a resident partner waits to be installed beside it, or the switch of its pair is
under way (R121, R122). -/
def State.parks (s : State) (id : Nat) : Bool :=
  s.tasks.any fun y => match y.phase with
    | .ready => y.type == 1 && y.partner == some id
    | .switching => s.tasks.any fun k => k.id == id && k.partner.isSome && k.partner == y.partner
    | _ => false

/-- A core to be saved: the timed reads of its copies are taken now, and their writes keep their core cycles (R118); its reads for
released effects have been made. -/
def State.captureReads (s : State) (d : Core) : Core :=
  let made := fun (e : Effect) => match e.readsFor with
    | some g => s.released.any fun x => x.id == g
    | none => false
  { d with
    wbuf := d.wbuf.filter fun x => !((x.read.map fun l => made l.eff).getD false)
    late := (d.late.filter fun l => !made l.eff).map fun l => match l.eff with
      | .l2Chunk copy key line off dst at' kept => (match s.chunkData (clusterOf d.id) line key kept with
        | some x => { l with due := at', eff := .portC copy (chunkBytes x off dst) }
        | none => l)
      | _ => l }

/-- A task whose last cohort on a core has landed is pre-empted, or parked beside its resident partner (R118, R121). -/
def Task.landed (parks : Bool) (k : Task) : Task :=
  if parks then { k with phase := .parked, asked := false, split := false }
  else { k with phase := .preempted, asked := false, split := false, exts := [], pages := [] }

/-- Whether a task still holds cores. -/
def State.holdsCores (s : State) (task : Nat) : Bool := s.cores.any fun d => !d.isControl && d.task == task && d.run != .ended

/-- A pre-emption lands at the checkpoint just taken (R118, R121): the cores of the cohort are saved and freed, or stay with a parked
member of a resident pair. -/
def State.landPreempt (coh : Nat) (s : State) : State :=
  match s.cohort coh with
  | [] => s
  | c :: cs =>
    if s.doomed c.task then s.endTask c.task 9 0 0
    else
    let parks := s.parks c.task
    let paired := s.tasks.any fun k => k.phase == .parked && k.partner == some c.task
    let s := s.settle ((c :: cs).map (·.id))
    let saved := (c :: cs).map fun d =>
      let d := s.captureReads d
      { (if parks && paired then d.ringless else d) with
        preempt := none, pbFrom := 0, twin := none, sealSlots := (if parks then d.sealSlots else (none, none))
        eng := { d.eng with acc := [], bbuf := [], half := false, bsealed := false } }
    let t := (s.handOver c.task parks (c :: cs)).mapCores fun d => if d.coh = coh ∧ !d.isControl then d.ringless.wiped else d
    let t := if parks then t else { t with pendLevel := t.pendLevel.filter fun p => p.1 != coh }
    let left := t.holdsCores c.task
    t.onTask c.task fun k =>
      let k := { k with parkedCores := k.parkedCores ++ saved }
      if left then k else k.landed parks

/-- Taking the checkpoint of a cohort (R217, R222, R234, R289): `stamp` is none where the marker sets none, `p` says that it is
a pre-emption point. -/
def State.checkpoint (coh : Nat) (stamp : Option (BitVec 12)) (p : Bool) (s : State) : State :=
  let ids := (s.cohort coh).map (·.id)
  (s.release ids).countFences.mapCores fun c =>
    if c.coh = coh then { c.takeSnap with stamp := stamp.getD c.stamp, pckpt := p } else c

/-- Ending the core cycle of a control core: a fault or a call entry is taken (R236, R286). An uncorrectable ECC_IMEM on Curator A
stops it until TAKEOVER follows (R126). -/
def State.controlVerdict (id : Nat) (s : State) : State :=
  match s.coreOf id with
  | none => s
  | some c =>
    let t := s.onCore id fun c => { c with faults := [], call := none, ckptWord := none, retHandler := false }
    match c.reported, c.call with
    | some f, _ =>
      if id = 512 ∧ f.cause = .eccImem then s.onCore id fun c => { c with run := .faulted }
      else t.takeException id f false f.pc
    | none, some (cause, code) =>
      t.takeException id ⟨cause, some (code.setWidth 64), 10, c.lastPc⟩ false c.pc
    | none, none => if c.retHandler then t.onCore id fun c => { c with inh := false, loops := c.savedLoops } else t

/-- The CCY from which the level changes of a cohort may come, where its CCY is set (R35). -/
def State.rebaseLevels (coh : Nat) (f : Nat → Nat) (s : State) : State :=
  { s with pendLevel := s.pendLevel.map fun p => if p.1 = coh then (p.1, p.2.1, f p.2.2) else p }

/-- The handlers of a cohort that have executed `tret` and are done are left; the cohort goes on once no handler runs (R234). -/
def State.leaveHandlers (coh : Nat) (s : State) : State :=
  let done := (s.cohort coh).filter fun c => c.inHandler && c.retHandler && c.handlerDone
  if done.isEmpty then s
  else
    let ids := done.map (·.id)
    let back := done.foldl (fun n c => max n c.snap.ccy) 0
    let t := ((s.release ids).rebaseLevels coh fun n => min n (back + 8)).mapCores fun c =>
      if ids.contains c.id then c.leaveHandler else c
    if (t.cohort coh).any Core.inHandler then t
    else t.mapCores fun c =>
      if c.coh = coh ∧ c.run = .heldForHandler then { c.applyDue c.ccy with run := if c.snap.halted then .halted else .running } else c

/-- The exchange of images of the strands of a cohort that execute `rswap`, and the register writes due at its end (R151, R289). -/
def State.exchange (coh : Nat) (s : State) : State :=
  s.mapCores fun c => if c.coh = coh ∧ c.swap.isSome then c.swapImages.applySeen c.ccy else c

/-- The checkpoint of a cohort at the markers of its bundle: the stamp of its `ckpt` words, the issue CCY of an `rswap` (R217, R289). -/
def State.atMarkers (coh : Nat) (members : List Core) (s : State) : State :=
  let words := members.filterMap (·.ckptWord)
  (s.checkpoint coh (words.head?.map (·.1)) (words.any (·.2))).mapCores fun c =>
    if c.coh = coh then
      { c with
        ckptWord := none, swap := none
        stamp := ((c.swap.map (BitVec.ofNat 12)).getD c.stamp), pckpt := c.pckpt && c.swap.isNone }
    else c

/-- Ending the core cycle of a cohort of compute cores: a fault stops it (R225); else checkpoint markers, call entries and an exchange of
images that ends are acted on, at one checkpoint; while an exchange runs, the cohort waits for it (R217, R234, R284, R289). -/
def State.cohortVerdict (coh : Nat) (s : State) : State :=
  let live := fun (s : State) => (s.cohort coh).filter fun c => c.run == .running || c.run == .halted
  let s := s.mapCores fun c => if c.coh = coh && (c.run == .running || c.run == .halted) then c.rcolFault else c
  let fails := fun (s : State) => (live s).any fun c => !c.faults.isEmpty
  let members := live s
  let stopAll := fun (t : State) => t.mapCores fun c =>
    if c.coh = coh && (c.run == .running || c.run == .halted || c.run == .heldForHandler) then { c with run := .faulted } else c
  let failChecks := fun (t : State) (bad : List (Nat × TrapRec)) =>
    let t := bad.foldl (fun t b => t.onCore b.1 fun c =>
      { c with faults := c.faults ++ [b.2], ckptWord := none, call := none }) t
    stopAll { t with ckptFaults := t.ckptFaults.filter fun x => bad.isEmpty || !(members.any fun c => x.1 == c.strand) }
  let began := members.any fun c => c.swap == some (c.ccy - 1)
  let wait := members.foldl (fun n c => if c.swap.isSome then max n c.idle else n) 0
  let due := wait == 0 && members.any fun c =>
    c.swap.isSome || c.call.isSome || c.ckptWord.isSome || c.faults.any fun f => f.slot == 9
  let bad := if due then members.filterMap fun c => (s.ckptCheck c).map fun f => (c.id, f) else []
  if fails s || !bad.isEmpty then failChecks s bad
  else
    let s := s.release ((members.filter fun c => c.run == .halted).map (·.id))
    let s := if began then s.mapCores fun c => if c.coh = coh then { c with idle := max c.idle wait } else c else s
    if !due then s
    else
      let s := s.exchange coh
      if fails s then failChecks s []
      else
        let t := s.atMarkers coh members
        if members.any (fun c => (c.ckptWord.map (·.2)).getD false) && members.any fun c => c.preempt.isSome then t.landPreempt coh
        else t.enterCalls coh

/-! ## The end of a clock -/

/-- The tick of the global cycle count (R20, R22, R24). -/
def Time.tick (t : Time) : Time :=
  { t with gcy := t.loadTo.getD (t.gcy + (if t.doubled then 2 else 1)), doubled := false, loadTo := none }

/-- The cluster-cycles that each tier holds of each partition (R119): entry 8p + t, over `n` cycles. -/
def State.tickServed (n : Nat) (s : State) : State :=
  let held := distinct ((s.tasks.filter Task.dispatched).flatMap fun k =>
    k.cores.filterMap fun c => (s.partitionOf (clusterOf c)).map fun p => 64 * (8 * p + k.tier) + clusterOf c)
  { s with served := held.foldl (fun m x => SMap.modify 0 (x / 64) (· + n) m) s.served }

/-- The clock ends: what falls due performs, register writes become visible, every core that issued advances, each cohort is
judged, requests already met are noted, GCY ticks. -/
def State.endClock (s : State) : State :=
  let standing := (s.cores.filter Core.stands).map (·.id)
  let ids := (s.cores.filter fun c => c.turn && c.counts).map (·.id)
  let losers := s.subBankLosers ids
  let s := (distinct ((s.cores.filter fun c => c.turn && !c.isControl).map (·.coh))).foldl (fun s k => s.meetOnMesh k) s
  let s := standing.foldl (fun s id => s.drainStanding id) s
  let s := ((s.cores.filter fun c => c.fencing && !c.turn).map (·.id)).foldl (fun s id => s.performFencing id) s
  let s := ids.foldl (fun s id => s.performDue losers id) s
  let s := s.mapCores fun c => if c.turn then (if ids.contains c.id then (c.applySeen c.seenBy).advance true else c.advance false) else c
  let cohs := distinct ((s.cores.filter fun c => !c.isControl && (c.turn || !c.faults.isEmpty)).map (·.coh))
  let extra := cohs.map fun k => (k, s.extraClocks ((s.cohort k).filter fun c => c.turn))
  let s := (s.cores.filter fun c => c.isControl && c.turn).foldl (fun s c => s.controlVerdict c.id) s
  let s := cohs.foldl (fun s k => (s.cohortVerdict k).leaveHandlers k) s
  let s := s.countFences.mapCores fun c =>
    let stall := if c.isControl then c.stall else ((extra.find? fun x => x.1 == c.coh).map (·.2)).getD 0
    { c with
      turn := false
      stall := (if c.turn then stall else c.stall - 1)
      bundle := []
      holds := c.holds.map fun h =>
        let cond := match h.cond with
          | .clocks n => if c.inHold && h.at' == c.ccy then HoldCond.clocks (n - 1) else h.cond
          | k => k
        { h with cond := cond, met := h.met || s.condMet c cond } }
  let time := s.time.tick
  { s.tickServed (time.gcy - s.time.gcy) with time := time, passed := [] }

/-- The turn of the focal core on this clock is over: the next core of the round becomes focal; after the last, the clock ends. -/
def State.endTurn (s : State) : State :=
  let c := { s.core with rest := [], started := false }
  let t := match s.others with
    | [] => { s with core := c }
    | d :: ds => { s with core := d, others := ds ++ [c] }
  if s.toGo = 0 then { t.endClock with toGo := s.others.length } else { t with toGo := s.toGo - 1 }

/-- What follows an operation of a bundle: the next word of the bundle, or the end of the core's turn. -/
def State.endOp (s : State) : State :=
  match s.core.rest with
  | [] => s.endTurn
  | _ :: _ => s

end Sys2Proof.Machine
end

