-- ==== Sys2Proof/Machine/Tasks.lean ====
section
/-! DEFINITION. What launches, virtual functions and their resets share: the fields of a launch record, places, status words, MSI-X,
completion records, pre-emption requests, TDI notices (R45-R49, R54, R106, R114, R118, R123, R387). -/

namespace Sys2Proof.Machine

/-! ## MSI-X (R42, R45, R47) -/

/-- Sending an MSI-X message: kept pending where the vector or the function is masked (log 17, PRESUMED). -/
def State.msix (v vec : Nat) (s : State) : State :=
  let f := s.vf v
  if !f.msixCtl.getLsbD 15 then s
  else if f.msixCtl.getLsbD 14 || f.msixTable.getLsbD (128 * vec + 96) then
    s.onVf v fun f => { f with pba := f.pba ||| (1 <<< vec) }
  else { s with out := s.out ++ [.msix v vec] }

/-- The pending messages that are no longer masked are sent. -/
def State.msixUnmasked (v : Nat) (s : State) : State :=
  [0, 1].foldl (fun s vec =>
    if (s.vf v).pba.getLsbD vec then
      (s.onVf v fun f => { f with pba := f.pba &&& ~~~((1 : Word) <<< vec) }).msix v vec
    else s) s

/-! ## Completion records (R46, R47) -/

/-- The completion record of a task, without its phase. -/
def Task.completion (k : Task) (e : TaskEnd) : List Byte :=
  leBytes 4 k.lnum.toNat ++ leBytes 2 k.lidx ++ leBytes 1 k.queue ++ [0] ++ leBytes 1 e.status ++ leBytes 1 e.cause
    ++ leBytes 2 (min 65535 k.slips) ++ leBytes 4 0 ++ leBytes 8 e.gcyEnd.toNat ++ leBytes 8 e.tval.toNat

/-- Whether the completion queue takes no record now (R47). -/
def Vf.cqStuck (f : Vf) : Bool :=
  !f.cqEnable || (f.cqTail.toNat + 1) % 2 ^ f.cqLog2.toNat == f.cqHead.toNat

/-- Writing a completion record to the host, with the phase, and the MSI-X message behind it. -/
def State.writeRecord (v : Nat) (rec : List Byte) (s : State) : State :=
  let f := s.vf v
  let bytes := rec.set 7 (BitVec.ofNat 8 f.phase.toNat)
  let tail := (f.cqTail.toNat + 1) % 2 ^ f.cqLog2.toNat
  let t := { s with hostMem := s.hostMem.writeBytes (f.cqBase.toNat + 32 * f.cqTail.toNat) bytes }
  let t := t.onVf v fun f => { f with cqTail := BitVec.ofNat 16 tail, phase := if tail = 0 then !f.phase else f.phase }
  if f.intMask then t else t.msix v 0

/-- Writing the records that the completion queue has room for, in order; `n` bounds their number. -/
def State.drainRecords (v : Nat) : Nat → State → State
  | 0, s => s
  | n + 1, s =>
    match (s.vf v).heldRecs with
    | [] => s
    | r :: rest =>
      if (s.vf v).cqStuck || (s.vf v).tdi == 3 then s
      else ((s.onVf v fun f => { f with heldRecs := rest }).writeRecord v r).drainRecords v n

/-- A record on its way to the host: behind the records that are held, and written as soon as there is room. -/
def State.deliver (v : Nat) (rec : List Byte) (s : State) : State :=
  let t := s.onVf v fun f => { f with heldRecs := f.heldRecs ++ [rec] }
  t.drainRecords v (t.vf v).heldRecs.length

/-! ## Ending and pre-empting tasks (R54, R118, R123) -/

/-- A pre-emption request for a task that runs (R118). While the dispatcher is paused, requests are dropped (R126). -/
def State.askPreempt (id : Nat) (s : State) : State :=
  match s.task id with
  | some k =>
    if k.phase == .running && !k.asked && !s.cur.paused then
      (s.onTask id fun k => { k with asked := true }).mapCores fun c =>
        if c.task = id ∧ !c.isControl ∧ c.run ≠ .ended then
          { c with preempt := some s.time.gcy, pbFrom := c.ccy }
        else c
    else s
  | none => s

/-- The tasks of a virtual function: those that run are ended at their next `ckpt.p`, the others are discarded and their cores
freed (R54, R123); the collectives are aborted once none runs. -/
def State.dropTasks (v : Nat) (s : State) : State :=
  let runs := (s.tasks.filter fun k => k.vf == v && k.phase == .running).map (·.id)
  let groups := distinct ((s.tasks.filter fun k => k.vf == v && k.type == 2 && k.phase != .ended).map Task.collgrp)
  let t := s.onVf v fun f => { f with aborts := groups }
  let gone := (t.tasks.filter fun k => k.vf == v && k.phase != .running && k.phase != .ended).map (·.id)
  let t := gone.foldl (fun s id => s.endTask id 9 0 0) t
  -- a request that R126 would drop is not one of these: a reset is not a dispatch decision
  (runs.foldl (fun s id => ((s.onTask id fun k => { k with asked := true }).mapCores fun c =>
    if c.task = id ∧ !c.isControl ∧ c.run ≠ .ended ∧ c.preempt.isNone then { c with preempt := some s.time.gcy, pbFrom := c.ccy }
    else c)) t).abortAfter v

/-! ## The TDI block (R54, R387-R389) -/

/-- An arrival or a notice for the Primer goes behind those it holds (R387, R388). -/
def State.tdiPush (e : TdiEvt) (s : State) : State :=
  match s.tdiEvt with
  | none => { s with tdiEvt := some e }
  | some _ => { s with tdiQueue := s.tdiQueue ++ [e] }

/-- A notice without a message. -/
def State.notice (kind v info : Nat) (s : State) : State := s.tdiPush ⟨kind, v, info, 0, []⟩

/-- Whether host DMA for a task has stopped: its virtual function is in ERROR (R54). -/
def State.dmaStopped (s : State) (task : Nat) : Bool := s.tasks.any fun k => k.id == task && (s.vf k.vf).tdi == 3

/-- An arrival at a virtual function: none is processed before the one that came before it (R52, R387, R389). -/
def State.atVf (v : Nat) (f : State → State) (s : State) : State := if s.unfinished v then s else f s

/-- Whether the Primer runs: it stops where its own image fails verification (R57). -/
def State.primerUp (s : State) : Bool := s.cores.any fun c => c.id == 515 && c.run != .inReset

/-- A DOE message at a virtual function: none is processed during a VF reset either (R56). -/
def State.atDoe (v : Nat) (f : State → State) (s : State) : State :=
  if s.withPrimer v || (s.vf v).resetting || 128 ≤ v || !s.primerUp then s else f s

/-- Effects of ERROR (R54). -/
def State.enterError (v : Nat) (s : State) : State := (s.onVf v fun f => { f with tdi := 3 }).dropTasks v

/-- What is left on the cores of ended tasks of a virtual function is zeroed (R123, step 4). -/
def State.wipeRemains (v : Nat) (s : State) : State :=
  s.mapCores fun c => if s.tasks.any fun k => k.vf == v && k.id == c.was then c.wiped else c

/-- The VF reset sequence begins (R53, R56, R123). The mailbox takes its reset values now, but for a request that is under way: it is
answered, and words written from now on are part of a message that is processed after the sequence (log 85, DEDUCED). -/
def State.beginVfReset (v : Nat) (s : State) : State :=
  let d := s.mailbox (1 + v)
  (((s.setMailbox (1 + v) { Doe.reset with busy := d.busy, secured := d.secured }).onVf v fun f =>
    { f with
      tdi := 0, nfw := false, condemned := [], nonce := 0, report := []
      resetting := true, scrubbing := false, heldRecs := [] }).dropTasks v).wipeRemains v

/-- The effect of a write of the locked set that R50 counts, for one VF that is locked or running: discarded, ERROR, notice. -/
def State.lockedHit (v info : Nat) (s : State) : State := (s.enterError v).notice 2 v info

/-- A locked-set write to a VF's own register (R51, R54, R387): applied in CONFIG_UNLOCKED, discarded in the other states. -/
def State.lockedWrite (v info : Nat) (f : State → State) (s : State) : State :=
  if (s.vf v).isLocked then s.lockedHit v info
  else if (s.vf v).tdi = 3 then s
  else f s

/-! ## Requests to the BARs of a virtual function (R40, R54, R56) -/

/-- Whether a VF answers memory requests at all: in FLIT mode, with VF Enable and the Memory Space Enable bits that govern it set
(R40, R50, log 17, PRESUMED), and not while it is being reset (R56). -/
def State.vfAnswers (s : State) (v : Nat) : Bool :=
  let sriov := (s.vf v).frozen.sriov.getD s.pf.sriov
  decide (v < 128) && s.pf.flitMode && sriov.getLsbD 0 && sriov.getLsbD 3
    && ((s.vf v).frozen.command.getD s.pf.command).getLsbD 1 && !(s.vf v).resetting

/-- Whether a memory request with or without the T bit is accepted, other than to the DOE mirror. -/
def State.vfAccepts (s : State) (v : Nat) (tee : Bool) : Bool :=
  s.vfAnswers v && (match (s.vf v).tdi.toNat with
    | 0 => !tee
    | 2 => tee && (s.vf v).secure
    | _ => false)

/-- Whether a memory request to the DOE mirror is accepted (R40, R54). -/
def State.mirrorAccepts (s : State) (v : Nat) (tee : Bool) : Bool :=
  s.vfAnswers v && (!tee || ((s.vf v).tdi != 0 && (s.vf v).secure))

/-- A memory request that is accepted has its effect; any other completes with Unsupported Request (R40, R54, R56). -/
def State.orUnsupported (v : Nat) (ok : Bool) (f : State → State) (s : State) : State :=
  if ok then f s else { s with out := s.out ++ [.unsupported v] }

/-- A write to a register of BAR 0 by a row of its own, which carries the T bit that the state of the TDI asks for, on the VF's own stream
(log 6, DESIGN CHOICE). -/
def State.barWrite (v : Nat) (f : State → State) (s : State) : State :=
  s.atVf v fun s => s.orUnsupported v (s.vfAccepts v (decide ((s.vf v).tdi = 2))) f

/-! ## DOE mailboxes (R42, R52; log 79, PRESUMED) -/

/-- Bytes as words of 32 bits, the last one filled up with zeros. -/
def wordsOf (bs : List Byte) : List (BitVec 32) :=
  (List.range ((bs.length + 3) / 4)).map fun i => BitVec.ofNat 32 (leNat ((bs.drop (4 * i)).take 4))

/-- A data object of the PCI-SIG: type, length in words, contents. -/
def doeObject (type : Nat) (body : List (BitVec 32)) : List (BitVec 32) :=
  [BitVec.ofNat 32 (1 + 65536 * type), BitVec.ofNat 32 (2 + body.length)] ++ body

/-- A request to the Primer's random bit generator, which counts it (R58). -/
def State.drawRandom (s : State) : BitVec 512 × State :=
  let (x, t) := s.draw
  (x, { t with drbg := t.drbg + 1 })

/-- The response to the request that a mailbox holds, if it holds one: one to a secured request is ciphertext, 16 free words (log 13,
PRESUMED). Interrupt Status is set, and no message is sent, whatever Interrupt Enable says (log 79, PRESUMED). -/
def State.reply (fn : Nat) (bytes : List Byte) (s : State) : State :=
  let d := s.mailbox fn
  if !d.busy then s
  else
    let (x, t) := if d.secured then s.drawRandom else (0, s)
    let body := wordsOf (if d.secured then leBytes 64 x.toNat else bytes)
    t.setMailbox fn { d with busy := false, intStatus := true, reads := doeObject (if d.secured then 2 else 1) body }

/-- A message sent through the mailbox of a virtual function, or of the PF (R59, R61, R391). -/
def State.send (mb : Option Nat) (m : OutMsg) (bytes : List Byte) (s : State) : State :=
  State.reply ((mb.map (1 + ·)).getD 0) bytes { s with out := s.out ++ [m] }

/-- A response of the Primer through the mailbox of a VF. -/
def State.respond (v : Nat) (bytes : List Byte) (s : State) : State := s.send (some v) (.spdm (some v) bytes) bytes

/-- The answer to a discovery of data objects. -/
def doeDiscovery (index : Nat) : BitVec 32 :=
  if index < 3 then BitVec.ofNat 32 (1 + 65536 * index + 16777216 * ((index + 1) % 3)) else 0xFFFF

/-- A write of DOE Go: the words written are one data object, or an error. A plain request arrives at the function now; a secured one is
deciphered by the secured-message engine, and its message comes as an event of its own row. -/
def State.doeGo (fn : Nat) (d : Doe) (s : State) : State :=
  let type := (d.writes.getD 0 0).extractLsb' 16 8
  let len := ((d.writes.getD 1 0).extractLsb' 0 18).toNat
  if d.busy || d.error then s.setMailbox fn d
  else if d.writes.length < 2 ∨ (if len = 0 then 262144 else len) ≠ d.writes.length then
    s.setMailbox fn { d with error := true, writes := [] }
  else if (d.writes.getD 0 0).extractLsb' 0 16 ≠ 1 ∨ 2 < type.toNat then s.setMailbox fn { d with writes := [] }
  else if type = 0 then
    s.setMailbox fn { d with writes := [], reads := doeObject 0 [doeDiscovery ((d.writes.getD 2 0).extractLsb' 0 8).toNat] }
  else
    let t := s.setMailbox fn { d with busy := true, secured := type == 2, writes := [], reads := [] }
    if type = 2 then t
    else
      let msg := (d.writes.drop 2).flatMap fun w => leBytes 4 w.toNat
      { t with inputs := (s.time.gcy, .spdmRequest (if fn = 0 then 128 else fn - 1) false msg) :: t.inputs }

/-- A write of a word of the DOE capability of a function: Control, Status, Write Data Mailbox, Read Data Mailbox. While the function is being
reset, the words of a message and its Go are kept, any other write is discarded (R56; log 85, DEDUCED). -/
def State.writeDoe (fn off : Nat) (val : BitVec 32) (s : State) : State :=
  let d := s.mailbox fn
  let resetting := fn != 0 && (s.vf (fn - 1)).resetting
  match off with
  | 8 =>
    if resetting then (if val.getLsbD 31 && !val.getLsbD 0 then s.doeGo fn d else s)
    else
      let d := { d with intEnable := val.getLsbD 1 }
      if val.getLsbD 0 then s.setMailbox fn { Doe.reset with intEnable := d.intEnable }
      else if val.getLsbD 31 then s.doeGo fn d
      else s.setMailbox fn d
  | 12 => if resetting then s else s.setMailbox fn { d with intStatus := d.intStatus && !val.getLsbD 1 }
  | 16 => s.setMailbox fn { d with writes := d.writes ++ [val] }
  | 20 => if resetting then s else s.setMailbox fn { d with reads := d.reads.drop 1 }
  | _ => s

/-- A word of the DOE capability as it is read. -/
def Doe.word (d : Doe) (off : Nat) : BitVec 32 :=
  match off with
  | 8 => BitVec.ofNat 32 (2 * d.intEnable.toNat)
  | 12 => BitVec.ofNat 32 (d.busy.toNat + 2 * d.intStatus.toNat + 4 * d.error.toNat + 2 ^ 31 * (!d.reads.isEmpty).toNat)
  | 20 => d.reads.getD 0 0
  | 0 | 4 => Config.doeWord off
  | _ => 0

/-- Whether an offset of BAR 0 lies in the DOE mirror (R42). -/
def inDoeMirror (off : Nat) : Bool := decide (0xA000 ≤ off) && decide (off < 0xA018)

end Sys2Proof.Machine
end

