-- ==== Sys2Proof/Machine/Links.lean ====
section
/-! DEFINITION. The Alaurn links and the global cycle count (R13-R26). -/

namespace Sys2Proof.Machine

/-! ## Flits (R14) -/

/-- One step of the CRC-64 of ECMA-182, most significant bit first (log 16, PRESUMED). -/
def crc64Bit (r : Word) : Word := if r.getLsbD 63 then (r <<< 1) ^^^ 0x42F0E1EBA9EA3693 else r <<< 1

/-- The CRC-64 of a byte string, from 0 on. -/
def crc64 (bs : List Byte) : Word :=
  bs.foldl (fun (r : Word) (b : Byte) => (List.range 8).foldl (fun x _ => crc64Bit x) (r ^^^ ((b.setWidth 64 : Word) <<< 56))) 0

/-- Exactly `n` bytes of a string: cut, or filled with zeros. -/
def padTo (n : Nat) (bs : List Byte) : List Byte := bs.take n ++ List.replicate (n - bs.length) 0

/-- The 256 bytes of a flit (R14). -/
def flitBytes (seq ack : BitVec 16) (vl kind mask win : Nat) (payload : List Byte) : List Byte :=
  let body := leBytes 2 seq.toNat ++ leBytes 2 ack.toNat ++ leBytes 1 vl ++ leBytes 1 kind ++ leBytes 1 mask ++ leBytes 1 win
    ++ padTo 240 payload
  body ++ leBytes 8 (crc64 body).toNat

/-! ## Links -/

/-- The state of a link port. -/
def State.link (s : State) (n : Nat) : Link := SMap.get Link.reset n s.links

/-- Changing a link port, of the 16 there are. -/
def State.onLink (n : Nat) (f : Link → Link) (s : State) : State :=
  if n < 16 then { s with links := SMap.modify Link.reset n f s.links } else s

/-- Whether a lane is paused now (R18). -/
def Link.paused (l : Link) (gcy vl : Nat) : Bool := l.pauses.any fun p => p.1 == vl && decide (gcy < p.2)

/-- A retry request for the SEQ that is expected is to be sent (R16). -/
def Link.askRetry (l : Link) : Link := { l with retry := some l.expected, skipping := true }

/-- A retry request is sent: the port that asks counts those in succession that name one SEQ (R17; log 67, DESIGN CHOICE). -/
def Link.sentRetry (l : Link) (seq : BitVec 16) : Link :=
  { l with retry := none, asks := if l.asks ≠ 0 ∧ l.asked = seq then l.asks + 1 else 1, asked := seq }

/-- The data flit expected next counts as received in order. A retry request that has still to be sent stays to be sent, and names the SEQ
after it (R16). -/
def Link.received (l : Link) : Link :=
  { l with expected := l.expected + 1, skipping := l.retry.isSome, asks := 0, retry := l.retry.map fun _ => l.expected + 1 }

/-- An acknowledgement frees the replay buffer up to a SEQ (R16). -/
def Link.acked (l : Link) (ack : BitVec 16) : Link :=
  match l.replay.findIdx? fun d => d.seq == ack with
  | some i =>
    let kept := l.replay.drop (i + 1)
    { l with
      replay := kept
      resend := l.resend.bind fun q => if kept.any fun d => d.seq == q then some q else kept.head?.map (·.seq) }
  | none => l

/-- The pauses that a flit sets or cancels (R18). -/
def Link.pauseBy (l : Link) (gcy : Nat) (mask win : Byte) : Link :=
  (List.range 8).foldl (fun l vl =>
    if mask.getLsbD vl then
      let rest := l.pauses.filter fun p => p.1 != vl
      { l with pauses := if win = 0 then rest else rest ++ [(vl, gcy + 64 * win.toNat)] }
    else l) l

/-- A data flit that passed its checks (R16, R18): in order, taken or discarded at a full lane buffer; ahead, a gap; behind, a
duplicate. Only a data flit shows a gap (log 67, DESIGN CHOICE). -/
def Link.data (l : Link) (d : DataFlit) : Link :=
  if d.seq = l.expected then
    if (l.lanes.filter fun x => x.vl == d.vl).length < 64 then { l.received with lanes := l.lanes ++ [d] } else l.askRetry
  else if 0 < (d.seq - l.expected).toInt && !l.skipping then l.askRetry
  else l

/-- A time flit that arrives intact on the PARENT link (R21, R24, R25). The flit that loads or refuses the count measures no offset, and an
older `pending` stays (log 68, DEDUCED). -/
def Time.exchange (t : Time) (flitGcy delay : Nat) : Time :=
  let target := flitGcy + delay
  if t.loading then
    if t.gcy ≤ target then { t with loading := false, loadTo := some target }
    else { t with loading := false, loadRefused := true, enable := false, barred := true }
  else
    let offset : Int := (target : Int) - t.gcy
    { t with
      pending := offset
      lastOffset := BitVec.ofInt 8 (max (-128) (min 127 offset))
      alignErr := t.alignErr || decide (2 < offset.natAbs) }

/-- `LINK_TRAIN` (R13): the delay measured is given with the event. -/
def execLinkTrain (n : Nat) (ok : Bool) (delay : Nat) (s : State) : Host.Outcome State Fault Refusal :=
  .next (s.onLink n fun l => if ok && !l.up && !l.removed then { l with up := true, delay := delay } else l)

/-- The lanes that a receiver asks its peer to pause: those with 16 places free or fewer (R18). -/
def Link.pauseMask (l : Link) : Nat :=
  (List.range 5).foldl (fun m vl => if 48 ≤ (l.lanes.filter fun d => d.vl == vl).length then m + 2 ^ vl else m) 0

/-- The flit that a port sends at a flit boundary, without its pause fields, and the port after it (R16, R18, R21): a time flit, a
retry request, a replay, a new data flit, else an idle flit; none where lane 0 is paused too. Lane 0 carries link control alone, so no data
(R15). A replay keeps its order: while the lane of its next flit is paused, no data flit of another lane is sent before it (log 67, DESIGN
CHOICE). -/
def Link.next (l : Link) (gcy : Nat) (data : Option (Nat × List Byte)) :
    Option (BitVec 16 × Nat × Nat × List Byte) × Link :=
  let open0 := !l.paused gcy 0
  let idle := if open0 then some (l.nextSeq, 0, 0, []) else none
  if l.timeQueued && open0 then (some (l.nextSeq, 0, 2, leBytes 8 gcy), { l with timeQueued := false })
  else
    match (if open0 then l.retry else none) with
    | some q => (some (l.nextSeq, 0, 3, []), l.sentRetry q)
    | none =>
    match l.resend with
    | some q =>
      (match l.replay.dropWhile fun d => d.seq != q with
      | d :: rest =>
        if l.paused gcy d.vl then (idle, l)
        else (some (d.seq, d.vl, 1, d.payload), { l with resend := rest.head?.map (·.seq) })
      | [] => (idle, { l with resend := none }))
    | none =>
      match data with
      | some (vl, payload) =>
        if vl = 0 ∨ 4 < vl ∨ l.paused gcy vl ∨ 128 ≤ l.replay.length then (idle, l)
        else
          (some (l.nextSeq, vl, 1, padTo 240 payload),
            { l with nextSeq := l.nextSeq + 1, replay := l.replay ++ [⟨l.nextSeq, vl, padTo 240 payload⟩] })
      | none => (idle, l)

/-- `FLIT_SEND` (R14, R16, R18, R21): the data that waits for the flit boundary is given with the event; the length of a pause
that the flit asks for is a free value (log 11, DESIGN CHOICE). -/
def execFlitSend (n : Nat) (data : Option (Nat × List Byte)) (s : State) : Host.Outcome State Fault Refusal :=
  let l := s.link n
  if !l.up || l.removed then .next s
  else
    let (x, t) := s.draw
    let (flit, l') := l.next s.time.gcy data
    match flit with
    | none => .next s
    | some (seq, vl, kind, payload) =>
      let mask := l.pauseMask
      let win := if mask = 0 then 0 else max 1 (x.toNat % 256)
      let bytes := flitBytes seq (l.expected - 1) vl kind mask win payload
      let u := if mask = 0 then s else t
      .next { u.onLink n (fun _ => l') with out := s.out ++ [.flit n bytes] }

/-- Removing the oldest flit of each lane listed: the unit it is for has taken it. -/
def Link.take (l : Link) (taken : List Nat) : Link :=
  taken.foldl (fun l vl => { l with lanes := l.lanes.eraseP fun d => d.vl == vl }) l

/-- `FLIT_RECEIVE` (R14, R16, R18, R21): the lanes from which units have taken a flit before are given with the event. A retry request
names the SEQ after its ACK; a data flit on VL 0, and a time or retry flit on VL 1 to 4, which R14 does not discard, are taken for what their
KIND says (log 67, DESIGN CHOICE). -/
def execFlitReceive (n : Nat) (flit : List Byte) (taken : List Nat) (s : State) : Host.Outcome State Fault Refusal :=
  let l := s.link n
  if !l.up || l.removed || flit.length != 256 then .next s
  else
    let s := s.onLink n fun l => l.take taken
    let seq := BitVec.ofNat 16 (fieldAt flit 0 2)
    let ack := BitVec.ofNat 16 (fieldAt flit 2 2)
    let vl := fieldAt flit 4 1
    let kind := fieldAt flit 5 1
    let payload := (flit.drop 8).take 240
    if (crc64 (flit.take 248)).toNat ≠ fieldAt flit 248 8 then .next (s.onLink n Link.askRetry)
    else if 4 < vl ∨ 3 < kind then
      .next (s.onLink n fun l =>
        let l := { l with errors := l.errors + 1 }
        if kind = 1 ∧ seq = l.expected then l.received else l)
    else
      let t := s.onLink n fun l => (l.acked ack).pauseBy s.time.gcy (flit.getD 6 0) (flit.getD 7 0)
      .next (match kind with
        | 1 => t.onLink n fun l => l.data ⟨seq, vl, payload⟩
        | 2 =>
          if t.time.enable && !t.time.root && !t.time.barred && t.time.parent.toNat == n then
            { t with time := t.time.exchange (leNat (payload.take 8)) l.delay }
          else t
        | 3 => t.onLink n fun l => { l with resend := (l.replay.find? fun d => d.seq == ack + 1).map (·.seq) }
        | _ => t)

/-- `PAUSE_EXPIRE` (R18). -/
def execPauseExpire (n vl : Nat) (s : State) : Host.Outcome State Fault Refusal :=
  .next (s.onLink n fun l =>
    { l with pauses := l.pauses.filter fun p => !(p.1 == vl && decide (p.2 ≤ s.time.gcy)) })

/-- A record about a package unit (R127, R128); INFO of a domain report is a free value (log 11, DESIGN CHOICE). -/
def State.reportDomain (s : State) (number : Nat) : State :=
  s.reportFree 0xFFFF (0xF000 + number) 9 0

/-- `LINK_DOWN` (R17). -/
def execLinkDown (n : Nat) (s : State) : Host.Outcome State Fault Refusal :=
  let l := s.link n
  .next (if l.up && decide (8 ≤ l.asks) then (s.onLink n fun l => { l with up := false }).reportDomain n else s)

/-! ## The global cycle count -/

/-- `TIME_FLIT_QUEUE` (R21). -/
def execTimeFlitQueue (s : State) : Host.Outcome State Fault Refusal :=
  .next (if s.time.enable then
      let t := (List.range 16).foldl (fun s n => s.onLink n fun l => if l.up then { l with timeQueued := true } else l) s
      { t with time := { t.time with queuedAt := s.time.gcy + 1 } }
    else s)

/-- `SLEW_STEP` (R22): a doubled increment of the tick under way, or one clock on which everything stands still. -/
def execSlewStep (s : State) : Host.Outcome State Fault Refusal :=
  let t := s.time
  .next { s with time :=
    if 0 < t.pending then { t with pending := t.pending - 1, doubled := true, slewDone := t.gcy + 1 }
    else if t.pending < 0 then { t with pending := t.pending + 1, slewDone := t.gcy + 1 }
    else t }

/-- GCYALIGN as it is read (R26). -/
def Time.word (t : Time) : BitVec 32 :=
  BitVec.ofNat 32 (2 ^ 31 * t.alignErr.toNat + 2 ^ 30 * t.loadRefused.toNat + 2 ^ 16 * t.lastOffset.toNat
    + 2 ^ 7 * t.enable.toNat + 2 ^ 6 * t.root.toNat + t.parent.toNat)

/-- A write of GCYALIGN (R24, R26). After a refused load ENABLE can be set, but no time flit is used until package reset (log 68, DEDUCED). -/
def State.writeGcyalign (val : BitVec 32) (s : State) : State :=
  let t := s.time
  let sets := val.getLsbD 7 && !t.enable
  if sets && s.tasks.any Task.dispatched then s
  else
    { s with time := { t with
      alignErr := t.alignErr && !val.getLsbD 31
      loadRefused := t.loadRefused && !val.getLsbD 30
      enable := val.getLsbD 7
      root := val.getLsbD 6
      parent := val.extractLsb' 0 4
      loading := (if sets then !val.getLsbD 6 && !t.barred else t.loading && val.getLsbD 7) } }

/-- `GCYALIGN` (R24, R26). -/
def execGcyalign (who : Nat) (val : BitVec 32) (s : State) : Host.Outcome State Fault Refusal :=
  .next (if 512 ≤ who then s.writeGcyalign val else s)

end Sys2Proof.Machine
end

