-- ==== Sys2Proof/Machine/Power.lean ====
section
/-! DEFINITION. Regulators, the switch matrix, power tiers and issue-rate reduction (R27-R38). -/

namespace Sys2Proof.Machine

/-! ## Registers (R30, R31) -/

/-- A regulator, and changing it. -/
def State.reg (s : State) (n : Nat) : Regulator := s.regs.getD n Regulator.reset
def State.onReg (n : Nat) (f : Regulator → Regulator) (s : State) : State :=
  { s with regs := s.regs.setIfInBounds n (f (s.reg n)) }

/-- REGCTL as it is read. -/
def Regulator.ctl (r : Regulator) : BitVec 32 :=
  BitVec.ofNat 32 (2 ^ 31 * r.capErr.toNat + 2 ^ 30 * r.mapRefused.toNat + 2 ^ 16 * r.cap.toNat + 2 ^ 8 * r.slotmask.toNat
    + r.vtrim.toNat)

/-- REGSTAT as it is read. -/
def Regulator.stat (r : Regulator) : BitVec 32 := BitVec.ofNat 32 (2 ^ 16 * r.power.toNat + r.levels.toNat)

/-- A write of PWRMAP c (R29): the fields of clusters that hold no task change. -/
def State.writePwrmap (c : Nat) (val : BitVec 32) (s : State) : State :=
  if 4 ≤ c then s
  else
    (List.range 16).foldl (fun s k =>
      let g := 16 * c + k
      let old := s.regOf g
      let new := ((val >>> (2 * k)).extractLsb' 0 2).toNat
      if old = new then s
      else if s.clusterBusy g then s.onReg old fun r => { r with mapRefused := true }
      else
        let x := s.pwrmap.getD c 0
        { s with pwrmap := s.pwrmap.setIfInBounds c ((x &&& ~~~((3 : BitVec 32) <<< (2 * k))) ||| (BitVec.ofNat 32 new <<< (2 * k))) }) s

/-- `PWRMAP` (R29, R30). -/
def execPwrmap (who c : Nat) (val : BitVec 32) (s : State) : Host.Outcome State Fault Refusal :=
  .next (if 512 ≤ who then s.writePwrmap c val else s)

/-- A write of REGCTL n (R31, R32): VTRIM is the Conservator's. -/
def State.writeRegctl (who n : Nat) (val : BitVec 32) (s : State) : State :=
  let others := ((List.range 4).filter (· != n)).foldl (fun t k => t + (s.reg k).cap.toNat) 0
  let cap := val.extractLsb' 16 10
  let refused := decide (2600 < others + cap.toNat)
  s.onReg n fun r =>
    { r with
      capErr := (r.capErr && !val.getLsbD 31) || refused
      mapRefused := r.mapRefused && !val.getLsbD 30
      cap := if refused then r.cap else cap
      slotmask := val.extractLsb' 8 8 &&& 0xFE
      vtrim := if who = 514 then val.extractLsb' 0 6 else r.vtrim }

/-- `REGCTL` (R31, R32). -/
def execRegctl (who n : Nat) (val : BitVec 32) (s : State) : Host.Outcome State Fault Refusal :=
  .next (if 512 ≤ who then s.writeRegctl who n val else s)

/-! ## The power controller (R33-R35, R38) -/

/-- The grants of R33: floors in tier order, then the surplus in strict tier order. -/
def grants (cap : Nat) (demand floor : List Nat) : List Nat :=
  let first := (demand.zip floor).foldl (fun (a : List Nat × Nat) p =>
    let g := min (min p.1 (4 * p.2)) a.2
    (a.1 ++ [g], a.2 - g)) ([], min cap 800)
  ((demand.zip first.1).foldl (fun (a : List Nat × Nat) p =>
    let x := min (p.1 - p.2) a.2
    (a.1 ++ [p.2 + x], a.2 - x)) ([], first.2)).1

/-- The strands that hold cores: those that issue, and the parked members of resident pairs. -/
def State.strands (s : State) : List Core :=
  (s.cores.filter fun c => !c.isControl && c.task != 0 && c.run != .ended)
    ++ (s.tasks.filter fun k => k.phase == .parked).flatMap (·.parkedCores)

/-- The cohorts of a tier in the domain of a regulator. -/
def State.tierCohorts (s : State) (n t : Nat) : List Nat :=
  distinct ((s.strands.filter fun c => c.tier == t && s.regOf (clusterOf c.id) == n).map (·.coh))

/-- LEVEL_t of a regulator. -/
def Regulator.levelOf (r : Regulator) (t : Nat) : Nat := ((r.levels >>> (2 * t)).extractLsb' 0 2).toNat

/-- The level of a tier after an interval (R34). -/
def nextLevel (level demand demandDown grant : Nat) : Nat :=
  if grant < demand then min 3 (level + 1)
  else if 0 < level ∧ demandDown ≤ grant then level - 1
  else level

/-- `POWER_INTERVAL` (R33-R35, R38): once every 2,048 cycles, when it falls due; the controller's estimates and the mean power come with the
event (log 12, DESIGN CHOICE). A decision for a cohort goes behind those that still wait; a tier whose estimate fits leaves level 3 in an
interval over 800 W too (log 70, DESIGN CHOICE). -/
def execPowerInterval (n : Nat) (est : List TierEstimate) (power : Nat) (s : State) : Host.Outcome State Fault Refusal :=
  let r := s.reg n
  if 4 ≤ n ∨ s.time.gcy < r.lastRun + 2048 then .next s
  else
    let live := fun (t : Nat) => !(s.tierCohorts n t).isEmpty
    let demand := (List.range 8).map fun t => if live t then (est.getD t ⟨0, 0⟩).demand else 0
    let down := (List.range 8).map fun t => if live t then (est.getD t ⟨0, 0⟩).demandDown else 0
    let floors := (List.range 8).map fun t => ((r.floors >>> (8 * t)).extractLsb' 0 8).toNat
    let gs := grants r.cap.toNat demand floors
    let levels := (List.range 8).map fun t => nextLevel (r.levelOf t) (demand.getD t 0) (down.getD t 0) (gs.getD t 0)
    let hot := 800 < power ∧ (List.range 8).all (fun t => !live t || r.levelOf t == 3)
    let changes := (List.range 8).flatMap fun t => (s.tierCohorts n t).filterMap fun k =>
      (s.strands.find? fun c => c.coh == k).bind fun c =>
        let x := levels.getD t 0
        let last := ((s.pendLevel.filter fun p => p.1 == k).getLast?.map (·.2.1)).getD c.level
        if last = x then none else some (k, x, c.ccy + 8)
    .next { (s.onReg n fun r =>
      { r with
        levels := BitVec.ofNat 16 (levels.zipIdx.foldl (fun x p => x + p.1 * 4 ^ p.2) 0)
        power := BitVec.ofNat 16 (min 65535 power)
        overRuns := if hot then r.overRuns + 1 else 0
        lastRun := s.time.gcy }) with pendLevel := s.pendLevel ++ changes }

/-- `LEVEL_CHANGE` (R35): at a bundle boundary of the whole cohort, with no hold in force. -/
def execLevelChange (coh : Nat) (s : State) : Host.Outcome State Fault Refusal :=
  .next (match s.pendLevel.find? fun p => p.1 == coh with
    | some p =>
      if s.levelDue p then
        { s.mapCores (fun c => if c.coh = coh ∧ !c.isControl then { c with level := p.2.1 } else c) with
          pendLevel := s.pendLevel.eraseP fun x => x.1 == coh }
      else s
    | none => s)

/-- `DOMAIN_REPORT` (R38): a domain that stays over 800 W is reported again after 16 further intervals (log 70, DESIGN CHOICE). -/
def execDomainReport (n : Nat) (s : State) : Host.Outcome State Fault Refusal :=
  .next (if 16 ≤ (s.reg n).overRuns ∧ n < 4 then (s.onReg n fun r => { r with overRuns := 0 }).reportDomain n else s)

end Sys2Proof.Machine
end

