-- ==== Sys2Proof/Machine/Host.lean ====
section
/-! DEFINITION. What the host and the hypervisor do to the part: doorbells, queue registers, completion records, VFBIND, S2INV, the
locked set, resets (R39-R56, R111, R123, R387). -/

namespace Sys2Proof.Machine

/-! ## Writes with byte enables -/

/-- A register of `w` bits with the enabled bytes of a write. -/
def mergeBytes (old val : BitVec w) (be : Nat → Bool) : BitVec w :=
  (List.range (w / 8)).foldl (fun (x : BitVec w) k =>
    if be k then
      let m : BitVec w := (BitVec.ofNat w 0xFF) <<< (8 * k)
      (x &&& ~~~m) ||| (val &&& m)
    else x) old

/-! ## Doorbells and the pending-kick bitmap (R45, R49) -/

/-- Stopping a launch queue on an error (R45). -/
def State.stopQueue (v q : Nat) (s : State) : State :=
  ((s.onQueue v q fun l => { l with enable := false }).onVf v fun f => { f with qerr := f.qerr ||| (1 <<< q) }).msix v 1

/-- A doorbell that reaches its register (R45, R49). -/
def State.ringDoorbell (v q : Nat) (val : BitVec 32) (s : State) : State :=
  let l := (s.vf v).queue q
  let tail := val.extractLsb' 0 16
  if !l.enable then s
  else if 2 ^ l.log2.toNat ≤ tail.toNat then s.stopQueue v q
  else s.onQueue v q fun l => { l with tail := tail, kick := some s.time.gcy }

/-- `DOORBELL` (R49). -/
def execDoorbell (v q : Nat) (val : BitVec 32) (s : State) : Host.Outcome State Fault Refusal :=
  .next (if 8 ≤ q then s else s.barWrite v (State.ringDoorbell v q val))

/-- Clearing bits of KICKMAP w: a bit that a doorbell sets on the same clock stays set (R49). -/
def State.clearKicks (w : Nat) (val : Word) (s : State) : State :=
  (List.range 64).foldl (fun s b =>
    let n := 64 * w + b
    if val.getLsbD b then
      s.onQueue (n / 8) (n % 8) fun l => if l.kick = some s.time.gcy then l else { l with kick := none }
    else s) s

/-- KICKMAP w as it is read. -/
def State.kickmap (s : State) (w : Nat) : Word :=
  (List.range 64).foldl (fun (x : Word) b =>
    let n := 64 * w + b
    if ((s.vf (n / 8)).queue (n % 8)).kick.isSome then x ||| (1 <<< b) else x) 0

/-- `KICKMAP_CLEAR` (R49). -/
def execKickmapClear (who w : Nat) (val : Word) (s : State) : Host.Outcome State Fault Refusal :=
  .next (if 512 ≤ who ∧ w < 16 then s.clearKicks w val else s)

/-! ## Queue registers (R43, R44) -/

/-- CFG_ERR. -/
def State.cfgErr (v : Nat) (s : State) : State := s.onVf v fun f => { f with cfgErr := true }

/-- A write of LQBASE_q that reaches its register. -/
def State.writeLqbase (v q : Nat) (val : Word) (be : BitVec 8) (s : State) : State :=
  let l := (s.vf v).queue q
  let new := mergeBytes l.base val be.getLsbD &&& ~~~(0x7F : Word)
  if l.enable && new != l.base then s.cfgErr v else s.onQueue v q fun l => { l with base := new }

/-- `LQBASE_WRITE` (R44). -/
def execLqbaseWrite (v q : Nat) (val : Word) (be : BitVec 8) (s : State) : Host.Outcome State Fault Refusal :=
  .next (if 8 ≤ q then s else s.barWrite v (State.writeLqbase v q val be))

/-- LQCFG_q and CQCFG as they are read. -/
def LaunchQueue.cfg (l : LaunchQueue) : BitVec 32 :=
  BitVec.ofNat 32 (2 ^ 31 * l.enable.toNat + 2 ^ 16 * l.log2.toNat + l.head.toNat)
def Vf.cqcfg (f : Vf) : BitVec 32 :=
  BitVec.ofNat 32 (2 ^ 31 * f.cqEnable.toNat + 2 ^ 30 * f.intMask.toNat + 2 ^ 29 * f.phase.toNat + 2 ^ 16 * f.cqLog2.toNat
    + f.cqTail.toNat)

/-- Whether a LOG2SIZE is legal (R43). -/
def sizeLegal (x : BitVec 4) : Bool := decide (4 ≤ x.toNat) && decide (x.toNat ≤ 12)

/-- A write of LQCFG_q that reaches its register: enabling resets HEAD, disabling stops the fetching (R44). The other fields of a write that
may not set ENABLE take effect (log 80, DESIGN CHOICE). -/
def State.writeLqcfg (v q : Nat) (val : BitVec 32) (be : BitVec 4) (s : State) : State :=
  let l := (s.vf v).queue q
  let new := mergeBytes l.cfg val be.getLsbD
  let log2 := new.extractLsb' 16 4
  if l.enable && log2 != l.log2 then s.cfgErr v
  else if new.getLsbD 31 && !l.enable && !sizeLegal log2 then
    (s.onQueue v q fun l => { l with log2 := log2 }).cfgErr v
  else
    s.onQueue v q fun l =>
      { l with
        enable := new.getLsbD 31
        log2 := log2
        head := if new.getLsbD 31 && !l.enable then 0 else l.head }

/-- `LQCFG_WRITE` (R44). -/
def execLqcfgWrite (v q : Nat) (val : BitVec 32) (be : BitVec 4) (s : State) : Host.Outcome State Fault Refusal :=
  .next (if 8 ≤ q then s else s.barWrite v (State.writeLqcfg v q val be))

/-- A write of CQBASE that reaches its register. -/
def State.writeCqbase (v : Nat) (val : Word) (be : BitVec 8) (s : State) : State :=
  let f := s.vf v
  let new := mergeBytes f.cqBase val be.getLsbD &&& ~~~(0x1F : Word)
  if f.cqEnable && new != f.cqBase then s.cfgErr v else s.onVf v fun f => { f with cqBase := new }

/-- `CQBASE_WRITE` (R44). -/
def execCqbaseWrite (v : Nat) (val : Word) (be : BitVec 8) (s : State) : Host.Outcome State Fault Refusal :=
  .next (s.barWrite v (State.writeCqbase v val be))

/-- A write of CQCFG that reaches its register: enabling resets TAIL and PHASE and lets held records go (R44, R47). The other fields of a
write that may not set ENABLE take effect (log 80, DESIGN CHOICE). -/
def State.writeCqcfg (v : Nat) (val : BitVec 32) (be : BitVec 4) (s : State) : State :=
  let f := s.vf v
  let new := mergeBytes f.cqcfg val be.getLsbD
  let log2 := new.extractLsb' 16 4
  if f.cqEnable && log2 != f.cqLog2 then s.cfgErr v
  else
    let sets := new.getLsbD 31 && !f.cqEnable
    let bad := sets && !sizeLegal log2
    let t := s.onVf v fun f =>
      { f with
        cqEnable := new.getLsbD 31 && !bad
        cfgErr := f.cfgErr || bad
        intMask := new.getLsbD 30
        cqLog2 := log2
        cqTail := if sets && !bad then 0 else f.cqTail
        phase := (sets && !bad) || f.phase }
    t.drainRecords v (t.vf v).heldRecs.length

/-- `CQCFG_WRITE` (R44). -/
def execCqcfgWrite (v : Nat) (val : BitVec 32) (be : BitVec 4) (s : State) : Host.Outcome State Fault Refusal :=
  .next (s.barWrite v (State.writeCqcfg v val be))

/-- A write of CQHEAD that reaches its register: the records for which there is room now are written (R47). -/
def State.writeCqhead (v : Nat) (val : BitVec 32) (s : State) : State :=
  let t := s.onVf v fun f => { f with cqHead := val.extractLsb' 0 16 }
  t.drainRecords v (t.vf v).heldRecs.length

/-- `CQHEAD_WRITE` (R47). -/
def execCqheadWrite (v : Nat) (val : BitVec 32) (s : State) : Host.Outcome State Fault Refusal :=
  .next (s.barWrite v (State.writeCqhead v val))

/-- VFSTAT as it is read (R43). -/
def Vf.stat (f : Vf) : BitVec 32 :=
  BitVec.ofNat 32 (2 ^ 30 * f.tdi.toNat + 2 ^ 17 * (!f.heldRecs.isEmpty).toNat + 2 ^ 16 * f.cfgErr.toNat + 2 ^ 8 * f.qerr.toNat
    + (List.range 8).foldl (fun n q => n + 2 ^ q * (f.queue q).enable.toNat) 0)

/-! ## Completion records (R47, R126) -/

/-- Whether the released effects of a task have all performed, its ring mutations among them (R197). -/
def State.effectsDone (s : State) (task : Nat) : Bool := !(s.released.any fun g => g.strand / 1024 == task)
  && !(s.orphans.any fun o => o.task == task)

/-- The task whose record comes next for a virtual function: ended, its effects performed, and behind those that were launched and
that finished before it (R47). -/
def State.nextRecord (s : State) (v : Nat) : Option (Task × TaskEnd) :=
  let ended := (s.tasks.filter fun k => k.vf == v && k.phase == .ended).filterMap fun k => k.fin.map fun e => (k, e)
  ended.zipIdx.findSome? fun p =>
    let (k, e) := p.1
    if s.effectsDone k.id && !(ended.take p.2).any (fun x => decide (x.2.gcy < e.gcy)) then some (k, e) else none

/-- A task is gone: its status word stays, what its cores have kept of it is cleared, and they are free (R48, R81, R126, R413). -/
def State.retireTask (k : Task) (s : State) : State :=
  let t := s.keepWord k.vf k.word
  { t.mapCores (fun c =>
      if !c.isControl ∧ c.task = k.id then c.stop.emptied else if c.was = k.id then c.emptied else c) with
    tasks := t.tasks.filter fun x => x.id != k.id }

/-- `COMPLETION_RECORD_WRITE` (R47, R54, R56, R126): to the host, or into the hold buffer of a takeover; a full hold buffer lets the
record wait. -/
def execCompletionRecordWrite (v : Nat) (s : State) : Host.Outcome State Fault Refusal :=
  .next (if (s.vf v).resetting || (s.vf v).tdi == 3 then s
    else
      match s.nextRecord v with
      | none => s
      | some (k, e) =>
        if !s.cur.holding then (s.retireTask k).deliver v (k.completion e)
        else if s.cur.hold.length < 256 then
          let t := s.retireTask k
          { t with cur := { t.cur with hold := t.cur.hold ++ [(v, k.completion e)] } }
        else s)

/-! ## The PF's registers (R41, R50, R111) -/

/-- A write at the PF that touches the locked sets of some VFs: it is not processed while it waits (R387). -/
def State.atPf (touched : List Nat) (f : State → State) (s : State) : State := if s.pfWaits touched then s else f s

/-- VFBIND v with a new value: unchanged where it names a partition that the world does not own (R41). -/
def State.setVfbind (v : Nat) (val : BitVec 128) (s : State) : State :=
  let world := val.extractLsb' 0 6
  let parts := val.extractLsb' 64 64
  if (List.range 64).all fun p => !parts.getLsbD p || s.worldOf p == some world.toNat then
    s.onVf v fun f => { f with parts := parts, bound := val.getLsbD 31, world := world }
  else s

/-- `VFBIND_WRITE` (R41, R50). -/
def execVfbindWrite (v : Nat) (val : BitVec 128) (s : State) : Host.Outcome State Fault Refusal :=
  .next (if 128 ≤ v then s
    else s.atPf [v] fun s => s.lockedWrite v 6 (State.setVfbind v val))

/-- A pinned run that was built from a stage-2 entry of a range (R111). -/
def Task.coversPage (k : Task) (stage2 : Bool) (addr pages : Nat) : Bool :=
  k.pages.any fun p => p.1 == stage2 && decide (addr < p.2.1 + p.2.2) && decide (p.2.1 < addr + 4096 * pages)

/-- Retiring the covered runs of one task (R111): one that runs receives a pre-emption request; one that is not on its way through a
program is translated afresh, a parked member of a pair after what its partner has left on the cores. -/
def State.unpin (id : Nat) (s : State) : State :=
  match s.task id with
  | none => s
  | some k =>
    match k.phase with
    | .running => s.askPreempt id
    | .parked =>
      let t := match k.partner with
        | some a => s.handOver a false (s.cores.filter fun (c : Core) => !c.isControl && c.task == a && c.run != RunState.ended)
        | none => s
      let t := { t with tasks := t.tasks.map fun (x : Task) => if x.partner = some id then { x with partner := none } else x }
      t.onTask id fun k => { k with phase := .preempted, partner := none, exts := [], pages := [] }
    | _ => s.onTask id fun k => { k with phase := .translating, exts := [], pages := [], places := [] }

/-- The effect of an invalidation on the walk cache and on the tasks: the entries go, the tasks that hold a run built from one give
it up; it waits for those tasks (R111). -/
def State.invalidate (stage2 : Bool) (v addr pages : Nat) (s : State) : Inval × State :=
  let hit := s.tasks.filter fun k => k.vf == v && k.coversPage stage2 addr pages
  let t := hit.foldl (fun s k => s.unpin k.id) s
  (⟨v, addr, pages, hit.map fun k => (k.id, k.built)⟩, { t with walk := t.walk.filter fun w =>
    !(w.stage2 == stage2 && w.vf == v && decide (addr < w.first + w.size) && decide (w.first < addr + 4096 * pages)) })

/-- A write of S2INV (R111). -/
def State.writeS2inv (val : BitVec 128) (s : State) : State :=
  if s.s2inv.isSome || !val.getLsbD 127 then s
  else
    let (x, t) := s.invalidate true (val.extractLsb' 96 7).toNat (val.extractLsb' 0 64).toNat (val.extractLsb' 64 32).toNat
    { t with s2inv := some x }

/-- `S2INV` (R111). -/
def execS2inv (val : BitVec 128) (s : State) : Host.Outcome State Fault Refusal := .next (s.writeS2inv val)

/-! ## Resets (R51, R56, R123) -/

/-- A VF's TDI is reset, with its notice. -/
def State.resetVf (v : Nat) (s : State) : State := (s.beginVfReset v).notice 4 v 0

/-- `VF_FLR` (R51, R56). -/
def execVfFlr (v : Nat) (s : State) : Host.Outcome State Fault Refusal :=
  .next (if 128 ≤ v then s else s.atVf v (State.resetVf v))

/-- `PF_RESET` (R51): every VF is reset, and the PF's registers of the SR-IOV, MSI-X and Command kind take their reset values (log 17,
PRESUMED). -/
def execPfReset (s : State) : Host.Outcome State Fault Refusal :=
  let t := (List.range 128).foldl (fun s v =>
    (s.resetVf v).onVf v fun f => { f with frozen := ⟨none, none, none, none⟩ }) s
  .next { t with pf := { t.pf with command := 0, sriov := 0, vfBar0 := 0, vfBar2 := 0, msixCtl := 0 } }

/-- The roundel slots of the partitions bound to a VF. -/
def State.vfSlots (s : State) (v : Nat) : List (Nat × Nat) :=
  s.slotOwner.filterMap fun x => match x.2 with
    | some p => if (s.vf v).parts.getLsbD p then some (x.1 / 256, x.1 % 256) else none
    | none => none

/-- The registers of a VF after its reset: those of R42 and R43 at their reset values; VFBIND, the IDE stream, MSI-X control and the
values frozen at a lock stay (R54, R56). -/
def Vf.afterReset (f : Vf) : Vf :=
  { Vf.reset with
    parts := f.parts, bound := f.bound, world := f.world, msixCtl := f.msixCtl, ide := f.ide, secure := f.secure
    frozen := f.frozen, resetting := true, scrubbing := true, stopRsp := f.stopRsp }

/-- `VF_RESET_DONE` (R56, R123): once nothing of the VF is left to perform, its registers are reset and its slots are to be scrubbed;
once they are scrubbed, Transactions Pending clears and a STOP response that waits is sent. -/
def execVfResetDone (v : Nat) (s : State) : Host.Outcome State Fault Refusal :=
  let f := s.vf v
  let mine := s.tasks.filter fun k => k.vf == v
  let slots := s.vfSlots v
  .next (if !f.resetting then s
    else
      let s :=
        if !f.scrubbing && mine.all fun k => k.phase == .ended && s.effectsDone k.id then
          let t := s.onVf v Vf.afterReset
          { t with
            tasks := t.tasks.filter fun k => k.vf != v
            slotScrub := t.slotScrub ++ slots.filter fun x => !t.slotScrub.contains x }
        else s
      if (s.vf v).scrubbing && !(s.slotScrub.any fun x => slots.contains x) then
        let rsp := (s.vf v).stopRsp
        let t := s.onVf v fun f => { f with resetting := false, scrubbing := false, stopRsp := none }
        rsp.toList.foldl (fun t b => t.respond v b) t
      else s)

/-! ## The locked set (R50, R51, R54, R387) -/

/-- The notice code of a locked register (R388). -/
def LockedReg.info : LockedReg → Nat
  | .bar0 => 1 | .bar2 => 1 | .command => 2 | .sriovControl => 3 | .msixEntry _ => 4 | .msixControl => 4
  | .streamControl => 5 | .ridAssociation _ => 5 | .addressAssociation _ => 5 | .vfbind => 6

/-- Whether byte enables cover a bit of the register that R50's table names: Memory Space Enable and Bus Master Enable, VF Enable and VF
Memory Space Enable lie in the low byte of their registers, Function Mask and MSI-X Enable in the high byte (log 17, PRESUMED). -/
def LockedReg.covers (r : LockedReg) (be : BitVec 8) : Bool :=
  match r with
  | .command | .sriovControl => be.getLsbD 0
  | .msixControl => be.getLsbD 1
  | .msixEntry _ | .streamControl | .ridAssociation _ | .addressAssociation _ => be.extractLsb' 0 4 != 0
  | .bar0 | .bar2 | .vfbind => be != 0

/-- Whether VF Enable is in effect for a VF (R50, R51). -/
def State.vfEnabled (s : State) (v : Nat) : Bool := ((s.vf v).frozen.sriov.getD s.pf.sriov).getLsbD 0

/-- A register of the PF that governs every VF is written: where the write covers a locked bit, the VFs that are neither locked, running nor
in ERROR see the new value (R50, R54); those for which this clears VF Enable are reset (R51). -/
def State.setPfReg (covers : Bool) (g : Pf → Pf) (thaw : Frozen → Frozen) (s : State) : State :=
  let t := { s with
    pf := g s.pf
    vfs := (s.vfs.map fun p => if covers ∧ p.2.tdi = 0 then (p.1, { p.2 with frozen := thaw p.2.frozen }) else p).filter fun p =>
      p.2 != Vf.reset }
  (List.range 128).foldl (fun t v => if s.vfEnabled v && !t.vfEnabled v then t.resetVf v else t) t

/-- Such a write: where it covers a locked bit, every VF that is locked or running goes to ERROR with a notice of its own. -/
def State.pfLocked (covers : Bool) (info : Nat) (g : Pf → Pf) (thaw : Frozen → Frozen) (s : State) : State :=
  let t := (List.range 128).foldl (fun s v => if covers && (s.vf v).isLocked then s.lockedHit v info else s) s
  t.setPfReg covers g thaw

/-- A write to a register of the locked set of one VF: under the lock only where it covers a locked bit (R50). -/
def State.coveredWrite (v : Nat) (reg : LockedReg) (be : BitVec 8) (f : State → State) (s : State) : State :=
  if LockedReg.covers reg be then s.lockedWrite v (LockedReg.info reg) f else f s

/-- Replacing some bits of a register by the enabled bytes of a 32-bit write at a bit. -/
def putWord {w : Nat} (x : BitVec w) (bit : Nat) (val : Word) (be : BitVec 8) : BitVec w :=
  let new := mergeBytes (x.extractLsb' bit 32) (val.extractLsb' 0 32) be.getLsbD
  (x &&& ~~~((0xFFFFFFFF#32).setWidth w <<< bit)) ||| (new.setWidth w <<< bit)

/-- `LOCKED_SET_WRITE` (R42, R50, R51, R54, R387): the enabled bytes are written; the VF BARs, of 64 KiB and 1 MiB, hold the bits above their
sizes. A write to the MSI-X table is a memory request and must be accepted as one. -/
def execLockedSetWrite (v : Nat) (reg : LockedReg) (w : MaskedWrite) (s : State) : Host.Outcome State Fault Refusal :=
  let val := w.val
  let be := w.be
  let all := if LockedReg.covers reg be then List.range 128 else []
  let word := fun (old : BitVec 16) => mergeBytes old (val.extractLsb' 0 16) be.getLsbD
  let ide := fun (f : IdeStream → IdeStream) =>
    s.atPf [v] fun s => s.coveredWrite v reg be fun s => s.onVf v fun x => { x with ide := f x.ide }
  .next (if 128 ≤ v then s
    else
      match reg with
      | .bar0 => s.atPf all (State.pfLocked (LockedReg.covers reg be) 1
          (fun p => { p with vfBar0 := mergeBytes p.vfBar0 val be.getLsbD &&& ~~~0xFFFF })
          fun f => { f with bar0 := none })
      | .bar2 => s.atPf all (State.pfLocked (LockedReg.covers reg be) 1
          (fun p => { p with vfBar2 := mergeBytes p.vfBar2 val be.getLsbD &&& ~~~0xFFFFF })
          fun f => { f with bar2 := none })
      | .command => s.atPf all (State.pfLocked (LockedReg.covers reg be) 2 (fun p => { p with command := word p.command })
          fun f => { f with command := none })
      | .sriovControl => s.atPf all (State.pfLocked (LockedReg.covers reg be) 3 (fun p => { p with sriov := word p.sriov })
          fun f => { f with sriov := none })
      | .msixEntry off => s.atVf v fun s =>
          if 32 ≤ off then s
          else s.orUnsupported v (s.vfAccepts v (decide ((s.vf v).tdi = 2))) fun s =>
            s.coveredWrite v reg be fun s =>
              (s.onVf v fun f => { f with msixTable := putWord f.msixTable (8 * (off / 4 * 4)) val be }).msixUnmasked v
      | .msixControl => s.atVf v fun s =>
          if (s.vf v).resetting then s
          else s.coveredWrite v reg be fun s =>
            (s.onVf v fun f => { f with msixCtl := (word f.msixCtl &&& 0xC000) ||| 1 }).msixUnmasked v
      | .streamControl => ide fun x => { x with control := mergeBytes x.control (val.extractLsb' 0 32) be.getLsbD }
      | .ridAssociation k => ide fun x => if 2 ≤ k then x else { x with rid := putWord x.rid (32 * k) val be }
      | .addressAssociation k => ide fun x => if 3 ≤ k then x else { x with addr := putWord x.addr (32 * k) val be }
      | .vfbind => s.atPf [v] fun s => s.coveredWrite v reg be fun s =>
          let old := BitVec.ofNat 64 ((s.vf v).world.toNat + 2 ^ 31 * (s.vf v).bound.toNat)
          s.setVfbind v ((s.vf v).parts ++ mergeBytes old val be.getLsbD))

/-- Stream 1 + v leaves the Secure state (R51, R54, R387). -/
def State.streamLost (v : Nat) (s : State) : State :=
  let t := s.onVf v fun f => { f with secure := false }
  if (s.vf v).isLocked then (t.enterError v).notice 3 v 0 else t

/-- `IDE_STREAM_LOSS` (R51). -/
def execIdeStreamLoss (v : Nat) (s : State) : Host.Outcome State Fault Refusal :=
  .next (if 128 ≤ v then s else s.atVf v (State.streamLost v))

/-! ## Registers without a row of their own (R8, R42, R43, R109) -/

/-- A write to BAR 0 of a VF that is accepted. -/
def State.writeVfBar0 (v off : Nat) (val : Word) (s : State) : State :=
  match off with
  | 0x100 => s.onVf v fun f =>
      { f with cfgErr := f.cfgErr && !val.getLsbD 16, qerr := f.qerr &&& ~~~(val.extractLsb' 8 8) }
  | 0x108 => s.onVf v fun f => { f with lswin := val.extractLsb' 0 15 }
  | _ => s

/-- A register at an offset with those of some written bytes that lie in it. -/
def mergeCells (old : BitVec w) (base : Nat) (bytes : List (Nat × Byte)) : BitVec w :=
  bytes.foldl (fun x b =>
    if base ≤ b.1 ∧ b.1 < base + w / 8 then
      mergeBytes x (BitVec.ofNat w (b.2.toNat * 256 ^ (b.1 - base))) (· == b.1 - base)
    else x) old

/-- A write of some bytes of BAR 0 of the PF: those of a VFS2ROOT v that it touches, and S2INV, whose other bytes are as it reads, zero (R8,
R109, R111; a narrow write merges: log 32, DESIGN CHOICE). -/
def State.writePfBar0 (bytes : List (Nat × Byte)) (s : State) : State :=
  let s := bytes.foldl (fun s b =>
    if 0x20000 ≤ b.1 ∧ b.1 < 0x20400 then
      let v := (b.1 - 0x20000) / 8
      { s with s2root := SMap.modify 0 v (fun x => mergeCells x (0x20000 + 8 * v) [b]) s.s2root }
    else s) s
  if bytes.any fun b => decide (0x30000 ≤ b.1) && decide (b.1 < 0x30010) then s.writeS2inv (mergeCells 0 0x30000 bytes) else s

/-- A write of some bytes of the DOE capability of a function, by offset in it, register by register: bytes that it does not cover are as
they read, but for bits that a one would set or clear (log 32, DESIGN CHOICE). -/
def State.writeDoeBytes (fn : Nat) (bytes : List (Nat × Byte)) (s : State) : State :=
  [8, 12, 16, 20].foldl (fun s off =>
    if bytes.any fun b => decide (off ≤ b.1) && decide (b.1 < off + 4) then
      s.writeDoe fn off (mergeCells (if off = 8 then (s.mailbox fn).word 8 else 0) off bytes)
    else s) s

/-- The bytes of a write that lie from an offset on, by their distance from it. -/
def cellsFrom (base : Nat) (bytes : List (Nat × Byte)) : List (Nat × Byte) :=
  bytes.filterMap fun b => if base ≤ b.1 then some (b.1 - base, b.2) else none

/-- A write of some bytes of the PF's configuration space that no other row makes: MSI-X Message Control, at offset 2 of its capability, of
which Function Mask and Enable are writable; the registers of stream 0; the DOE capability (R39, R42; log 79, PRESUMED). -/
def State.writePfConfig (bytes : List (Nat × Byte)) (s : State) : State :=
  let msix := cellsFrom Config.msixOffset bytes
  let ide := cellsFrom Config.streamOffset bytes
  let t := { s with pf := { s.pf with
    msixCtl := mergeCells s.pf.msixCtl 2 msix &&& 0xC000
    ide := ⟨mergeCells s.pf.ide.control 4 ide, mergeCells s.pf.ide.rid 12 ide, mergeCells s.pf.ide.addr 20 ide⟩ } }
  t.writeDoeBytes 0 (cellsFrom Config.doeOffset bytes)

end Sys2Proof.Machine
end

