-- ==== Sys2Proof/Machine/Tdi.lean ====
section
/-! DEFINITION. The TDI block, the TDISP requests as the Primer answers them, and its other SPDM services (R50-R60, R387-R392). -/

namespace Sys2Proof.Machine

/-! ## Messages (R391) -/

/-- INTERFACE_ID of VF v: the function number, and zeros (log 18, PRESUMED). -/
def interfaceId (v : Nat) : List Byte := leBytes 4 (1 + v) ++ List.replicate 8 0

/-- A TDISP message of VF v: header and body. -/
def tdispMsg (v code : Nat) (body : List Byte) : List Byte :=
  [0x10, BitVec.ofNat 8 code, 0, 0] ++ interfaceId v ++ body

/-- TDISP_ERROR with a code; ERROR_DATA is 0. -/
def tdispError (v code : Nat) : List Byte := tdispMsg v 0x7F (leBytes 4 code ++ leBytes 4 0)

/-! ## The registers of a TDI (R53, R55, R389) -/

/-- TDICTL v as it is read. -/
def Vf.tdictl (f : Vf) : Word := BitVec.ofNat 64 (128 * f.nfw.toNat + f.tdi.toNat)

/-- The PF registers as a VF's lock froze them, else as they stand. -/
def State.vfCommand (s : State) (v : Nat) : BitVec 16 := (s.vf v).frozen.command.getD s.pf.command
def State.vfSriov (s : State) (v : Nat) : BitVec 16 := (s.vf v).frozen.sriov.getD s.pf.sriov
def State.vfBase0 (s : State) (v : Nat) : Word := (s.vf v).frozen.bar0.getD s.pf.vfBar0
def State.vfBase2 (s : State) (v : Nat) : Word := (s.vf v).frozen.bar2.getD s.pf.vfBar2

/-- TDICHK v as it is read (R53, R389). -/
def State.tdichk (s : State) (v : Nat) : Word :=
  let f := s.vf v
  BitVec.ofNat 64 (f.secure.toNat
    + 2 * (f.bound && f.parts != 0).toNat
    + 4 * ((s.vfSriov v).getLsbD 3).toNat
    + 8 * (!f.cqEnable && !((List.range 8).any fun q => (f.queue q).enable)).toNat
    + 16 * (!(s.tasks.any fun k => k.vf == v && k.dispatched)).toNat
    + 32 * (decide ((s.boundClasses v).length ≤ 255)).toNat)

/-- One MMIO range of the interface report (R55). -/
def reportRange (k page pages attr : Nat) : List Byte :=
  leBytes 8 page ++ leBytes 4 pages ++ leBytes 4 (attr + 65536 * k)

/-- The interface report of VF v as it is captured now (R55). -/
def State.report55 (s : State) (v : Nat) (nfw : Bool) : List Byte :=
  let f := s.vf v
  let classes := s.boundClasses v
  let page := ((s.vfBase0 v).toNat + 65536 * v) / 4096
  let page2 := ((s.vfBase2 v).toNat + 1048576 * v) / 4096
  let gen := ((s.worlds.find? fun w => w.1 == f.world.toNat).map (·.2.gen)).getD 0
  leBytes 2 (2 + nfw.toNat) ++ leBytes 2 0 ++ leBytes 2 f.msixCtl.toNat ++ leBytes 2 0 ++ leBytes 4 0 ++ leBytes 4 5
    ++ reportRange 0 page 8 0 ++ reportRange 1 (page + 8) 1 1 ++ reportRange 2 (page + 9) 1 2 ++ reportRange 3 (page + 10) 1 4
    ++ reportRange 4 page2 256 0
    ++ leBytes 4 (16 + 4 * classes.length) ++ leBytes 1 1 ++ leBytes 1 f.world.toNat ++ leBytes 2 gen ++ leBytes 8 f.parts.toNat
    ++ leBytes 1 classes.length ++ leBytes 3 0 ++ classes.flatMap (leBytes 4)

/-- CONFIG_UNLOCKED to CONFIG_LOCKED: the locked set is frozen, the report captured, a nonce drawn from the DRBG (R58, R389). -/
def State.tdiLock (v : Nat) (nfw : Bool) (s : State) : State :=
  let (x, t) := s.drawRandom
  t.onVf v fun f =>
    { f with
      tdi := 1
      nfw := nfw
      nonce := x.extractLsb' 0 256
      report := s.report55 v nfw
      frozen := ⟨some (s.vfCommand v), some (s.vfSriov v), some (s.vfBase0 v), some (s.vfBase2 v)⟩ }

/-- A Primer write of TDICTL v (R389): the moves it allows. -/
def State.writeTdictl (v : Nat) (val : Word) (s : State) : State :=
  if 128 ≤ v then s
  else
    match (s.vf v).tdi.toNat, (val.extractLsb' 0 2).toNat with
    | _, 0 => s.beginVfReset v
    | 0, 1 => s.tdiLock v (val.getLsbD 7)
    | 1, 2 => s.onVf v fun f => { f with tdi := 2 }
    | 1, 3 => s.enterError v
    | _, _ => s

/-- Whether a write of TDICTL v by the Primer asks for a move. -/
def State.tdiMove (s : State) (who v : Nat) (val : Word) (src : Option Nat) (dst : Nat) : Bool :=
  who == 515 && (val.extractLsb' 0 2).toNat == dst && (match src with
    | some x => (s.vf v).tdi.toNat == x
    | none => true)

/-- `TDICTL_LOCK` (R389). -/
def execTdictlLock (who v : Nat) (val : Word) (s : State) : Host.Outcome State Fault Refusal :=
  .next (if s.tdiMove who v val (some 0) 1 then s.writeTdictl v val else s)

/-- `TDICTL_RUN` (R389). -/
def execTdictlRun (who v : Nat) (val : Word) (s : State) : Host.Outcome State Fault Refusal :=
  .next (if s.tdiMove who v val (some 1) 2 then s.writeTdictl v val else s)

/-- `TDICTL_ERROR` (R389). -/
def execTdictlError (who v : Nat) (val : Word) (s : State) : Host.Outcome State Fault Refusal :=
  .next (if s.tdiMove who v val (some 1) 3 then s.writeTdictl v val else s)

/-- `TDICTL_UNLOCK` (R389). -/
def execTdictlUnlock (who v : Nat) (val : Word) (s : State) : Host.Outcome State Fault Refusal :=
  .next (if s.tdiMove who v val none 0 then s.writeTdictl v val else s)

/-- TDIEVT as it is read (R388). -/
def State.tdievt (s : State) : Word :=
  match s.tdiEvt with
  | none => 0
  | some e => BitVec.ofNat 64 (2 ^ 63 + 2 ^ 48 * e.kind + 2 ^ 32 * e.vf + 2 ^ 16 * e.info + e.len)

/-- A Primer write of TDIDONE (R388, R389): the response goes out, or waits for the end of a VF reset; the next arrival shows. -/
def State.writeTdidone (val : Word) (s : State) : State :=
  match s.tdiEvt with
  | none => s
  | some e =>
    if val.extractLsb' 16 48 ≠ 0 then s
    else
      let n := (val.extractLsb' 0 16).toNat
      let t := { s with tdiEvt := s.tdiQueue.head?, tdiQueue := s.tdiQueue.drop 1 }
      if e.kind ≠ 1 then t
      else
        let bytes := if 16 ≤ n ∧ n ≤ 2048 then s.tdiRsp.readBytes 0 n else tdispError e.vf 0x0005
        if (s.vf e.vf).resetting then t.onVf e.vf fun f => { f with stopRsp := some bytes } else t.respond e.vf bytes

/-- `TDIDONE` (R388). -/
def execTdidone (who : Nat) (val : Word) (s : State) : Host.Outcome State Fault Refusal :=
  .next (if who = 515 then s.writeTdidone val else s)

/-! ## TDISP requests, answered as the Primer's firmware answers them (R51, R392) -/

/-- A request of TDISP 1.0, with the fields that the firmware reads. -/
inductive TdispReq where
  | version | capabilities | state | lock (flags : BitVec 16) | report (offset length : BitVec 16) | start (nonce : Payload) | stop | other
deriving DecidableEq, Repr

/-- TDISP_ERROR: response code and body. -/
def tdispFails (code : Nat) : Nat × List Byte := (0x7F, leBytes 4 code ++ leBytes 4 0)

/-- The portion of a report that a request gets (R55, R392). -/
def reportPortion (report : List Byte) (offset length : Nat) : List Byte :=
  let n := min length (report.length - offset)
  leBytes 2 n ++ leBytes 2 (report.length - offset - n) ++ (report.drop offset).take n

/-- What the firmware does for a request of VF v: the response's code and body, and the moves of the TDI (R51, R53, R55, R391, R392). -/
def State.tdispServe (v : Nat) (r : TdispReq) (s : State) : (Nat × List Byte) × State :=
  match r with
  | .version => ((0x01, [1, 0x10]), s)
  | .capabilities =>
    ((0x02, leBytes 4 0 ++ [0xFE] ++ List.replicate 15 0 ++ leBytes 2 1 ++ List.replicate 3 0 ++ [64, 1, 1]), s)
  | .state => ((0x05, [(s.vf v).tdi.setWidth 8]), s)
  | .lock flags =>
    if (s.vf v).tdi ≠ 0 then (tdispFails 0x0004, s)
    else if s.tdichk v ≠ 0x3F ∨ flags &&& 0xFFFE ≠ 0 then (tdispFails 0x0001, s)
    else
      let t := s.tdiLock v (flags.getLsbD 0)
      ((0x03, leBytes 32 (t.vf v).nonce.toNat), t)
  | .report offset length =>
    let report := (s.vf v).report
    if !(s.vf v).isLocked then (tdispFails 0x0004, s)
    else if report.length ≤ offset.toNat then (tdispFails 0x0001, s)
    else ((0x04, reportPortion report offset.toNat length.toNat), s)
  | .start nonce =>
    if (s.vf v).tdi ≠ 1 then (tdispFails 0x0004, s)
    else if nonce = (s.vf v).nonce then ((0x06, []), s.onVf v fun f => { f with tdi := 2 })
    else (tdispFails 0x0102, s.enterError v)
  | .stop => ((0x07, []), s.beginVfReset v)
  | .other => (tdispFails 0x0007, s)

/-- A request at the mailbox of VF v, answered; the answer to a STOP waits for the end of the VF reset sequence (R51, R56). -/
def State.tdisp (v : Nat) (r : TdispReq) (s : State) : State :=
  s.atDoe v fun s =>
    let ((code, body), t) := s.tdispServe v r
    let bytes := tdispMsg v code body
    if (t.vf v).resetting then t.onVf v fun f => { f with stopRsp := some bytes } else t.respond v bytes

/-- `GET_TDISP_VERSION` (R51, R392). -/
def execGetTdispVersion (v : Nat) (s : State) : Host.Outcome State Fault Refusal := .next (s.tdisp v .version)

/-- `GET_TDISP_CAPABILITIES` (R392). -/
def execGetTdispCapabilities (v : Nat) (s : State) : Host.Outcome State Fault Refusal := .next (s.tdisp v .capabilities)

/-- `GET_DEVICE_INTERFACE_STATE` (R51). -/
def execGetDeviceInterfaceState (v : Nat) (s : State) : Host.Outcome State Fault Refusal := .next (s.tdisp v .state)

/-- `LOCK_INTERFACE_REQUEST` (R51, R53, R391). -/
def execLockInterfaceRequest (v : Nat) (flags : BitVec 16) (s : State) : Host.Outcome State Fault Refusal := .next (s.tdisp v (.lock flags))

/-- `GET_DEVICE_INTERFACE_REPORT` (R51, R55, R392). -/
def execGetDeviceInterfaceReport (v : Nat) (offset length : BitVec 16) (s : State) : Host.Outcome State Fault Refusal :=
  .next (s.tdisp v (.report offset length))

/-- `START_INTERFACE_REQUEST` (R51). -/
def execStartInterfaceRequest (v : Nat) (nonce : Payload) (s : State) : Host.Outcome State Fault Refusal := .next (s.tdisp v (.start nonce))

/-- `STOP_INTERFACE_REQUEST` (R51): the response is sent when the VF reset sequence ends. -/
def execStopInterfaceRequest (v : Nat) (s : State) : Host.Outcome State Fault Refusal := .next (s.tdisp v .stop)

/-- `BIND_P2P_STREAM_REQUEST` (R51). -/
def execBindP2pStreamRequest (v : Nat) (s : State) : Host.Outcome State Fault Refusal := .next (s.tdisp v .other)

/-- `UNBIND_P2P_STREAM_REQUEST` (R51). -/
def execUnbindP2pStreamRequest (v : Nat) (s : State) : Host.Outcome State Fault Refusal := .next (s.tdisp v .other)

/-- `SET_MMIO_ATTRIBUTE_REQUEST` (R51). -/
def execSetMmioAttributeRequest (v : Nat) (s : State) : Host.Outcome State Fault Refusal := .next (s.tdisp v .other)

/-- `TDISP_VENDOR_REQUEST` (R51). -/
def execTdispVendorRequest (v : Nat) (s : State) : Host.Outcome State Fault Refusal := .next (s.tdisp v .other)

/-! ## The Primer's task (R391, R392) -/

/-- The request that a message holds; the bytes past its end read zero (R390). -/
def tdispParse (msg : List Byte) : TdispReq :=
  match fieldAt msg 1 1 with
  | 0x81 => .version
  | 0x82 => .capabilities
  | 0x83 => .lock (BitVec.ofNat 16 (fieldAt msg 16 2))
  | 0x84 => .report (BitVec.ofNat 16 (fieldAt msg 16 2)) (BitVec.ofNat 16 (fieldAt msg 18 2))
  | 0x85 => .state
  | 0x86 => .start (BitVec.ofNat 256 (fieldAt msg 16 32))
  | 0x87 => .stop
  | _ => .other

/-- The Primer's task on a KIND 1 message of VF v: a message of another version gets VERSION_MISMATCH; the response begins with the header of
the request, but for its code, and goes through TDIRSP and TDIDONE (R391, R392). -/
def State.answerTdisp (v : Nat) (msg : List Byte) (s : State) : State :=
  let ((code, body), t) := if fieldAt msg 0 1 ≠ 0x10 then (tdispFails 0x0041, s) else s.tdispServe v (tdispParse msg)
  let bytes := msg.take 1 ++ [BitVec.ofNat 8 code] ++ (msg.drop 2).take 14 ++ body
  State.writeTdidone (BitVec.ofNat 64 bytes.length) { t with tdiRsp := t.tdiRsp.writeBytes 0 bytes }

/-! ## Other SPDM services (R40, R58-R60) -/

/-- The mailbox of a VF, or of the PF for a number above 127. -/
def mailboxOf (v : Nat) : Option Nat := if v < 128 then some v else none

/-- An error of the secured-message engine: it carries the INTERFACE_ID of the request, where the request holds one. -/
def engineError (v : Nat) (msg : List Byte) (code : Nat) : List Byte :=
  if msg.length < 16 then tdispError v code
  else (tdispError v code).take 4 ++ (msg.drop 4).take 12 ++ (tdispError v code).drop 16

/-! ## SPDM (R58, R59; the codes and layouts are those of DSP0274: log 13, PRESUMED) -/

/-- A message of SPDM 1.3. -/
def spdmMsg (code p1 p2 : Byte) (body : List Byte) : List Byte := [0x13, code, p1, p2] ++ body

/-- The capabilities of R59: CERT, CHAL, MEAS with signature, ENCRYPT, MAC, KEY_EX, HBEAT, KEY_UPD. -/
def spdmFlags : Nat := 0x2 + 0x4 + 0x10 + 0x40 + 0x80 + 0x200 + 0x2000 + 0x4000

/-- CAPABILITIES: the timeout exponent and the two sizes, which the spec does not give, are free. -/
def capabilities (x : BitVec 512) : List Byte :=
  spdmMsg 0x61 0 0 ([0, x.extractLsb' 0 8, 0, 0] ++ leBytes 4 spdmFlags ++ leBytes 8 (x.extractLsb' 8 64).toNat)

/-- ALGORITHMS: measurements of DMTF with SHA-384, no base asymmetric algorithm, base hash SHA-384, the extended asymmetric algorithm with
the device's vendor ID, ECDHE over P-384, AES-256-GCM, the SPDM key schedule (R59). -/
def algorithms : List Byte :=
  let ext : List Byte := [3, 2] ++ leBytes 2 Config.vendorId.toNat ++ leBytes 2 1
  let structs : List Byte := [2, 0x20, 0x10, 0, 3, 0x20, 2, 0, 5, 0x20, 1, 0]
  let body := [1, 0] ++ leBytes 4 4 ++ leBytes 4 0 ++ leBytes 4 2 ++ List.replicate 12 0 ++ [1, 0, 0, 0] ++ ext ++ structs
  spdmMsg 0x63 3 0 (leBytes 2 (6 + body.length) ++ body)

/-- The device identity key: HKDF from the device secret with empty salt, cut into candidates of 48 bytes, of which the first in 1 to q - 1
is taken, as RFC 6979 section 3.3 does (R58; log 9, DEDUCED); and its public point. -/
def identityKey : Nat :=
  let bytes := hkdfExpand (hkdfExtract [] Config.deviceSecret) [0x49, 0x44, 0x45, 0x4E, 0x49, 0x4B, 0x44, 0x59] 12240
  (((groupsOf 48 255 bytes).map beNat).find? fun k => decide (1 ≤ k) && decide (k < curveQ)).getD 1
def identityPoint : Option (Nat × Nat) := mulPoint 384 identityKey (some (curveX, curveY))

/-- A portion of the certificate chain of slot 0 (R58). -/
def State.certificate (s : State) (off len : Nat) : List Byte :=
  let part := (s.certChain.drop off).take len
  spdmMsg 0x02 0 0 (leBytes 2 part.length ++ leBytes 2 (s.certChain.length - off - part.length) ++ part)

/-- The overpaints of a core, in ascending identity order. -/
def State.overpaintsOf (s : State) (core : Nat) : List Overpaint :=
  sortBy (·.ident) (s.overpaints.filter fun o => o.core == core)

/-- A byte of the plot map of a core; a core leaves manufacture with plots 88 to 95 in reserve (R137). -/
def plotDefault (p : Nat) : Byte := if 88 ≤ p then 0xFE else 0
def State.plot (s : State) (core p : Nat) : Byte := SMap.get (plotDefault p) (96 * core + p) s.plotmap

/-- The plot map of a core and the header digests of its overpaints (R60). -/
def State.coreMeasure (s : State) (core : Nat) : List Byte :=
  (List.range 96).map (s.plot core) ++ (s.overpaintsOf core).flatMap (·.digest)

/-- The digest of the firmware public key that is fused: over its coordinates, 48 bytes each, most significant first (R57; log 9, DEDUCED). -/
def keyDigest : List Byte := sha384 ((leBytes 48 Config.firmwareKey.1).reverse ++ (leBytes 48 Config.firmwareKey.2).reverse)

/-- Measurement block n (R60): 4 is the fuse configuration, 5 the gesso state, which changes at a write of STATE = 0 (R135), 6 the timing
classes. -/
def State.measurement (s : State) (n : Nat) : List Byte :=
  match n with
  | 4 => sha384 (Config.lifecycle ++ Config.debugFuse ++ keyDigest)
  | 5 => sha384 ((List.range 512).flatMap fun c => SMap.get ((List.range 96).map plotDefault) c s.measured)
  | 6 => sha384 ((List.range 512).flatMap fun c =>
      leBytes 4 (if (s.cs c).state = 5 then 0xFFFFFFFF else (s.tclass c).toNat))
  | _ => s.meas.getD (n - 1) (List.replicate 48 0)

/-- The blocks that a request for measurements names: 255 is all of them (R60). -/
def measuredBlocks (index : Nat) : List Nat :=
  if index = 255 then [1, 2, 3, 4, 5, 6] else if 1 ≤ index ∧ index ≤ 6 then [index] else []

/-- One measurement block in the layout of DSP0274: index, DMTF, size; firmware or hardware configuration, size, digest (log 13,
PRESUMED). -/
def State.measurementBlock (s : State) (n : Nat) : List Byte :=
  leBytes 1 n ++ [1] ++ leBytes 2 51 ++ [if n = 4 then 2 else if n ≤ 3 then 1 else 3] ++ leBytes 2 48 ++ s.measurement n

/-- MEASUREMENTS: the number of blocks (a request for block 0), or the blocks asked for; a nonce; a signature of 96 free bytes where one is
asked for (R60; log 13, PRESUMED). -/
def State.measurements (s : State) (index : Nat) (signed : Bool) : List Byte × State :=
  let blocks := measuredBlocks index
  let record := blocks.flatMap s.measurementBlock
  let (x, t) := s.drawRandom
  let (y, u) := t.drawRandom
  let head := spdmMsg 0x60 (if index = 0 then 6 else 0) 0 (leBytes 1 blocks.length ++ leBytes 3 record.length ++ record)
  (head ++ leBytes 32 x.toNat ++ leBytes 2 0 ++ (if signed then leBytes 32 (x.toNat / 2 ^ 256) ++ leBytes 64 y.toNat else []), u)

/-- The Primer's response to an SPDM request: the versions, capabilities and algorithms of R59; the certificate chain in slot 0; the
measurements; an error for another version, and for a request of mutual authentication; any other response is the Primer firmware's, 64 free
bytes (log 13, PRESUMED). -/
def State.spdmResponse (s : State) (msg : List Byte) : List Byte × State :=
  let code := fieldAt msg 1 1
  if code = 0x84 then ([0x10, 0x04, 0, 0, 0, 1, 0, 0x13], s)
  else if fieldAt msg 0 1 ≠ 0x13 then (spdmMsg 0x7F 0x41 0 [], s)
  else if code = 0xE1 then (capabilities s.draw.1, s.draw.2)
  else if code = 0xE3 then (algorithms, s)
  else if code = 0x82 ∧ fieldAt msg 2 1 % 16 = 0 then (s.certificate (fieldAt msg 4 2) (fieldAt msg 6 2), s)
  else if code = 0xE0 then s.measurements (fieldAt msg 3 1) (fieldAt msg 2 1 % 2 == 1)
  else if code = 0xEA ∨ code = 0xEB then (spdmMsg 0x7F 0x07 (msg.getD 1 0) [], s)
  else (leBytes 64 s.drawRandom.1.toNat, s.drawRandom.2)

/-- Whether the Primer answers an SPDM request at the mailbox of a function now: it runs, and a VF holds nothing back (R52, R56, R57). -/
def State.takesSpdm (s : State) (v : Nat) : Bool := s.primerUp && !s.withPrimer v && !(s.vf v).resetting

/-- `SPDM_REQUEST` (R58, R59, R387, R391, R392): a TDISP message goes to the Primer through TDIEVT, unless the secured-message engine answers
it; when TDIEVT shows it, the Primer's task answers it. Any other request is answered by the Primer, at a VF that is being reset once
that ends. -/
def execSpdmRequest (v : Nat) (tdisp : Bool) (msg : List Byte) (s : State) : Host.Outcome State Fault Refusal :=
  .next (if tdisp then
      if s.tdiEvt = some ⟨1, v, 0, msg.length, msg⟩ then s.answerTdisp v msg
      else s.atDoe v fun s =>
        if msg.length < 16 ∨ 1024 < msg.length then s.respond v (engineError v msg 0x0001)
        else if fieldAt msg 4 2 % 256 ≠ (1 + v) % 256 then s.respond v (engineError v msg 0x0101)
        else s.tdiPush ⟨1, v, 0, msg.length, msg⟩
    else if !s.takesSpdm v then s
    else
      let (bytes, t) := s.spdmResponse msg
      t.send (mailboxOf v) (.spdm (mailboxOf v) bytes) bytes)

/-- `GET_MEASUREMENTS` (R60): the block asked for (255: all of them), signed. -/
def execGetMeasurements (v index : Nat) (s : State) : Host.Outcome State Fault Refusal :=
  let (bytes, t) := s.measurements index true
  .next (if !s.takesSpdm v then s else t.send (mailboxOf v) (.spdm (mailboxOf v) bytes) bytes)

/-- `IDE_KM` (R40): key programming makes a stream Secure, or stops it; stream 0 is the PF's, stream 1 + v is VF v's. The Primer answers with
64 free bytes (log 13, PRESUMED). -/
def execIdeKm (stream : Nat) (secure : Bool) (s : State) : Host.Outcome State Fault Refusal :=
  .next (if !s.primerUp || decide (128 < stream) then s
    else
      let (x, t) := s.drawRandom
      let t := if stream = 0 then { t with pf := { t.pf with secure := secure } }
        else if secure then t.onVf (stream - 1) fun f => { f with secure := true }
        else t.streamLost (stream - 1)
      t.send none (.spdm none (leBytes 64 x.toNat)) (leBytes 64 x.toNat))

/-- `DRBG_RESEED` (R58): the count of requests since the last seeding starts again. -/
def execDrbgReseed (s : State) : Host.Outcome State Fault Refusal := .next { s with drbg := 0 }

end Sys2Proof.Machine
end

