-- ==== Sys2Proof/Machine/Trust.lean ====
section
/-! DEFINITION. Worlds, key generations, policies and seals: the Primer's service requests (R61-R72, R78). -/

namespace Sys2Proof.Machine

/-! ## Policies (R71, R72, R78) -/

/-- Whether `n` bytes from offset `o` on are all zero. -/
def zeroBytes (bs : List Byte) (o n : Nat) : Bool := ((bs.drop o).take n).all (· == 0)

/-- Bytes of an element of a gate's type (R72). -/
def gateElem : Nat → Nat
  | 0 => 4 | 3 => 4 | 6 => 4 | 5 => 1 | _ => 2

/-- The unit of a gate: ROWS * COLS * size (R72). -/
def gateUnit (g : List Byte) : Nat := fieldAt g 4 2 * fieldAt g 6 2 * gateElem (fieldAt g 2 1)

/-- Whether a gate descriptor is valid for a number of compartments (R72). -/
def gateOk (comps : Nat) (g : List Byte) : Bool :=
  fieldAt g 0 1 != fieldAt g 1 1 && decide (fieldAt g 0 1 < comps) && decide (fieldAt g 1 1 < comps)
    && decide (fieldAt g 2 1 < 7) && decide (fieldAt g 3 1 < 4)
    && fieldAt g 4 2 != 0 && fieldAt g 6 2 != 0 && fieldAt g 8 8 != 0
    && fieldAt g 8 8 % gateUnit g == 0 && zeroBytes g 16 16

/-- Gate k of a world policy. -/
def policyGate (p : List Byte) (k : Nat) : List Byte := (p.drop (16 + 32 * k)).take 32

/-- Compartments and gates of a world policy. -/
def policyComps (p : List Byte) : Nat := fieldAt p 2 1
def policyGates (p : List Byte) : Nat := fieldAt p 3 1

/-- Whether WORLD_CREATE accepts a policy (R71). -/
def policyOk (p : List Byte) : Bool :=
  let images := fieldAt p 4 2
  fieldAt p 0 2 == 1 && decide (1 ≤ policyComps p) && decide (policyComps p ≤ 4) && decide (policyGates p ≤ 16)
    && decide (images ≤ 64) && zeroBytes p 6 10 && p.length == 528 + 48 * images
    && (List.range 16).all fun k =>
      if k < policyGates p then gateOk (policyComps p) (policyGate p k) else zeroBytes (policyGate p k) 0 32

/-- Whether SEAL_INSTALL accepts a seal policy in a world of so many compartments (R78). -/
def sealPolicyOk (comps : Nat) (p : List Byte) : Bool :=
  let m := fieldAt p 3 1
  let k := fieldAt p 4 1
  fieldAt p 0 2 == 1 && fieldAt p 2 1 != 0 && decide (fieldAt p 2 1 < comps) && decide (1 ≤ m) && decide (m ≤ 32)
    && decide (k ≤ 16) && zeroBytes p 5 3 && p.length == 8 + 48 * m + k
    && ((p.drop (8 + 48 * m)).take k).all fun b => decide (1 ≤ b.toNat) && decide (b.toNat ≤ 0xFD)

/-! ## Worlds -/

/-- Changing a world. -/
def State.onWorld (w : Nat) (f : World → World) (s : State) : State :=
  { s with worlds := s.worlds.map fun x => if x.1 = w then (x.1, f x.2) else x }

/-- A world put into the table, its keys rising. -/
def State.addWorld (w : Nat) (x : World) (s : State) : State :=
  { s with worlds := s.worlds.filter (fun y => decide (y.1 < w)) ++ [(w, x)] ++ s.worlds.filter fun y => decide (w < y.1) }

/-- Partitions handed to a world: those that no world owns, of clusters that belong to no partition (R1, R61; log 6, DESIGN CHOICE). -/
def State.givePartitions (w : Nat) (parts : List Partition) (s : State) : State :=
  parts.foldl (fun s p =>
    if 64 ≤ p.num ∨ (s.worldOf p.num).isSome ∨ p.clusters.any (fun g => decide (64 ≤ g) || (s.partitionOf g).isSome) then s
    else
      { s with
        partWorld := SMap.put none p.num (some w) s.partWorld
        partOf := p.clusters.foldl (fun m g => SMap.put none g (some p.num) m) s.partOf
        slotOwner := p.slots.foldl (fun m x =>
          if x < 1024 ∧ SMap.get none x m = none then SMap.put none x (some p.num) m else m) s.slotOwner }) s

/-- The response to a service request (R61). -/
def State.answer (mb : Mailbox) (code status : Nat) (body : List Byte) (s : State) : State :=
  s.send mb.vf (.service mb code status body) body

/-- A random value of 32 bytes from the DRBG (R58, R64). -/
def State.drawKey (s : State) : List Byte × State :=
  let (x, t) := s.drawRandom
  (leBytes 32 x.toNat, t)

/-- Whether the Primer takes no service request: it answers SPDM only, or does not run (R57); a WORLD_DESTROY is not answered yet (R61, R62);
or the mailbox's function holds the request back (R52, R56, R387). -/
def State.serviceWaits (s : State) (mb : Mailbox) : Bool :=
  s.spdmOnly || !s.primerUp || s.destroyPending || (mb.vf.map fun v => s.withPrimer v || (s.vf v).resetting).getD false

/-- A request that only the PF's mailbox serves: status 5 outside a secured session, status 2 on another mailbox (R61, log 6, DESIGN CHOICE). -/
def State.pfService (mb : Mailbox) (code world : Nat) (f : State → State) (s : State) : State :=
  if s.serviceWaits mb then s
  else if !mb.secured then s.answer mb code 5 []
  else if mb.vf.isSome || decide (64 ≤ world) then s.answer mb code 2 []
  else f s

/-- `WORLD_CREATE` (R61, R65, R71). -/
def execWorldCreate (mb : Mailbox) (world : Nat) (policy : List Byte) (parts : List Partition) (s : State) :
    Host.Outcome State Fault Refusal :=
  .next (s.pfService mb 1 world fun s =>
    if (s.world world).isSome then s.answer mb 1 1 []
    else if !policyOk policy then s.answer mb 1 2 []
    else
      let (key, t) := s.drawKey
      ((t.addWorld world ⟨policy, 1, none, [(1, key)], [], [], false⟩).givePartitions world parts).answer mb 1 0 [])

/-- `WORLD_REKEY` (R61, R65); status 1 for a world that does not exist (log 80, DESIGN CHOICE). -/
def execWorldRekey (mb : Mailbox) (world : Nat) (s : State) : Host.Outcome State Fault Refusal :=
  .next (s.pfService mb 2 world fun s =>
    match s.world world with
    | none => s.answer mb 2 1 []
    | some w =>
      if w.prev.isSome then s.answer mb 2 1 []
      else if w.gen = 0xFFFF then s.answer mb 2 4 []
      else
        let (key, t) := s.drawKey
        (t.onWorld world fun w =>
          { w with gen := w.gen + 1, prev := some w.gen, keys := SMap.put [] (w.gen + 1) key w.keys, moved := [] }).answer mb 2 0 [])

/-- The frames that an owner holds (R98). -/
def State.framesOf (s : State) (owner : Nat) : List Nat := (s.fot.filter fun x => x.2.toNat == owner).map (·.1)

/-- The roundel slots of a world's partitions. -/
def State.worldSlots (s : State) (w : Nat) : List (Nat × Nat) :=
  s.slotOwner.filterMap fun x => match x.2 with
    | some p => if s.worldOf p = some w then some (x.1 / 256, x.1 % 256) else none
    | none => none

/-- `WORLD_DESTROY` (R61, R62): keys and policy are erased, frames go to SCRUB, slots are to be scrubbed; status 1 for a world that does not
exist (log 80, DESIGN CHOICE). -/
def execWorldDestroy (mb : Mailbox) (world : Nat) (s : State) : Host.Outcome State Fault Refusal :=
  .next (s.pfService mb 3 world fun s =>
    let busy := (s.tasks.any fun k => k.world == world && k.dispatched)
      || (s.vfs.any fun p => p.2.bound && p.2.world.toNat == world)
    match s.world world with
    | none => s.answer mb 3 1 []
    | some _ =>
      if busy then s.answer mb 3 1 []
      else
        let frames := s.framesOf world
        let slots := s.worldSlots world
        { s.onWorld world (fun w => { w with policy := [], keys := [], seals := [], prev := none, moved := frames, destroying := true })
          with
          fot := s.fot.filter fun x => x.2.toNat != world
          slotScrub := s.slotScrub ++ slots.filter fun x => !s.slotScrub.contains x })

/-- `WORLD_DESTROY_DONE` (R62): the response, once the last frame has left SCRUB; the world's partitions are free. -/
def execWorldDestroyDone (world : Nat) (s : State) : Host.Outcome State Fault Refusal :=
  .next (match s.world world with
    | none => s
    | some w =>
      if w.destroying && w.moved.all fun f => s.owner f != 0xFE then
        let gone := (s.partWorld.filter fun x => x.2 == some world).map (·.1)
        let mine := fun (x : Nat × Option Nat) => (x.2.map gone.contains).getD false
        State.answer ⟨none, true⟩ 3 0 [] { s with
          worlds := s.worlds.filter fun x => x.1 != world
          partOf := s.partOf.filter fun x => !mine x
          slotOwner := s.slotOwner.filter fun x => !mine x
          partWorld := s.partWorld.filter fun x => x.2 != some world }
      else s)

/-! ## Wrapped keys (R69, R70) -/

/-- The key-encryption key of a world: `kind` 0 for a world key, 1 for a seal key (R69). -/
def State.kek (s : State) (world : Nat) (policy : List Byte) (kind num : Nat) : List Byte :=
  let fw := s.measurement 1 ++ s.measurement 2 ++ s.measurement 3
  let salt := sha384 fw ++ sha384 (policy.drop 528)
  let prk := hkdfExtract salt Config.deviceSecret
  hkdfExpand prk (sha384 policy ++ leBytes 1 world ++ leBytes 1 kind ++ leBytes 2 num) 32

/-- `WORLD_EXPORT` (R61, R70): the wrapped world key, then each seal with its ID (1 byte), its policy and its wrapped key: the spec gives
the response no layout (log 80, DESIGN CHOICE). -/
def execWorldExport (mb : Mailbox) (world : Nat) (s : State) : Host.Outcome State Fault Refusal :=
  .next (s.pfService mb 4 world fun s =>
    match s.world world with
    | none => s.answer mb 4 1 []
    | some w =>
      if w.prev.isSome then s.answer mb 4 1 []
      else
        let seals := w.seals.flatMap fun x =>
          leBytes 1 x.1 ++ x.2.1 ++ keyWrap (s.kek world w.policy 1 x.1) (leBytes 64 x.2.2.toNat)
        s.answer mb 4 0 (keyWrap (s.kek world w.policy 0 w.gen) (SMap.get [] w.gen w.keys) ++ seals))

/-- `WORLD_IMPORT` (R61, R65, R70): status 3 where a key does not unwrap, and then nothing is installed. -/
def execWorldImport (mb : Mailbox) (world : Nat) (policy : List Byte) (wrapped : WrappedKeys) (parts : List Partition)
    (s : State) : Host.Outcome State Fault Refusal :=
  .next (s.pfService mb 5 world fun s =>
    if (s.world world).isSome then s.answer mb 5 1 []
    else if !policyOk policy then s.answer mb 5 2 []
    else
      let key := keyUnwrap (s.kek world policy 0 wrapped.gen) 4 wrapped.worldKey
      let seals := wrapped.seals.map fun x =>
        (keyUnwrap (s.kek world policy 1 x.1) 8 x.2.2).map fun k => (x.1, x.2.1, BitVec.ofNat 512 (leNat k))
      match key with
      | some key =>
        if seals.any (·.isNone) then s.answer mb 5 3 []
        else
          let installed : SMap (List Byte × BitVec 512) := sortBy (·.1) (seals.filterMap id)
          ((s.addWorld world ⟨policy, 1, none, [(1, key)], installed, [], false⟩).givePartitions world parts).answer mb 5 0 []
      | none => s.answer mb 5 3 [])

/-! ## Seals (R61, R78) -/

/-- A request that the mailbox of a VF bound to a world serves (R61); status 1 where the VF is bound to none that exists (log 80,
DESIGN CHOICE). -/
def State.vfService (mb : Mailbox) (code : Nat) (f : Nat → World → State → State) (s : State) : State :=
  if s.serviceWaits mb then s
  else if !mb.secured then s.answer mb code 5 []
  else
    match mb.vf with
    | some v =>
      let w := (s.vf v).world.toNat
      (match (if (s.vf v).bound then s.world w else none) with
      | some x => f w x s
      | none => s.answer mb code 1 [])
    | none => s.answer mb code 2 []

/-- `SEAL_INSTALL` (R61, R78). -/
def execSealInstall (mb : Mailbox) (sealId : Nat) (policy : List Byte) (key : BitVec 512) (s : State) :
    Host.Outcome State Fault Refusal :=
  .next (s.vfService mb 6 fun w x s =>
    if x.seals.any fun y => y.1 == sealId then s.answer mb 6 1 []
    else if sealId < 1 ∨ 8 < sealId ∨ !sealPolicyOk (policyComps x.policy) policy then s.answer mb 6 2 []
    else
      (s.onWorld w fun x => { x with seals := sortBy (·.1) (x.seals ++ [(sealId, policy, key)]) }).answer mb 6 0 [])

/-- `SEAL_REMOVE` (R61); status 1 for an ID that is not installed (log 80, DESIGN CHOICE). -/
def execSealRemove (mb : Mailbox) (sealId : Nat) (s : State) : Host.Outcome State Fault Refusal :=
  .next (s.vfService mb 7 fun w x s =>
    let named := s.tasks.any fun k =>
      k.world == w && k.sealId == sealId && (k.dispatched || k.phase == .preempted)
    if named || !(x.seals.any fun y => y.1 == sealId) then s.answer mb 7 1 []
    else (s.onWorld w fun x => { x with seals := x.seals.filter fun y => y.1 != sealId }).answer mb 7 0 [])

/-! ## Moving to a new generation (R66, R67) -/

/-- Whether a task has a pinned run in a frame. -/
def Task.pins (k : Task) (frame : Nat) : Bool :=
  k.exts.any fun x => x.backing != .host && x.runs.any fun r =>
    decide (r.2.1 / 65536 ≤ frame) && decide (frame ≤ (r.2.1 + r.2.2 - 1) / 65536)

/-- A dispatched task of a world holds extents under a generation: it was built under it, or a cohort of it was and has not been built again
(R67, R68). -/
def State.usesGen (s : State) (world gen : Nat) (k : Task) : Bool :=
  k.dispatched && k.world == world && (k.gen == gen || s.cores.any fun c => c.task == k.id && c.exts.any fun x => x.gen == gen)

/-- A task, with the extents of the cohorts that have not been built again (R68). -/
def State.allExts (s : State) (k : Task) : Task :=
  { k with exts := k.exts ++ (s.cores.filter fun c => c.task == k.id && k.split).flatMap (·.exts) }

/-- The data units of a frame that HBM lists as other than blank. -/
def State.listedUnits (s : State) (frame : Nat) : List Nat :=
  (distinct ((s.hbm.map fun c => c.1 / 128) ++ s.hbmTags.map (·.1))).filter fun i => frameOfLine i == frame

/-- A data unit read under a generation of a world and written under another, in whichever compartment its tag matches; one that
matches in none stays as it is (R66). -/
def State.reencryptUnit (world old new : Nat) (s : State) (index : Nat) : State :=
  let cipher := s.hbmCipher index
  match (List.range 4).find? fun c => s.tagOf (.comp world c old) index cipher == s.hbmTag index with
  | some c => s.hbmWrite index (.comp world c new) (s.decrypted (.comp world c old) index (lineOf cipher))
  | none => s

/-- The addresses at which a released effect has still to read or to write under a key, by their frames. -/
def OutEffect.framesUnder (key : MemKey → Bool) : OutEffect → List Nat
  | .write .l2 k bytes | .write .nc k bytes => if key k then bytes.map fun b => b.1 / 65536 else []
  | .gather .l2 k src _ sink | .gather .nc k src _ sink =>
    (if key k then src.map frameOfLine else []) ++ (match sink with
      | .bytes _ k' dst => if key k' then dst.map (· / 65536) else []
      | .coll _ d => if key d.key then d.dst.map frameOfLine else [])
  | .gather _ _ _ _ (.bytes _ k' dst) => if key k' then dst.map (· / 65536) else []
  | _ => []

/-- Whether a fill, a released effect or a copy under way still needs a frame under a generation of a world, whatever has become of its
task: no frame is read under the wrong generation at any moment (R66). -/
def State.needsFrame (s : State) (world gen frame : Nat) : Bool :=
  let old := fun (k : MemKey) => match k with
    | .comp w _ g => w == world && g == gen
    | _ => false
  s.fills.any (fun f => frameOfLine f.index == frame && old f.key)
    || s.released.any (fun g => (g.eff.framesUnder old).contains frame)
    || (s.cores ++ s.tasks.flatMap (·.parkedCores)).any fun c => c.uncached.any fun u =>
        old u.key && u.backing != .host && (u.moves ++ u.dead).any fun m => m.1 / 65536 == frame

/-- `FRAME_REENCRYPT` (R66): the frame's lines are written back and invalidated everywhere, and the frame is written under the new
generation. -/
def execFrameReencrypt (world frame : Nat) (s : State) : Host.Outcome State Fault Refusal :=
  .next (match s.world world with
    | none => s
    | some w =>
      match w.prev with
      | none => s
      | some g =>
        if (s.owner frame).toNat ≠ world ∨ w.moved.contains frame ∨ s.inTraining (512 * frame) ∨ s.needsFrame world g frame
            ∨ s.tasks.any (fun k => s.usesGen world g k && (s.allExts k).pins frame) then s
        else
          let t := s.evictLines fun l => frameOfLine l.index == frame
          ((t.listedUnits frame).foldl (State.reencryptUnit world g w.gen) t).onWorld world fun w =>
            { w with moved := w.moved ++ [frame] })

/-- `GENERATION_RETIRE` (R67). -/
def execGenerationRetire (world : Nat) (s : State) : Host.Outcome State Fault Refusal :=
  .next (match s.world world with
    | none => s
    | some w =>
      match w.prev with
      | none => s
      | some g =>
        if (s.framesOf world).all w.moved.contains
            && !(s.tasks.any (s.usesGen world g)) then
          (s.onWorld world fun w => { w with prev := none, keys := SMap.put [] g [] w.keys, moved := [] }).answer ⟨none, true⟩ 2 0 []
        else s)

end Sys2Proof.Machine
end

