-- ==== Sys2Proof/Machine/Translate.lean ====
section
/-! DEFINITION. Extent declarations and the translation of a task's extents into pinned runs (R63, R75, R108-R112). -/

namespace Sys2Proof.Machine

/-! ## Translation tables (R109) -/

/-- Where a walk ends: the first address of the leaf, its size, the address it maps to, and the accesses that it allows. -/
structure Leaf where
  first : Nat
  size : Nat
  out : Nat
  r : Bool
  w : Bool
deriving DecidableEq, Repr

/-- Whether an entry is valid, with its reserved bits 0. -/
def entryValid (e : Nat) : Bool := bitsOf e 63 48 == 0 && bitsOf e 11 6 == 0 && bitsOf e 3 3 == 0 && bitsOf e 0 0 == 1

/-- The ADDR field of an entry, as an address. -/
def entryAddr (e : Nat) : Nat := 4096 * bitsOf e 47 12

/-- The leaf that an entry is, `k` levels above the last one, for an address whose page of that level begins at `first`: none where
the entry names a table. A leaf lies at a multiple of its size. -/
def entryLeaf (k e first : Nat) (c64Agree : Bool) : Except Cause (Option Leaf) :=
  let leaf := fun (first size : Nat) =>
    if entryAddr e % size = 0 then
      Except.ok (some (⟨first, size, entryAddr e, bitsOf e 1 1 == 1, bitsOf e 2 2 == 1⟩ : Leaf))
    else .error .extentPerm
  if !entryValid e then .error .extentPerm
  else if k = 0 then
    if bitsOf e 4 4 = 1 then (if c64Agree then leaf (first / 65536 * 65536) 65536 else .error .extentPerm)
    else leaf first 4096
  else if bitsOf e 5 5 = 1 then (if k = 3 then .error .extentPerm else leaf first (4096 * 512 ^ k))
  else .ok none

/-- The entry that a walker uses: what memory holds, or, where the walk cache keeps an older one, either of the two, as a free value
decides (R110, log 11, DESIGN CHOICE). An entry read for the first time is kept. -/
def State.useEntry (key : WalkEntry) (s : State) : WalkEntry × State :=
  match s.walk.find? fun x => x.stage2 == key.stage2 && x.vf == key.vf && x.at' == key.at' && x.first == key.first with
  | some old => let (x, t) := s.draw; (if x.getLsbD 0 then old else key, t)
  | none => (key, { s with walk := s.walk ++ [key] })

/-- A walk from a table on, `k` levels above the last; `read` gives the 8 bytes at an address of the space in which the tables lie. -/
def State.walkFrom (stage2 : Bool) (v addr : Nat) (read : Nat → State → Except Cause Nat × State) :
    Nat → Nat → State → Except Cause Leaf × State
  | 0, _, s => (.error .extentPerm, s)
  | k + 1, table, s =>
    let size := 4096 * 512 ^ k
    let at' := table + 8 * (addr / size % 512)
    let first := addr / size * size
    match read at' s with
    | (.error c, s) => (.error c, s)
    | (.ok raw, s) =>
      let (agree, s) := (List.range 16).foldl (fun (p : Bool × State) i =>
        if k = 0 ∧ bitsOf raw 4 4 = 1 then
          match read (at' / 128 * 128 + 8 * i) p.2 with
          | (.ok x, t) => (p.1 && x == raw, t)
          | (.error _, t) => (false, t)
        else p) (true, s)
      let (e, s) := s.useEntry ⟨stage2, v, at', first, size, raw, agree⟩
      match entryLeaf k e.entry first e.agree with
      | .error c => (.error c, s)
      | .ok (some l) => (.ok l, s)
      | .ok none => s.walkFrom stage2 v addr read k (entryAddr e.entry)

/-- A stage-2 walk of a guest physical address: its tables lie in host memory. -/
def State.walk2 (v gpa : Nat) (s : State) : Except Cause Leaf × State :=
  if 2 ^ 48 ≤ gpa then (.error .extentPerm, s)
  else
    s.walkFrom true v gpa (fun a t => (.ok (t.hostMem.readNat a 8), t)) 4 (SMap.get 0 v s.s2root).toNat

/-- The keys under which a walker reads the tables of a world: those of its compartments under its live generations (log 72, DESIGN CHOICE). -/
def State.walkerKeys (s : State) (world : Nat) : List MemKey :=
  ((s.world world).map fun w => (w.gen :: w.prev.toList).flatMap fun g => (List.range 4).map fun c => MemKey.comp world c g).getD []

/-- What a walker reads of a stage-1 table in HBM: the 8 bytes at a DPA, under the first of its keys that delivers data; none where the
data unit delivers poison, as one with an error that ECC does not correct does (R85). -/
def State.tableWord (s : State) (world dpa : Nat) : Option Nat :=
  if SMap.get 0 (dpa / 128) s.walkEcc = 2 then none else
  ((s.walkerKeys world).findSome? fun key => s.unitRead (dpa / 128) key).map fun x => bitsOf x.toNat (8 * (dpa % 128) + 63) (8 * (dpa % 128))

/-- The record of a walker's read of a data unit, if it makes one: KIND 1 for an error that ECC corrects, KIND 2 or 11 for poison; an error
that was met is met once (R85). -/
def State.walked (index : Nat) (poison : Bool) (s : State) : State :=
  let k := SMap.get 0 index s.walkEcc
  let t := { s with walkEcc := SMap.put 0 index 0 s.walkEcc }
  if k = 2 then t.reportUnit 2 index
  else
    let t := if k = 1 then t.reportUnit 1 index else t
    if poison then t.reportPoison index else t

/-- A read of a stage-1 table entry, at a guest physical address: its frame must be the world's, and none of the FOT's. A poisoned data unit
is reported, and its entry counts as an invalid one (R85, R100, R110; log 72, DESIGN CHOICE). -/
def State.readStage1 (v world gpa : Nat) (s : State) : Except Cause Nat × State :=
  match s.walk2 v gpa with
  | (.error c, t) => (.error c, t)
  | (.ok l, t) =>
    let dpa := l.out + (gpa - l.first)
    if !l.r || 0x6000000000 ≤ dpa || fotFirst ≤ dpa / 65536 then (.error .extentPerm, t)
    else if (t.owner (dpa / 65536)).toNat ≠ world then (.error .fotViolation, t)
    else
      match t.tableWord world dpa with
      | some x => (.ok x, t.walked (dpa / 128) false)
      | none => (.error .extentPerm, t.walked (dpa / 128) true)

/-- A stage-1 walk of a device virtual address; a root of 0 is no stage 1. -/
def State.walk1 (v world root dva : Nat) (s : State) : Except Cause Leaf × State :=
  if 2 ^ 48 ≤ dva then (.error .extentPerm, s)
  else if root = 0 then (.ok ⟨dva / 4096 * 4096, 4096, dva / 4096 * 4096, true, true⟩, s)
  else s.walkFrom false v dva (fun a t => t.readStage1 v world a) 4 root

/-! ## Declarations (R108) -/

/-- One declaration of the table. -/
structure Decl where
  base : Nat
  length : Nat
  num : Nat
  perm : Nat
  attr : Nat
  comp : Nat
  gate : Nat
  rest : Nat
deriving DecidableEq, Repr

/-- Declaration i of a table. -/
def declAt (table : List Byte) (i : Nat) : Decl :=
  let o := 32 + 32 * i
  ⟨fieldAt table o 8, fieldAt table (o + 8) 8, fieldAt table (o + 16) 1, fieldAt table (o + 17) 1, fieldAt table (o + 18) 1,
    fieldAt table (o + 19) 1, fieldAt table (o + 20) 1, fieldAt table (o + 21) 11⟩

def Decl.r (d : Decl) : Bool := bitsOf d.perm 0 0 == 1
def Decl.w (d : Decl) : Bool := bitsOf d.perm 1 1 == 1
def Decl.sealed (d : Decl) : Bool := bitsOf d.attr 0 0 == 1
def Decl.device (d : Decl) : Bool := bitsOf d.attr 1 1 == 1
def Decl.nc (d : Decl) : Bool := bitsOf d.attr 2 2 == 1
def Decl.host (d : Decl) : Bool := bitsOf d.attr 3 3 == 1
def Decl.gateDst (d : Decl) : Bool := bitsOf d.attr 4 4 == 1

/-- The compartments named by the declarations that are neither SEALED nor gate destinations, apart from 0 (R63). -/
def homesOf (ds : List Decl) : List Nat :=
  distinct ((ds.filter fun d => !d.sealed && !d.gateDst && d.comp != 0).map (·.comp))

/-- Whether a declaration keeps the compartment rules of R63 beside a home compartment. -/
def Decl.compOk (d : Decl) (home : Nat) (service : Bool) : Bool :=
  d.comp == home || (if d.comp = 0 then !d.w else d.gateDst || (d.sealed && (!d.w || service)))

/-- The first failing field of a declaration, with its cause, after the declarations before it (R63, R75, R108): a BASE, LENGTH or NUM that
breaks its form raises ILLEGAL_OP, as a reserved field does (log 87, DESIGN CHOICE). -/
def declFault (before : List Decl) (d : Decl) (service : Bool) (sealId comps : Nat) : Option (Cause × Nat) :=
  let all := before ++ [d]
  let homes := homesOf all
  let tests : List (Nat × Cause × Bool) :=
    [(0, .illegalOp, d.base % 4096 != 0),
     (8, .illegalOp, d.length == 0 || d.length % 128 != 0),
     (16, .illegalOp, decide (14 < d.num) || before.any fun x => x.num == d.num),
     (17, .illegalOp, decide (4 ≤ d.perm)),
     (17, .extentPerm, d.sealed && d.w && !service),
     (18, .illegalOp, decide (32 ≤ d.attr)),
     (18, .extentPerm, d.device || (d.host && d.sealed) || (d.sealed && sealId == 0)),
     (19, .illegalOp, decide (4 ≤ d.comp)),
     (19, .extentPerm, decide (comps ≤ d.comp) || decide (1 < homes.length)
        || !(all.all fun x => x.compOk (homes.headD 0) service)),
     (20, .illegalOp, d.gate != 0 && !d.gateDst),
     (21, .illegalOp, d.rest != 0)]
  (tests.find? fun t => t.2.2).map fun t => (t.2.1, t.1)

/-- The first failure of a declaration table with its TVAL (R108). -/
def tableFault (table : List Byte) (count : Nat) (service : Bool) (sealId comps : Nat) : Option (Cause × Nat) :=
  let ds := (List.range count).map (declAt table)
  if fieldAt table 8 24 ≠ 0 then some (.illegalOp, 2 ^ 32 + 8)
  else
    match (List.range count).findSome? fun i =>
      (declFault (ds.take i) (declAt table i) service sealId comps).map fun f => (f.1, 2 ^ 32 + 32 + 32 * i + f.2) with
    | some f => some f
    | none => if sealId ≠ 0 ∧ !ds.any Decl.sealed then some (.extentPerm, 2) else none

/-! ## Pinned runs (R110) -/

/-- Runs with one more piece: joined to the last where the addresses go on. -/
def addRun (runs : List (Nat × Nat × Nat)) (off dpa n : Nat) : List (Nat × Nat × Nat) :=
  match runs.getLast? with
  | some (o, b, len) => if b + len = dpa ∧ o + len = off then runs.dropLast ++ [(o, b, len + n)] else runs ++ [(off, dpa, n)]
  | none => [(off, dpa, n)]

/-- The runs of an extent from an offset on, with the leaves from which they are built; a failure gives the cause and the DVA.
`fuel` bounds the number of leaves. -/
def State.buildRuns (v world root : Nat) (d : Decl) (room : Nat) :
    Nat → Nat → List (Nat × Nat × Nat) → List (Bool × Nat × Nat) → State →
    Except (Cause × Nat) (List (Nat × Nat × Nat) × List (Bool × Nat × Nat)) × State
  | 0, _, runs, pages, s => (.ok (runs, pages), s)
  | fuel + 1, off, runs, pages, s =>
    if d.length ≤ off then (.ok (runs, pages), s)
    else
      let dva := d.base + off
      match s.walk1 v world root dva with
      | (.error c, s) => (.error (c, dva), s)
      | (.ok l1, s) =>
        let gpa := l1.out + (dva - l1.first)
        (match s.walk2 v gpa with
        | (.error c, s) => (.error (c, dva), s)
        | (.ok l2, s) =>
          let dpa := l2.out + (gpa - l2.first)
          if (d.r && !(l1.r && l2.r)) || (d.w && !(l1.w && l2.w)) then (.error (.extentPerm, dva), s)
          else if 0x6000000000 ≤ dpa ∨ fotFirst ≤ dpa / 65536 then (.error (.extentPerm, dva), s)
          else if (s.owner (dpa / 65536)).toNat ≠ world then (.error (.fotViolation, dva), s)
          else
            let n := min (min (l1.first + l1.size - dva) (l2.first + l2.size - gpa)) (min (65536 - dpa % 65536) (d.length - off))
            let runs := addRun runs off dpa n
            if room < runs.length then (.error (.extentBound, dva), s)
            else
              let used := (if root = 0 then [] else [(false, l1.first, l1.size)]) ++ [(true, l2.first, l2.size)]
              s.buildRuns v world root d room fuel (off + n) runs (pages ++ used.filter fun x => !pages.contains x))

/-- The extents of a task and the leaves they are built from: at most 256 runs in all. -/
def State.buildExtents (k : Task) (gen : Nat) : List Decl → List Extent → List (Bool × Nat × Nat) → State →
    Except (Cause × Nat) (List Extent × List (Bool × Nat × Nat)) × State
  | [], xs, pages, s => (.ok (xs, pages), s)
  | d :: ds, xs, pages, s =>
    let used := xs.foldl (fun n x => n + x.runs.length) 0
    let backing := if d.host then Backing.host else if d.nc then .nc else .l2
    let mk := fun (runs : List (Nat × Nat × Nat)) =>
      (⟨d.num, d.length, d.r, d.w, d.sealed, false, d.gateDst, d.gate, d.comp, backing, runs, k.world, gen,
        if d.sealed then k.sealId else 0⟩ : Extent)
    if d.host then
      if 256 ≤ used then (.error (.extentBound, d.base), s)
      else s.buildExtents k gen ds (xs ++ [mk [(0, d.base, d.length)]]) pages
    else
      match s.buildRuns k.vf k.world (fieldAt k.exttab 0 8) d (256 - used) (d.length / 4096 + 2) 0 [] pages with
      | (.error f, s) => (.error f, s)
      | (.ok (runs, pages), s) => s.buildExtents k gen ds (xs ++ [mk runs]) pages

/-- The frames in which runs lie. -/
def runFrames (xs : List Extent) : List Nat :=
  distinct ((xs.filter fun x => x.backing != .host).flatMap fun x => x.runs.flatMap fun r =>
    (List.range ((r.2.1 + r.2.2 - 1) / 65536 - r.2.1 / 65536 + 1)).map fun i => r.2.1 / 65536 + i)

/-- Translating a task (R110): its extents under the current generation of its world. -/
def State.translate (k : Task) (s : State) :
    Except (Cause × Nat) (List Extent × List (Bool × Nat × Nat) × Nat) × State :=
  let gen := ((s.world k.world).map (·.gen)).getD 0
  match s.buildExtents k gen ((List.range (k.field 11 1)).map (declAt k.exttab)) [] [] with
  | (.error f, t) => (.error f, t)
  | (.ok (xs, pages), t) => (.ok (xs, pages, gen), t)

/-- Whether extents still lie in frames that a rekey has not moved (R66). -/
def State.awaitsMove (s : State) (world : Nat) (xs : List Extent) : Bool :=
  match s.world world with
  | some w => w.prev.isSome && !(runFrames xs).all w.moved.contains
  | none => false

/-- `TRANSLATION` (R66, R110): the runs are built, or the launch is refused; while frames of the task have still to move to the new
generation, it stays in translation; a walk of stage-1 tables waits while a stack is in training (R104). -/
def execTranslation (task : Nat) (s : State) : Host.Outcome State Fault Refusal :=
  .next (match s.task task with
    | none => s
    | some k =>
      if k.phase ≠ .translating ∨ (s.training ≠ 0 ∧ fieldAt k.exttab 0 8 ≠ 0) then s
      else
        match s.translate k with
        | (.error f, t) => t.endTask task 7 f.1.code (BitVec.ofNat 64 f.2)
        | (.ok (xs, pages, gen), t) =>
          if t.awaitsMove k.world xs then s
          else t.onTask task fun k =>
            { k with phase := .ready, exts := xs, pages := pages, gen := gen, built := k.built + 1 })

/-! ## Invalidations (R111) -/

/-- Whether the tasks that an invalidation waits for hold their runs no more. -/
def State.retired (s : State) (waits : List (Nat × Nat)) : Bool :=
  !(s.tasks.any fun k => waits.contains (k.id, k.built) && !k.pages.isEmpty)

/-- `INVALIDATION_COMPLETE` (R111): a stage-1 record begins once its predecessors have completed; either kind completes once the runs
that it covers have retired. -/
def execInvalidationComplete (stage2 : Bool) (task : Nat) (s : State) : Host.Outcome State Fault Refusal :=
  .next (if stage2 then
      (match s.s2inv with
      | some x => if s.retired x.waits then { s with s2inv := none } else s
      | none => s)
    else
      match s.task task with
      | none => s
      | some k =>
        if k.phase ≠ .invalidating then s
        else
          match s.failedPred k with
          | some p => s.endTask task 7 Cause.predUnfinished.code (BitVec.ofNat 64 p)
          | none =>
            if !(s.openPreds k).isEmpty then s
            else
              let (x, t) := match k.inval with
                | some x => (x, s)
                | none => s.invalidate false k.vf k.arg1 (bitsOf k.arg0 39 8)
              let t := t.onTask task fun k => { k with inval := some x }
              if t.retired x.waits then t.endTask task 6 0 0 else t)

end Sys2Proof.Machine
end

