-- ==== Sys2Proof/Machine/Launch.lean ====
section
/-! DEFINITION. The queue engines' commands FETCH and START, and the checks of a launch record (R45, R46, R48, R106-R108, R121, R122,
R337, R403). -/

namespace Sys2Proof.Machine

/-! ## LAUNCHCTL and LAUNCHSTAT (R403) -/

/-- The command of a LAUNCHCTL word: OP, VF, QUEUE and ARG, or none where it is malformed. -/
def launchCommand (w : Word) : Option (Nat × Nat × Nat × BitVec 32) :=
  let op := (w.extractLsb' 56 3).toNat
  let arg := w.extractLsb' 0 32
  if w.extractLsb' 59 5 ≠ 0 ∨ w.extractLsb' 43 13 ≠ 0 ∨ w.getLsbD 35 ∨ (op ≠ 1 ∧ op ≠ 2) ∨ (op = 1 ∧ arg.extractLsb' 16 16 ≠ 0) then none
  else some (op, (w.extractLsb' 36 7).toNat, (w.extractLsb' 32 3).toNat, arg)

/-- LAUNCHSTAT as it is read. -/
def State.launchstat (s : State) : Word :=
  BitVec.ofNat 64 (2 ^ 31 * s.cur.command.isSome.toNat + s.cur.launchResult.toNat)

/-- A command ends with a result. -/
def State.launchDone (result : BitVec 3) (s : State) : State :=
  { s with cur := { s.cur with command := none, launchResult := result } }

/-- Whether a number is that of a control core (R176). -/
def controlCore (who : Nat) : Bool := decide (512 ≤ who) && decide (who < 516)

/-- A write of LAUNCHCTL by a control core: ignored while a command is processed; a malformed one ends at once (R403). -/
def State.writeLaunchctl (who : Nat) (w : Word) (s : State) : State :=
  if !controlCore who || s.cur.command.isSome then s
  else if (launchCommand w).isNone then s.launchDone 7
  else { s with cur := { s.cur with command := some w } }

/-- A command that a row gives: the one under way, or, where none is, the whole command by a control core. -/
def State.commandIs (s : State) (who op v q : Nat) (arg : BitVec 32) : Bool :=
  match s.cur.command with
  | some w => launchCommand w == some (op, v, q, arg)
  | none => controlCore who && decide (v < 128) && decide (q < 8)

/-- `FETCH` (R45, R403). -/
def execFetch (who v q : Nat) (arg : BitVec 32) (dmaOk : Bool) (s : State) : Host.Outcome State Fault Refusal :=
  .next (if !s.commandIs who 1 v q arg then s
    else if arg.extractLsb' 16 16 ≠ 0 then s.launchDone 7
    else
      let l := (s.vf v).queue q
      if !l.enable || s.vfStopped v then s.launchDone 4
      else if 2 ^ l.log2.toNat ≤ l.tail.toNat ∨ !dmaOk then (s.stopQueue v q).launchDone 1
      else
        let i := (arg.extractLsb' 0 16).toNat
        (s.onQueue v q fun l => { l with record := some (i, s.hostMem.readBytes (l.base.toNat + 128 * i) 128) }).launchDone 0)

/-! ## The checks of R107 -/

/-- Whether a field of a register-space image is a legal place (R106, R107). -/
def imageOk (x : Nat) : Bool := x % 16384 == 0 && decide (x < 524288)

/-- The task that a TYPE 1 record names (R121, R122). -/
def State.partnerOf (s : State) (k : Task) : Option Task :=
  s.tasks.find? fun x => x.vf == k.vf && x.lnum.toNat == k.partnerNum && x.id != k.id

/-- Whether a rectangle of the partitions bound to the VF holds a cohort, with any cores whatever in service (R107, R114). -/
def State.rectangleExists (s : State) (k : Task) : Bool :=
  (s.boundClusters k.vf).any fun g =>
    if k.cohsize ≤ 8 then true
    else
      let x0 := g % 8
      let y0 := g / 8 % 2
      decide (x0 + k.width ≤ 8) && decide (y0 + k.height ≤ 2) &&
        (List.range k.height).all fun y => (List.range k.width).all fun x =>
          let h := 16 * (g / 16) + 8 * (y0 + y) + x0 + x
          (s.boundClusters k.vf).contains h && s.partitionOf h == s.partitionOf g

/-- Whether a core in service of the bound partitions has a class of the record (R107). -/
def State.classExists (s : State) (k : Task) : Bool := (s.boundClasses k.vf).any k.classes.contains

/-- The tests of a launch record, each with the byte offset of its field and its cause, in the order of the fields (R106, R107, R121,
R122); `true` is a failure. A record whose shape fields are each in range but which no rectangle holds fails at WIDTH (log 69, DEDUCED). -/
def State.recordTests (s : State) (k : Task) : List (Nat × Cause × Bool) :=
  let w := k.width
  let h := k.height
  let n := k.cohsize
  let shape := n == 8 * w * h || (w == 1 && h == 1 && [1, 2, 4, 8].contains n)
  let lenOk := k.imageLen % 32 == 0 && decide (k.imageLen ≤ 131072)
    && (k.imageLen != 0 || k.isSwitch || (k.isInvalidation && k.arg0 % 256 == 1))
  let x := s.partnerOf k
  let install := k.type == 1 && k.imageLen != 0
  let differs := fun (f : Task → Nat) => install && (match x with
    | some x => f x != f k
    | none => false)
  let partnerBad := match x with
    | some x => if k.isSwitch then x.phase != .parked else !x.dispatched || x.partner.isSome
    | none => true
  [(0, .illegalOp, decide (3 < k.type)),
   (1, .illegalOp, decide (8 ≤ k.field 1 1)),
   (2, .illegalOp, decide (8 < k.sealId)),
   (3, .illegalOp, decide (4 ≤ k.field 3 1)),
   (3, .privilege, k.forceClass && k.type != 3),
   (4, .illegalOp, w == 0 || decide (8 < w) || differs Task.width
      || (h != 0 && decide (h ≤ 2) && shape && !s.rectangleExists k)),
   (5, .illegalOp, h == 0 || decide (2 < h) || differs Task.height),
   (6, .illegalOp, !shape || differs Task.cohsize),
   (8, .illegalOp, k.cohorts == 0 || decide (512 < n * k.cohorts) || differs Task.cohorts),
   (10, .illegalOp, k.field 10 1 == 0 || decide (4 < k.field 10 1)),
   (11, .illegalOp, decide (15 < k.field 11 1)),
   (12, .illegalOp, decide (4 < k.field 12 1)),
   (13, .illegalOp, k.field 13 1 != 0)]
  ++ (k.preds.zipIdx.map fun p => (16 + 4 * p.2, Cause.illegalOp,
      let age := (k.lnum - BitVec.ofNat 32 p.1).toNat
      age == 0 || decide (131072 < age)))
  ++ [(32, .timingClass, !k.forceClass && !s.classExists k),
   (56, .illegalOp, !lenOk || (install && (match x with
      | some x => decide (131072 < x.imageLen + k.imageLen)
      | none => false))),
   (60, .illegalOp, k.entry % 32 != 0 || (k.imageLen != 0 && decide (k.imageLen ≤ k.entry))),
   (80, .illegalOp, k.pbound == 0),
   (84, .illegalOp, !imageOk k.rsb || (install && (match x with
      | some x => x.rsbalt != k.rsb
      | none => false))),
   (88, .illegalOp, !imageOk k.rsbalt || k.rsbalt == k.rsb || (install && (match x with
      | some x => x.rsb != k.rsbalt
      | none => false))),
   (92, .illegalOp, k.type != 2 && k.collgrp != 0),
   (104, .illegalOp, if k.type == 1 then partnerBad else k.partnerNum != 0),
   (108, .illegalOp, k.field 108 4 != 0)]

/-- The failure of a record: the first failing field, with its cause. -/
def State.recordFault (s : State) (k : Task) : Option (Cause × Nat) :=
  ((s.recordTests k).find? fun t => t.2.2).map fun t => (t.2.1, t.1)

/-- Whether the reserved bits of 16 format-table entries are all 0 (R337). -/
def fmttabOk (bs : List Byte) : Bool :=
  (List.range 16).all fun i =>
    let e := fun (o n : Nat) => fieldAt bs (16 * i + o) n
    bitsOf (e 1 1) 7 6 == 0 && bitsOf (e 2 1) 7 4 == 0 && e 3 1 == 0 && decide (e 4 4 < 2 ^ 19) && e 10 6 == 0

/-- Compartments of a world. -/
def State.compartments (s : State) (w : Nat) : Nat := ((s.world w).map fun x => policyComps x.policy).getD 1

/-- The failures found after the record itself: a DMA read, then the declaration table, then the format table (R107, R108, R337). -/
def State.tablesFault (s : State) (k : Task) (dma : LaunchDma) : Option (Nat × Word) :=
  match dma.failed with
  | some iova => some (0, iova)
  | none =>
    match tableFault k.exttab (k.field 11 1) (k.type == 3) k.sealId (s.compartments k.world) with
    | some f => some (f.1.code, BitVec.ofNat 64 f.2)
    | none => if k.field 96 8 ≠ 0 ∧ !fmttabOk k.fmttab then some (Cause.illegalOp.code, 96) else none

/-! ## START -/

/-- The launch of a held record under a launch number: its word is none from here on (R46, R48). -/
def State.issueLaunch (v q : Nat) (lnum : BitVec 32) (idx : Nat) (record : List Byte) (s : State) : Task × State :=
  let f := s.vf v
  let host := fun (o n : Nat) => s.hostMem.readBytes (fieldAt record o 8) n
  let len := fieldAt record 56 4
  let k : Task :=
    { id := s.nextTask, vf := v, lnum := lnum, queue := q, lidx := idx, record := record
      image := if len ≤ 131072 then host 48 len else []
      exttab := host 64 (32 + 32 * min 15 (fieldAt record 11 1))
      fmttab := if fieldAt record 96 8 = 0 then [] else host 96 256
      world := f.world.toNat, gen := 0, phase := .translating, exts := [], pages := [], built := 0, places := [], anchor := 0
      slips := 0, slipped := false, since := 0, asked := false, split := false, parkedCores := [], cohortsLeft := 0, haltGcy := 0, inval := none
      partner := none, fin := none }
  let newest := if 0 ≤ (lnum - f.lnum).toInt then lnum + 1 else f.lnum
  let t := (s.onQueue v q fun l => { l with record := none }).onVf v fun f =>
    { f with lnum := newest, status := SMap.put 0 (lnum.toNat % 131072) 0 f.status }
  (k, { t with tasks := t.tasks ++ [k], nextTask := t.nextTask + 1 })

/-- What follows the issue of a launch: it is refused, or goes on to its invalidation, to the switch of its pair, or to
translation (R107, R111, R122). A VF that is being reset, or in ERROR, aborts it (R123). -/
def State.admitLaunch (k : Task) (dma : LaunchDma) (s : State) : State :=
  if s.vfStopped k.vf then s.endTask k.id 9 0 0
  else
    match s.recordFault k with
    | some f => s.endTask k.id 7 f.1.code (BitVec.ofNat 64 f.2)
    | none =>
      if k.isInvalidation then s.onTask k.id fun k => { k with phase := .invalidating }
      else if k.isSwitch then
        s.onTask k.id fun k => { k with phase := .switching, partner := (s.partnerOf k).map (·.id) }
      else
        match s.tablesFault k dma with
        | some f => s.endTask k.id 7 f.1 f.2
        | none => s.onTask k.id fun k =>
          { k with phase := .translating, partner := if k.type = 1 then (s.partnerOf k).map (·.id) else none }

/-- `START` (R46, R48, R107, R403). -/
def execStart (who v q : Nat) (arg : BitVec 32) (dma : LaunchDma) (s : State) : Host.Outcome State Fault Refusal :=
  .next (if !s.commandIs who 2 v q arg then s
    else if (s.launchWord v arg).extractLsb' 0 4 ≠ 0 then s.launchDone 2
    else
      match ((s.vf v).queue q).record with
      | none => s.launchDone 3
      | some (idx, record) =>
        let (k, t) := s.issueLaunch v q arg idx record
        (t.admitLaunch k dma).launchDone 0)

end Sys2Proof.Machine
end

