-- ==== Sys2Proof/Machine/Curator.lean ====
section
/-! DEFINITION. The journal, CURCTL, the takeover and the frame ownership commands (R99-R103, R124-R126, R402, R405). -/

namespace Sys2Proof.Machine

/-- Changing the Curator's registers. -/
def State.onCur (f : Curator → Curator) (s : State) : State := { s with cur := f s.cur }

/-! ## The journal (R124, R402) -/

/-- `n` bytes of a journal mirror, a ring of 64 KiB. -/
def ringBytes (m : Memory) (a n : Nat) : List Byte := (List.range n).map fun i => m.read ((a + i) % 65536)

/-- Writing bytes into a journal mirror. -/
def ringWrite (m : Memory) (a : Nat) (bs : List Byte) : Memory :=
  m.writeCells (bs.zipIdx.map fun p => ((a + p.2) % 65536, p.1))

/-- LEN of the entry at POS in a mirror. -/
def entryLen (m : Memory) (pos : Nat) : Nat := leNat (ringBytes m (16 * pos + 4) 2)

/-- Whether the entry at POS has a valid CRC in a mirror. -/
def entrySealed (m : Memory) (pos : Nat) : Bool :=
  let n := entryLen m pos
  decide (n ≤ 1008) &&
    leNat (ringBytes m (16 * pos + 8 + n) 4) == (crc32c (ringBytes m (16 * pos) (8 + n))).toNat

/-- A write of JCRC with SEAL set: the CRC over the entry of mirror 0 goes into both mirrors. -/
def Curator.seal (c : Curator) (pos : Nat) : Curator :=
  let n := entryLen c.journal0 pos
  if n ≤ 1008 then
    let crc := leBytes 4 (crc32c (ringBytes c.journal0 (16 * pos) (8 + n))).toNat
    { c with
      journal0 := ringWrite c.journal0 (16 * pos + 8 + n) crc
      journal1 := ringWrite c.journal1 (16 * pos + 8 + n) crc }
  else c

/-- A write of JCRC with SEAL clear. -/
def Curator.check (c : Curator) (pos : Nat) : Curator :=
  { c with v0 := entrySealed c.journal0 pos, v1 := entrySealed c.journal1 pos }

/-- JCRC and JCOMMIT as they are read. -/
def Curator.jcrc (c : Curator) : Word := BitVec.ofNat 64 (2 ^ 33 * c.v1.toNat + 2 ^ 32 * c.v0.toNat)
def Curator.jcommit (c : Curator) : Word := BitVec.ofNat 64 (2 ^ 32 * c.commitSeq.toNat + c.commitPos.toNat)

/-- A write of JCOMMIT by the active Curator. -/
def State.writeJcommit (who : Nat) (val : Word) (s : State) : State :=
  if who = s.activeCurator then
    s.onCur fun c => { c with commitSeq := val.extractLsb' 32 32, commitPos := val.extractLsb' 0 12 }
  else s

/-- A write of JCRC, which any control core may make (R402). -/
def State.writeJcrc (who : Nat) (val : Word) (s : State) : State :=
  let pos := (val.extractLsb' 0 12).toNat
  if controlCore who then s.onCur fun c => if val.getLsbD 63 then c.seal pos else c.check pos else s

/-- `JCOMMIT` (R124): the stores of the entry have performed in both mirrors before it, in issue order. -/
def execJcommit (who : Nat) (val : Word) (s : State) : Host.Outcome State Fault Refusal := .next (s.writeJcommit who val)

/-- `JCRC_SEAL` (R402). -/
def execJcrcSeal (who pos : Nat) (s : State) : Host.Outcome State Fault Refusal :=
  .next (s.writeJcrc who (BitVec.ofNat 64 (2 ^ 63 + pos % 4096)))

/-- `JCRC_CHECK` (R402). -/
def execJcrcCheck (who pos : Nat) (s : State) : Host.Outcome State Fault Refusal :=
  .next (s.writeJcrc who (BitVec.ofNat 64 (pos % 4096)))

/-! ## Takeover (R125, R126) -/

/-- CURCTL as it is read. -/
def Curator.curctl (c : Curator) : BitVec 32 :=
  BitVec.ofNat 32 (2 ^ 31 * c.takeover.toNat + 2 ^ 30 * c.holding.toNat + 2 ^ 29 * (decide (256 ≤ c.hold.length)).toNat
    + 2 ^ 28 * c.activeB.toNat + 2 ^ 27 * c.paused.toNat + c.hold.length)

/-- `TAKEOVER` (R126): Curator A is held in reset and Curator B starts at its takeover vector. -/
def execTakeover (s : State) : Host.Outcome State Fault Refusal :=
  .next (match s.coreOf 512 with
    | none => s
    | some a =>
      if a.run ≠ .faulted then s
      else
        let t := s.onCore 512 fun c => { Core.control 512 .inReset with imem := c.imem, turn := c.turn, started := c.started }
        (t.onCore 513 fun c => if c.run = .inReset then { c with run := .running } else c).onCur fun c =>
          { c with takeover := true, holding := true, activeB := true, paused := true })

/-- The RESUME write of CURCTL. -/
def State.resumeDispatch (who : Nat) (s : State) : State :=
  if who = s.activeCurator then s.onCur fun c => { c with paused := false } else s

/-- The tasks whose records wait for room, in the order in which they halted. -/
def State.waitingRecords (s : State) : List Task :=
  sortBy (fun k => (k.fin.map (·.gcy)).getD 0) (s.tasks.filter fun k => k.phase == .ended)

/-- The RELEASE write of CURCTL (R125, R126): the held records go to the host in order, behind them, where the buffer was full, those of
the tasks that waited for room, and HOLDING clears. -/
def State.releaseRecords (who : Nat) (s : State) : State :=
  if who ≠ s.activeCurator ∨ !s.cur.holding then s
  else
    let held := s.cur.hold
    let full := 256 ≤ held.length
    let t := held.foldl (fun s p => if s.vfStopped p.1 then s else s.deliver p.1 p.2) (s.onCur fun c => { c with hold := [] })
    let t := if full then
        t.waitingRecords.foldl (fun s k =>
          match s.nextRecord k.vf with
          | some (x, e) => if x.id = k.id ∧ !s.vfStopped k.vf then (s.retireTask x).deliver k.vf (x.completion e) else s
          | none => s) t
      else t
    t.onCur fun c => { c with holding := false }

/-- A write of CURCTL. -/
def State.writeCurctl (who : Nat) (val : BitVec 32) (s : State) : State :=
  let t := if val.getLsbD 17 then s.resumeDispatch who else s
  if val.getLsbD 16 then t.releaseRecords who else t

/-- `RESUME` (R125, R126). -/
def execResume (who : Nat) (s : State) : Host.Outcome State Fault Refusal := .next (s.resumeDispatch who)

/-- `CURCTL_RELEASE` (R125, R126). -/
def execCurctlRelease (who : Nat) (s : State) : Host.Outcome State Fault Refusal := .next (s.releaseRecords who)

/-- The 64 bytes of HOLDREC i (R405). -/
def Curator.holdrec (c : Curator) (i : Nat) : List Byte :=
  match c.hold[i]? with
  | some (v, rec) => padTo 32 rec ++ leBytes 1 v ++ List.replicate 31 0
  | none => List.replicate 64 0

/-! ## The frame ownership table (R98, R99, R101) -/

/-- Whether a dispatched task has a pinned run in a frame. -/
def State.pinnedFrame (s : State) (frame : Nat) : Bool := s.tasks.any fun k => !k.exts.isEmpty && (s.allExts k).pins frame

/-- Whether OWNER names a world or the Curator. -/
def ownerValid (o : BitVec 8) : Bool := decide (o.toNat ≤ 0x3F) || o == 0xFD

/-- FREE, SCRUB. -/
def ownFree : BitVec 8 := 0xFF
def ownScrub : BitVec 8 := 0xFE

/-- Setting the owner of a frame. -/
def State.setOwner (frame : Nat) (o : BitVec 8) (s : State) : State := { s with fot := SMap.put ownScrub frame o s.fot }

/-- The result of a FOT command, and the table after it (R99). -/
def State.fotCommand (op frame owner : Nat) (s : State) : BitVec 3 × State :=
  let old := s.owner frame
  let new := BitVec.ofNat 8 owner
  if fotFirst ≤ frame then (4, s)
  else
    match op with
    | 1 =>
      if !ownerValid new then (4, s)
      else if old = ownScrub then (1, s)
      else if old = ownFree then
        -- a frame that a rekeyed world receives holds nothing under its former generation (R66)
        (0, (s.setOwner frame new).onWorld owner fun w => { w with moved := if w.prev.isSome then w.moved ++ [frame] else w.moved })
      else (2, s)
    | 2 =>
      if ownerValid old then (if s.pinnedFrame frame then (3, s) else (0, s.setOwner frame ownScrub)) else (2, s)
    | _ => (0, s)

/-- A command of the active Curator, with its result and the owner it leaves. -/
def State.fotRun (who op frame owner : Nat) (s : State) : State :=
  if who ≠ s.activeCurator then s
  else
    let (r, t) := s.fotCommand op frame owner
    t.onCur fun c => { c with fotResult := r, fotOwner := t.owner frame }

/-- A write of FOTCMD (R99): a command, or a malformed one. -/
def State.writeFotcmd (who : Nat) (val : Word) (s : State) : State :=
  let op := (val.extractLsb' 32 3).toNat
  let frame := (val.extractLsb' 0 23).toNat
  if who ≠ s.activeCurator then s
  else if val.extractLsb' 35 21 ≠ 0 ∨ val.extractLsb' 23 9 ≠ 0 ∨ 4 ≤ op then
    s.onCur fun c => { c with fotResult := 5, fotOwner := s.owner frame }
  else s.fotRun who op frame (val.extractLsb' 56 8).toNat

/-- Frames now in SCRUB: those that the table does not list as anything else; at reset every frame but those of the FOT (R103), though FOTSTAT's
table gives SCRUBCNT the reset value 0 (log 86, DESIGN CHOICE). -/
def State.scrubCount (s : State) : Nat := fotFirst - (s.fot.filter fun x => decide (x.1 < fotFirst)).length

/-- FOTSTAT as it is read. -/
def State.fotstat (s : State) : Word :=
  BitVec.ofNat 64 (2 ^ 16 * s.scrubCount + 2 ^ 8 * s.cur.fotOwner.toNat + s.cur.fotResult.toNat)

/-- `ASSIGN` (R99). -/
def execAssign (who frame owner : Nat) (s : State) : Host.Outcome State Fault Refusal :=
  .next (s.fotRun who 1 frame (owner % 256))

/-- `RELEASE` (R99, R101): its first step; the engine's others follow with SCRUB_COMPLETE. -/
def execRelease (who frame : Nat) (s : State) : Host.Outcome State Fault Refusal := .next (s.fotRun who 2 frame 0)

/-- `READ` (R99). -/
def execRead (who frame : Nat) (s : State) : Host.Outcome State Fault Refusal := .next (s.fotRun who 3 frame 0)

/-- `FOT_NOP` (R99): no operation; it leaves RESULT 0 and the owner of frame 0. -/
def execFotNop (who : Nat) (s : State) : Host.Outcome State Fault Refusal := .next (s.fotRun who 0 0 0)

/-- Blanking the lines of a frame in HBM. -/
def State.blankFrame (frame : Nat) (s : State) : State :=
  { s with
    hbm := s.hbm.clear (65536 * frame) 65536
    hbmTags := s.hbmTags.filter fun x => frameOfLine x.1 != frame }

/-- `SCRUB_COMPLETE` (R101, R103): once no checked fill of the frame is under way, its lines are invalidated without writeback, its
data units are blanked, and it is FREE; the scrub of a stack in training waits (R104). -/
def execScrubComplete (frame : Nat) (s : State) : Host.Outcome State Fault Refusal :=
  .next (if fotFirst ≤ frame ∨ s.owner frame ≠ ownScrub ∨ s.inTraining (512 * frame) then s
    else if s.fills.any fun f => frameOfLine f.index == frame then s
    else ((s.dropLines fun l => frameOfLine l.index == frame).blankFrame frame).setOwner frame ownFree)

end Sys2Proof.Machine
end

