-- ==== Sys2Proof/Machine/Memory.lean ====
section
/-! DEFINITION. The memory system at work: fills, copies whose data comes later, queued invalidations, column changes, retraining of a
stack (R85-R104, R186, R194, R363). -/

namespace Sys2Proof.Machine

/-! ## Data for a copy (R85, R100, R161, R165, R186) -/

/-- Changing the core of a copy, a saved one included. -/
def State.onCopy (copy : Nat) (f : Core → Core) (s : State) : State :=
  let g := fun (c : Core) => if c.copies.any fun x => x.copy == copy then f c else c
  { s.mapCores g with tasks := s.tasks.map fun (k : Task) => { k with parkedCores := k.parkedCores.map g } }

/-- A list in groups of 16: the writes of 16 B of a copy. -/
def chunks16 (l : List α) : List (List α) :=
  (List.range ((l.length + 15) / 16)).map fun i => (l.drop (16 * i)).take 16

/-- Late bytes of a copy, written through port C 16 B at a time. -/
def Core.lateBytes (copy : Nat) (bytes : List (Nat × Byte)) (c : Core) : Core :=
  (chunks16 bytes).foldl (fun c bs => c.arriveC copy bs true) c

/-- Marking the plate of a copy: where the copy is the plate's last one; and where it was so at the checkpoint that it outlives, in the
checkpoint's tag (R165, R187; log 46, DEDUCED). -/
def Core.markPlate (c : Core) (x : PlateCopy) (f : PlateTag → PlateTag) : Core :=
  let d := if x.seq = (c.plate x.plate).expSeq then c.setPlate x.plate (f (c.plate x.plate)) else c
  if c.older x && x.seq == (SMap.get PlateTag.reset x.plate c.snap.plates).expSeq then
    { d with snap := { d.snap with plates := SMap.modify PlateTag.reset x.plate f d.snap.plates } }
  else d

/-- Marking the plates of bytes of a copy, and counting the bytes as done. -/
def Core.copyFails (copy : Nat) (places : List Nat) (f : PlateTag → PlateTag) (c : Core) : Core :=
  let plates := distinct (places.map plateOf)
  let d := c.copies.foldl (fun (d : Core) x => if x.copy == copy && plates.contains x.plate then d.markPlate x f else d) c
  d.copyDone copy places true false

/-- A poisoned data unit of a copy (R85, R165). -/
def Core.copyPoison (copy index : Nat) (places : List Nat) (c : Core) : Core :=
  c.copyFails copy places fun t => if t.poison then t else { t with poison := true, badUnit := index }

/-- A fill of a copy that the FOT refuses (R100, R165). -/
def Core.copyRefused (copy frame : Nat) (places : List Nat) (c : Core) : Core :=
  c.copyFails copy places fun t => if t.refused then t else { t with refused := true, badFrame := frame }

/-! ## Effects that have been released (R91, R100, R193) -/

/-- The collectives whose result writes have all performed end with status 0 (R373). -/
def State.closeColls (s : State) : State :=
  s.collWrites.foldl (fun t p =>
    if p.2.all fun id => !(t.released.any fun g => g.id == id) then t.endColls p.1 1 0 else t) s

/-- Dropping a released effect, which may be the last result write of a collective, and changing what it does. -/
def State.dropEffect (id : Nat) (s : State) : State :=
  State.closeColls { s with released := s.released.filter fun g => g.id != id }
def State.setEffect (id : Nat) (e : OutEffect) (s : State) : State :=
  { s with released := s.released.map fun g => if g.id = id then { g with eff := e } else g }

/-- A fault that a strand takes at its next `ckpt` (R91, R100). -/
def State.strandFault (strand : Nat) (cause : Cause) (tval : Nat) (s : State) : State :=
  if s.tasks.any fun k => k.id == strand / 1024 && k.phase != .ended then
    { s with ckptFaults := s.ckptFaults ++ [(strand, ⟨cause, some (BitVec.ofNat 64 tval), 9, 0⟩)] }
  else s

/-- A fault that the strand of an effect takes at its next `ckpt`. -/
def State.ckptFault (g : Gated) (cause : Cause) (tval : Nat) (s : State) : State := s.strandFault g.strand cause tval

/-- The bytes of a write that lie in a line, and the others. -/
def inLine (index : Nat) (bytes : List (Nat × Byte)) : List (Nat × Byte) := bytes.filter fun b => b.1 / 128 == index
def notInLine (index : Nat) (bytes : List (Nat × Byte)) : List (Nat × Byte) := bytes.filter fun b => b.1 / 128 != index

/-- What is left of a released write when the bytes of a line are done. -/
def State.lineDone (g : Gated) (index : Nat) (s : State) : State :=
  match g.eff with
  | .write b key bytes =>
    (match notInLine index bytes with
      | [] => s.dropEffect g.id
      | rest => s.setEffect g.id (.write b key rest))
  | _ => s

/-- The merge of a partial released write into a line that has come. -/
def State.mergeEffect (id index : Nat) (s : State) : State :=
  match s.released.find? fun g => g.id == id with
  | some g => (match g.eff with
    | .write _ key bytes => (s.mergeLine g.cluster index key (inLine index bytes)).lineDone g index
    | _ => s)
  | none => s

/-- A released effect whose fill delivers poison (R91, R371, R372). -/
def State.poisonEffect (id index : Nat) (s : State) : State :=
  match s.released.find? fun g => g.id == id with
  | some g => (match g.eff with
    | .write .. => (s.ckptFault g .eccSp index).lineDone g index
    | _ => (s.ckptFault g .eccSp index).dropEffect id)
  | none => s

/-- Whether a fill is under way for an effect. -/
def State.fillsFor (s : State) (id : Nat) : Bool :=
  s.fills.any fun f => f.uses.any fun u => match u with
    | .merge e => e == id
    | .gather e => e == id
    | .copy .. => false

/-- The effect that is next to perform: at each cluster the one released first, once its reads have been made and no fill is under way
for it; a `cinv` waits for no reads (R89, R193, R198; log 41, DEDUCED). -/
def State.nextEffect (s : State) : Option Gated :=
  (s.released.zipIdx.find? fun p =>
    match p.1.eff with
    | .inval _ => true
    | _ => p.1.reads == 0 && !s.fillsFor p.1.id && !(s.released.take p.2).any fun h => h.cluster == p.1.cluster).map (·.1)

/-! ## Fills (R85, R91, R186) -/

/-- A fill delivers a line that is in L2. -/
def State.deliverFill (f : Fill) (x : Vec) (s : State) : State :=
  f.uses.foldl (fun s u => match u with
    | .copy k moves dead => s.onCopy k fun c =>
        (c.lateBytes k (moves.map fun m => (m.2, lineByte x m.1))).copyDone k dead true false
    | .merge e => s.mergeEffect e f.index
    | .gather _ => s) s

/-- A fill delivers poison: nothing is installed. -/
def State.poisonFill (f : Fill) (s : State) : State :=
  f.uses.foldl (fun s u => match u with
    | .copy k moves dead => s.onCopy k (Core.copyPoison k f.index (moves.map (·.2) ++ dead))
    | .merge e => s.poisonEffect e f.index
    | .gather e => s.poisonEffect e f.index) s

/-- Whether a fill waits at the controller of its stack: for the end of the training, and after it for the fills and the writebacks that were
before it (R104). -/
def State.fillWaits (s : State) (f : Fill) : Bool :=
  let same := fun (g : Fill) => stackOfLine g.index == stackOfLine f.index
  let behind := s.heldWb.any fun w => w.index == f.index && decide (w.fill ≤ f.id)
  s.inTraining f.index || behind || (f.held && match s.fills.find? fun g => g.held && same g with
    | some g => g.id != f.id
    | none => false)

/-- `FILL_INSTALL` (R85, R91, R104, R186): the ECC result is given with the event. A line that a whole-line write has allocated
meanwhile is kept; a fill for which there is no room waits. Writebacks that waited for the fill follow it. -/
def execFillInstall (fill : Nat) (ecc : EccResult) (s : State) : Host.Outcome State Fault Refusal :=
  .next <| State.drainWb (match s.fills.find? fun f => f.id == fill with
    | none => s
    | some f =>
      let t := { s with fills := s.fills.filter fun g => g.id != fill }
      if s.fillWaits f then s
      else if s.badStack f.index || ecc == .uncorrectable then (t.reportUnit 2 f.index).poisonFill f
      else
        let t := if ecc == .corrected then t.reportUnit 1 f.index else t
        match t.hit f.cluster f.index f.key, t.hbmRead f.index f.key with
        | some l, _ => (t.touch f.cluster f.index f.key).deliverFill f (t.lineData l)
        | none, some x => if !t.hasRoom f.cluster f.index f.key f.ctx then s else (t.install f.cluster f.index f.key f.ctx x false).deliverFill f x
        | none, none => (t.reportUnit 11 f.index).poisonFill f)

/-! ## Invalidations, columns, stacks (R89, R95-R97, R104, R194) -/

/-- `CINV_PERFORM` (R89, R194): the lines of a queued `cinv` are written back where dirty, and invalidated. -/
def execCinvPerform (s : State) : Host.Outcome State Fault Refusal :=
  .next (match s.nextEffect with
    | none => s
    | some g => match g.eff with
      | .inval lines =>
        (s.evictLines fun l => l.cluster == g.cluster && lines.contains l.index).dropEffect g.id
      | _ => s)

/-- Changing L2COL of a cluster. -/
def State.setCol (g : Nat) (x : L2Col) (s : State) : State := { s with l2col := SMap.put ⟨false, 0, none⟩ g x s.l2col }

/-- A write of L2COL that reaches its register (R96, R97): OFF keeps its old value until the change is done (log 88, DESIGN CHOICE). -/
def State.writeL2col (g : Nat) (val : BitVec 32) (s : State) : State :=
  let x := s.col g
  let new := val.extractLsb' 0 4
  let changed := (List.range 4).filter fun c => new.getLsbD c != x.off.getLsbD c
  let refused := s.clusterBusy g || x.change.isSome || new &&& 3 == 3 || new &&& 12 == 12 || decide (1 < changed.length)
  let change := match changed with
    | [c] => if refused then x.change else some (c, new.getLsbD c)
    | _ => x.change
  s.setCol g { x with err := (x.err && !val.getLsbD 31) || refused, change := change }

/-- `L2COL` (R94, R96, R97): the Conservator writes it. -/
def execL2col (who g : Nat) (val : BitVec 32) (s : State) : Host.Outcome State Fault Refusal :=
  .next (if who = 514 ∧ g < 64 then s.writeL2col g val else s)

/-- `COLUMN_CHANGE_DONE` (R95, R97): the lines that move are written back and invalidated, the mapping changes, BUSY clears; writes
that were released before perform first. -/
def execColumnChangeDone (g : Nat) (s : State) : Host.Outcome State Fault Refusal :=
  .next (match (s.col g).change with
    | none => s
    | some (c, off) =>
      if 64 ≤ g ∨ s.released.any (fun x => x.cluster == g) then s
      else
        let x := s.col g
        let t := if off then s.evictLines fun l => l.cluster == g && !l.fold && l.index % 4 == c
          else s.evictLines fun l => l.cluster == g && l.fold && l.index % 4 == c
        let bit := (1 : BitVec 4) <<< c
        t.setCol g { x with off := (if off then x.off ||| bit else x.off &&& ~~~bit), change := none })

/-- The tasks that are drained before a stack is retrained: those with a place that have a pinned run in it (R104). -/
def State.inStack (s : State) (n : Nat) : List Task :=
  s.tasks.filter fun k => (k.phase == .waiting || k.phase == .running || k.phase == .parked)
    && (k.exts ++ (s.cores.filter fun c => c.task == k.id).flatMap (·.exts)).any fun x => x.inStack n

/-- `HBM_RETRAIN` (R104; log 71, DESIGN CHOICE): the Curator drains the tasks of the stack; once none is left, the training begins; the next
event ends it. A stack that fails is reported, and its frames give poison until a later training succeeds. -/
def execHbmRetrain (stack : Nat) (ok : Bool) (s : State) : Host.Outcome State Fault Refusal :=
  .next (if 8 ≤ stack then s
    else
      let bit := (1 : BitVec 8) <<< stack
      if s.training.getLsbD stack then
        let t := { s with
          training := s.training &&& ~~~bit
          fills := s.fills.map fun (f : Fill) => if stackOfLine f.index = stack then { f with held := true } else f }
        let t := t.drainWb
        if ok then { t with stackBad := t.stackBad &&& ~~~bit }
        else { t with stackBad := t.stackBad ||| bit }.reportDomain stack
      else
        match s.inStack stack with
        | [] => { s with draining := s.draining &&& ~~~bit, training := s.training ||| bit }
        | ks => ks.foldl (fun t k => t.unpin k.id) { s with draining := s.draining ||| bit })

end Sys2Proof.Machine
end

