-- ==== Sys2Proof/Machine/Service.lean ====
section
/-! DEFINITION. Service life: error reports, CORESTATE, timing classes, overpaints, self-tests, the debug port, firmware images, package
reset and loss of power (R53, R57, R60, R80, R87, R127-R142, R163, R377-R380, R424). -/

namespace Sys2Proof.Machine

/-! ## Errors (R87, R127, R128, R129, R139, R163) -/

/-- A fault that a core takes at its present core cycle, if it runs. -/
def State.coreFault (core : Nat) (cause : Cause) (tval : Option Word) (s : State) : State :=
  s.onCore core fun c =>
    if c.run = .running ∨ c.run = .halted then { c with faults := c.faults ++ [⟨cause, tval, 0, c.pc⟩] } else c

/-- Whether a unit code is one of R127's inside a core. -/
def unitValid (u : BitVec 16) : Bool :=
  let k := u.toNat / 256
  let i := u.toNat % 256
  (decide (1 ≤ k) && decide (k ≤ 12) && (if k = 5 ∨ k = 6 then decide (i < 16) else if k = 8 then decide (i < 4) else i == 0))
    || k == 0x20

/-- Whether a unit code names a unit outside a core, and whether it may be reported at all (R127). -/
def unitOutside (u : BitVec 16) : Bool := u.toNat / 16 == 0xF00
def reportable (u : BitVec 16) : Bool := unitValid u || unitOutside u

/-- The record of an error of a unit (R127, R128): CORE is 0xFFFF for a unit outside a core; a code that is reserved, or a core that does
not exist, is never reported. A record of KIND 2 to 5 of a core's unit awaits its self-test (R130). -/
def State.reportError (e : UnitError) (s : State) : State :=
  if unitOutside e.unit then s.report 0xFFFF e.unit.toNat e.kind e.detail e.info
  else if !unitValid e.unit || decide (512 ≤ e.core) then s
  else
    let t := s.report e.core e.unit.toNat e.kind e.detail e.info
    if e.kind = 1 ∨ t.suspects.contains (e.core, e.unit) then t else { t with suspects := t.suspects ++ [(e.core, e.unit)] }

/-- The record of a verdict or an event of the Conservator about a unit, if its code may be reported (R127, R128). -/
def State.reportVerdict (core : Nat) (unit : BitVec 16) (kind detail : Nat) (s : State) : State :=
  if reportable unit then s.reportFree (if unitOutside unit then 0xFFFF else core) unit.toNat kind detail else s

/-- Whether an operation in flight is the timed read of a line under a key. -/
def Late.readsLine (x : Late) (l : Line) : Bool :=
  match x.eff with
  | .l2Chunk _ key line _ _ _ _ => line == l.index && key == l.key
  | _ => false

/-- The reads that a core still makes of a line deliver poison (R85, R87): they are made no more. -/
def Core.poisonReads (l : Line) (c : Core) : Core :=
  let hit := (c.late ++ c.parkedLate).filter (Late.readsLine · l)
  let d := { c with late := c.late.filter (!Late.readsLine · l), parkedLate := c.parkedLate.filter (!Late.readsLine · l) }
  hit.foldl (fun d x => match x.eff with
    | .l2Chunk copy _ line _ dst _ _ => d.copyPoison copy line dst
    | _ => d) d

/-- An uncorrectable error in the entry of a cluster's L2 at a slice, a set and a way (R85, R87): the reads still to be made of it deliver
poison, a dirty line is reported as lost, with its slice and set (log 78, DESIGN CHOICE), and the line is gone. -/
def State.loseLine (cluster slice set way : Nat) (s : State) : State :=
  match s.lines.find? fun l => l.cluster == cluster && s.sliceOf cluster l.index == slice && setOf l.index == set && l.way == way with
  | none => s
  | some l =>
    let info := BitVec.ofNat 64 (65536 * (16 * cluster + slice) + set)
    let t := if l.dirty then s.report 0xFFFF (0xF000 + slice) 10 0 info else s
    (t.mapCores fun c => if c.isControl ∨ clusterOf c.id ≠ cluster then c else c.poisonReads l).dropLines fun x =>
      x.is l.cluster l.index l.key

/-- What an uncorrectable or a parity error strikes (R87, R163): a word of a core, which is bad from here on until it is read or written;
or an entry of L2. -/
def State.strike (core : Nat) (p : ErrorPlace) (s : State) : State :=
  let mark := fun (x : ErrorPlace) => s.onCore core fun c => if c.bad.contains x then c else { c with bad := c.bad ++ [x] }
  match p with
  | .imem off => mark (.imem (4 * (off / 4)))
  | .scratchpad off => mark (.scratchpad (8 * (off / 8)))
  | .register w off => mark (.register w off)
  | .l2 cluster slice set way => s.loseLine cluster slice set way
  | .hbm _ | .unit => s

/-- Whether an overpaint is on the path of a unit code: the converter of that identity, or what bypasses the unit (R127, R424). -/
def Overpaint.serves (o : Overpaint) (core : Nat) (unit : BitVec 16) : Bool :=
  o.core == core && (if unit.toNat / 256 = 0x20 then o.role == 1 && o.format == unit.toNat % 256 else o.role != 1 && o.unit == unit)

/-- Whether a committed twin is on the path of a unit (R139). -/
def State.twinUnit (s : State) (core : Nat) (unit : BitVec 16) : Bool := s.overpaints.any fun o => o.serves core unit && o.twin

/-- `UNIT_ERROR_DETECT` (R87, R128, R139, R163): the record; the word that an uncorrectable or parity error strikes; the twin whose results
differ, which strikes the next one (log 73, DEDUCED). -/
def execUnitErrorDetect (e : UnitError) (s : State) : Host.Outcome State Fault Refusal :=
  .next (match e.place with
    | .hbm index => if e.kind = 1 ∨ e.kind = 2 then { s with walkEcc := SMap.put 0 index e.kind s.walkEcc } else s
    | _ =>
    if e.kind = 0 ∨ 5 < e.kind then s
    else
      let t := s.reportError e
      if e.kind = 2 ∨ e.kind = 5 then t.strike e.core e.place
      else if e.kind = 3 ∧ s.twinUnit e.core e.unit then t.onCore e.core fun c => { c with twin := some e.unit }
      else t)

/-- A write of ERRHEAD by the Conservator (R129). -/
def State.writeErrhead (val : Word) (s : State) : State :=
  let new := val.extractLsb' 0 9
  if (new - s.errHead).toNat ≤ (s.errTail - s.errHead).toNat then { s with errHead := new } else s

/-- `ERRHEAD` (R129). -/
def execErrhead (who : Nat) (val : Word) (s : State) : Host.Outcome State Fault Refusal :=
  .next (if who = 514 then s.writeErrhead val else s)

/-- ERRSTAT as it is read, and a write of it by the Conservator (R129). -/
def State.errstat (s : State) : BitVec 32 := BitVec.ofNat 32 (2 ^ 31 * s.errOverflow.toNat + s.errLost.toNat)
def State.writeErrstat (val : BitVec 32) (s : State) : State :=
  { s with errOverflow := s.errOverflow && !val.getLsbD 31, errLost := s.errLost &&& ~~~(val.extractLsb' 0 16) }

/-! ## Timing classes and CORESTATE (R133, R140-R142) -/

/-- The timing class of a table (R141). -/
def tableClass (t : List (BitVec 16)) : BitVec 32 :=
  if t = (List.range 64).map entryA0 then 0xA00
  else
    let d := BitVec.ofNat 32 (leNat ((sha384 (t.flatMap fun x => leBytes 2 x.toNat)).take 4))
    if d = 0xA00 ∨ d = 0xFFFFFFFF then d ^^^ 0x80000000 else d

/-- CORESTATE n as it is read (R133). -/
def CoreState.word (x : CoreState) : Word :=
  BitVec.ofNat 64 (2 ^ 32 * x.tclass.toNat + 2 ^ 15 * x.errsum.toNat + x.state.toNat)

/-- A write of CORESTATE n by the Conservator (R133, R135, R142): 6, 7 and a move from 5 are refused; STATE 0 recomputes the class and
what is measured. -/
def State.writeCorestate (n : Nat) (val : Word) (s : State) : State :=
  let x := s.cs n
  let st := val.extractLsb' 0 3
  let x := { x with errsum := x.errsum && !val.getLsbD 15 }
  let s := if st = 0 ∧ x.state ≠ 5 then
      { s with measured := SMap.put ((List.range 96).map plotDefault) n (s.coreMeasure n) s.measured }
    else s
  s.setCs n (if 6 ≤ st.toNat ∨ (x.state = 5 ∧ st ≠ 5) then x
    else if st = 0 then { x with state := 0, tclass := tableClass (s.tableOf n) }
    else if st = 5 then { x with state := 5, tclass := 0xFFFFFFFF }
    else { x with state := st })

/-- `CORESTATE` (R133). -/
def execCorestate (who n : Nat) (val : Word) (s : State) : Host.Outcome State Fault Refusal :=
  .next (if who = 514 ∧ n < 512 then s.writeCorestate n val else s)

/-- A write of an entry of a core's timing table by the Conservator, while the core is loading (R140). -/
def State.writeTable (n e : Nat) (val : BitVec 16) (s : State) : State :=
  if (s.cs n).state = 3 then { s with tables := SMap.put (entryA0 e) (64 * n + e) (val &&& 0xFFF) s.tables } else s

/-- `TIMING_TABLE_WRITE` (R140). -/
def execTimingTableWrite (who n e : Nat) (val : BitVec 16) (s : State) : Host.Outcome State Fault Refusal :=
  .next (if who = 514 ∧ n < 512 ∧ e < 64 then s.writeTable n e val else s)

/-! ## Overpaints (R53, R134-R138, R175, R377, R378, R380) -/

/-- Writing a byte of a core's plot map. -/
def State.setPlot (core p : Nat) (b : Byte) (s : State) : State :=
  { s with plotmap := SMap.put (plotDefault p) (96 * core + p) b s.plotmap }

/-- Whether a core lies in a partition bound to a TDI that is locked or runs with NO_FW_UPDATE (R53). -/
def State.underLock (s : State) (core : Nat) (f : Vf) : Bool :=
  f.isLocked && f.nfw && ((s.partitionOf (clusterOf core)).map f.parts.getLsbD).getD false

/-- Whether a core takes no overpaint for a unit, or none at all: under the lock, and for a unit that was condemned under it until
CONFIG_UNLOCKED (R53). -/
def State.noFwUpdate (s : State) (core : Nat) (unit : Option (BitVec 16)) : Bool :=
  s.vfs.any fun x => s.underLock core x.2 || x.2.condemned.any fun y => y.1 == core && (unit.getD y.2 == y.2)

/-- Whether an overpaint header is in the form of R134. -/
def headerOk (h : List Byte) : Bool :=
  let plots := fieldAt h 4 2
  let count := fieldAt h 7 1
  fieldAt h 0 2 == 1 && decide (1 ≤ fieldAt h 2 1) && decide (fieldAt h 2 1 ≤ 0xFD) && decide (fieldAt h 3 1 ≤ 2)
    && decide (1 ≤ plots) && decide (plots ≤ 88) && decide (fieldAt h 6 1 ≤ 1) && decide (count ≤ 8)
    && unitValid (BitVec.ofNat 16 (fieldAt h 8 2)) && (fieldAt h 3 1 == 1 || fieldAt h 10 2 == 0)
    && fieldAt h 12 4 == plots * 8192
    && (List.range 8).all fun i => if i < count then decide (fieldAt h (16 + 2 * i) 1 < 64) else fieldAt h (16 + 2 * i) 2 == 0

/-- The latencies of a core's table with the deltas of a header. -/
def State.patched (s : State) (core : Nat) (h : List Byte) : List Int :=
  (List.range 64).map fun e =>
    (List.range (fieldAt h 7 1)).foldl (fun (x : Int) i =>
      if fieldAt h (16 + 2 * i) 1 = e then x + signedOf 8 (fieldAt h (17 + 2 * i) 1) else x)
      ((s.tableEntry core e).extractLsb' 0 12).toNat

/-- Whether some other core holds the class of a table with a different table (R141). -/
def State.classTaken (s : State) (core : Nat) (t : List (BitVec 16)) : Bool :=
  let cls := tableClass t
  (List.range 512).any fun n => n != core && s.tclass n == cls && s.tableOf n != t

/-- The overpaint that a header describes, on a core. -/
def overpaintOf (core : Nat) (h : List Byte) : Overpaint :=
  ⟨core, fieldAt h 2 1, fieldAt h 4 2, BitVec.ofNat 16 (fieldAt h 8 2), fieldAt h 3 1, fieldAt h 6 1 % 2 == 1, fieldAt h 10 2,
    sha384 (h.take 80), (h.drop 32).take 48⟩

/-- OP 1 of CONSREQ (R53, R57, R134, R141, R380). -/
def State.checkOverpaint (core arg : Nat) (s : State) : State :=
  let off := 32 * arg
  let h := s.flash.readBytes off 176
  let signed := ecdsaOk Config.firmwareKey (h.take 80) ((h.drop 80).take 96)
  let table := s.patched core h
  if !signed || sha384 (s.flash.readBytes (off + 256) (fieldAt h 12 4)) != (h.drop 32).take 48 then { s with consResult := 1 }
  else if !headerOk h || table.any (fun x => decide (x < 0) || decide (4095 < x)) then { s with consResult := 3 }
  else if s.noFwUpdate core (some (BitVec.ofNat 16 (fieldAt h 8 2))) then { s with consResult := 4 }
  else if s.classTaken core (table.map fun x => BitVec.ofNat 16 x.toNat) then { s with consResult := 6 }
  else
    let o := overpaintOf core h
    { s with
      consResult := 0
      headers := s.headers.filter (· != o) ++ [o] }

/-- The column of a core, 16 × canvas + mesh column, and its mesh row (R105, R135). -/
def columnOf (core : Nat) : Nat := 16 * canvasOf core + 2 * (clusterOf core % 8) + core % 2
def meshRowOf (core : Nat) : Nat := 4 * (clusterOf core % 16 / 8) + core % 8 / 2

/-- The plots that an identity holds on a core, in ascending order; the two instances of a twin take the first and the next of them
(R135, R139; log 78, DESIGN CHOICE). -/
def State.plotsOf (s : State) (core ident : Nat) : List Nat := (List.range 96).filter fun p => (s.plot core p).toNat == ident

/-- Whether plots of the active configuration of a core carry the bitstream of an overpaint. -/
def State.plotsHold (s : State) (o : Overpaint) (ps : List Nat) : Bool :=
  decide (o.plots ≤ ps.length) &&
    sha384 ((ps.take o.plots).flatMap fun p => s.active.readBytes (786432 * o.core + 8192 * p) 8192) == o.bits

/-- Whether the active configuration of a core holds an overpaint, a twin in both instances (R135, R137, R139). -/
def State.holdsOverpaint (s : State) (o : Overpaint) : Bool :=
  let ps := s.plotsOf o.core o.ident
  s.plotsHold o ps && (!o.twin || s.plotsHold o (ps.drop o.plots))

/-- The overpaints of a core once its configuration has changed: those committed before that it still holds, and those whose headers passed
a check that it holds now, one for an identity. -/
def State.nowHeld (s : State) (core : Nat) : List Overpaint :=
  ((s.overpaints ++ s.headers).filter fun o => o.core == core).foldl (fun l o =>
    if l.any (fun x => x.ident == o.ident) || !s.holdsOverpaint o then l else l ++ [o]) []

/-- The commit of a core's region of its column's shadow configuration (R135, R378). -/
def State.commitRegion (core : Nat) (s : State) : State :=
  let t := { s with
    active := Memory.copyRange s.shadow (6291456 * columnOf core + 786432 * meshRowOf core) 786432 (786432 * core) s.active
    shifted := s.shifted.filter fun c => c != columnOf core }
  { t with overpaints := (t.overpaints.filter fun o => o.core != core) ++ t.nowHeld core }

/-! ## CONSREQ (R142, R380, R424) -/

/-- The fields of a CONSREQ word, or none where it is malformed: OP, UNIT, CORE, ARG. -/
def consFields (w : Word) : Option (Nat × BitVec 16 × Nat × Nat) :=
  let op := (w.extractLsb' 48 8).toNat
  let arg := (w.extractLsb' 0 23).toNat
  if w.extractLsb' 56 8 ≠ 0 ∨ op = 0 ∨ 4 < op ∨ (op = 4 ∧ 256 ≤ arg) ∨ ((op = 2 ∨ op = 3) ∧ arg ≠ 0) then none
  else some (op, w.extractLsb' 32 16, (w.extractLsb' 23 9).toNat, arg)

/-- CONSSTAT as it is read. -/
def State.consstat (s : State) : Word := BitVec.ofNat 64 (2 ^ 31 * s.selftest.isSome.toNat + s.consResult.toNat)

/-- A write of CONSREQ (R380): ignored from any core but the Conservator, and while a request is processed. -/
def State.writeConsreq (who : Nat) (w : Word) (s : State) : State :=
  if who ≠ 514 ∨ s.selftest.isSome then s
  else
    match consFields w with
    | none => { s with consResult := 7 }
    | some (1, _, core, arg) => s.checkOverpaint core arg
    | some (2, unit, core, _) => { s with selftest := some (core, unit), testFrom := s.time.gcy }
    | some (3, _, core, _) => { s with consResult := 0, detours := (if s.detours.contains core then s.detours else s.detours ++ [core]) }
    | some (_, unit, core, arg) => { s.reportVerdict core unit 8 arg with consResult := 0 }

/-- A request of a row with its OP. -/
def State.consRow (op who : Nat) (w : Word) (s : State) : State :=
  if (w.extractLsb' 48 8).toNat = op then s.writeConsreq who w else s

/-- `CHECK_OVERPAINT` (R380). -/
def execCheckOverpaint (who : Nat) (req : Word) (s : State) : Host.Outcome State Fault Refusal := .next (s.consRow 1 who req)

/-- `SELF_TEST` (R380, R424). -/
def execSelfTest (who : Nat) (req : Word) (s : State) : Host.Outcome State Fault Refusal := .next (s.consRow 2 who req)

/-- `DROP_CORE` (R142, R380). -/
def execDropCore (who : Nat) (req : Word) (s : State) : Host.Outcome State Fault Refusal := .next (s.consRow 3 who req)

/-- `POST_LOAD_OUTCOME` (R136, R380). -/
def execPostLoadOutcome (who : Nat) (req : Word) (s : State) : Host.Outcome State Fault Refusal := .next (s.consRow 4 who req)

/-! ## The end of a self-test (R130, R137, R139, R424) -/

/-- What a self-test of a unit code on a core drives: a committed overpaint, a native unit, or nothing. -/
inductive TestPath where
  | overpaint (o : Overpaint) | native | absent
deriving DecidableEq, Repr

/-- The path of a unit code on a core (R424): of a converter code, the committed converter of that identity. -/
def State.testPath (s : State) (core : Nat) (unit : BitVec 16) : TestPath :=
  match s.overpaints.find? fun o => o.serves core unit with
  | some o => .overpaint o
  | none => if unitValid unit && unit.toNat / 256 != 0x20 then .native else .absent

/-- A plot that a self-test changes: in the plot map, and in what measurement block 5 shows of it (R60, R137; log 52, DEDUCED). -/
def State.markPlot (core : Nat) (b : Byte) (p : Nat) (s : State) : State :=
  let shown := SMap.modify ((List.range 96).map plotDefault) core (fun m => m.set p b) s.measured
  { s.setPlot core p b with measured := shown }

/-- The plots of an overpaint after a failed test: each failing plot becomes 0xFF; of a twin, all plots of an instance with a failing plot
become 0xFF and those of the other one 0x00 (R137, R139). -/
def State.failPlots (o : Overpaint) (badPlots : List Nat) (s : State) : State :=
  let ps := s.plotsOf o.core o.ident
  let bad := ps.filter badPlots.contains
  if o.twin && !bad.isEmpty then
    let whole := fun (l : List Nat) (t : State) => l.foldl (fun t p => t.markPlot o.core (if l.any bad.contains then 0xFF else 0) p) t
    whole (ps.drop o.plots) (whole (ps.take o.plots) s)
  else bad.foldl (fun t p => t.markPlot o.core 0xFF p) s

/-- What a transient counts against: the unit, or the identity of a twin (R130, R139). -/
def transientKey (unit : BitVec 16) : TestPath → Nat
  | .overpaint o => if o.twin then 65536 + o.ident else unit.toNat
  | _ => unit.toNat

/-- Condemning a unit of a core (R130), noted by the TDIs that keep it unpatched (R53). -/
def State.condemn (core : Nat) (unit : BitVec 16) (s : State) : State :=
  if s.condemned.contains (core, unit) then s
  else
    { s with
      condemned := s.condemned ++ [(core, unit)]
      vfs := s.vfs.map fun x =>
        if s.underLock core x.2 then (x.1, { x.2 with condemned := x.2.condemned ++ [(core, unit)] }) else x }

/-- A lasting fault of what a test drove: a twin fails in both instances, else the unit is condemned, whether an overpaint bypassed it or not;
a code without a path condemns nothing (R130, R139, R424; log 78, DESIGN CHOICE). -/
def State.lasting (core : Nat) (unit : BitVec 16) (p : TestPath) (s : State) : State :=
  match p with
  | .native => s.condemn core unit
  | .overpaint o => if o.twin then s.failPlots o (s.plotsOf core o.ident) else s.condemn core unit
  | .absent => s

/-- A pass after an error record is a transient; the third within 24 hours of the first is lasting (R130). -/
def State.transient (core : Nat) (unit : BitVec 16) (p : TestPath) (s : State) : State :=
  let key := transientKey unit p
  let old := s.transients.filter fun x => x.1 == core && x.2.1 == key && decide (s.time.gcy ≤ x.2.2 + 146880000000000)
  let t := { s with transients := s.transients ++ [(core, key, s.time.gcy)] }
  if 2 ≤ old.length then t.lasting core unit p else t

/-- `SELF_TEST_DONE` (R130, R139, R380, R424): the verdict is given with the event; a fail after an error record condemns the unit behind an
overpaint too, but for a twin; a code without a path fails, marks no plot and condemns nothing. -/
def execSelfTestDone (pass : Bool) (badPlots : List Nat) (s : State) : Host.Outcome State Fault Refusal :=
  .next (match s.selftest with
    | none => s
    | some (core, unit) =>
      let p := s.testPath core unit
      let ok := pass && p != .absent
      let t := { s.reportVerdict core unit (if ok then 6 else 7) 0 with
        selftest := none
        consResult := if ok then 0 else 2
        suspects := s.suspects.filter (· != (core, unit)) }
      if ok then
        if s.suspects.contains (core, unit) then t.transient core unit p else t
      else
        match p with
        | .overpaint o =>
          let u := t.failPlots o badPlots
          if s.suspects.contains (core, unit) && !o.twin then u.condemn core unit else u
        | .native => t.condemn core unit
        | .absent => t)

/-! ## The debug port (R80) -/

/-- `DEBUG_PORT_SCAN` (R80): 8 bytes of the scratchpad of a core at an offset, or from offset 0x80000 on of its B buffer; sealed data
give zeros, and the task takes SEALED_DEBUG. -/
def execDebugPortScan (core off : Nat) (s : State) : Host.Outcome State Fault Refusal :=
  .next (match s.coreOf core with
    | none => { s with out := s.out ++ [.scan core off (List.replicate 8 0)] }
    | some c =>
      let inPad := decide (off < 0x80000)
      let hidden := if inPad then (c.sealedOff [off, off + 7]).isSome else c.eng.bsealed
      if hidden then
        let tval := if inPad then some (BitVec.ofNat 64 (4096 * plateOf ((c.sealedOff [off, off + 7]).getD off))) else none
        { s.coreFault core .sealedDebug tval with out := s.out ++ [.scan core off (List.replicate 8 0)] }
      else
        let bytes := if inPad then c.lcl.readBytes off 8 else c.eng.bbuf.readBytes (off - 0x80000) 8
        { s with out := s.out ++ [.scan core off bytes] })

/-! ## Firmware images, package reset, loss of power (R20, R53, R57, R103, R132) -/

/-- `FIRMWARE_IMAGE_UPDATE` (R53, R57): image 1 the Primer's, 2 the Curators', 3 the Conservator's, with its copies and their signatures. -/
def execFirmwareImageUpdate (image : BitVec 8) (copies : List (List Byte × List Byte)) (s : State) : Host.Outcome State Fault Refusal :=
  let n := image.toNat
  .next (if n = 0 ∨ 3 < n ∨ (n ≤ 2 ∧ s.vfs.any (fun x => x.2.isLocked && x.2.nfw)) then s
    else { s with firmware := SMap.put [] n (copies.take 2) s.firmware })

/-- The copy of an image that runs: the first one whose signature verifies under the fused key; one that is damaged does not (R57). -/
def State.verified (s : State) (damaged : List (Nat × Nat)) (image : Nat) : Option (List Byte) :=
  ((SMap.get [] image s.firmware).zipIdx.find? fun c =>
    !damaged.contains (image, c.2) && ecdsaOk Config.firmwareKey c.1.1 c.1.2).map (·.1.1)

/-- What a loss of power leaves: the portfolio flash with what it records, and what lies outside the device (R132). -/
def State.dark (s : State) : State :=
  { State.reset with
    inputs := s.inputs.map fun p => (p.1 - s.time.gcy, p.2)
    fresh := s.fresh
    hostMem := s.hostMem
    flash := s.flash
    firmware := s.firmware
    certChain := s.certChain
    plotmap := s.plotmap
    measured := (distinct (s.plotmap.map fun x => x.1 / 96)).foldl
      (fun m c => SMap.put ((List.range 96).map plotDefault) c (s.coreMeasure c) m) []
    condemned := s.condemned
    out := s.out }

/-- A control core at its start, with the image that runs in its IMEM; held in reset where it has none to run. -/
def startCore (id : Nat) (image : Option (List Byte)) (runs : Bool) : Core :=
  { Core.control id (if runs && image.isSome then .running else .inReset) with imem := Memory.writeBytes [] 0 (image.getD []) }

/-- The digest of the image that runs, or zeros. -/
def imageDigest : Option (List Byte) → List Byte
  | some x => sha384 x
  | none => List.replicate 48 0

/-- The state in which the control cores start: the stacks that fail their training are reported, and give poison (R103, R104). -/
def State.trained (s : State) (failed : BitVec 8) : State :=
  ((List.range 8).filter failed.getLsbD).foldl (fun t n => t.reportDomain n) { s with stackBad := failed }

/-- `PACKAGE_RESET` (R20, R57, R58, R84, R103, R104, R132): the stages in their order. Where no copy of the Primer's image verifies, no other
core starts and the PF reports a fatal error; where none of another does, its cores stay in reset. The DRBG is seeded, and the Curator's key
pair is the first value drawn from it. -/
def execPackageReset (damaged : List (Nat × Nat)) (failed : BitVec 8) (flit : Bool) (s : State) : Host.Outcome State Fault Refusal :=
  let p := s.verified damaged 1
  let a := p.bind fun _ => s.verified damaged 2
  let k := p.bind fun _ => s.verified damaged 3
  let (key, t) := (s.dark.trained failed).draw
  .next { t with
    core := startCore 512 a true
    others := [startCore 513 a false, startCore 514 k true, startCore 515 p true]
    spdmOnly := !(a.isSome && k.isSome)
    meas := [imageDigest p, imageDigest a, imageDigest k]
    curatorKey := leBytes 64 key.toNat
    drbg := 1
    pf := { t.pf with fatal := p.isNone, flitMode := flit }
    out := t.out ++ (if p.isNone then [.deviceFatal] else []) }

/-- `MODULE_POWER_OFF` (R132). -/
def execModulePowerOff (s : State) : Host.Outcome State Fault Refusal := .next { s.dark with power := false }

end Sys2Proof.Machine
end

