-- ==== Sys2Proof/Machine/Stretcher.lean ====
section
/-! DEFINITION. The register space of the stretcher die: which register lies where, reading and writing it, byte by byte (R8, R9, R26,
R30, R31, R49, R94, R96, R99, R124, R125, R129, R133, R137, R140, R380, R381, R388-R390, R402-R405). -/

namespace Sys2Proof.Machine

/-! ## The registers -/

/-- A register of the stretcher register space. -/
inductive StretcherReg where
  | gcyalign | regctl (n : Nat) | floors (n half : Nat) | regstat (n : Nat) | pwrmap (c : Nat)
  | kickmap (w : Nat) | qtail (v q : Nat) | fotcmd | fotstat | launchctl | launchstat
  | curctl | jcommit | jcrc | errhead | errtail | errstat | consreq | consstat
  | coretask (n : Nat) | corestate (n : Nat) | qstat (v q : Nat)
  | tdievt | tdidone | tdictl (v : Nat) | tdichk (v : Nat)
  | timing (n e : Nat) | l2ctx (g j : Nat) | l2col (g : Nat)
deriving DecidableEq, Repr

/-- A block of equal registers: the number of the one in which an offset lies, its first offset and its width. -/
def inBlock (a first count width : Nat) (f : Nat → StretcherReg) : Option (StretcherReg × Nat × Nat) :=
  if first ≤ a ∧ a < first + count * width then
    let i := (a - first) / width
    some (f i, first + i * width, width)
  else none

/-- The same for a register of 4 B that each regulator has, 0x20 apart (R31). -/
def inStride (a first : Nat) (f : Nat → StretcherReg) : Option (StretcherReg × Nat × Nat) :=
  let n := (a - first) / 0x20
  if first ≤ a ∧ n < 4 ∧ (a - first) % 0x20 < 4 then some (f n, first + 0x20 * n, 4) else none

/-- The register in which an offset lies, its first offset and its width in bytes. -/
def stretcherReg (a : Nat) : Option (StretcherReg × Nat × Nat) :=
  [inBlock a 0x2000 1 4 fun _ => .gcyalign,
   inStride a 0x2100 .regctl, inStride a 0x2104 fun n => .floors n 0, inStride a 0x2108 fun n => .floors n 1, inStride a 0x210C .regstat,
   inBlock a 0x2180 4 4 .pwrmap,
   inBlock a 0x3000 16 8 .kickmap,
   inBlock a 0x4000 1024 4 fun i => .qtail (i / 8) (i % 8),
   inBlock a 0x5000 1 8 fun _ => .fotcmd,
   inBlock a 0x5008 1 8 fun _ => .fotstat,
   inBlock a 0x5800 1 8 fun _ => .launchctl,
   inBlock a 0x5808 1 8 fun _ => .launchstat,
   inBlock a 0x6000 1 4 fun _ => .curctl,
   inBlock a 0x6008 1 8 fun _ => .jcommit,
   inBlock a 0x6010 1 8 fun _ => .jcrc,
   inBlock a 0x7000 1 8 fun _ => .errhead,
   inBlock a 0x7008 1 8 fun _ => .errtail,
   inBlock a 0x7010 1 4 fun _ => .errstat,
   inBlock a 0x8000 1 8 fun _ => .consreq,
   inBlock a 0x8008 1 8 fun _ => .consstat,
   inBlock a 0x9000 512 8 .coretask,
   inBlock a 0xA000 512 8 .corestate,
   inBlock a 0xB000 1024 4 fun i => .qstat (i / 8) (i % 8),
   inBlock a 0xC000 1 8 fun _ => .tdievt,
   inBlock a 0xC008 1 8 fun _ => .tdidone,
   inBlock a 0xC800 128 8 .tdictl,
   inBlock a 0xCC00 128 8 .tdichk,
   inBlock a 0x40000 32768 2 fun i => .timing (i / 64) (i % 64),
   if 0x100000 ≤ a ∧ a < 0x140000 then
     let g := (a - 0x100000) / 0x1000
     (inBlock a (0x100000 + 0x1000 * g) 1 4 fun _ => .l2col g) <|> inBlock a (0x100100 + 0x1000 * g) 16 4 (.l2ctx g)
   else none].findSome? id

/-- What a register reads as (R8): write-only fields read zero. -/
def State.regValue (s : State) : StretcherReg → Nat
  | .gcyalign => s.time.word.toNat
  | .regctl n => (s.reg n).ctl.toNat
  | .floors n h => ((s.reg n).floors.extractLsb' (32 * h) 32).toNat
  | .regstat n => (s.reg n).stat.toNat
  | .pwrmap c => (s.pwrmap.getD c 0).toNat
  | .kickmap w => (s.kickmap w).toNat
  | .qtail v q => ((s.vf v).queue q).tail.toNat
  | .fotcmd => 0
  | .fotstat => s.fotstat.toNat
  | .launchctl => 0
  | .launchstat => s.launchstat.toNat
  | .curctl => s.cur.curctl.toNat
  | .jcommit => s.cur.jcommit.toNat
  | .jcrc => s.cur.jcrc.toNat
  | .errhead => s.errHead.toNat
  | .errtail => s.errTail.toNat
  | .errstat => s.errstat.toNat
  | .consreq => 0
  | .consstat => s.consstat.toNat
  | .coretask n => (s.heldCores.contains n).toNat
  | .corestate n => (s.cs n).word.toNat
  | .qstat v q => ((s.vf v).queue q).cfg.toNat
  | .tdievt => s.tdievt.toNat
  | .tdidone => 0
  | .tdictl v => (s.vf v).tdictl.toNat
  | .tdichk v => (s.tdichk v).toNat
  | .timing n e => (s.tableEntry n e).toNat
  | .l2ctx g j => 8192 * s.ctxCount g j + (s.ctxLimit g j).toNat
  | .l2col g => 2 ^ 31 * (s.col g).err.toNat + 2 ^ 30 * (s.col g).change.isSome.toNat + (s.col g).off.toNat

/-- The bits of a register that are cleared by writing one. -/
def StretcherReg.w1c : StretcherReg → Nat
  | .gcyalign | .regctl _ => 0xC0000000
  | .kickmap _ | .errstat => 0xFFFFFFFFFFFFFFFF
  | .corestate _ => 0x8000
  | .l2col _ => 0x80000000
  | _ => 0

/-- A write of a whole register by a control core (R8): read-only fields, and registers that another core owns, ignore it. -/
def State.writeReg (who : Nat) (r : StretcherReg) (val : Word) (s : State) : State :=
  let lo : BitVec 32 := val.extractLsb' 0 32
  match r with
  | .gcyalign => s.writeGcyalign lo
  | .regctl n => s.writeRegctl who n lo
  | .floors n h => s.onReg n fun x => { x with floors :=
      (x.floors &&& ~~~((0xFFFFFFFF : Word) <<< (32 * h))) ||| ((lo.setWidth 64 : Word) <<< (32 * h)) }
  | .pwrmap c => s.writePwrmap c lo
  | .kickmap w => s.clearKicks w val
  | .fotcmd => s.writeFotcmd who val
  | .launchctl => s.writeLaunchctl who val
  | .curctl => s.writeCurctl who lo
  | .jcommit => s.writeJcommit who val
  | .jcrc => s.writeJcrc who val
  | .errhead => if who = 514 then s.writeErrhead val else s
  | .errstat => if who = 514 then s.writeErrstat lo else s
  | .consreq => s.writeConsreq who val
  | .corestate n => if who = 514 then s.writeCorestate n val else s
  | .qstat v q => if who = s.activeCurator then s.onQueue v q fun l => { l with head := val.extractLsb' 0 16 } else s
  | .tdidone => if who = 515 then s.writeTdidone val else s
  | .tdictl v => if who = 515 then s.writeTdictl v val else s
  | .timing n e => if who = 514 then s.writeTable n e (val.extractLsb' 0 16) else s
  | .l2ctx g j => if who = 512 ∨ who = 513 then
      { s with l2limit := SMap.put 0xC00 (16 * g + j) (val.extractLsb' 0 12) s.l2limit } else s
  | .l2col g => if who = 514 then s.writeL2col g lo else s
  | .regstat _ | .qtail _ _ | .fotstat | .launchstat | .errtail | .consstat | .coretask _ | .tdievt | .tdichk _ => s

/-! ## Bytes (R9, R390, R402, R405) -/

/-- Whether a control core's extents reach an offset: the cluster register blocks are the Curators' and the Conservator's (R94). -/
def reaches (who a : Nat) : Bool := who != 515 || !(decide (0x100000 ≤ a) && decide (a < 0x140000))

/-- Byte k of a number. -/
def byteOf (x k : Nat) : Byte := BitVec.ofNat 8 (x / 256 ^ k)

/-- A byte of the windows that hold arrays: the error ring, HOLDREC, the plot maps, the TDI buffers, the journal mirrors. -/
def State.arrayByte (s : State) (a : Nat) : Byte :=
  if a < 0xD000 then 0
  else if a < 0xD400 then (s.tdiEvt.map fun e => e.msg.getD (a - 0xD000) 0).getD 0
  else if a < 0xD800 then 0
  else if a < 0xE000 then s.tdiRsp.read (a - 0xD800)
  else if a < 0xF000 then byteOf (s.vf ((a - 0xE000) / 32)).nonce.toNat ((a - 0xE000) % 32)
  else if a < 0x10000 then 0
  else if a < 0x14000 then (SMap.get [] ((a - 0x10000) / 32) s.errRing).getD ((a - 0x10000) % 32) 0
  else if a < 0x20000 then 0
  else if a < 0x24000 then (s.cur.holdrec ((a - 0x20000) / 64)).getD ((a - 0x20000) % 64) 0
  else if a < 0x80000 then 0
  else if a < 0x90000 then (if (a - 0x80000) % 128 < 96 then s.plot ((a - 0x80000) / 128) ((a - 0x80000) % 128) else 0)
  else if a < 0x200000 then 0
  else if a < 0x240000 then (s.vf ((a - 0x200000) / 0x800)).report.getD ((a - 0x200000) % 0x800) 0
  else if a < 0x300000 then 0
  else if a < 0x310000 then s.cur.journal0.read (a - 0x300000)
  else if a < 0x320000 then s.cur.journal1.read (a - 0x310000)
  else 0

/-- A byte of the register space as a control core reads it: an offset that nothing defines reads zero (R9). -/
def State.stretcherByte (s : State) (who a : Nat) : Byte :=
  if !reaches who a then 0
  else
    match stretcherReg a with
    | some (r, base, _) => byteOf (s.regValue r) (a - base)
    | none => s.arrayByte a

/-- A write of one byte of the windows that can be written (R137, R390, R402). -/
def State.writeArray (who a : Nat) (b : Byte) (s : State) : State :=
  if who = 515 ∧ 0xD800 ≤ a ∧ a < 0xE000 then { s with tdiRsp := s.tdiRsp.write (a - 0xD800) b }
  else if who = 514 ∧ 0x80000 ≤ a ∧ a < 0x90000 ∧ (a - 0x80000) % 128 < 96 then
    s.setPlot ((a - 0x80000) / 128) ((a - 0x80000) % 128) b
  else if 0x300000 ≤ a ∧ a < 0x310000 then
    s.onCur fun c => { c with journal0 := c.journal0.write (a - 0x300000) b, journal1 := c.journal1.write (a - 0x300000) b }
  else s

/-- A register's value with some of its bytes written: the others keep what they read as, but for bits that a one would clear. -/
def mergeReg (old w1c base width : Nat) (bytes : List (Nat × Byte)) : Word :=
  BitVec.ofNat 64 ((List.range width).foldl (fun x k =>
    let b := match bytes.find? fun p => p.1 == base + k with
      | some p => p.2
      | none => byteOf old k &&& ~~~(byteOf w1c k)
    x + 256 ^ k * b.toNat) 0)

/-- Writing bytes at rising offsets by a control core, register by register; `fuel` is their number. -/
def State.writeStretcher (who : Nat) : Nat → List (Nat × Byte) → State → State
  | 0, _, s => s
  | _ + 1, [], s => s
  | k + 1, (a, b) :: rest, s =>
    if !reaches who a then s.writeStretcher who k rest
    else
      match stretcherReg a with
      | some (r, base, width) =>
        let mine := ((a, b) :: rest).takeWhile fun p => decide (base ≤ p.1) && decide (p.1 < base + width)
        (s.writeReg who r (mergeReg (s.regValue r) r.w1c base width mine)).writeStretcher who k (rest.drop (mine.length - 1))
      | none => (s.writeArray who a b).writeStretcher who k rest

/-- A store of bytes into the register space. -/
def State.storeStretcher (who : Nat) (bytes : List (Nat × Byte)) (s : State) : State :=
  s.writeStretcher who bytes.length bytes

/-! ## REGISTER_WRITE (R8, R9, R42, R43, R109) -/

/-- A write of some bytes of a 32-bit register of VF BAR 0: those of LSWIN that it does not touch stay, and clear no bit of VFSTAT. -/
def State.vfBar0Bytes (v : Nat) (bytes : List (Nat × Byte)) (s : State) : State :=
  let one := fun (base old : Nat) (s : State) =>
    if bytes.any fun p => decide (base ≤ p.1) && decide (p.1 < base + 4) then s.writeVfBar0 v base (mergeReg old 0 base 4 bytes) else s
  one 0x108 (s.vf v).lswin.toNat (one 0x100 0 s)

/-- A write to BAR 0 of a VF with or without the T bit: to the DOE mirror, or to a register (R40, R42, R54). -/
def State.writeBar0 (v : Nat) (w : RegWrite) (bytes : List (Nat × Byte)) (s : State) : State :=
  let own := !w.tee || w.stream == some (1 + v)
  if inDoeMirror w.off then
    s.orUnsupported v (own && s.mirrorAccepts v w.tee) (State.writeDoeBytes (1 + v) (cellsFrom 0xA000 bytes))
  else s.orUnsupported v (own && s.vfAccepts v w.tee) (State.vfBar0Bytes v bytes)

/-- `REGISTER_WRITE` (R8, R9, R42, R48): a write of 1 to 8 bytes to a register without a row of its own: by a control core to the register
space, or by the host to BAR 0 of a VF, under the checks of R40 and R54, to BAR 0 of the PF, or to configuration space. BAR 2 is read only;
configuration space holds no other register that acts here (log 17, PRESUMED). -/
def execRegisterWrite (w : RegWrite) (s : State) : Host.Outcome State Fault Refusal :=
  let bytes := cellsAt w.off (leBytes (min 8 w.len) w.val.toNat)
  .next (match w.space with
    | .stretcher => if 512 ≤ w.who ∧ w.who < 516 then s.storeStretcher w.who bytes else s
    | .vfBar0 v => s.atVf v (State.writeBar0 v w bytes)
    | .pfBar0 => s.writePfBar0 bytes
    | .vfBar2 v => s.atVf v fun s =>
      s.orUnsupported v ((!w.tee || w.stream == some (1 + v)) && s.vfAccepts v w.tee) id
    | .pfConfig => s.writePfConfig bytes
    | .vfConfig v => s.atVf v (State.writeDoeBytes (1 + v) (cellsFrom Config.doeOffset bytes)))

end Sys2Proof.Machine
end

