-- ==== Sys2Proof/Machine/Effects.lean ====
section
/-! DEFINITION. Released effects leaving for L2, HBM, the host, the register space and the collective engine, and the source data of
copies that do not come from L2 (R91, R100, R193, R363, R371-R373). -/

namespace Sys2Proof.Machine

/-! ## Released effects (R91, R100, R193) -/

/-- The context that lines of an effect are counted under. -/
def Gated.ctx (g : Gated) : Nat := g.strand / 1024 % 16

/-- Whether bytes cover a line whole. -/
def coversLine (index : Nat) (bytes : List (Nat × Byte)) : Bool :=
  (List.range 128).all fun k => bytes.any fun b => b.1 == 128 * index + k

/-- The bytes of a released write that lie in one line: merged where the line is resident, allocated where they cover it, else a fill
is requested, or refused (R91, R100). -/
def State.performLine (g : Gated) (key : MemKey) (index : Nat) (bytes : List (Nat × Byte)) (s : State) : State :=
  let rest := fun (t : State) => (match t.released.find? fun h => h.id == g.id with
    | some h => t.lineDone h index
    | none => t)
  if (s.hit g.cluster index key).isSome then rest (s.mergeLine g.cluster index key bytes)
  else if coversLine index bytes then
    if !s.hasRoom g.cluster index key g.ctx then s else
    rest (s.install g.cluster index key g.ctx (bytes.foldl (fun x b => setLineByte x (b.1 % 128) b.2) 0) true)
  else if !s.fotAllows index key then rest (s.ckptFault g .fotViolation (frameOfLine index))
  else s.requestFill g.cluster index key g.ctx (.merge g.id)

/-- A released write to an L2-backed extent. -/
def State.performL2 (g : Gated) (key : MemKey) (bytes : List (Nat × Byte)) (s : State) : State :=
  if bytes.isEmpty then s.dropEffect g.id
  else (distinct (bytes.map fun b => b.1 / 128)).foldl (fun s i => s.performLine g key i (inLine i bytes)) s

/-- A released write to an NC extent, at HBM: a data unit of which only a part is written and whose tag differs is left as it is, with
ECC_SP at the next `ckpt` (R91, R363); one to a stack in training waits (R104). -/
def State.performNc (g : Gated) (key : MemKey) (bytes : List (Nat × Byte)) (s : State) : State :=
  if bytes.any fun b => s.inTraining (b.1 / 128) then s
  else ((distinct (bytes.map fun b => b.1 / 128)).foldl (fun (s : State) i =>
    let bs := inLine i bytes
    if (s.unitRead i key).isSome || coversLine i bs then s.hbmStore key bs
    else (s.reportPoison i).ckptFault g .eccSp i) s).dropEffect g.id

/-- The lines that an effect reads after its release, in order: the reads stop at a line that is not resident, for which a fill is
requested, or refused (R371, R372). -/
def State.gatherLines (g : Gated) (key : MemKey) (sink : Sink) (src : List Nat) : List Nat → List Vec → State → State
  | [], got, s => s.setEffect g.id (.gather .l2 key src got sink)
  | i :: is, got, s =>
    match s.hit g.cluster i key with
    | some l => (s.touch g.cluster i key).gatherLines g key sink src is (got ++ [s.lineData l])
    | none =>
      if !s.fotAllows i key then (s.ckptFault g .fotViolation (frameOfLine i)).dropEffect g.id
      else (s.setEffect g.id (.gather .l2 key src got sink)).requestFill g.cluster i key g.ctx (.gather g.id)

/-- The lines of a source that L2 does not hold: read at HBM, where the first that delivers poison ends the effect, or at the host. -/
def State.gatherDirect (g : Gated) (b : Backing) (key : MemKey) (sink : Sink) (src : List Nat) (s : State) : State :=
  if b = .nc then
    if src.any s.inTraining then s
    else
      match src.find? fun i => (s.unitRead i key).isNone with
      | some i => ((s.reportPoison i).ckptFault g .eccSp i).dropEffect g.id
      | none => s.setEffect g.id (.gather b key src (src.map fun i => (s.unitRead i key).getD 0) sink)
  else s.setEffect g.id (.gather b key src (src.map fun i => lineOf (s.hostMem.readBytes (128 * i) 128)) sink)

/-- What an effect does with the lines that it has read: it goes on as a write, or contributes, unless its collective has ended. -/
def State.performSink (g : Gated) (got : List Vec) (sink : Sink) (s : State) : State :=
  match sink with
  | .bytes b key dst => s.setEffect g.id (.write b key (dst.zip (got.flatMap lineBytes)))
  | .coll group d =>
    let t := s.dropEffect g.id
    if (s.collEnd group d.num).isSome then t else { t with colls := s.colls ++ [⟨g.strand, g.cluster, group, d, got⟩] }

/-- What a released effect does. -/
def State.performEffect (g : Gated) (s : State) : State :=
  match g.eff with
  | .write .l2 key bytes => s.performL2 g key bytes
  | .write .nc key bytes => s.performNc g key bytes
  | .write .host _ bytes =>
    if s.dmaStopped (g.strand / 1024) then s.dropEffect g.id
    else State.dropEffect g.id { s with hostMem := s.hostMem.writeCells bytes }
  | .write .stretcher _ bytes => (s.storeStretcher g.core bytes).dropEffect g.id
  | .write .portfolio _ _ => s.dropEffect g.id
  | .flush lines => (s.flushLines g.cluster lines).dropEffect g.id
  | .ring _ => s.dropEffect g.id
  | .inval _ => s
  | .gather b key src got sink =>
    if got.length = src.length then s.performSink g got sink
    else if b = .l2 then s.gatherLines g key sink src (src.drop got.length) got
    else if b = .host ∧ s.dmaStopped (g.strand / 1024) then s.dropEffect g.id
    else s.gatherDirect g b key sink src

/-- `RELEASED_EFFECT_PERFORM` (R91, R193, R194): the effect that is next performs; one that needs lines from HBM waits for its fill and
goes on with a later event of this row. -/
def execReleasedEffectPerform (s : State) : Host.Outcome State Fault Refusal :=
  .next (match s.nextEffect with
    | none => s
    | some g => s.performEffect g)

/-! ## Copies from NC, HOST and DEVICE extents (R186, R363) -/

/-- Bytes of a source that is not L2, as core `who` reads them, each with its place; the first data unit of an NC extent that
delivers poison instead, where there is one. -/
def State.sourceBytes (s : State) (who : Nat) (backing : Backing) (key : MemKey) (moves : List (Nat × Nat)) :
    Except Nat (List (Nat × Byte)) :=
  let each := fun (f : Nat → Byte) => Except.ok (moves.map fun m => (m.2, f m.1))
  match backing with
  | .host => each s.hostMem.read
  | .stretcher => each (s.stretcherByte who)
  | .portfolio => each s.flash.read
  | .nc | .l2 => s.hbmBytes key moves

/-- The data of such a copy, for the core that issued it: bytes written late, in copy order, and poison for the units without data; bytes
that a later row overwrites are read and not written (R364). -/
def State.uncachedData (s : State) (u : Uncached) (c : Core) : Core :=
  let arrive := fun (write : Bool) (c : Core) (ms : List (Nat × Nat)) =>
    match s.sourceBytes c.id u.backing u.key ms with
    | .ok bytes => if write then c.lateBytes u.copy bytes else c.copyDone u.copy (ms.map (·.2)) true false
    | .error unit => c.copyPoison u.copy unit (ms.map (·.2))
  (chunks16 u.moves).foldl (arrive true)
    ((chunks16 u.dead).foldl (arrive false) { c with uncached := c.uncached.filter fun x => x.copy != u.copy })

/-- The data units that an NC copy reads, and those of them that deliver poison, which are reported (R85). -/
def Uncached.units (u : Uncached) : List Nat := distinct ((u.moves ++ u.dead).map fun m => m.1 / 128)
def State.poisonUnits (s : State) (u : Uncached) : List Nat :=
  if u.backing = .nc then u.units.filter fun i => (s.unitRead i u.key).isNone else []

/-- `UNCACHED_COPY_SOURCE_ARRIVAL` (R186, R363): data of a stack in training waits for the training's end (R104). -/
def execUncachedCopySourceArrival (core copy : Nat) (s : State) : Host.Outcome State Fault Refusal :=
  let saved := s.tasks.flatMap (·.parkedCores)
  .next (match (s.cores ++ saved).findSome? fun c =>
      if c.id = core then (c.uncached.find? fun u => u.copy == copy).map fun u => (u, c.task) else none with
    | none => s
    | some (u, task) =>
      if u.backing = .host ∧ s.dmaStopped task then s
      else if u.backing = .nc ∧ u.units.any s.inTraining then s
      else ((s.poisonUnits u).foldl (fun t i => t.reportPoison i) s).onCopy copy (s.uncachedData u))

end Sys2Proof.Machine
end

