-- ==== Sys2Proof/Machine/Operands.lean ====
section
/-! DEFINITION. Operand forms: immediates, register operations with one result, memory operands and their checks (R244, R247,
R270, R279, R80, R166). -/

namespace Sys2Proof.Machine

/-! ## Immediates (R249, R293) -/

/-- sext(x, n) into a scalar register. -/
def sext64 (x : BitVec n) : Word := x.signExtend 64

/-- zext(x, n) into a scalar register. -/
def zext64 (x : BitVec n) : Word := x.setWidth 64

/-! ## Operations with one register result (R144, R279) -/

/-- A scalar operation: sources at issue, sd at the latency of entry e. -/
def State.scalarOp (i : Instr) (e : Nat) (d : BitVec 6) (f : Core → Word) (s : State) : State :=
  s.run i fun t => t.upd fun c => c.after (slotOf i) (t.lat e) (.sreg d (f c))

/-- A scalar operation that also applies flags with its result (R215). -/
def State.scalarFlags (i : Instr) (e : Nat) (d : BitVec 6) (f : Core → Word × BitVec 5) (s : State) : State :=
  s.run i fun t => t.upd fun c =>
    let r := f c
    (c.after (slotOf i) (t.lat e) (.sreg d r.1)).after (slotOf i) (t.lat e) (.events (Events.ofFlags r.2))

/-- A vector operation: sources at issue, vd at the latency of entry e, with the flags and counts of its lanes (R215). -/
def State.vectorOp (i : Instr) (e : Nat) (d : BitVec 5) (f : Core → Vec × Events) (s : State) : State :=
  s.run i fun t => t.upd fun c =>
    let r := f c
    (c.after (slotOf i) (t.lat e) (.vreg d r.1)).after (slotOf i) (t.lat e) (.events r.2)

/-- A mask operation: md at the latency of entry e. -/
def State.maskOp (i : Instr) (e : Nat) (d : BitVec 3) (f : Core → Mask × Events) (s : State) : State :=
  s.run i fun t => t.upd fun c =>
    let r := f c
    (c.after (slotOf i) (t.lat e) (.mreg d r.1)).after (slotOf i) (t.lat e) (.events r.2)

/-! ## Memory operands (R247, R270) -/

/-- The extent code of `lcl`. -/
def lclCode : BitVec 4 := 0xF

/-- No extent passes: the operand accepts `lcl` only. -/
def acceptNone : Extent → Bool := fun _ => false

/-- What an operand accepts beside `lcl` for a load: DEVICE extents, which only a control core has (R247). -/
def acceptDevice : Extent → Bool := fun x => x.device

/-- What a store accepts: any extent that carries W, but for a gate destination, which only `gpass` writes (R63, R247). -/
def acceptStore : Extent → Bool := fun x => !x.gateDst

/-- The logical scratchpad offsets of `n` bytes. -/
def offsets (off n : Nat) : List Nat := (List.range n).map fun i => off + i

/-- The checks of a scratchpad read: ext_access, sealed plates, plate tags (R270, R80, R166); `cause` is the sealed outcome. -/
def Core.lclRead (c : Core) (off len align : Nat) (layout : Option Nat) (cause : Cause) :
    Except (Cause × Option Word) Core :=
  match c.lclFault off len align with
  | some f => .error f
  | none =>
    match c.sealedOff (offsets off len) with
    | some o => .error (cause, some (BitVec.ofNat 64 o))
    | none => c.readPlates layout (physRange (layout.getD 0) off len)

/-- The checks of a scratchpad write: ext_access, then sealed plates (R270, R80). -/
def Core.lclWriteFault (c : Core) (off len align : Nat) : Option (Cause × Option Word) :=
  match c.lclFault off len align with
  | some f => some f
  | none => (c.sealedOff (offsets off len)).map fun o => (.sealedCopy, some (BitVec.ofNat 64 o))

/-- Raising the fault of a check. -/
def Core.raiseF (c : Core) (slot : Nat) (f : Cause × Option Word) : Core := c.raise slot f.1 f.2

/-- The UNDO_FULL of a write that would need a 65th entry (R220). -/
def Core.undoFull (c : Core) (slot row : Nat) : Core := c.raise slot .undoFull (some (BitVec.ofNat 64 (row % 4096)))

/-- The address of each byte of a range of an extent, with the byte written there. -/
def Extent.cells (x : Extent) (off : Nat) (bs : List Byte) : List (Nat × Byte) :=
  bs.zipIdx.map fun p => (x.address (off + p.2), p.1)

/-- The addresses of a range of an extent. -/
def Extent.addresses (x : Extent) (off n : Nat) : List Nat := (offsets off n).map x.address

/-- The fence classes of a write to an extent: `cls`, and o for HOST (R195). -/
def Extent.classOf (x : Extent) (cls : Nat) : Nat := if x.backing = .host then cls + 0x80 else cls

/-! ## Accesses of several elements (R322, R325) -/

/-- The checks of ext_access on each element, in index order: the first that fails (R322). -/
def Core.elemFault (c : Core) (e : BitVec 4) (offs : List Nat) (len align : Nat) (kind : AccessKind)
    (accepts : Extent → Bool) : Option (Cause × Option Word) :=
  offs.findSome? fun o => if e = lclCode then c.lclFault o len align else c.extFault e o len align kind accepts

/-- The rank of each row within its bank, in order of first use; a row is counted over all banks (R325). -/
def rankOf (rows : List Nat) (row : Nat) : Nat :=
  ((distinct rows).filter fun r => r % 32 == row % 32).idxOf row

/-- The first element whose row would need rank 4 (R325). -/
def rankFault (offs rows : List Nat) : Option (Cause × Option Word) :=
  ((offs.zip rows).find? fun p => 4 ≤ rankOf rows p.2).map fun p => (.misaligned, some (BitVec.ofNat 64 p.1))

/-- The checks of a scratchpad read of several elements of `len` bytes: ext_access, ranks, sealed plates, plate tags. -/
def Core.readElems (c : Core) (e : BitVec 4) (offs : List Nat) (len align layout : Nat) :
    Except (Cause × Option Word) Core :=
  let all := offs.flatMap fun o => offsets o len
  match c.elemFault e offs len align .load acceptNone with
  | some f => .error f
  | none =>
    match rankFault offs (offs.map fun o => rowOf (physOf layout o)) with
    | some f => .error f
    | none =>
      match c.sealedOff all with
      | some o => .error (.sealedLoad, some (BitVec.ofNat 64 o))
      | none => c.readPlates (some layout) (all.map (physOf layout))

/-- The port-S accesses to several elements, rank by rank from core cycle `start` on; `f` schedules what the elements of a rank do
(R325). Elements are given with their physical places; a scalar store and `vst` are one element, and no sweep. -/
def Core.sweep (c : Core) (swept : Bool) (slot start : Nat) (elems : List (α × List Nat))
    (f : Nat → List (α × List Nat) → Core → Core) : Core :=
  let rows := elems.map fun x => rowOf (x.2.headD 0)
  (List.range 4).foldl (fun c j =>
    let mine := elems.filter fun x => rankOf rows (rowOf (x.2.headD 0)) == j
    if mine.isEmpty then c else c.portAccess swept slot (start + j) (mine.flatMap (·.2)) (f (start + j) mine)) c

/-- A store of several elements, each given by its offset and its bytes with the mask's leave to write (R301, R322-R326): into `lcl`
through port S from `lat` core cycles on, or as one gated effect into an extent with W. -/
def State.storeElems (swept : Bool) (slot lat : Nat) (e : BitVec 4) (layout align : Nat) (accepts : Extent → Bool)
    (elems : List (Nat × List (Byte × Bool))) (s : State) : State :=
  let c := s.core
  let offs := elems.map (·.1)
  let len := (elems.map (·.2.length)).headD 0
  let refuse := fun (f : Cause × Option Word) => s.upd fun c => c.raiseF slot f
  match c.elemFault e offs len align .store accepts with
  | some f => refuse f
  | none =>
    if e = lclCode then
      let placed := elems.map fun x => (x.2, physRange layout x.1 x.2.length)
      match rankFault offs (placed.map fun x => rowOf (x.2.headD 0)) with
      | some f => refuse f
      | none =>
        match c.sealedOff (offs.flatMap fun o => offsets o len) with
        | some o => refuse (.sealedCopy, some (BitVec.ofNat 64 o))
        | none =>
          let bytes := fun (xs : List (List (Byte × Bool) × List Nat)) =>
            xs.flatMap fun x => (x.2.zip x.1).filterMap fun p => if p.2.2 then some (p.1, p.2.1) else none
          match c.reserve ((bytes placed).map fun b => rowOf b.1) with
          | .error row => s.upd fun c => c.undoFull slot row
          | .ok d => { s with core := d.sweep swept slot (c.ccy + lat) placed fun at' xs d => d.at' slot at' (.store .S (bytes xs)) }
    else
      match c.extent e with
      | none => s
      | some x =>
        if layout ≠ 0 then refuse (.misaligned, some (BitVec.ofNat 64 (offs.headD 0)))
        else if x.sealed then refuse (.sealedCopy, some (BitVec.ofNat 64 (offs.headD 0)))
        else
          let cells := elems.flatMap fun y => y.2.zipIdx.filterMap fun p =>
            if p.1.2 then some (x.address (y.1 + p.2), p.1.1) else none
          s.gate slot (x.classOf 0x02) 0 0 (.write x.backing (x.key c.isControl) cells)

end Sys2Proof.Machine
end

