-- ==== Sys2Proof/Machine/ScalarMem.lean ====
section
/-! DEFINITION. Slot 2: scalar memory, atomics, bank locks, CSRs, fences, identifiers (R300-R306). -/

namespace Sys2Proof.Machine

/-! ## Loads and stores (R300, R301) -/

/-- The value of `8 * size` bits that a load puts into a register. -/
def loadValue (size : Nat) (signed : Bool) (bs : List Byte) : Word :=
  let x := BitVec.ofNat (8 * size) (leNat bs)
  if signed then x.signExtend 64 else x.setWidth 64

/-- The bytes of a DEVICE extent that a control core reads, or the first data unit that delivers poison. -/
def State.deviceBytes (s : State) (x : Extent) (off n : Nat) : Except Nat (List Byte) :=
  (s.sourceBytes s.core.id x.backing (x.key true) ((x.addresses off n).map fun a => (a, 0))).map fun l => l.map (·.2)

/-- A load from a DEVICE extent: the value comes back before the next bundle issues; that of a data unit without data is free (R85, log 11,
DESIGN CHOICE). -/
def State.loadDevice (d : BitVec 6) (x : Extent) (off size : Nat) (signed : Bool) (s : State) : State :=
  match s.deviceBytes x off size with
  | .ok bs => s.upd fun c => c.after 2 1 (.sreg d (loadValue size signed bs))
  | .error unit =>
    let (v, t) := (s.reportPoison unit).draw
    t.upd fun c => c.after 2 1 (.sreg d (loadValue size signed (leBytes size v.toNat)))

/-- A load of `size` bytes. -/
def State.loadScalar (i : Instr) (d : BitVec 6) (e : BitVec 4) (x : BitVec 6) (imm : BitVec 10) (size : Nat) (signed : Bool)
    (s : State) : State :=
  s.run i fun s =>
    let c := s.core
    let off := c.offset x (size * imm.toNat)
    if e = lclCode then
      match c.lclRead off size size none .sealedLoad with
      | .error f => s.upd fun c => c.raiseF 2 f
      | .ok k =>
        { s with core := k.portS 2 c.ccy (offsets off size) fun k =>
            k.after 2 (s.lat 6) (.sreg d (loadValue size signed (k.lclAt (offsets off size)))) }
    else
      match c.extFault e off size size .load acceptDevice, c.extent e with
      | none, some y => s.loadDevice d y off size signed
      | some f, _ => s.upd fun c => c.raiseF 2 f
      | none, none => s

/-- Whether an effect is a write of a core to the register space. -/
def Gated.toStretcher (g : Gated) (core : Nat) : Bool :=
  match g.eff with
  | .write .stretcher _ _ => g.core == core
  | _ => false

/-- A store of a control core to the register space performs when it leaves, unless an earlier write of the core to it has not
performed (R301). -/
def State.leaveNow (before : List Gated) (s : State) : State :=
  if s.released.length = before.length ∨ before.any fun g => g.toStretcher s.core.id then s
  else
    match s.released.getLast? with
    | some g => if g.toStretcher s.core.id then s.performEffect g else s
    | none => s

/-- A store of the low `size` bytes of s_v. -/
def State.storeScalar (i : Instr) (v : BitVec 6) (e : BitVec 4) (x : BitVec 6) (g : BitVec 4) (imm : BitVec 6) (size : Nat)
    (s : State) : State :=
  s.run i fun s =>
    let c := s.core
    if !c.guardOf g then s
    else
      let bytes := (leBytes size (c.sreg v).toNat).map fun b => (b, true)
      (s.storeElems false 2 (s.lat 7) e 0 size acceptStore [(c.offset x (size * imm.toNat), bytes)]).leaveNow s.released

/-- `ld.b` (R300). -/
def execLdB (d : BitVec 6) (e : BitVec 4) (x : BitVec 6) (i : BitVec 10) (s : State) : Host.Outcome State Fault Refusal :=
  .next (s.loadScalar (.ldB d e x i) d e x i 1 true)

/-- `ld.bz` (R300). -/
def execLdBz (d : BitVec 6) (e : BitVec 4) (x : BitVec 6) (i : BitVec 10) (s : State) : Host.Outcome State Fault Refusal :=
  .next (s.loadScalar (.ldBz d e x i) d e x i 1 false)

/-- `ld.h` (R300). -/
def execLdH (d : BitVec 6) (e : BitVec 4) (x : BitVec 6) (i : BitVec 10) (s : State) : Host.Outcome State Fault Refusal :=
  .next (s.loadScalar (.ldH d e x i) d e x i 2 true)

/-- `ld.hz` (R300). -/
def execLdHz (d : BitVec 6) (e : BitVec 4) (x : BitVec 6) (i : BitVec 10) (s : State) : Host.Outcome State Fault Refusal :=
  .next (s.loadScalar (.ldHz d e x i) d e x i 2 false)

/-- `ld.w` (R300). -/
def execLdW (d : BitVec 6) (e : BitVec 4) (x : BitVec 6) (i : BitVec 10) (s : State) : Host.Outcome State Fault Refusal :=
  .next (s.loadScalar (.ldW d e x i) d e x i 4 true)

/-- `ld.wz` (R300). -/
def execLdWz (d : BitVec 6) (e : BitVec 4) (x : BitVec 6) (i : BitVec 10) (s : State) : Host.Outcome State Fault Refusal :=
  .next (s.loadScalar (.ldWz d e x i) d e x i 4 false)

/-- `ld.d` (R300). -/
def execLdD (d : BitVec 6) (e : BitVec 4) (x : BitVec 6) (i : BitVec 10) (s : State) : Host.Outcome State Fault Refusal :=
  .next (s.loadScalar (.ldD d e x i) d e x i 8 false)

/-- `st.b` (R301). -/
def execStB (v : BitVec 6) (e : BitVec 4) (x : BitVec 6) (g : BitVec 4) (i : BitVec 6) (s : State) :
    Host.Outcome State Fault Refusal :=
  .next (s.storeScalar (.stB v e x g i) v e x g i 1)

/-- `st.h` (R301). -/
def execStH (v : BitVec 6) (e : BitVec 4) (x : BitVec 6) (g : BitVec 4) (i : BitVec 6) (s : State) :
    Host.Outcome State Fault Refusal :=
  .next (s.storeScalar (.stH v e x g i) v e x g i 2)

/-- `st.w` (R301). -/
def execStW (v : BitVec 6) (e : BitVec 4) (x : BitVec 6) (g : BitVec 4) (i : BitVec 6) (s : State) :
    Host.Outcome State Fault Refusal :=
  .next (s.storeScalar (.stW v e x g i) v e x g i 4)

/-- `st.d` (R301). -/
def execStD (v : BitVec 6) (e : BitVec 4) (x : BitVec 6) (g : BitVec 4) (i : BitVec 6) (s : State) :
    Host.Outcome State Fault Refusal :=
  .next (s.storeScalar (.stD v e x g i) v e x g i 8)

/-! ## Atomics (R159, R302) -/

/-- Taking the window of an atomic issued now on a bank, for `f`; where an earlier window meets it, the strand takes
PORT_COLLISION at the first core cycle that both hold, and `f` does not happen (R159). -/
def Core.atomicWindow (c : Core) (bank : Nat) (f : Core → Core) : Core :=
  match c.windows.find? fun w => w.1 == bank && decide (c.ccy + 1 < w.2 + 3) && decide (w.2 < c.ccy + 4) with
  | some w => c.raiseAt 2 (max (c.ccy + 1) w.2) .portCollision (some (portTval .S bank))
  | none => f (c.openWindow bank (c.ccy + 1))

/-- An atomic on the 8 bytes at s_x: function `fn` of the old value and `v`, or for `acas` the comparison with `cmp`. -/
def State.atomicOp (i : Instr) (fn : Nat) (d x v : BitVec 6) (cmp : Option (BitVec 6)) (g : BitVec 4) (s : State) : State :=
  s.run i fun s => s.upd fun c =>
    let off := (c.sreg x).toNat
    let bank := (c.sreg x).extractLsb' 7 5
    if !c.guardOf g then c.atomicWindow bank.toNat id
    else
      match c.lclRead off 8 8 none .sealedCopy with
      | .error f => c.raiseF 2 f
      | .ok k =>
        match k.reserve [rowOf off] with
        | .error row => c.undoFull 2 row
        | .ok k => k.atomicWindow bank.toNat fun k =>
            k.after 2 1 (.atomic fn off d (c.sreg v) (cmp.map c.sreg) (s.lat 6))

/-- `aadd` (R302). -/
def execAadd (d x v : BitVec 6) (g : BitVec 4) (s : State) : Host.Outcome State Fault Refusal :=
  .next (s.atomicOp (.aadd d x v g) 0 d x v none g)

/-- `aand` (R302). -/
def execAand (d x v : BitVec 6) (g : BitVec 4) (s : State) : Host.Outcome State Fault Refusal :=
  .next (s.atomicOp (.aand d x v g) 1 d x v none g)

/-- `aor` (R302). -/
def execAor (d x v : BitVec 6) (g : BitVec 4) (s : State) : Host.Outcome State Fault Refusal :=
  .next (s.atomicOp (.aor d x v g) 2 d x v none g)

/-- `axor` (R302). -/
def execAxor (d x v : BitVec 6) (g : BitVec 4) (s : State) : Host.Outcome State Fault Refusal :=
  .next (s.atomicOp (.axor d x v g) 3 d x v none g)

/-- `amin` (R302). -/
def execAmin (d x v : BitVec 6) (g : BitVec 4) (s : State) : Host.Outcome State Fault Refusal :=
  .next (s.atomicOp (.amin d x v g) 4 d x v none g)

/-- `amax` (R302). -/
def execAmax (d x v : BitVec 6) (g : BitVec 4) (s : State) : Host.Outcome State Fault Refusal :=
  .next (s.atomicOp (.amax d x v g) 5 d x v none g)

/-- `aminu` (R302). -/
def execAminu (d x v : BitVec 6) (g : BitVec 4) (s : State) : Host.Outcome State Fault Refusal :=
  .next (s.atomicOp (.aminu d x v g) 6 d x v none g)

/-- `amaxu` (R302). -/
def execAmaxu (d x v : BitVec 6) (g : BitVec 4) (s : State) : Host.Outcome State Fault Refusal :=
  .next (s.atomicOp (.amaxu d x v g) 7 d x v none g)

/-- `aswap` (R302). -/
def execAswap (d x v : BitVec 6) (g : BitVec 4) (s : State) : Host.Outcome State Fault Refusal :=
  .next (s.atomicOp (.aswap d x v g) 8 d x v none g)

/-- `acas` (R302): sd holds the expected value at issue. -/
def execAcas (d x n : BitVec 6) (g : BitVec 4) (s : State) : Host.Outcome State Fault Refusal :=
  .next (s.atomicOp (.acas d x n g) 8 d x n (some d) g)

/-! ## Bank locks (R160, R303) -/

/-- `lockb` (R303): the lock covers the bundles at c + 1 to c + n. -/
def execLockb (m : BitVec 16) (n : BitVec 4) (s : State) : Host.Outcome State Fault Refusal :=
  .next (s.runCore (.lockb m n) fun c => c.after 2 1 (.lock m (c.ccy + n.toNat)))

/-! ## CSRs (R224, R267, R268, R304) -/

/-- The CSRs of R267. -/
def csrListed (n : BitVec 12) : Bool :=
  [0x000, 0x001, 0x002, 0x003, 0x004, 0x005, 0x006, 0x010, 0x011, 0x020, 0x021, 0x030, 0x031, 0x040, 0x041, 0x050, 0x060].contains
    n.toNat

/-- Those that a control core does not have: they read 0, and writes are ignored. -/
def csrAbsent (n : BitVec 12) : Bool := [0x006, 0x011, 0x020, 0x021, 0x030, 0x031, 0x060].contains n.toNat

/-- Those that a mode may write; a first write of csr.tvec in task mode is among them. -/
def csrWritable (m : Mode) (n : BitVec 12) : Bool :=
  (match m with
    | .task => [0x001, 0x010, 0x011, 0x020]
    | .service => [0x001, 0x002, 0x003, 0x004, 0x010, 0x011, 0x020, 0x031]
    | .control => [0x001, 0x002, 0x003, 0x004, 0x010]).contains n.toNat

/-- The code of a mode (R216). -/
def Mode.code : Mode → Nat
  | .task => 0
  | .service => 1
  | .control => 2

/-- What csr.lwbcnt reads (R224): gated effects, undo entries, and LWB entries of the checkpoint that have not retired. -/
def Core.lwbcnt (c : Core) : Nat :=
  let image := (c.late ++ c.parkedLate).filter fun l => decide (l.issued < c.snap.ccy)
  let holds := if c.inHandler then c.snap.holds else c.holds.filter fun h => decide (h.at' < c.snap.ccy + 8)
  2 ^ 24 * c.gated.length + 2 ^ 16 * c.undo.length + lwbCount image holds

/-- What a CSR reads on the focal core. -/
def State.csrRead (s : State) (n : BitVec 12) : Word :=
  let c := s.core
  if c.isControl && csrAbsent n then 0
  else
    match n.toNat with
    | 0x000 => BitVec.ofNat 64 (c.mode.code + 4 * c.inh.toNat)
    | 0x005 => c.tbpc.setWidth 64
    | 0x006 => BitVec.ofNat 64 (2 ^ 31 * c.pckpt.toNat + 2 ^ 16 * min 255 c.rbcnt + c.stamp.toNat)
    | 0x021 => ((if c.r.act then 1 else 0 : BitVec 1) ++ (0 : BitVec 31) ++ c.r.claimed ++ c.r.owner ++ c.r.valid ++ c.r.dirty)
    | 0x030 => BitVec.ofNat 64 c.r.rsb
    | 0x040 => BitVec.ofNat 64 s.time.gcy
    | 0x041 => BitVec.ofNat 64 (if c.inHandler then c.snap.ccy else c.ccy)
    | 0x050 => if c.isControl then 0xA00 else (s.cs c.id).tclass.setWidth 64
    | 0x060 => BitVec.ofNat 64 c.lwbcnt
    | _ => c.csrHeld n

/-- `csrr` (R304). -/
def execCsrr (d : BitVec 6) (n : BitVec 12) (s : State) : Host.Outcome State Fault Refusal :=
  .next (s.run (.csrr d n) fun s =>
    if csrListed n then s.upd fun c => c.after 2 (s.lat 0) (.sreg d (s.csrRead n))
    else s.upd fun c => c.illegal (.csrr d n))

/-- A write of a CSR, seen from c + 1: `f` makes its value of what the CSR holds at issue (R215, R279). -/
def State.csrOp (i : Instr) (n : BitVec 12) (f : Core → Word → Word) (s : State) : State :=
  s.runCore i fun c =>
    if !(csrListed n) then c.illegal i
    else if csrWritable c.mode n then c.after 2 1 (.csr n (f c (c.csrHeld n)))
    else c

/-- `csrw` (R304). -/
def execCsrw (a : BitVec 6) (n : BitVec 12) (s : State) : Host.Outcome State Fault Refusal :=
  .next (s.csrOp (.csrw a n) n fun c _ => c.sreg a)

/-- `csrs` (R304). -/
def execCsrs (a : BitVec 6) (n : BitVec 12) (s : State) : Host.Outcome State Fault Refusal :=
  .next (s.csrOp (.csrs a n) n fun c x => x ||| c.sreg a)

/-- `csrc` (R304). -/
def execCsrc (a : BitVec 6) (n : BitVec 12) (s : State) : Host.Outcome State Fault Refusal :=
  .next (s.csrOp (.csrc a n) n fun c x => x &&& ~~~(c.sreg a))

/-! ## Fences (R196, R305) -/

/-- `fence` (R196, R254, R305): on a control core it waits for P whatever S is. -/
def execFence (p q : BitVec 8) (k : BitVec 3) (s : State) : Host.Outcome State Fault Refusal :=
  .next (s.runCore (.fence p q k) fun c =>
    if k = 7 then c.illegal (.fence p q k)
    else if p = 0 ∨ q = 0 ∧ !c.isControl then c
    else if c.isControl then { c with wait := c.wait ++ [.fence p.toNat] }
    else c.requestHold (.fence p.toNat k.toNat c.ccy []) .nothing)

/-! ## Identifiers (R177, R306) -/

/-- The value of an identifier. -/
def Core.identifier (c : Core) (n : Nat) : Nat :=
  if 8 ≤ n then ((c.loops[n - 8]?).map fun e => e.index.toNat).getD 0
  else if c.isControl then (if n = 0 then c.id else if n = 6 then 1 else 0)
  else
    match n with
    | 0 => c.id
    | 1 => c.id % 8
    | 2 => clusterOf c.id % 16
    | 3 => clusterOf c.id % 16 / 8
    | 4 => canvasOf c.id
    | 5 => c.tstrand
    | _ => c.tcount

/-- `idr` (R306). -/
def execIdr (d : BitVec 6) (n : BitVec 4) (s : State) : Host.Outcome State Fault Refusal :=
  .next (s.scalarOp (.idr d n) 0 d fun c => BitVec.ofNat 64 (c.identifier n.toNat))

end Sys2Proof.Machine
end

