-- ==== Sys2Proof/Machine/Copies.lean ====
section
/-! DEFINITION. Slot 7: copies, cache maintenance, timed transfers (R361-R367). -/

namespace Sys2Proof.Machine

/-! ## Copies: the region and its checks (R75, R77, R80, R361, R364) -/

/-- A copy: direction (to the extent or not), extent code, layout, and whether it may have several rows. -/
structure CopyForm where
  out : Bool
  ext : BitVec 4
  layout : Nat
  several : Bool
deriving DecidableEq, Repr

/-- Whether both sides of a copy are `lcl`: the sl side is then the destination (R361). -/
def CopyForm.within (f : CopyForm) : Bool := f.ext == lclCode

/-- A row of a copy: its offset on the extent side, its offset on the `lcl` side, its length. -/
structure CopyRow where
  ext : Nat
  lcl : Nat
  len : Nat
deriving DecidableEq, Repr

/-- The bounds, the permission and an alignment of the extent side of a row; both sides of a copy within `lcl` are `lcl` (R361). -/
def Core.extSide (c : Core) (f : CopyForm) (r : CopyRow) (align : Nat) : Option (Cause × Option Word) :=
  if f.within then c.lclFault r.ext r.len align
  else c.extFault f.ext r.ext r.len align (if f.out then .store else .load) (if f.out then acceptStore else fun _ => true)

/-- csr.tval of a row that fails without an offset of its own: the offset of the row of a `cpy2` (R364), else `v`. -/
def CopyForm.tval (f : CopyForm) (off : Nat) (v : Option Nat) : Option Word :=
  (if f.several then some off else v).map (BitVec.ofNat 64)

/-- The checks of a row's range: the extents first, the extent side before the `lcl` side, then the alignments (R81, R361, R364). -/
def Core.copyRange (c : Core) (f : CopyForm) (r : CopyRow) : Option (Cause × Option Word) :=
  [c.extSide f r 1,
   if 524288 < r.len then some (.extentBound, f.tval r.ext none) else none,
   c.lclFault r.lcl r.len 1,
   if r.len % 16 ≠ 0 then some (.misaligned, f.tval r.ext (some r.len)) else none,
   c.extSide f r 16,
   c.lclFault r.lcl r.len 16].findSome? fun x => x

/-- The sealed checks of a row (R75, R77, R80). A copy within `lcl` fails where a byte's source and destination differ in being sealed; it
reports the first of its bytes that lies in a sealed plate, a source before its destination. -/
def Core.copySealed (c : Core) (f : CopyForm) (r : CopyRow) : Option (Cause × Option Word) :=
  let sealedAt := fun (o : Nat) => (c.plate (plateOf o)).sealed
  if f.within then
    if (List.range r.len).any fun i => sealedAt (r.ext + i) != sealedAt (r.lcl + i) then
      some (.sealedCopy, (c.sealedOff ((List.range r.len).flatMap fun i => [r.ext + i, r.lcl + i])).map (BitVec.ofNat 64))
    else none
  else
    match c.extent f.ext with
    | none => none
    | some x =>
      if x.sealed && !f.out && (r.ext % 128 != 0 || r.len % 4096 != 0) then some (.misaligned, f.tval r.ext none)
      else if x.sealed && !f.out && r.lcl % 4096 != 0 then some (.misaligned, f.tval r.lcl none)
      else if x.sealed then none
      else (c.sealedOff (offsets r.lcl r.len)).map fun o => (.sealedCopy, some (BitVec.ofNat 64 o))

/-- The checks of a row, in the order of R359; what it reads of the scratchpad is checked under the layout. -/
def Core.copyRow (c : Core) (f : CopyForm) (r : CopyRow) : Except (Cause × Option Word) Core :=
  match [c.copyRange f r, c.copySealed f r].findSome? fun x => x with
  | some x => .error x
  | none =>
    if f.within then c.readPlates (some f.layout) (physRange f.layout r.ext r.len)
    else if f.out then c.readPlates (some f.layout) (physRange f.layout r.lcl r.len)
    else .ok c

/-- The checks of all rows, in row order. -/
def Core.copyRows (c : Core) (f : CopyForm) : List CopyRow → Except (Cause × Option Word) Core
  | [] => .ok c
  | r :: rs => match c.copyRow f r with
    | .error x => .error x
    | .ok d => d.copyRows f rs

/-- A chunk of 16 bytes: its source and its destination, and whether no later chunk of the copy writes the same destination. -/
structure Chunk where
  src : Nat
  dst : Nat
  live : Bool
deriving DecidableEq, Repr

/-- The offsets of the chunks of a copy, in copy order: source, destination. -/
def chunkOffsets (f : CopyForm) (rows : List CopyRow) : List (Nat × Nat) :=
  rows.flatMap fun r => (List.range (r.len / 16)).map fun i =>
    if f.out && !f.within then (r.lcl + 16 * i, r.ext + 16 * i) else (r.ext + 16 * i, r.lcl + 16 * i)

/-- Chunks in copy order, marked where a later one writes the same destination. -/
def markChunks (several : Bool) : List (Nat × Nat) → List Chunk
  | [] => []
  | p :: t => ⟨p.1, p.2, !(several && t.any fun q => q.2 == p.2)⟩ :: markChunks several t

/-- The 16 places from the first place of a chunk on. -/
def sixteen (a : Nat) : List Nat := (List.range 16).map (a + ·)

/-- Chunks by the 128 B row that holds their source, in the order of first touch: the bank rows that a copy reads (R363). -/
def byRow (cs : List Chunk) : List (List Chunk) :=
  (distinct (cs.map fun c => rowOf c.src)).map fun r => cs.filter fun c => rowOf c.src == r

/-! ## What a copy into `lcl` writes (R165, R362, R363) -/

/-- The places of a copy's chunks: source address or place, destination place. -/
def placed (src : Nat → Nat) (layout : Nat) (cs : List Chunk) : List Chunk :=
  cs.map fun c => { c with src := src c.src, dst := physOf layout c.dst }

/-- The tags of the destination plates at issue, and what the copy has to write into each; `late` says which chunks are written late: of a chunk
that a later one overwrites, the late read counts (R186, R364). The index of a seal is that of the chunk that remains at plate offset 0: the last
one (R77, R364). -/
def Core.openCopy (c : Core) (copy layout : Nat) (sealed : Option Nat) (host : Bool) (cs : List Chunk) (firsts : List (Nat × Nat))
    (late : Chunk → Bool) : Core :=
  (distinct (cs.map fun x => plateOf x.dst)).foldl (fun (c : Core) p =>
    let t := c.plate p
    let live := cs.filter fun x => x.live && plateOf x.dst == p
    let t' := { t with
      expSeq := t.expSeq + 1, layout := BitVec.ofNat 2 layout, checked := false, poison := false, refused := false
      sealed := t.sealed || sealed.isSome, sealId := sealed.getD t.sealId
      sealIndex := (if sealed.isSome then ((firsts.filter fun q => q.2 == 4096 * p).getLast?.map fun q => q.1 / 128).getD t.sealIndex
        else t.sealIndex)
      sealer := if sealed.isSome then c.task else t.sealer }
    let d := c.setPlate p t'
    let dead := (cs.filter fun x => !x.live && plateOf x.dst == p && late x).length
    { d with copies := d.copies ++
        [⟨copy, p, t'.expSeq, 16 * (live.length + dead), 16 * ((live.filter late).length + dead), false, host, false, c.ccy⟩] }) c

/-- The place of each chunk in the queue of its slice (R362). -/
def queuePlaces (slice : Chunk → Nat) : SMap Nat → List Chunk → List (Chunk × Nat)
  | _, [] => []
  | m, c :: cs => (c, SMap.get 0 (slice c) m) :: queuePlaces slice (SMap.modify 0 (slice c) (· + 1) m) cs

/-- The core cycles by which chunk writes that meet in a bank are put off: one for each chunk of another row of the bank, from a
lower-numbered slice, that would be written on the same core cycle (R362). -/
def putOff (slice : Chunk → Nat) (timed : List (Chunk × Nat)) (x : Chunk × Nat) : Nat :=
  (timed.filter fun y => y.1.live && y.2 == x.2 && bankOf y.1.dst == bankOf x.1.dst && rowOf y.1.dst != rowOf x.1.dst
    && decide (slice y.1 < slice x.1)).length

/-- The fill of a line that a copy misses, or its refusal (R100, R186). -/
def State.copyMiss (copy : Nat) (key : MemKey) (cs : List Chunk) (index : Nat) (s : State) : State :=
  let all := cs.filter fun x => x.src / 128 == index
  let mine := all.filter fun x => x.live
  let dead := (all.filter fun x => !x.live).flatMap fun x => sixteen x.dst
  if s.fotAllows index key then
    s.requestFill (clusterOf s.core.id) index key s.core.ctx
      (.copy copy (mine.flatMap fun x => (List.range 16).map fun k => (x.src % 128 + k, x.dst + k)) dead)
  else s.upd (Core.copyRefused copy (frameOfLine index) (all.flatMap fun x => sixteen x.dst))

/-- A copy from an L2-backed extent (R186, R362): timed reads and writes of the lines that hit, fills of the others; a chunk that a
later one overwrites is read and not written (R364). Chunks have their source addresses and destination places. -/
def State.copyL2 (copy : Nat) (key : MemKey) (cs : List Chunk) (s : State) : State :=
  let cluster := clusterOf s.core.id
  let slice := fun (x : Chunk) => s.sliceOf cluster (x.src / 128)
  let lines := distinct (cs.map fun x => x.src / 128)
  let hit := fun (i : Nat) => (s.hit cluster i key).isSome
  let timed := (queuePlaces slice [] cs).filter fun p => hit (p.1.src / 128)
  let lat := s.lat 25
  let s := (lines.filter hit).foldl (fun (s : State) i => s.touch cluster i key) s
  let s := timed.foldl (fun (s : State) p => s.upd fun c =>
    c.at' 7 (c.ccy + 22 + p.2) (.l2Chunk copy key (p.1.src / 128) (p.1.src % 128) (if p.1.live then sixteen p.1.dst else [])
      (c.ccy + lat + p.2 + putOff slice timed p) none)) s
  (lines.filter fun i => !hit i).foldl (fun s i => s.copyMiss copy key cs i) s

/-- A copy within `lcl` (R363): row j of its source is read at c + 1 + j and written a core cycle later. -/
def Core.copyWithin (c : Core) (copy layout : Nat) (cs : List Chunk) : Core :=
  (byRow cs).zipIdx.foldl (fun c g =>
    let live := placed (physOf layout) layout (g.1.filter fun x => x.live)
    c.at' 7 (c.ccy + 1 + g.2) (.lclChunk copy (live.flatMap fun x => sixteen x.src) (live.flatMap fun x => sixteen x.dst))) c

/-- A copy into `lcl` whose checks have passed. -/
def State.copyIn (f : CopyForm) (rows : List CopyRow) (s : State) : State :=
  let cs := markChunks f.several (chunkOffsets f rows)
  let copy := s.nextFill
  match s.core.reserve (cs.map fun x => rowOf (physOf f.layout x.dst)) with
  | .error row => s.upd fun c => c.undoFull 7 row
  | .ok c =>
    let s := { s with nextFill := s.nextFill + 1, core := c }
    if f.within then
      s.upd fun c => (c.openCopy copy f.layout none false (placed id f.layout cs) [] fun _ => false).copyWithin copy f.layout cs
    else
      match c.extent f.ext with
      | none => s
      | some x =>
        let at' := placed x.address f.layout cs
        let key := x.key c.isControl
        let l2 := x.backing == .l2
        let late := fun (y : Chunk) => !l2 || (s.hit (clusterOf c.id) (y.src / 128) key).isNone
        let s := s.upd fun c => c.openCopy copy f.layout (if x.sealed then some x.sealId else none) (x.backing == .host) at'
          (chunkOffsets f rows) late
        if l2 then s.copyL2 copy key at'
        else
          let moves := fun (live : Bool) => (at'.filter fun y => y.live == live).flatMap fun y => (sixteen y.src).zip (sixteen y.dst)
          s.upd fun c => { c with uncached := c.uncached ++ [⟨copy, x.backing, key, moves true, moves false, c.ccy⟩] }

/-- A copy out of `lcl` whose checks have passed (R360, R363): one gated effect that reads a row a core cycle into the outbound buffer;
on a control core it leaves at issue. -/
def State.copyOut (f : CopyForm) (rows : List CopyRow) (s : State) : State :=
  let c := s.core
  match c.extent f.ext with
  | none => s
  | some x =>
    let cs := markChunks f.several (chunkOffsets f rows)
    let len := 16 * cs.length
    let cls := x.classOf 0x08
    let key := x.key c.isControl
    let src := fun (ys : List Chunk) => (ys.filter fun y => y.live).flatMap fun y => sixteen (physOf f.layout y.src)
    let dst := fun (ys : List Chunk) => (ys.filter fun y => y.live).flatMap fun y => sixteen (x.address y.dst)
    if c.isControl then
      (s.gate 7 cls 0 0 (.write x.backing key ((dst cs).zip (c.lclAt (src cs))))).leaveNow s.released
    else if 65536 < s.outbound c + len then s.upd fun c => c.raise 7 .gateBufferFull none
    else
      let id := s.nextFill
      let groups := byRow cs
      let t := s.gate 7 cls len groups.length (.write x.backing key [])
      if t.nextFill = s.nextFill then t
      else t.upd fun c => groups.zipIdx.foldl (fun c g => c.at' 7 (c.ccy + 1 + g.2) (.outRow id (src g.1) (dst g.1))) c

/-- A copy of some rows: its checks, then its effect. -/
def State.copy (f : CopyForm) (rows : List CopyRow) (s : State) : State :=
  match s.core.copyRows f rows with
  | .error x => s.upd fun c => c.raiseF 7 x
  | .ok c =>
    let s := { s with core := c }
    if f.out && !f.within then s.copyOut f rows else s.copyIn f rows

/-- `cpy` (R361-R363): a length of 0 is a no-op, from a SEALED extent too (log 90, DESIGN CHOICE). -/
def execCpy (f : BitVec 1) (e : BitVec 4) (l x n : BitVec 6) (y : BitVec 2) (s : State) : Host.Outcome State Fault Refusal :=
  .next (s.run (.cpy f e l x n y) fun s =>
    let c := s.core
    let len := (c.sreg n).toNat
    if len = 0 then s else s.copy ⟨f == 1, e, y.toNat, false⟩ [⟨(c.sreg x).toNat, (c.sreg l).toNat, len⟩])

/-- The rows of a `cpy2` (R364). -/
def Core.rows2 (c : Core) (l x n : BitVec 6) : List CopyRow :=
  let a := c.sreg n
  let b := c.sreg (n + 1)
  let stride := fun (w : BitVec 32) (r : Nat) => w.signExtend 64 * BitVec.ofNat 64 r
  (List.range (a.extractLsb' 32 16).toNat).map fun r =>
    ⟨(c.sreg x + stride (b.extractLsb' 0 32) r).toNat, (c.sreg l + stride (b.extractLsb' 32 32) r).toNat,
      (a.extractLsb' 0 32).toNat⟩

/-- `cpy2` (R364). -/
def execCpy2 (f : BitVec 1) (e : BitVec 4) (l x n : BitVec 6) (y : BitVec 2) (s : State) : Host.Outcome State Fault Refusal :=
  .next (s.run (.cpy2 f e l x n y) fun s =>
    let c := s.core
    let len := ((c.sreg n).extractLsb' 0 32).toNat
    let rows := c.rows2 l x n
    if len = 0 ∨ rows.isEmpty then s else s.copy ⟨f == 1, e, y.toNat, true⟩ rows)

/-- `mwait` (R182, R365): a control core has 64 plates (R266). -/
def execMwait (p : BitVec 7) (s : State) : Host.Outcome State Fault Refusal :=
  .next (s.runCore (.mwait p) fun c =>
    if !c.isControl then c.requestHold (.mwait p.toNat) .nothing
    else if 64 ≤ p.toNat then c.raise 7 .extentBound none
    else { c with wait := c.wait ++ [.mwait p.toNat] })

/-! ## Cache maintenance (R194, R366) -/

/-- The checks of a range of lines, and `f` on them; on an NC extent nothing happens. -/
def State.onLines (i : Instr) (e : BitVec 4) (x n : BitVec 6) (f : List Nat → State → State) (s : State) : State :=
  s.run i fun s =>
    let c := s.core
    let off := (c.sreg x).toNat
    let len := (c.sreg n).toNat
    let refuse := fun (z : Cause × Option Word) => s.upd fun c => c.raiseF 7 z
    if len = 0 then s
    else if e = lclCode then
      refuse (if c.lclSize < off + len then .extentBound else .extentPerm, some (BitVec.ofNat 64 off))
    else
      match c.extFault e off len 1 .load (fun y => !y.device && y.backing != .host), c.extent e with
      | some z, _ => refuse z
      | none, some y => if y.backing = .nc then s else f (y.lines off len) s
      | none, none => s

/-- `cflush` (R194, R366): a gated effect of class cw. -/
def execCflush (e : BitVec 4) (x n : BitVec 6) (s : State) : Host.Outcome State Fault Refusal :=
  .next (s.onLines (.cflush e x n) e x n fun ls s => s.gate 7 0x08 0 0 (.flush ls))

/-- `cinv` (R89, R194, R366): queued at the sub-banks at issue. -/
def execCinv (e : BitVec 4) (x n : BitVec 6) (s : State) : Host.Outcome State Fault Refusal :=
  .next (s.onLines (.cinv e x n) e x n fun ls s =>
    let c := s.core
    { s with
      released := s.released ++ [⟨s.nextFill, c.id, clusterOf c.id, c.strand, c.ccy, 7, 0x08, 0, 0, .inval ls⟩]
      nextFill := s.nextFill + 1 })

/-! ## Timed transfers (R171, R185, R367) -/

/-- `send` (R185, R367). -/
def execSend (l : BitVec 2) (a : BitVec 5) (r : BitVec 7) (t : BitVec 6) (s : State) : Host.Outcome State Fault Refusal :=
  .next (s.run (.send l a r t) fun s =>
    let c := s.core
    match (s.cohort c.coh).find? fun d => d.tstrand % d.cohsize == r.toNat with
    | none => s.upd fun c => c.raise 7 .xferTag (some (BitVec.ofNat 64 (2 ^ 33)))
    | some d =>
      let val := c.vreg a
      let tag := (c.sreg t).extractLsb' 0 16
      s.onCore d.id fun d => { d with late := d.late ++
        [⟨d.ccy + 1 + s.transitSum c.id d.id, d.ccy, 7, c.pc, .land l val tag d.r.act c.id⟩] })

/-- `recv` (R185, R367). -/
def execRecv (l : BitVec 2) (d : BitVec 5) (t : BitVec 16) (s : State) : Host.Outcome State Fault Refusal :=
  .next (s.run (.recv l d t) fun s => s.upd fun c =>
    let x := c.lreg l
    if x.full && x.tag == t then
      ({ c with r := c.r.emptyL l }).after 7 (s.lat 8) (.vreg d x.val)
    else
      c.raise 7 .xferTag (some (BitVec.ofNat 64 (t.toNat + 2 ^ 16 * x.tag.toNat + 2 ^ 32 * (!x.full).toNat))))

end Sys2Proof.Machine
end

