-- ==== Sys2Proof/Machine/Dispatcher.lean ====
section
/-! DEFINITION. The dispatcher: placement, start, slips, quantum, pre-emption, resident pairs, the end of a cohort (R79, R114-R122,
R126, R179). -/

namespace Sys2Proof.Machine

/-! ## Placement (R114) -/

/-- Whether a task may be placed so: the places are allowed, and the cores free. -/
def State.placesFit (s : State) (k : Task) (places : List Place) : Bool :=
  s.placesAllowed k places && (places.flatMap k.coresAt).all fun c => !(s.heldCores.contains c)

/-- Whether extents have a run in a stack that is being drained or trained (R104). -/
def State.inClosedStack (s : State) (xs : List Extent) : Bool :=
  xs.any fun x => (List.range 8).any fun n => (s.draining ||| s.training).getLsbD n && x.inStack n

/-- Whether a task may be dispatched now as far as links, stacks and its generation go: no collective across a removed link (R17), no task with
a run in a stack that is being retrained (R104). -/
def State.openTo (s : State) (k : Task) : Bool :=
  !(k.type == 2 && s.cutGroups.contains k.collgrp) && !s.inClosedStack k.exts

/-- Whether the runs of a task were built under the current generation of its world (R66). -/
def State.builtNow (s : State) (k : Task) : Bool := (s.world k.world).map (·.gen) == some k.gen

/-! ## Which task comes next (R119) -/

/-- The partition for whose dispatch decision a placement counts: the one of its first cluster, where its cohorts stand in several (log 89,
DESIGN CHOICE). -/
def State.placePartition (s : State) (k : Task) (places : List Place) : Nat :=
  ((places.head?.bind fun p => (k.clustersAt p).head?).bind s.partitionOf).getD 64

/-- The tasks that a partition could serve: translated or pre-empted, of a VF bound to it and not stopped. -/
def State.readyIn (s : State) (part : Nat) : List Task :=
  s.tasks.filter fun k => (k.phase == .ready || k.phase == .preempted)
    && (s.vf k.vf).bound && (s.vf k.vf).parts.getLsbD part && !s.vfStopped k.vf

/-- The tier that a dispatch decision in a partition serves: floors first where they need the rest of the window, else strict order. -/
def State.tierServed (s : State) (part : Nat) : Option Nat :=
  let ready := fun (t : Nat) => (s.readyIn part).any fun k => k.tier == t
  let clusters := ((List.range 64).filter fun g => s.partitionOf g == some part).length
  let owed := fun (t : Nat) => if ready t then 1700000 * clusters / 64 - SMap.get 0 (8 * part + t) s.served else 0
  let left := clusters * (s.window + 1700000 - s.time.gcy)
  if left ≤ (List.range 8).foldl (fun n t => n + owed t) 0 then (List.range 8).find? fun t => 0 < owed t
  else (List.range 8).find? ready

/-- The VF that a tier of a partition serves: the next in round-robin order that has a ready task. -/
def State.vfServed (s : State) (part tier : Nat) : Option Nat :=
  let last := SMap.get 0 (8 * part + tier) s.lastVf
  ((List.range 128).map fun i => (last + i) % 128).find? fun v => (s.readyIn part).any fun k => k.tier == tier && k.vf == v

/-- Whether a decision for a task in a partition is the dispatcher's: taken while it is not paused, for the tier and the VF that
R119 serves. -/
def State.mayServe (s : State) (k : Task) (part : Nat) : Bool :=
  !s.cur.paused && (s.vf k.vf).bound && !s.vfStopped k.vf
    && s.tierServed part == some k.tier && s.vfServed part k.tier == some k.vf

/-- Noting the VF served. -/
def State.noteServed (part tier v : Nat) (s : State) : State :=
  { s with lastVf := SMap.put 0 (8 * part + tier) (v + 1) s.lastVf }

/-! ## Loading cores (R79, R116, R121) -/

/-- The seal ID for the slot of a task's image on a core: the task's, where the measurement of its image as it stands in IMEM and the
overpaints on the matrix operand path are those of the seal policy (R79). -/
def State.sealFor (s : State) (k : Task) (core base : Nat) (imem : Memory) : Option Nat :=
  if k.sealId = 0 then none
  else
    match (s.world k.world).bind fun w => w.seals.find? fun x => x.1 == k.sealId with
    | none => none
    | some (_, policy, _) =>
      let m := fieldAt policy 3 1
      let meas := sha384 (imem.readBytes base k.imageLen)
      let allowed := ((policy.drop (8 + 48 * m)).take (fieldAt policy 4 1)).map (·.toNat)
      if (List.range m).any (fun j => (policy.drop (8 + 48 * j)).take 48 == meas)
          && (s.overpaints.filter fun o => o.core == core && o.role != 1 && o.unit.toNat / 256 == 8).all
            fun o => allowed.contains o.ident then
        some k.sealId
      else none

/-- Entry i of a format table (R337). -/
def fmtEntryAt (bs : List Byte) (i : Nat) : FmtEntry :=
  let e := fun (o n : Nat) => fieldAt bs (16 * i + o) n
  ⟨BitVec.ofNat 4 (e 0 1), BitVec.ofNat 4 (e 0 1 / 16), BitVec.ofNat 4 (e 1 1), BitVec.ofNat 2 (e 1 1 / 16), BitVec.ofNat 4 (e 2 1),
    BitVec.ofNat 19 (e 4 4), BitVec.ofNat 16 (e 8 2)⟩

/-- The registers of a strand at its first bundle (R116). -/
def Task.firstRegs (k : Task) : ArchRegs :=
  { ArchRegs.reset with
    s := (ArchRegs.reset.s.set 1 (BitVec.ofNat 64 k.arg0)).set 2 (BitVec.ofNat 64 k.arg1)
    rsb := k.rsb
    rsbalt := k.rsbalt
    fmt := Vector.ofFn fun i : Fin 16 => fmtEntryAt k.fmttab i }

/-- What a core holds of its task beside the registers: its number, its place in the task, its extents, tier, level, seal slot. -/
def State.dress (s : State) (k : Task) (j i core : Nat) (c : Core) : Core :=
  { c with
    id := core
    exts := k.exts
    sealSlots := fillSlot c.sealImage (s.sealFor k core c.imgBase c.imem) c.sealSlots
    task := k.id
    coh := 1024 * k.id + j
    tstrand := j * k.cohsize + i
    tcount := k.cohsize * k.cohorts
    cohsize := k.cohsize
    tier := k.tier
    level := (s.reg (s.regOf (clusterOf core))).levelOf k.tier
    collgrp := if k.type = 2 then some k.collgrp else none
    preempt := none
    pbound := k.pbound
    pbFrom := 0 }

/-- ARG0 and ARG1 in the image of a strand at its first bundle (R116, R162). -/
def Core.argCells (c : Core) : List (Nat × Byte) :=
  [1, 2].flatMap fun (k : Nat) => cellsAt (c.r.rsb + 8 * k) (leBytes 8 (c.r.s.getD k 0).toNat)

/-- A core at its first bundle (R115, R116, R162): one outside the class set of its task raises TIMING_CLASS there. -/
def State.freshCore (s : State) (k : Task) (j i core : Nat) : Core :=
  let pc := BitVec.ofNat 17 k.entry
  let c := Core.fresh core .running (if k.type = 3 then .service else .task) k.firstRegs pc
  s.dress k j i core { c with
    imem := Memory.writeBytes [] 0 k.image
    lcl := Memory.writeCells [] c.argCells
    faults := if k.classes.contains (s.tclass core).toNat then [] else [⟨.timingClass, none, 0, pc⟩] }

/-- A core of a resident partner at its first bundle: on a core that another member has left, with that member's scratchpad and tile file,
but for the partner's own image region, which is zero apart from ARG0 and ARG1; its image stands behind the other's, and the rest of IMEM
is zero (R116, R121, R162). -/
def State.residentCore (s : State) (k x : Task) (j i core : Nat) (old : Core) : Core :=
  let c := s.freshCore k j i core
  let pc := BitVec.ofNat 17 (x.imageLen + k.entry)
  let imem := (old.imem.window 0 x.imageLen 0).writeBytes x.imageLen k.image
  let q := c.r.q.zipIdx.map fun p =>
    let o := old.r.q.getD p.2 QReg.reset
    { p.1 with entry := o.entry, result := o.result }
  let r := { c.r with
    q := q, tiles := old.r.tiles, owner := old.r.owner, valid := old.r.valid, dirty := old.r.dirty, claimed := 0
    act := !old.r.act }
  { c with
    imem := imem
    lcl := ((old.lcl.writeCells old.imageCells).clear k.rsb 16384).writeCells c.argCells
    bad := old.bad.filter fun y => match y with
      | .imem off => decide (off < x.imageLen)
      | .scratchpad off => decide (off < k.rsb) || decide (k.rsb + 16384 ≤ off)
      | _ => true
    plates := old.plates
    copies := old.copies.map fun (x : PlateCopy) => { x with adopted := true }
    uncached := old.uncached
    wbuf := old.wbuf
    pc := pc
    lastPc := pc
    r := r
    snap := { Ckpt.initial r pc with plates := old.plates }
    sealImage := !old.r.act
    imgBase := x.imageLen
    sealSlots := fillSlot (!old.r.act) (s.sealFor k core x.imageLen imem)
      (fillSlot old.sealImage (s.sealFor x core old.imgBase imem) (none, none)) }

/-- What the other member of a pair has left on a core where its own cohort has ended: its image in IMEM alone (R121). -/
def State.leftBy (s : State) (x : Task) (core : Nat) : Core :=
  { Core.fresh core .ended .task x.firstRegs 0 with imem := ((s.coreOf core).map (·.imem)).getD [] }

/-- Cores put into the round of the clock, in the place of those with their numbers. -/
def State.addCores (cs : List Core) (s : State) : State :=
  let new := fun (c : Core) => ((cs.find? fun d => d.id == c.id).map fun d => { d with twin := c.twin }).getD c
  let t := s.mapCores new
  let more := cs.filter fun d => !(s.cores.any fun c => c.id == d.id)
  { t with others := t.others ++ more, toGo := t.toGo + more.length }

/-! ## Start (R116, R117) -/

/-- The first multiple of 256 at or after a GCY. -/
def ceil256 (n : Nat) : Nat := (n + 255) / 256 * 256

/-- The GCY at which a launch number of a VF completed; the present one where its task is gone. -/
def State.completedAt (s : State) (v lnum : Nat) : Nat :=
  ((s.tasks.find? fun k => k.vf == v && k.lnum.toNat == lnum).bind fun k => k.fin.map (·.gcy)).getD s.time.gcy

/-- A slipped task takes its new anchor, and the tasks of its group that have not started move with it (R117). -/
def State.reanchor (k : Task) (s : State) : State :=
  let last := k.preds.foldl (fun n p => max n (s.completedAt k.vf p)) 0
  let a := ceil256 (last + 2048)
  let moves := fun (x : Task) => x.id != k.id && x.vf == k.vf && k.slipGroup != 0 && x.slipGroup == k.slipGroup
    && x.phase == .waiting
  { s with tasks := s.tasks.map fun x =>
      if x.id = k.id then { x with anchor := a, slipped := false, slips := x.slips + 1 }
      else if moves x then { x with anchor := x.anchor + a - k.anchor, slips := x.slips + 1 }
      else x }

/-- The cohorts of a task start on their cores: the partner of a resident task beside it, also where a cohort of that one has ended. -/
def State.startTask (k : Task) (s : State) : State :=
  let spots := k.places.zipIdx.flatMap fun p => (k.coresAt p.1).zipIdx.map fun c => (p.2, c.2, c.1)
  let x := k.partner.bind s.task
  let made := spots.map fun p =>
    match x with
    | some x => s.residentCore k x p.1 p.2.1 p.2.2 ((x.parkedCores.find? fun d => d.id == p.2.2).getD (s.leftBy x p.2.2))
    | none => s.freshCore k p.1 p.2.1 p.2.2
  let t := (s.addCores made).onTask k.id fun k =>
    { k with phase := .running, since := s.time.gcy, cohortsLeft := k.cohorts, asked := false }
  match x with
  | some x =>
    let imemOf := fun (d : Core) => ((made.find? fun c => c.id == d.id).map (·.imem)).getD d.imem
    t.onTask x.id fun x =>
      { x with partner := some k.id, parkedCores := x.parkedCores.map fun d => { d.ringless with imem := imemOf d } }
  | none => t

/-- `TASK_START` (R116, R117, R126). -/
def execTaskStart (task : Nat) (s : State) : Host.Outcome State Fault Refusal :=
  .next (match s.task task with
    | none => s
    | some k =>
      if k.phase ≠ .waiting then s
      else if k.slipped then
        (if (s.openPreds k).isEmpty && !s.cur.paused then s.reanchor k else s)
      else if s.time.gcy < k.anchor + k.startOfs then s
      else
        match s.failedPred k with
        | some p => s.endTask task 7 Cause.predUnfinished.code (BitVec.ofNat 64 p)
        | none =>
          if (s.openPreds k).isEmpty then s.startTask k
          else s.onTask task fun k => { k with slipped := true })

/-! ## Dispatch decisions (R119, R121, R122, R126) -/

/-- A launch whose virtual function has another world since: its declarations are checked under that world, and it is translated again
(R41, R63, R110). -/
def State.moveWorld (k : Task) (s : State) : State :=
  let w := (s.vf k.vf).world.toNat
  match tableFault k.exttab (k.field 11 1) (k.type == 3) k.sealId (s.compartments w) with
  | some f => s.endTask k.id 7 f.1.code (BitVec.ofNat 64 f.2)
  | none => s.onTask k.id fun k => { k with world := w, phase := .translating, exts := [], pages := [] }

/-- `DISPATCH_DECISION` (R41, R114, R116, R119, R126): the places and the anchor are given with the event. For the partner of a resident
task it makes the request under which that task leaves its cores, and then places the partner on them, where R114 still allows them; for the
switch of a pair it makes the request for the active member, where the pair may be dispatched to its places (R28). A task whose world has
been rekeyed since its translation, or whose virtual function has another, is translated again (R41, R66). -/
def execDispatchDecision (task : Nat) (places : List Place) (anchor : Nat) (s : State) :
    Host.Outcome State Fault Refusal :=
  .next (match s.task task with
    | none => s
    | some k =>
      let part := s.placePartition k places
      let anchorOk := anchor % 256 == 0 && decide (s.time.gcy ≤ anchor)
      if s.cur.paused || s.vfStopped k.vf || !(s.vf k.vf).bound then s
      else if k.phase = .switching then
        match k.partner.bind s.task with
        | none => s.endTask task 7 Cause.illegalOp.code 104
        | some p => match p.partner with
          | some a => if s.placesAllowed p p.places then s.askPreempt a else s
          | none => s
      else if k.phase ≠ .ready ∨ !s.openTo k then s
      else if (s.vf k.vf).world.toNat ≠ k.world then s.moveWorld k
      else if !s.builtNow k then
        s.onTask task fun k => { k with phase := .translating, exts := [], pages := [] }
      else if k.type = 1 then
        match k.partner.bind s.task with
        | none => s.endTask task 7 Cause.illegalOp.code 104
        | some x =>
          if x.phase ≠ .parked then s.askPreempt x.id
          else if anchorOk && x.partner.isNone && s.placesAllowed k x.places then
            s.onTask task fun k => { k with phase := .waiting, places := x.places, anchor := anchor }
          else s
      else if anchorOk && s.placesFit k places && s.mayServe k part then
        (s.onTask task fun k => { k with phase := .waiting, places := places, anchor := anchor }).noteServed part k.tier k.vf
      else s)

/-- `DISPATCH_WINDOW` (R119): windows begin where GCY is a multiple of 1,700,000. -/
def execDispatchWindow (s : State) : Host.Outcome State Fault Refusal :=
  .next (if s.window + 1700000 ≤ s.time.gcy then
      { s with window := s.time.gcy / 1700000 * 1700000, served := [] }
    else s)

/-- `QUANTUM_EXPIRE` (R119): a task that has run for 85,000 cycles gives way to a ready task of another VF in its tier that is bound to
a partition of its clusters. -/
def execQuantumExpire (task other : Nat) (s : State) : Host.Outcome State Fault Refusal :=
  .next (match s.task task, s.task other with
    | some k, some o =>
      let needs := k.cores.any fun c => match s.partitionOf (clusterOf c) with
        | some p => (s.readyIn p).any fun x => x.id == o.id
        | none => false
      if k.phase = .running ∧ k.since + 85000 ≤ s.time.gcy ∧ o.vf ≠ k.vf ∧ o.tier = k.tier ∧ needs then s.askPreempt task else s
    | _, _ => s)

/-- `PREEMPT_REQUEST` (R118, R126): a parked member of a pair leaves cores that are being taken out of service (R130). -/
def execPreemptRequest (task : Nat) (s : State) : Host.Outcome State Fault Refusal :=
  .next (match s.task task with
    | some k =>
      if k.phase = .parked then (if !s.cur.paused && !(k.cores.all (s.coreFits k)) then s.unpin task else s)
      else s.askPreempt task
    | none => s)

/-- `PBOUND_KILL` (R118). -/
def execPboundKill (task : Nat) (s : State) : Host.Outcome State Fault Refusal :=
  .next (if s.cores.any fun c => !c.isControl && c.task == task && c.run != .ended && c.preempt.isSome
      && decide ((c.pbound : Int) < c.ccy - c.pbFrom) then
      s.endTask task 8 0 0
    else s)

/-! ## Resume (R118, R122) -/

/-- The core of a strand of a task at some places. -/
def Task.coreOf (k : Task) (places : List Place) (strand : Nat) : Nat :=
  placeCore (places.getD (strand / k.cohsize) ⟨0, 0, 0, 0⟩) k.cohsize k.width (strand % k.cohsize)

/-- Operations in flight of a strand that goes on elsewhere: its transfers under way come from the senders' new cores. -/
def Task.moveLate (k : Task) (places : List Place) (late : List Late) : List Late :=
  late.map fun l => match l.eff with
    | .land r v t img sender =>
      (match k.parkedCores.find? fun p => p.id == sender with
        | some p => { l with eff := .land r v t img (k.coreOf places p.tstrand) }
        | none => l)
    | _ => l

/-- The call entries that a pre-emption at their checkpoint has put off (R118, R234). -/
def State.enterCallsOf (cores : List Core) (s : State) : State := (distinct (cores.map (·.coh))).foldl (fun t k => t.enterCalls k) s

/-- The seal slots of a core to which a member of a pair comes back: those that its parked partner left there. -/
def State.slotsBeside (s : State) (k : Task) (core : Nat) : Option Nat × Option Nat :=
  (((k.partner.bind s.task).bind fun x => x.parkedCores.find? fun d => d.id == core).map (·.sealSlots)).getD (none, none)

/-- The cores of a pre-empted task at its new places, at the level of its tier. -/
def State.resumeAt (k : Task) (places : List Place) (s : State) : State :=
  let cores := k.parkedCores.map fun d =>
    s.dress k (d.tstrand / k.cohsize) (d.tstrand % k.cohsize) (k.coreOf places d.tstrand)
      { d with
        sealSlots := s.slotsBeside k (k.coreOf places d.tstrand), late := k.moveLate places d.late
        snap := { d.snap with late := k.moveLate places d.snap.late } }
  ((s.addCores cores).onTask k.id fun k =>
    { k with phase := .running, places := places, parkedCores := [], since := s.time.gcy, asked := false }).enterCallsOf cores

/-- A parked member continues on its cores; the switch that asked for it completes with STATUS 6 (R122). -/
def State.unpark (k : Task) (s : State) : State :=
  let cores := k.parkedCores.map fun d => { d with preempt := none, pbFrom := 0 }
  let t := ((s.addCores cores).onTask k.id fun k =>
    { k with phase := .running, parkedCores := [], since := s.time.gcy, asked := false }).enterCallsOf cores
  (s.switchesTo k.id).foldl (fun t z => t.endTask z.id 6 0 0) t

/-- The cohorts of a task that its saved cores belong to, and their cores at some places. -/
def Task.apart (k : Task) : List Nat := distinct (k.parkedCores.map fun d => d.tstrand / k.cohsize)
def Task.apartCores (k : Task) (places : List Place) : List Nat :=
  k.apart.flatMap fun j => k.coresAt (places.getD j ⟨0, 0, 0, 0⟩)

/-- Whether the saved cohorts of a task that runs may stand at new places beside those that run on (R68, R114). -/
def State.apartFits (s : State) (k : Task) (places : List Place) : Bool :=
  let own := k.apartCores k.places
  (s.vf k.vf).bound && s.placesAllowed k places
    && (List.range k.cohorts).all (fun j => k.apart.contains j || places.getD j ⟨0, 0, 0, 0⟩ == k.places.getD j ⟨0, 0, 0, 0⟩)
    && (k.apartCores places).all fun c => own.contains c || !(s.heldCores.contains c)

/-- The saved cohorts of a task go on under the new generation while its others run: these keep their runs until they too are built
again (R68). -/
def State.resumeApart (k : Task) (places : List Place) (s : State) : State :=
  match s.translate k with
  | (.error f, t) => t.endTask k.id 7 f.1.code (BitVec.ofNat 64 f.2)
  | (.ok (xs, pages, gen), t) =>
    if t.awaitsMove k.world xs || t.inClosedStack xs then s
    else
      let more := s.cores.any fun c => c.task == k.id && !c.isControl && c.preempt.isSome
      let k' := { k with
        exts := xs, gen := gen, pages := (if more then k.pages ++ pages else pages)
        built := (if more then k.built else k.built + 1) }
      ((t.onTask k.id fun _ => k').resumeAt k' places).onTask k.id fun k => { k with split := more, asked := more, since := k.since }

/-- `TASK_RESUME` (R41, R66, R68, R118, R122): a pre-empted task is translated afresh under the world of its virtual function and the current
generation, and placed, which may refuse it; a parked member of a resident pair goes on where it is, by a switch or because its partner is gone. -/
def execTaskResume (task : Nat) (places : List Place) (s : State) : Host.Outcome State Fault Refusal :=
  .next (match s.task task with
    | none => s
    | some k =>
      if s.cur.paused || s.vfStopped k.vf then s
      else if k.phase = .parked then
        (if s.mayUnpark k then s.unpark k else s)
      else if k.phase = .running then
        (if k.split && !k.parkedCores.isEmpty && s.apartFits k places then s.resumeApart k places else s)
      else if k.phase ≠ .preempted then s
      else
        let k := { k with world := (s.vf k.vf).world.toNat }
        let part := s.placePartition k places
        let resident : Bool := match k.partner.bind s.task with
          | some x => x.phase == .parked && x.places == places
          | none => false
        match tableFault k.exttab (k.field 11 1) (k.type == 3) k.sealId (s.compartments k.world) with
        | some f => s.endTask task 7 f.1.code (BitVec.ofNat 64 f.2)
        | none =>
        if !(if resident then (s.vf k.vf).bound && s.placesAllowed k places else s.placesFit k places && s.mayServe k part) then s
        else
          match s.translate k with
          | (.error f, t) => t.endTask task 7 f.1.code (BitVec.ofNat 64 f.2)
          | (.ok (xs, pages, gen), t) =>
            if t.awaitsMove k.world xs || t.inClosedStack xs then s
            else
              let k := { k with exts := xs, pages := pages, gen := gen, built := k.built + 1 }
              ((t.onTask task fun _ => k).resumeAt k places).noteServed part k.tier k.vf)

/-! ## The end of a cohort (R126, R179) -/

/-- `COHORT_END` (R126, R179): the cohort of a core ends; with its last cohort the task completes with STATUS 6. While the hold buffer of a
takeover is full, the task keeps its cores. -/
def execCohortEnd (core : Nat) (s : State) : Host.Outcome State Fault Refusal :=
  .next (match s.coreOf core with
    | none => s
    | some c =>
      let members := s.cohort c.coh
      if c.isControl || !s.cohortOver c then s
      else
        let halt := members.foldl (fun n d => max n d.haltedAt) 0
        let keep := s.cur.holding && decide (256 ≤ s.cur.hold.length)
        let t := (((s.settle (members.map (·.id))).handOver c.task false members).mapCores fun d =>
          if d.coh = c.coh ∧ !d.isControl then (if keep then { d with run := .ended } else d.stop) else d).onTask c.task fun k =>
            { k with cohortsLeft := k.cohortsLeft - 1, haltGcy := max k.haltGcy halt }
        let t := { t with pendLevel := t.pendLevel.filter fun p => p.1 != c.coh }
        match t.task c.task with
        | some k =>
          if k.cohortsLeft = 0 then
            (t.endTask k.id 6 0 0).onTask k.id fun k =>
              { k with fin := k.fin.map fun e => { e with gcyEnd := BitVec.ofNat 64 k.haltGcy } }
          else if t.holdsCores k.id then t.onTask k.id fun k =>
            { k with asked := k.asked && (!k.parkedCores.isEmpty || t.cores.any fun d => d.task == k.id && d.preempt.isSome) }
          else t.onTask k.id (Task.landed (t.parks k.id))
        | none => t)

end Sys2Proof.Machine
end

