-- ==== Sys2Proof/Machine/Gates.lean ====
section
/-! DEFINITION. Slot 7: gates, key/value commits, collectives; the collective engine; the end of a link's retraining (R17, R19, R67,
R68, R73, R74, R371-R374). -/

namespace Sys2Proof.Machine

/-! ## Gates (R73, R74, R371) -/

/-- The home compartment of a task: the non-zero compartment of an extent that is neither SEALED nor a gate destination (R63). -/
def Core.home (c : Core) : Nat :=
  ((c.exts.find? fun x => x.comp != 0 && !x.sealed && !x.gateDst).map (·.comp)).getD 0

/-- The operands of a `gpass`: destination and source extents, their offsets, the length. -/
structure GatePass where
  dst : BitVec 4
  src : BitVec 4
  dstOff : Nat
  srcOff : Nat
  len : Nat
deriving DecidableEq, Repr

/-- One side of check 1 (R73). -/
def Core.gateRange (c : Core) (e : BitVec 4) (off len : Nat) (kind : AccessKind) : Option (Cause × Option Word) :=
  if e = lclCode then c.lclFault off len 1 else c.extFault e off len 1 kind fun _ => true

/-- Whether the source or the destination of a `gpass` is SEALED: the offset of the first byte that is (R75, R80). -/
def Core.gateSealed (c : Core) (g : GatePass) : Option Nat :=
  let whole := fun (e : BitVec 4) (off : Nat) => if ((c.extent e).map (·.sealed)).getD false then some off else none
  ((if g.src = lclCode then c.sealedOff (offsets g.srcOff g.len) else none).or (whole g.src g.srcOff)).or (whole g.dst g.dstOff)

/-- The descriptor of the gate that the destination is declared for, under its checks (R72, R73, check 3). -/
def State.gateOf (s : State) (g : GatePass) : Option (List Byte) :=
  let c := s.core
  match c.extent g.dst with
  | some x =>
    match s.world x.world with
    | some w =>
      let d := policyGate w.policy x.gate
      let src := if g.src = lclCode then c.home else ((c.extent g.src).map (·.comp)).getD 0
      if x.gateDst && decide (x.gate < policyGates w.policy) && src == fieldAt d 0 1 && x.comp == fieldAt d 1 1 then some d else none
    | none => none
  | none => none

/-- The plates that a scratchpad source touches. -/
def GatePass.plates (g : GatePass) : List Nat := distinct ((offsets g.srcOff g.len).map plateOf)

/-- Check 4: the length, and the layout of a scratchpad source (R73). -/
def Core.gateFits (c : Core) (g : GatePass) (d : List Byte) : Bool :=
  g.len != 0 && g.len % gateUnit d == 0 && decide (g.len ≤ fieldAt d 8 8)
    && (g.src != lclCode || g.plates.all fun p => (c.plate p).layout.toNat == fieldAt d 3 1)

/-- The checks of R73 and R371 in their order: the first that fails, or the core with the plates of the source checked, and the layout. -/
def State.gateCheck (s : State) (g : GatePass) : Except (Cause × Option Word) (Core × Nat) :=
  let c := s.core
  let tval := fun (o : Nat) => some (BitVec.ofNat 64 o)
  match c.gateRange g.src g.srcOff g.len .load, c.gateRange g.dst g.dstOff g.len .store with
  | some f, _ => .error f
  | none, some f => .error f
  | none, none =>
    if g.srcOff % 128 ≠ 0 then .error (.misaligned, tval g.srcOff)
    else if g.dstOff % 128 ≠ 0 then .error (.misaligned, tval g.dstOff)
    else
      match c.gateSealed g, s.gateOf g with
      | some o, _ => .error (.sealedCopy, tval o)
      | none, none => .error (.gateDenied, none)
      | none, some d =>
        if !c.gateFits g d then .error (.gateDenied, none)
        else if g.src ≠ lclCode ∧ (c.extent g.src).map (·.gen) ≠ (c.extent g.dst).map (·.gen) then .error (.keygenStale, none)
        else if g.src = lclCode then
          match c.readPlates (some (fieldAt d 3 1)) (physRange (fieldAt d 3 1) g.srcOff g.len) with
          | .error f => .error f
          | .ok c => .ok (c, fieldAt d 3 1)
        else .ok (c, 0)

/-- A `gpass` from `lcl`: its rows go into the outbound buffer, one a core cycle. -/
def State.gatePassLcl (x : Extent) (g : GatePass) (layout : Nat) (s : State) : State :=
  let id := s.nextFill
  let rows := distinct ((offsets g.srcOff g.len).map rowOf)
  if 65536 < s.outbound s.core + g.len then s.upd fun c => c.raise 7 .gateBufferFull none
  else
    let t := s.gate 7 (x.classOf 0x0C) g.len rows.length (.write x.backing (x.key false) [])
    if t.nextFill = s.nextFill then t
    else t.upd fun c => rows.zipIdx.foldl (fun c r =>
      let offs := (List.range g.len).filter fun i => rowOf (g.srcOff + i) == r.1
      c.at' 7 (c.ccy + 1 + r.2) (.outRow id (offs.map fun i => physOf layout (g.srcOff + i))
        (offs.map fun i => x.address (g.dstOff + i)))) c

/-- `gpass` (R73, R74, R371): on a control core, where no extent is a gate destination, GATE_DENIED. -/
def execGpass (d e : BitVec 4) (o p n : BitVec 6) (s : State) : Host.Outcome State Fault Refusal :=
  .next (s.run (.gpass d e o p n) fun s =>
    let c := s.core
    let g : GatePass := ⟨d, e, (c.sreg o).toNat, (c.sreg p).toNat, (c.sreg n).toNat⟩
    match if c.isControl then .error (.gateDenied, none) else s.gateCheck g with
    | .error f => s.upd fun c => c.raiseF 7 f
    | .ok (k, layout) =>
      let s := { s with core := k }
      match k.extent d, k.extent e with
      | some x, some y =>
        s.gate 7 (x.classOf 0x0C) 0 0 (.gather y.backing (y.key false) (y.lines g.srcOff g.len) []
          (.bytes x.backing (x.key false) (x.addresses g.dstOff g.len)))
      | some x, none => s.gatePassLcl x g layout
      | none, _ => s)

/-! ## Key/value commits (R372) -/

/-- A read of a descriptor in `lcl` through port C at issue: its checks, then `f` with its bytes. -/
def State.descriptor7 (off len : Nat) (f : List Byte → State → State) (s : State) : State :=
  match s.core.lclRead off len len none .sealedLoad with
  | .error x => s.upd fun c => c.raiseF 7 x
  | .ok c => f (c.lcl.readBytes off len) { s with core := c }

/-- The check of a range of an extent that must be L2-backed, and readable and writable (R372, R373). -/
def Core.l2Range (c : Core) (e : BitVec 4) (accepts : Extent → Bool) (off len : Nat) : Option (Cause × Option Word) :=
  if e = lclCode then some (if c.lclSize < off + len then .extentBound else .extentPerm, some (BitVec.ofNat 64 off))
  else c.extFault e off len 1 .both fun x => x.backing == .l2 && !x.device && !x.gateDst && accepts x

/-- Whether a path descriptor is in range. -/
def pathOk (bs : List Byte) (n : Nat) : Bool :=
  let size := fieldAt bs 0 4
  size % 128 == 0 && decide (128 ≤ size) && decide (size ≤ 65536) && zeroBytes bs 4 4 && fieldAt bs 8 8 % 128 == 0
    && fieldAt bs 16 8 % 128 == 0 && zeroBytes bs 24 8 && (List.range n).all fun i => decide (fieldAt bs (32 + i) 1 ≤ 63)

/-- `kvcommit` (R75, R81, R372): a SEALED extent raises EXTENT_PERM, before any cause of R80. -/
def execKvcommit (e : BitVec 4) (p n : BitVec 6) (s : State) : Host.Outcome State Fault Refusal :=
  let i := Instr.kvcommit e p n
  .next (s.run i fun s =>
    let len := (s.core.sreg n).toNat
    if len = 0 then s
    else if 64 < len then s.upd fun c => c.illegal i
    else
      s.descriptor7 (s.core.sreg p).toNat 128 fun bs s =>
        if !pathOk bs len then s.upd fun c => c.illegal i
        else
          let c := s.core
          let size := fieldAt bs 0 4
          let src := (List.range len).map fun k => fieldAt bs 8 8 + fieldAt bs (32 + k) 1 * size
          let dst := (List.range len).map fun k => fieldAt bs 16 8 + k * size
          match ((src.zip dst).flatMap fun q => [q.1, q.2]).findSome? fun o => c.l2Range e (fun x => !x.sealed) o size with
          | some f => s.upd fun c => c.raiseF 7 f
          | none =>
            match c.extent e with
            | some x => s.gate 7 0x0C 0 0 (.gather .l2 (x.key false) (src.flatMap fun o => x.lines o size) []
                (.bytes .l2 (x.key false) (dst.flatMap fun o => x.addresses o size)))
            | none => s)

/-! ## Collectives (R67, R68, R373, R374) -/

/-- The bytes of an element of a collective type (R266). -/
def collSize (t : BitVec 2) : Nat := if t = 0 then 2 else 4

/-- `coll` (R17, R68, R80, R373): the strand's n-th one takes part in collective n of its group, and has that one's status at once where it
has ended. -/
def execColl (e : BitVec 4) (p : BitVec 6) (o : BitVec 3) (t : BitVec 2) (s : State) : Host.Outcome State Fault Refusal :=
  let i := Instr.coll e p o t
  .next (s.run i fun s =>
    match s.core.collgrp with
    | none => s.upd fun c => c.illegal i
    | some group =>
      s.descriptor7 (s.core.sreg p).toNat 32 fun bs s =>
        let c := s.core
        let src := fieldAt bs 0 8
        let dst := fieldAt bs 8 8
        let count := fieldAt bs 16 4
        let len := count * collSize t
        let refuse := fun (cause : Cause) (v : Option Word) => s.upd fun c => c.raise 7 cause v
        if src % 128 ≠ 0 ∨ dst % 128 ≠ 0 ∨ count = 0 ∨ 16777216 < count ∨ !zeroBytes bs 20 12 then s.upd fun c => c.illegal i
        else
          match [src, dst].findSome? fun x => c.l2Range e (fun _ => true) x len, c.extent e with
          | some f, _ => s.upd fun c => c.raiseF 7 f
          | none, none => s
          | none, some x =>
            if x.sealed then refuse .sealedCopy (some (BitVec.ofNat 64 src))
            else if (s.world x.world).map (·.gen) ≠ some x.gen then refuse .keygenStale none
            else if 4 ≤ c.colls.length then refuse .gateBufferFull none
            else
              let n := c.collNum + 1
              let u := s.gate 7 0x04 0 0 (.gather .l2 (x.key false) (x.lines src len) []
                (.coll group ⟨n, o, t, x.lines dst len, count, x.gen, x.key false⟩))
              if u.nextFill = s.nextFill then u
              else u.upd fun c => { c with colls := c.colls ++ [⟨n, s.collEnd group n⟩], collNum := n })

/-- The collectives that requests already made will collect. -/
def Core.collecting (c : Core) : Nat :=
  (c.holds.filter fun h => match h.fin with
    | .cwaitWrite _ => true
    | _ => false).length

/-- `cwait` (R374): with no collective outstanding, sd receives 0xFF. -/
def execCwait (d : BitVec 6) (s : State) : Host.Outcome State Fault Refusal :=
  .next (s.runCore (.cwait d) fun c =>
    if c.isControl then c.after 7 1 (.sreg d 0xFF)
    else if c.colls.length ≤ c.collecting then c.after 7 8 (.sreg d 0xFF)
    else c.requestHold (.collective c.collecting) (.cwaitWrite d))

/-! ## The collective engine (R19, R373) -/

/-- Taking the elements of a list one by one, as `f` chooses among those that are left. -/
def takeBy (f : Nat → Nat) : Nat → List α → List α
  | 0, _ => []
  | k + 1, l =>
    let i := f k % l.length
    match l[i]? with
    | some x => x :: takeBy f k (l.eraseIdx i)
    | none => []

/-- Combining neighbours of a list until one is left, as `f` chooses. -/
def mergeBy (f : Nat → Nat) (op : α → α → α) : Nat → List α → Option α
  | 0, l => l.head?
  | k + 1, l =>
    if l.length ≤ 1 then l.head?
    else
      let i := f k % (l.length - 1)
      match l[i]?, l[i + 1]? with
      | some x, some y => mergeBy f op k (l.take i ++ op x y :: l.drop (i + 2))
      | _, _ => l.head?

/-- The fixed order of a group over n contributions. -/
def inOrder (group n : Nat) (op : α → α → α) (l : List α) : Option α :=
  mergeBy (fun k => Config.reduceChoice group (2 * k + 1)) op n (takeBy (fun k => Config.reduceChoice group (2 * k)) n l)

/-- One step of a reduction, on FP32 bits, or on 32-bit integers. -/
def reduceStep (op : BitVec 3) (t : BitVec 2) (x y : Nat) : Nat :=
  if t = 2 then
    let a : BitVec 32 := BitVec.ofNat 32 x
    let b : BitVec 32 := BitVec.ofNat 32 y
    (match op.toNat with
      | 0 => a + b
      | 1 => if a.toInt < b.toInt then b else a
      | _ => if b.toInt < a.toInt then b else a).toNat
  else
    match op.toNat with
    | 0 => (fp32.add (fp32.unpack x) (fp32.unpack y)).1
    | 1 => (fp32.minMax true x y).1
    | _ => (fp32.minMax false x y).1

/-- The elements of a contribution: BF16 widened to FP32. -/
def collElems (t : BitVec 2) (count : Nat) (bs : List Byte) : List Nat :=
  (List.range count).map fun i =>
    let x := fieldAt bs (collSize t * i) (collSize t)
    if t = 0 then x * 2 ^ 16 else x

/-- The bytes of a result: FP32 rounded once to BF16. -/
def collBytes (t : BitVec 2) (xs : List Nat) : List Byte :=
  xs.flatMap fun x => if t = 0 then leBytes 2 (bf16.convert (fp32.unpack x)).1 else leBytes 4 x

/-- The result over the contributions of this device, and of others in the order of the tree, all of one count: this device's own stand
where the tree has them (R19). -/
def reduceAll (group : Nat) (d : CollDesc) (own remote : List (List Byte)) : List Byte :=
  let place := Config.reducePlace group % (remote.length + 1)
  let datas := remote.take place ++ own ++ remote.drop place
  let step := fun (xs ys : List Nat) => (xs.zip ys).map fun p => reduceStep d.op d.type p.1 p.2
  collBytes d.type ((inOrder group datas.length step (datas.map (collElems d.type d.count))).getD [])

/-- The result at DST of a participant, as a released write at its cluster's sub-banks (R91, R373). -/
def State.deliverResult (bs : List Byte) (x : Contribution) (s : State) : State :=
  let bytes := x.desc.dst.zipIdx.flatMap fun p => cellsAt (128 * p.1) ((bs.drop (128 * p.2)).take 128)
  { s with
    released := s.released ++ [⟨s.nextFill, 516, x.cluster, x.strand, 0, 7, 0, 0, 0, .write .l2 x.desc.key bytes⟩]
    nextFill := s.nextFill + 1
    collWrites := SMap.modify [] x.group (· ++ [s.nextFill]) s.collWrites }

/-- The contributions to the collective of a group that ends next, in the order of the strands' numbers. -/
def State.contributions (s : State) (group : Nat) : List Contribution :=
  sortBy (·.strand) (s.colls.filter fun x => x.group == group && x.desc.num == s.collDone group + 1)

/-- Whether every strand of a group on this device has contributed to the collective that ends next. -/
def State.allContribute (s : State) (group : Nat) : Bool :=
  (s.members group).all fun c => (s.contributions group).any fun x => x.strand == c.strand

/-- How a collective ends by itself, once every participant here has contributed: with SHAPE_SPLIT, or KEYGEN_SPLIT (R68, R373). -/
def collSplit (xs : List Contribution) : Option (BitVec 8) :=
  match xs with
  | [] => none
  | x :: _ =>
    let d := x.desc
    if xs.any fun y => y.desc.op != d.op || y.desc.type != d.type || y.desc.count != d.count then some 0x72
    else if xs.any fun y => y.desc.gen != d.gen then some 0x70
    else none

/-- The result of a collective goes on its way to every participant here. -/
def State.reduceColl (group : Nat) (d : CollDesc) (remote : List (List Byte)) (xs : List Contribution) (s : State) : State :=
  let bytes := fun (y : Contribution) => (y.data.flatMap lineBytes).take (d.count * collSize d.type)
  let result := reduceAll group d (xs.map bytes) remote
  xs.foldl (fun s y => s.deliverResult result y) s

/-- `COLLECTIVE_STATUS_ARRIVE` (R19, R68, R373): the status that the next collective of a group has over all devices, and the contributions
of the others, in the order of the reduction tree, are given with the event. Status 0 comes once every participant here has contributed: the
results are written, and the collective ends with the last of them (`closeColls`). Contributions that differ in op, type or count, or in their
generation, end it with SHAPE_SPLIT or KEYGEN_SPLIT, once all are there; an abort ends it before. -/
def execCollectiveStatusArrive (group : Nat) (status : BitVec 8) (remote : List (List Byte)) (s : State) :
    Host.Outcome State Fault Refusal :=
  let xs := s.contributions group
  .next (if (SMap.get [] group s.collWrites).isEmpty then
      match collSplit xs, xs with
      | some split, _ =>
        if s.allContribute group then s.endColls group 1 split else if status ≠ 0 then s.endColls group 1 status else s
      | none, x :: _ =>
        if status ≠ 0 then s.endColls group 1 status
        else if !s.allContribute group || remote.any fun r => r.length != x.desc.count * collSize x.desc.type then s
        else s.reduceColl group x.desc remote xs
      | none, [] => if status = 0 then s else s.endColls group 1 status
    else s)

/-- `LINK_RETRAIN` (R13, R17): of a link that was declared down, or of a working one whose equalisation is retrained; transmission resumes from
the first unacknowledged flit, with the delay measured before (log 67, DESIGN CHOICE). A link that fails is removed: `crossing` lists the groups
whose route crosses it. -/
def execLinkRetrain (n : Nat) (ok : Bool) (crossing : List Nat) (s : State) : Host.Outcome State Fault Refusal :=
  let l := s.link n
  .next (if 16 ≤ n ∨ l.removed || !l.up && decide (l.asks < 8) then s
    else if ok then s.onLink n fun l => { l with up := true, asks := 0, resend := l.replay.head?.map (·.seq) }
    else
      let t := crossing.foldl (fun s g => s.abortGroup g 0x71) (s.onLink n fun l => { l with up := false, removed := true })
      { t with cutGroups := distinct (t.cutGroups ++ crossing) })

end Sys2Proof.Machine
end

