-- ==== Sys2Proof/Machine/Nest.lean ====
section
/-! DEFINITION. The nest: tables, addresses, steps, and what a step reads and computes (R209, R335-R345). -/

namespace Sys2Proof.Machine

/-! ## Tables and addresses (R335-R337) -/

/-- The value of a nest table entry that holds nothing. -/
def NestLevel.zero : NestLevel := ⟨0, 0, 0, 0, 0⟩

/-- The levels of a nest bank. -/
def ArchRegs.nestBank (r : ArchRegs) (b : Nat) : List NestLevel := (r.nests.getD b (Vector.replicate 6 NestLevel.zero)).toList

/-- A format-table entry. -/
def ArchRegs.fmtAt (r : ArchRegs) (n : Nat) : FmtEntry := r.fmt.getD n ⟨0, 0, 0, 0, 0, 0, 0⟩

/-- The levels in use: up to the highest whose count is not zero. -/
def usedLevels (ls : List NestLevel) : List NestLevel :=
  (ls.reverse.dropWhile fun l => l.count == 0).reverse

/-- The iterations of each level in use: K steps at level 0 (R340). -/
def iterations (ls : List NestLevel) : List Nat :=
  (usedLevels ls).zipIdx.map fun p => if p.2 = 0 then (p.1.count.toNat + 63) / 64 else p.1.count.toNat

/-- The stride of a table value. -/
def strideOf (x : Word) : Int := (x.extractLsb' 0 32).toInt

/-- The base offset of a level-0 table value. -/
def baseOf (x : Word) : Int := (x.extractLsb' 32 19).toNat

/-- An address of R335: `f` chooses the stride value of a level. -/
def nestAddress (ls : List NestLevel) (f : NestLevel → Word) (idx : List Nat) : Int :=
  (ls.zip idx).foldl (fun a p => a + p.2 * strideOf (f p.1)) (baseOf (f (ls.headD NestLevel.zero)))

/-- Advancing the indices of the levels, given as pairs of iterations and index: how many levels complete, and the next indices
unless the nest ends (R340). -/
def odometer : List (Nat × Nat) → Nat × Option (List Nat)
  | [] => (0, none)
  | (n, i) :: rest =>
    if i + 1 < n then (0, some ((i + 1) :: rest.map (·.2)))
    else
      match odometer rest with
      | (k, none) => (k + 1, none)
      | (k, some is) => (k + 1, some (0 :: is))

/-- Element size, block length and step length of an entry (R205, R337, R339). -/
def FmtEntry.blockLen (e : FmtEntry) : Nat := 16 * 2 ^ e.block.toNat
def FmtEntry.cycles (e : FmtEntry) (sp24 : Bool) : Nat :=
  (pairCycles e.afmt.toNat e.bfmt.toNat).getD 64 / (if sp24 then 2 else 1)

/-- Whether an entry with INT32 sums (R210). -/
def FmtEntry.isInt (e : FmtEntry) : Bool := e.afmt == e.bfmt && (e.afmt == 4 || e.afmt == 5) && e.scount == 0

/-- The reason of R345, 1 to 4, for which an entry fails, if it does. -/
def FmtEntry.badReason (e : FmtEntry) : Option Nat :=
  if 8 ≤ e.afmt.toNat ∨ 8 ≤ e.bfmt.toNat ∨ 8 ≤ e.ofmt.toNat then some 1
  else if (pairCycles e.afmt.toNat e.bfmt.toNat).isNone then some 2
  else if 4 < e.ofmt.toNat then some 3
  else if e.scount ≠ 0 ∧ e.sext ≠ 0xF then some 4
  else none

/-- Bytes of an A block, and of a B block with its header and indices (R338). -/
def FmtEntry.aBytes (e : FmtEntry) : Nat := 512 * fmtBits e.afmt.toNat
def FmtEntry.bRow (e : FmtEntry) : Nat := 8 * fmtBits e.bfmt.toNat
def FmtEntry.bBytes (e : FmtEntry) (coarse sp24 : Bool) : Nat :=
  (if coarse then 128 else 0) + (if sp24 then 32 else 64) * e.bRow + (if sp24 then 512 else 0)

/-- The blocks that a K step takes part in: those of its elements below K (R340). -/
def stepBlocks (e : FmtEntry) (k0 K : Nat) : List Nat :=
  if e.scount = 0 then [0]
  else
    let first := k0 / e.blockLen
    (List.range ((min (k0 + 63) (K - 1)) / e.blockLen - first + 1)).map (first + ·)

/-! ## The steps that a nest can run (R340, R351) -/

/-- One step of a nest as it is planned: indices, entry, start, and how many levels it completes. -/
structure PlannedStep where
  idx : List Nat
  entry : Nat
  start : Nat
  ends : Nat
deriving DecidableEq, Repr

/-- The steps from given indices on, at most `fuel` of them; a step whose entry fails R345, and every step after it, is left out
(R351). -/
def planSteps (r : ArchRegs) (ls : List NestLevel) (iters : List Nat) : Nat → List Nat → Nat → Nat → List PlannedStep
  | 0, _, _, _ => []
  | k + 1, idx, entry, t =>
    let e := r.fmtAt entry
    if e.badReason.isSome then []
    else
      let (n, next) := odometer (iters.zip idx)
      let adv := ((ls.take n).filter fun l => l.endv.getLsbD 3).length
      ⟨idx, entry, t, n⟩ ::
        (match next with
        | none => []
        | some is => planSteps r ls iters k is ((entry + adv) % 16) (t + e.cycles r.sp24))

/-- The number of steps of a nest. -/
def stepCount (iters : List Nat) : Nat := iters.foldl (· * ·) 1

/-- The fields of a level-0 `end` value (R336). -/
def endField (x : Word) (lo n : Nat) : Nat := (x.toNat / 2 ^ lo) % 2 ^ n

/-- The steps of the nest of a bank, with its first step at `t0`. -/
def ArchRegs.plan (r : ArchRegs) (bank t0 : Nat) : List PlannedStep :=
  let ls := r.nestBank bank
  let iters := iterations ls
  planSteps r ls iters (stepCount iters) (iters.map fun _ => 0) (endField (ls.headD NestLevel.zero).endv 16 4) t0

/-! ## What a step reads (R77, R80, R166, R341) -/

/-- The key of the active seal slot, and the seal it belongs to (R79). -/
def State.activeSeal (s : State) (c : Core) : Option (Nat × BitVec 512) :=
  let slot := if c.r.act then c.sealSlots.2 else c.sealSlots.1
  match slot, s.tasks.find? fun k => k.id == c.task with
  | some id, some k =>
    (s.worlds.find? fun w => w.1 == k.world).bind fun w =>
      (w.2.seals.find? fun x => x.1 == id).map fun x => (id, x.2.2)
  | _, _ => none

/-- The check of a B block or of a scale: a sealed plate needs the key of its seal (R79, R80). -/
def Core.sealFault (c : Core) (sk : Option (Nat × BitVec 512)) (offs : List Nat) : Option (Cause × Option Word) :=
  (offs.find? fun o => let t := c.plate (plateOf o); t.sealed && (sk.map (·.1)) != some t.sealId).map fun o =>
    (.sealedPolicy, some (BitVec.ofNat 64 o))

/-- The 128 bytes of a logical row, decrypted where its plate is sealed (R77). -/
def Core.clearRow (c : Core) (sk : Option (Nat × BitVec 512)) (layout off : Nat) : List Byte :=
  let bytes := c.lclAt (physRange layout off 128)
  let t := c.plate (plateOf off)
  match t.sealed, sk with
  | true, some (_, key) => xtsDecrypt (leBytes 64 key.toNat) (t.sealIndex + off % 4096 / 128) bytes
  | _, _ => bytes

/-- Logical bytes from a row-aligned offset on, decrypted. -/
def Core.clearBytes (c : Core) (sk : Option (Nat × BitVec 512)) (layout off n : Nat) : List Byte :=
  (List.range ((n + 127) / 128)).flatMap fun i => c.clearRow sk layout (off + 128 * i)

/-- Element k of packed elements of `bits` bits (R204). -/
def elemBits (bytes : Array Byte) (bits k : Nat) : Nat :=
  if bits = 4 then (bytes.getD (k / 2) 0).toNat / 16 ^ (k % 2) % 16
  else (List.range (bits / 8)).foldr (fun i acc => (bytes.getD (k * (bits / 8) + i) 0).toNat + 256 * acc) 0

/-- The two kept positions of a K group of four in a column, from the index nibbles; none where first is not below second
(R338). -/
def keptPair (nib : Nat) : Option (Nat × Nat) := if nib % 4 < nib / 4 then some (nib % 4, nib / 4) else none

/-- The kept elements of column j: local K index and B row, for k below the live part of the step; of the index nibbles those of K groups in
it are tested (R208). -/
def columnRows (bytes : Array Byte) (sp24 : Bool) (idxBase liveK j : Nat) : Option (List (Nat × Nat)) :=
  if !sp24 then some ((List.range (min 64 liveK)).map fun k => (k, k))
  else
    let groups := ((List.range 16).filter fun g => decide (4 * g < liveK)).map fun g =>
      (g, keptPair (elemBits (bytes.extract idxBase (idxBase + 512)) 4 (64 * g + j)))
    if groups.any fun p => p.2.isNone then none
    else some ((groups.flatMap fun p => match p.2 with
      | some (a, b) => [(4 * p.1 + a, 2 * p.1), (4 * p.1 + b, 2 * p.1 + 1)]
      | none => []).filter fun x => decide (x.1 < liveK))

/-! ## A step (R209, R339-R341) -/

/-- A fault of a nest step, at its start. -/
def Core.nestFault (c : Core) (n : Nest) (f : Cause × Option Word) : Core :=
  { c with faults := c.faults ++ [⟨f.1, f.2, 8, n.mgoPc⟩] }

/-- The first two checks of a step (R341): of its entry, and of an A source that is a bank. -/
def Core.entryFault (c : Core) (n : Nest) (K : Nat) : Option (Cause × Option Word) :=
  let e := c.r.fmtAt n.entry
  let bad := fun (r : Nat) => (Cause.mxFormat, some (BitVec.ofNat 64 (n.entry + 256 * r)))
  match (if n.fresh then e.badReason else none), c.r.src.bank with
  | some r, _ => some (bad r)
  | none, some b =>
    if b = n.acc ∨ 64 < K then some (.mxNest, some (BitVec.ofNat 64 (6 + 2 ^ (8 + b))))
    else if c.r.src.ofmt.toNat ≠ e.afmt.toNat then some (bad 5)
    else none
  | none, none => none

/-- The A operand of a step, row by row: each element with whether it counts as a subnormal input, and the events of a chained
bank (R350), of the elements that some live column uses (R208). -/
def Core.aOperand (c : Core) (n : Nest) (a K : Nat) (layout : Nat) (used : List Nat) : Array (FpVal × Bool) × Events :=
  let code := (c.r.fmtAt n.entry).afmt.toNat
  match c.r.src.bank with
  | some b =>
    let rows := c.eng.bank b
    let out := (List.range 4096).map fun i =>
      if i % 64 < K then downConvert (SMap.get 0 i rows) (c.eng.int32.getLsbD b) c.r.src.ofmt.toNat c.r.src.sat else (0, noEvent)
    let counted := (out.zipIdx.filter fun r => used.contains (r.2 % 64)).map (·.1)
    ((out.map fun r => matElem code r.1).toArray, counted.foldl (fun e r => e.plus r.2) noEvent)
  | none =>
    let bits := fmtBits code
    let bytes := (c.lclAt (physRange layout a (512 * bits))).toArray
    (((List.range 4096).map fun i => matElem code (elemBits bytes bits i)).toArray, noEvent)

/-- The results of the blocks of one element that end in this step, with their events, and the sum that carries on. -/
def elementBlocks (e : FmtEntry) (isInt : Bool) (k0 K : Nat) (scales : List (Nat × FpVal)) (carry : BlockSum)
    (row : Nat → FpVal) (col : List (Nat × FpVal)) : List (BitVec 32) × Events × Option BlockSum :=
  let step := fun (acc : List (BitVec 32) × Events × Option BlockSum) (p : Nat × BlockSum) =>
    let b := p.1
    let mine := col.filter fun x => e.scount == 0 || (k0 + x.1) / e.blockLen == b
    let t := mine.foldl (fun s x => s.add (row x.1) x.2) p.2
    if e.scount ≠ 0 ∧ e.blockLen = 128 ∧ k0 + 64 < K ∧ k0 + 64 < (b + 1) * 128 then (acc.1, acc.2.1, some t)
    else if isInt then (acc.1 ++ [BitVec.ofInt 32 (t.m * 2 ^ t.e.toNat)], acc.2.1, none)
    else
      let s := t.round
      match (scales.find? fun x => x.1 == b).map (·.2) with
      | some w => let r := loopScale s.1 w; (acc.1 ++ [r.1], (acc.2.1.plus s.2).plus r.2, none)
      | none => (acc.1 ++ [s.1], acc.2.1.plus s.2, none)
  ((stepBlocks e k0 K).zipIdx.map fun p => (p.1, if p.2 = 0 then carry else BlockSum.zero)).foldl step ([], noEvent, none)

/-- The read of A of a step (R80, R158, R163, R166, R341). -/
def Core.readA (c : Core) (n : Nest) (a K layout : Nat) : Except (Cause × Option Word) Core :=
  let len := (c.r.fmtAt n.entry).aBytes
  match c.r.src.bank with
  | some b => (match c.badAcc b fun i => decide (i % 64 < K) with
    | some f => .error f
    | none => .ok c)
  | none =>
    match c.sealedOff (offsets a len) with
    | some o => .error (.sealedLoad, some (BitVec.ofNat 64 o))
    | none =>
      let places := physRange layout a len
      match c.readPlates (some layout) places with
      | .error f => .error f
      | .ok d =>
        match d.heldM n.started places with
        | some k => .error (.portCollision, some (portTval .M k))
        | none => .ok (d.useM 8 n.started places)

/-- The column groups that a B block holds: those that its header names live, under COARSE (R338). -/
def liveGroups (coarse : Bool) (header : Byte) : Nat := if coarse then header.toNat % 16 else 15

/-- The column group that byte o of a B block belongs to, after its header of `head` bytes; none for the header (R338). -/
def FmtEntry.groupOf (e : FmtEntry) (sp24 : Bool) (head o : Nat) : Option Nat :=
  let values := (if sp24 then 32 else 64) * e.bRow
  if o < head then none
  else if o - head < values then some ((o - head) % e.bRow / (2 * fmtBits e.bfmt.toNat))
  else some ((o - head - values) % 32 / 8)

/-- The bytes of a B block that are read: those of dead column groups are not (R205, R341). -/
def FmtEntry.liveBytes (e : FmtEntry) (sp24 : Bool) (head live len : Nat) : List Nat :=
  (List.range len).filter fun o => match e.groupOf sp24 head o with
    | none => true
    | some g => live.testBit g

/-- The read of B of a step: the plates of the whole block are checked, and the words that are read (R79, R80, R163, R166, R341). -/
def Core.readB (c : Core) (sk : Option (Nat × BitVec 512)) (e : FmtEntry) (b layout : Nat) : Except (Cause × Option Word) Core :=
  let len := e.bBytes c.r.coarse c.r.sp24
  let head := if c.r.coarse then 128 else 0
  match c.sealFault sk (offsets b len) with
  | some f => .error f
  | none =>
    match c.checkPlates (some layout) (distinct ((offsets b len).map plateOf)) with
    | .error f => .error f
    | .ok d =>
      let live := liveGroups c.r.coarse ((c.clearRow sk layout b).headD 0)
      match d.badWord ((e.liveBytes c.r.sp24 head live len).map fun o => physOf layout (b + o)) with
      | some f => .error f
      | none => .ok d

/-- The reads and the checks of a step, in order (R341). -/
def Core.stepReads (c : Core) (n : Nest) (sk : Option (Nat × BitVec 512)) (l0 : NestLevel) (a b : Nat) (scales : List Nat) :
    Except (Cause × Option Word) Core :=
  let K := l0.count.toNat
  match c.entryFault n K with
  | some f => .error f
  | none =>
    match c.readA n a K (endField l0.endv 10 2) with
    | .error f => .error f
    | .ok d =>
      match d.readB sk (c.r.fmtAt n.entry) b (endField l0.endv 12 2) with
      | .error f => .error f
      | .ok d =>
        match d.sealFault sk scales with
        | some f => .error f
        | none => d.readPlates none scales

/-- The B buffer with the block of a step in the half that it fills: its values and indices from the start of the half, the bytes of dead
groups left as they are (R168, R205; log 75, DESIGN CHOICE). -/
def Core.fillHalf (c : Core) (bytes : Array Byte) (head : Nat) (read : List Nat) : Core :=
  let base := if c.eng.half then 16384 else 0
  let cells := (read.filter (head ≤ ·)).map fun o => (base + (o - head), bytes.getD o 0)
  Core.mendReg { c with eng := { c.eng with bbuf := c.eng.bbuf.writeCells cells, half := !c.eng.half } } fun w => match w with
    | .bbuf k => cells.any fun x => x.1 == 8 * k
    | _ => false

/-- A step of the open nest of a core starts: its reads and checks, the sums of its blocks, and the next step's indices
(R339-R341, R343). A twin array whose instances differ produces no step (R139; log 73, DEDUCED). -/
def State.nestStep (s : State) (c : Core) (n : Nest) : Core :=
  let ls := c.r.nestBank n.bank
  let l0 := ls.headD NestLevel.zero
  let K := l0.count.toNat
  let e := c.r.fmtAt n.entry
  let k0 := 64 * n.idx.headD 0
  let a := (nestAddress ls (·.astride) n.idx).toNat
  let b := (nestAddress ls (·.bstride) n.idx).toNat
  let sk := s.activeSeal c
  let bLen := e.bBytes c.r.coarse c.r.sp24
  let blocks := stepBlocks e k0 K
  let scaleOffs := if e.scount = 0 then [] else blocks.flatMap fun x => offsets (e.soff.toNat + 2 * x) 2
  if c.twin.any fun u => u.toNat / 256 == 8 then { c.nestFault n (.twinMismatch, none) with twin := none }
  else
  match c.stepReads n sk l0 a b scaleOffs with
  | .error f => c.nestFault n f
  | .ok d =>
    let bytes := (d.clearBytes sk (endField l0.endv 12 2) b bLen).toArray
    let head := if c.r.coarse then 128 else 0
    let live := liveGroups c.r.coarse (bytes.getD 0 0)
    let cols := (List.range 64).filter fun j => (live / 2 ^ (j / 16)) % 2 == 1
    let liveK := min 64 (K - k0)
    let rowsOf := cols.map fun j =>
      (j, columnRows bytes c.r.sp24 (head + 32 * e.bRow) liveK j)
    if rowsOf.any fun p => p.2.isNone then c.nestFault n (.mxNest, some 10)
    else
      let bcode := e.bfmt.toNat
      let values := bytes.extract head (head + 64 * e.bRow)
      let colVals := rowsOf.map fun p =>
        (p.1, (p.2.getD []).map fun q => (q.1, matElem bcode (elemBits values (fmtBits bcode) (64 * q.2 + p.1))))
      let scales := if e.scount = 0 then [] else blocks.map fun x =>
        let o := e.soff.toNat + 2 * x
        (x, matElem 1 (leNat (((d.clearRow sk 0 (o / 128 * 128)).drop (o % 128)).take 2)))
      let used := (List.range 64).filter fun k => colVals.any fun p => p.2.any fun q => q.1 == k
      let (av, aEv) := d.aOperand n a K (endField l0.endv 10 2) used
      let subA := ((List.range 4096).filter fun i => used.contains (i % 64) && (av.getD i (.num false 0 0, false)).2).length
      let subB := (colVals.flatMap fun p => p.2.filter fun q => q.2.2).length
      let ending := blocks.filter fun x => !(e.blockLen == 128 && decide (k0 + 64 < K) && decide (k0 + 64 < (x + 1) * 128))
      let subS := (scales.filter fun x => ending.contains x.1 && x.2.2).length
      let rs := (List.range 64).flatMap fun i => colVals.map fun p =>
        let key := 64 * i + p.1
        let carry := ((c.eng.carry.find? fun x => x.1 == key).map (·.2)).getD BlockSum.zero
        (key, elementBlocks e e.isInt k0 K (scales.map fun x => (x.1, x.2.1)) carry
          (fun k => (av.getD (64 * i + k) (.num false 0 0, false)).1) (p.2.map fun q => (q.1, q.2.1)))
      let S := e.cycles c.r.sp24
      let (done, next) := odometer ((iterations ls).zip n.idx)
      let sums : StepSums := ⟨rs.map fun r => (r.1, r.2.1), e.isInt, rs.foldl (fun x r => x.plus r.2.2.1) noEvent,
        (ls.take done).map fun l => l.endv.extractLsb' 0 4, (nestAddress ls (·.cstride) n.idx).toNat,
        endField l0.endv 14 2, next.isNone⟩
      let late := fun (due : Nat) (eff : Effect) => (⟨due, c.ccy, 8, n.mgoPc, eff⟩ : Late)
      let d := d.fillHalf bytes head (e.liveBytes c.r.sp24 head live bLen)
      { d with
        late := d.late ++ [late c.ccy (.events (aEv.plus ⟨0, subA + subB + subS, 0, 0, 0⟩)),
          late (c.ccy + S - 1) (.sums (s.tableEntry c.id 23).toNat)]
        eng := { d.eng with
          step := some sums
          carry := rs.filterMap fun r => r.2.2.2.map fun t => (r.1, t)
          bsealed := d.eng.bsealed || (offsets b bLen).any fun o => (d.plate (plateOf o)).sealed
          nest := some { n with idx := next.getD n.idx, next := c.ccy + S, fresh := false } } }

end Sys2Proof.Machine
end

