-- ==== Sys2Proof/Machine/Matrix.lean ====
section
/-! DEFINITION. Slot 6: the matrix engine's instructions (R222, R233, R344-R357). -/

namespace Sys2Proof.Machine

/-- csr.tval of MX_NEST: the reason, then level, entry or bank mask, then the `mnest` field code (R344). -/
def nestTval (reason sel field : Nat) : Option Word := some (BitVec.ofNat 64 (reason + 256 * sel + 4096 * field))

/-- Raising MX_NEST. -/
def Core.mxNest (c : Core) (reason sel field : Nat) : Core := c.raise 6 .mxNest (nestTval reason sel field)

/-- Whether a restored nest waits for `tret` (R357). -/
def Core.nestSuspended (c : Core) : Bool := c.eng.suspended && c.save.isNone && c.eng.nest.isSome

/-- The core at its first slot-6 instruction in a handler: the hold for the copy of the interrupted state, 64 core cycles (R233). -/
def Core.matrixUse (c : Core) : Core :=
  if c.inHandler && c.eng.suspended && c.save.isSome then
    { (c.requestHold (.clocks 64) .nothing) with eng := { c.eng with suspended := false } }
  else c

/-- A slot-6 instruction other than `mstat` (R233, R357). -/
def State.matrixOp (i : Instr) (f : State → Core → Core) (s : State) : State :=
  s.run i fun t => t.upd fun c => if c.nestSuspended then c.mxNest 11 0 0 else f t c.matrixUse

/-! ## Tables (R335-R337, R346, R347) -/

/-- A stride: signed, a multiple of 128, within the scratchpad. -/
def strideOk (x : BitVec 32) : Bool :=
  decide (x.toNat % 128 = 0) && decide (-524288 ≤ x.toInt) && decide (x.toInt ≤ 524160)

/-- Whether a value is in the range of R335 and R336 for a level and a field of the nest table. -/
def nestValueOk (level field : Nat) (x : Word) : Bool :=
  match field with
  | 0 => decide (x.toNat ≤ 65535)
  | 4 => if level = 0 then x &&& 0xFFFFFFFFFFF000F0 == 0 else x &&& 0xFFFFFFFFFFFFFFF0 == 0
  | _ => strideOk (x.extractLsb' 0 32) &&
      (if level = 0 then x &&& 0xFFF8007F00000000 == 0 else x &&& 0xFFFFFFFF00000000 == 0)

/-- `mnest` (R344, R346). -/
def execMnest (k : BitVec 1) (l f : BitVec 3) (a : BitVec 6) (s : State) : Host.Outcome State Fault Refusal :=
  .next (s.matrixOp (.mnest k l f a) fun _ c =>
    let x := c.sreg a
    if !nestValueOk l.toNat f.toNat x then c.mxNest 1 l.toNat f.toNat
    else if (c.eng.nest.map (·.bank)) = some k.toNat then c.mxNest 2 l.toNat f.toNat
    else c.after 6 1 (.nestValue k.toNat l.toNat f.toNat x))

/-- The entries that the end actions of some levels make active, in order: one for each FADV (R336). -/
def advEntries : List (BitVec 4) → Nat → List Nat
  | [], _ => []
  | e :: t, entry => if e.getLsbD 3 then (entry + 1) % 16 :: advEntries t ((entry + 1) % 16) else advEntries t entry

/-- The entries that the levels with RET among some retire under: a lower level's FADV comes before (R336). -/
def retEntries : List (BitVec 4) → Nat → List Nat
  | [], _ => []
  | e :: t, entry =>
    (if e.getLsbD 0 then [entry] else []) ++ retEntries t (if e.getLsbD 3 then (entry + 1) % 16 else entry)

/-- The end values of the levels that a planned step completes. -/
def PlannedStep.endValues (ls : List NestLevel) (p : PlannedStep) : List (BitVec 4) :=
  (ls.take p.ends).map fun l => l.endv.extractLsb' 0 4

/-- The entries that the open nest uses now or can still make active (R344, R351). -/
def Core.liveEntries (c : Core) : List Nat :=
  match c.eng.nest with
  | none => []
  | some n =>
    let ls := c.r.nestBank n.bank
    let iters := iterations ls
    let now := n.entry :: advEntries ((c.eng.step.map (·.ends)).getD []) n.entry
    let steps := if (c.eng.step.map (·.last)).getD false then []
      else planSteps c.r ls iters (stepCount iters) n.idx (now.getLastD n.entry) n.next
    now ++ steps.flatMap fun p => p.entry :: advEntries (p.endValues ls) p.entry

/-- Whether a value is in the range of R337 for a field of a format-table entry. -/
def fmtValueOk (field x : Nat) : Bool :=
  match field with
  | 3 => decide (x ≤ 3)
  | 5 => decide (x ≤ 524286) && decide (x % 2 = 0)
  | 6 => decide (x ≤ 65535)
  | _ => decide (x ≤ 15)

/-- Writing a field of a format-table entry. -/
def FmtEntry.setField (e : FmtEntry) (field x : Nat) : FmtEntry :=
  match field with
  | 0 => { e with afmt := BitVec.ofNat 4 x }
  | 1 => { e with bfmt := BitVec.ofNat 4 x }
  | 2 => { e with ofmt := BitVec.ofNat 4 x }
  | 3 => { e with block := BitVec.ofNat 2 x }
  | 4 => { e with sext := BitVec.ofNat 4 x }
  | 5 => { e with soff := BitVec.ofNat 19 x }
  | _ => { e with scount := BitVec.ofNat 16 x }

/-- `mfmt` (R345, R347). -/
def execMfmt (e f : BitVec 4) (a : BitVec 6) (s : State) : Host.Outcome State Fault Refusal :=
  .next (s.matrixOp (.mfmt e f a) fun _ c =>
    let x := (c.sreg a).toNat
    if !fmtValueOk f.toNat x then c.raise 6 .mxFormat (some (BitVec.ofNat 64 (e.toNat + 6 * 256)))
    else if c.liveEntries.contains e.toNat then c.mxNest 2 e.toNat 0
    else c.after 6 1 (.fmtEntry e.toNat ((c.r.fmtAt e.toNat).setField f.toNat x)))

/-! ## Descriptors (R348-R350) -/

/-- A read of a descriptor through port M at issue: its checks, then `f` with its bytes. -/
def Core.readDescriptor (c : Core) (off len : Nat) (f : List Byte → Core → Core) : Core :=
  match c.lclRead off len len none .sealedLoad with
  | .error x => c.raiseF 6 x
  | .ok d =>
    match d.heldM d.ccy (offsets off len) with
    | some b => c.raise 6 .portCollision (some (portTval .M b))
    | none => f (d.lcl.readBytes off len) (d.useM 6 d.ccy (offsets off len))

/-- The first byte of a sparsity descriptor that breaks R348. -/
def badSparsity (bs : List Byte) : Option Nat :=
  (List.range 8).find? fun i => (bs.getD i 0 &&& (if i = 0 then 0xFC else 0xFF)) != 0

/-- `mspar` (R348). -/
def execMspar (a : BitVec 6) (s : State) : Host.Outcome State Fault Refusal :=
  .next (s.matrixOp (.mspar a) fun _ c => c.readDescriptor (c.sreg a).toNat 8 fun bs d =>
    match badSparsity bs with
    | some i => d.mxNest 7 (i % 16) 0
    | none => d.after 6 1 (.sparsity ((bs.getD 0 0).getLsbD 0) ((bs.getD 0 0).getLsbD 1)))

/-- `mspar off` (R348). -/
def execMsparOff (s : State) : Host.Outcome State Fault Refusal :=
  .next (s.matrixOp .msparOff fun _ c => c.after 6 1 (.sparsity false false))

/-- The first byte of a tree descriptor that breaks R349. -/
def badTree (bs : List Byte) : Option Nat :=
  let n := (bs.getD 0 0).toNat
  (List.range 128).find? fun i =>
    let x := (bs.getD i 0).toNat
    if i = 0 then x < 1 || 64 < x
    else if i ≤ 2 then 64 < x + n
    else if i < 64 then x != 0
    else i < 64 + n && x != 0xFF && i - 64 ≤ x

/-- `mtree` (R349). -/
def execMtree (a : BitVec 6) (s : State) : Host.Outcome State Fault Refusal :=
  .next (s.matrixOp (.mtree a) fun _ c => c.readDescriptor (c.sreg a).toNat 128 fun bs d =>
    match badTree bs with
    | some i => d.mxNest 7 (i % 16) 0
    | none => d.after 6 1 (.treeDesc (some bs)))

/-- `mtree off` (R349). -/
def execMtreeOff (s : State) : Host.Outcome State Fault Refusal :=
  .next (s.matrixOp .mtreeOff fun _ c => c.after 6 1 (.treeDesc none))

/-- `msel` (R350). -/
def execMsel (c : BitVec 2) (m : BitVec 1) (f : BitVec 3) (s : State) : Host.Outcome State Fault Refusal :=
  .next (s.matrixOp (.msel c m f) fun _ d => d.after 6 1 (.source ⟨some c.toNat, m == 1, f⟩))

/-- `msel off` (R350). -/
def execMselOff (s : State) : Host.Outcome State Fault Refusal :=
  .next (s.matrixOp .mselOff fun _ c => c.after 6 1 (.source ⟨none, false, 0⟩))

/-! ## Starting a nest (R222, R351) -/

/-- The bundle holds a `ckpt` in slot 0 (R222). -/
def Core.ckptInBundle (c : Core) : Bool :=
  match decodeSlot 0 (c.bundle.headD 0) with
  | some (.ckpt _) => true
  | some (.ckptP _) => true
  | _ => false

/-- The level whose count makes MX_NEST reason 4, if one does. -/
def badCount (ls : List NestLevel) : Option Nat :=
  if (usedLevels ls).isEmpty then some 0 else (usedLevels ls).findIdx? fun l => l.count == 0

/-- The core cycles at which the retirements of planned steps start, in order (R336, R342). -/
def retireTimes (r : ArchRegs) (ls : List NestLevel) (steps : List PlannedStep) : List Nat :=
  steps.flatMap fun p =>
    ((ls.take p.ends).filter fun l => l.endv.getLsbD 0).map fun _ => p.start + (r.fmtAt p.entry).cycles r.sp24 - 1

/-- Whether two times in a row lie less than 64 apart. -/
def tooClose : List Nat → Bool
  | a :: b :: t => decide (b < a + 64) || tooClose (b :: t)
  | _ => false

/-- The ranges (first offset, length) that planned steps touch: A, B, scales, and C tiles, each of the size of the format that its level
retires under (R336, R351). -/
def reach (r : ArchRegs) (ls : List NestLevel) (steps : List PlannedStep) : List (Int × Nat) :=
  let K := (ls.headD NestLevel.zero).count.toNat
  steps.flatMap fun p =>
    let e := r.fmtAt p.entry
    let a := if r.src.bank.isNone then [(nestAddress ls (·.astride) p.idx, e.aBytes)] else []
    let b := [(nestAddress ls (·.bstride) p.idx, e.bBytes r.coarse r.sp24)]
    let scales := if e.scount = 0 then [] else
      (stepBlocks e (64 * p.idx.headD 0) K).map fun x => (((e.soff.toNat + 2 * x : Nat) : Int), 2)
    let c := (retEntries (p.endValues ls) p.entry).map fun k =>
      (nestAddress ls (·.cstride) p.idx, 4096 * outBytes ((r.fmtAt k).ofmt.extractLsb' 0 3).toNat)
    a ++ b ++ scales ++ c

/-- The lowest of some offsets. -/
def lowest : List Int → Option Int
  | [] => none
  | x :: t => match lowest t with
    | none => some x
    | some y => some (min x y)

/-- The range check of `mgo`: EXTENT_BOUND, then EXTENT_PERM (R351). -/
def Core.reachFault (c : Core) (rs : List (Int × Nat)) : Option (Cause × Option Word) :=
  match lowest ((rs.filter fun x => decide (x.1 < 0) || decide (524288 < x.1 + (x.2 : Int))).map (·.1)) with
  | some x => some (.extentBound, some (BitVec.ofInt 64 x))
  | none => (lowest ((rs.filter fun x => c.touchesImage x.1.toNat x.2).map (·.1))).map fun x =>
      (.extentPerm, some (BitVec.ofInt 64 x))

/-- The checks of `mgo` at issue, in order (R351): the first that fails. In a handler, where no `ckpt` may stand, none is asked for (R222,
R233; log 77, DEDUCED). -/
def Core.mgoFault (c : Core) (bank lat : Nat) : Option (Cause × Option Word) :=
  let ls := c.r.nestBank bank
  if !c.ckptInBundle && !c.inHandler then some (.mxCkpt, none)
  else if c.eng.nest.isSome then some (.mxNest, nestTval 3 0 0)
  else
    match badCount ls with
    | some l => some (.mxNest, nestTval 4 l 0)
    | none =>
      let steps := c.r.plan bank (c.ccy + lat)
      if tooClose ((c.eng.lastRet.toList) ++ retireTimes c.r ls steps) then some (.mxNest, nestTval 5 0 0)
      else
        match c.reachFault (reach c.r ls steps) with
        | some f => some f
        | none =>
          let K := (ls.headD NestLevel.zero).count.toNat
          (steps.find? fun p =>
            let e := c.r.fmtAt p.entry
            e.scount != 0 && decide (e.scount.toNat < (K + e.blockLen - 1) / e.blockLen)).map fun p =>
              (.mxScaleShort, some (BitVec.ofNat 64 p.entry))

/-- `mgo` (R339, R351): with entry 24 at 0, the first step starts at once. -/
def execMgo (b : BitVec 1) (s : State) : Host.Outcome State Fault Refusal :=
  .next (s.matrixOp (.mgo b) fun s c =>
    match c.mgoFault b.toNat (s.lat 24) with
    | some f => c.raiseF 6 f
    | none =>
      let endv := ((c.r.nestBank b.toNat).headD NestLevel.zero).endv
      let n : Nest := ⟨b.toNat, [0, 0, 0, 0, 0, 0], c.ccy + s.lat 24, endField endv 16 4, endField endv 8 2, 0, c.pc, c.ccy, true⟩
      let d := { c with eng := { c.eng with nest := some n, carry := [] } }
      if n.next = c.ccy then s.nestStep d n else d)

/-! ## Accumulators (R342, R352-R354) -/

/-- `macc` (R352). -/
def execMacc (c : BitVec 2) (r a : BitVec 6) (f : BitVec 3) (m : BitVec 1) (s : State) : Host.Outcome State Fault Refusal :=
  .next (s.matrixOp (.macc c r a f m) fun s d =>
    let off := (d.sreg a).toNat
    let n := 64 * outBytes f.toNat
    match d.lclWriteFault off n (min n 128) with
    | some x => d.raiseF 6 x
    | none =>
      match d.reserve ((offsets off n).map rowOf) with
      | .error row => d.undoFull 6 row
      | .ok d =>
        match d.badAcc c.toNat fun i => i / 64 == r.toNat with
        | some x => d.raiseF 6 x
        | none =>
        let out := convertRow (d.eng.bank c.toNat) 0 (d.eng.int32.getLsbD c.toNat) f.toNat (m == 1) d.r.tree r.toNat
        (d.after 6 (s.lat 23) (.store .M (cellsAt off out.1))).after 6 (s.lat 23) (.events out.2))

/-- The banks that `mzero` and `mret` may not name: the bank in use of the open nest, and those with unretired sums (R344). -/
def Core.heldBanks (c : Core) : BitVec 4 :=
  match c.eng.nest with
  | none => 0
  | some n => n.unretired ||| (1 <<< n.acc)

/-- `mzero` (R353). -/
def execMzero (m : BitVec 4) (s : State) : Host.Outcome State Fault Refusal :=
  .next (s.matrixOp (.mzero m) fun _ c =>
    if m &&& c.heldBanks ≠ 0 then c.mxNest 8 m.toNat 0
    else c.zeroBanks m.getLsbD)

/-- Whether the retirement buffer is busy (R342). -/
def Core.retiring (c : Core) : Bool := (c.eng.lastRet.map fun t => decide (c.ccy < t + 64)).getD false

/-- `mret` (R81, R354): the checks of its destination come first. -/
def execMret (c : BitVec 2) (a : BitVec 6) (f : BitVec 3) (m : BitVec 1) (s : State) : Host.Outcome State Fault Refusal :=
  .next (s.matrixOp (.mret c a f m) fun s d =>
    let off := (d.sreg a).toNat
    match d.lclWriteFault off (4096 * outBytes f.toNat) 128 with
    | some x => d.raiseF 6 x
    | none =>
      if d.eng.nest.isSome || d.retiring then d.mxNest 8 (2 ^ c.toNat) 0
      else d.retire 6 d.ccy d.pc c.toNat f (m == 1) off 0 (s.lat 23))

/-! ## Status and control (R355-R357) -/

/-- The 64 bytes of engine status (R355). -/
def Core.engineStatus (c : Core) : List Byte :=
  let n := c.eng.nest
  let get := fun (f : Nest → Nat) => (n.map f).getD 0
  let src := c.r.src
  leBytes 1 (n.isSome.toNat + 2 * c.retiring.toNat + 4 * c.nestSuspended.toNat)
  ++ leBytes 1 (get (·.bank) + 2 * get (·.acc))
  ++ leBytes 1 (get (·.entry))
  ++ leBytes 1 (get (·.unretired.toNat))
  ++ leBytes 4 (get (·.next))
  ++ (List.range 6).flatMap (fun i => leBytes 2 (get fun n => n.idx.getD i 0))
  ++ leBytes 1 (src.bank.isSome.toNat + 2 * src.bank.getD 0 + 8 * src.sat.toNat + 16 * src.ofmt.toNat)
  ++ leBytes 1 (c.r.coarse.toNat + 2 * c.r.sp24.toNat + 4 * c.r.tree.isSome.toNat)
  ++ List.replicate 42 0

/-- `mstat` (R355): allowed while a restored nest waits. -/
def execMstat (a : BitVec 6) (s : State) : Host.Outcome State Fault Refusal :=
  .next (s.run (.mstat a) fun s => s.upd fun c =>
    let c := c.matrixUse
    let off := (c.sreg a).toNat
    match c.lclWriteFault off 64 64 with
    | some x => c.raiseF 6 x
    | none =>
      match c.reserve [rowOf off] with
      | .error row => c.undoFull 6 row
      | .ok c => c.after 6 (s.lat 23) (.store .M (cellsAt off c.engineStatus)))

/-- Whether an effect in flight is the sums of a step. -/
def Effect.isSums : Effect → Bool
  | .sums _ => true
  | _ => false

/-- `mabort` (R356). -/
def execMabort (s : State) : Host.Outcome State Fault Refusal :=
  .next (s.matrixOp .mabort fun _ c =>
    { c with
      eng := { c.eng with nest := none, step := none, carry := [] }
      late := c.late.filter fun l => !l.eff.isSums })

/-- `mrest` (R344, R357): the restored nest stands still until `tret`. -/
def execMrest (s : State) : Host.Outcome State Fault Refusal :=
  .next (s.matrixOp .mrest fun _ c =>
    match c.save with
    | none => c.mxNest 9 0 0
    | some _ => let d := c.restoreMatrix; { d with
      bad := c.bad
      eng := { d.eng with acc := c.eng.acc, suspended := d.eng.nest.isSome } })

end Sys2Proof.Machine
end

