-- ==== Sys2Proof/Machine/Sequencer.lean ====
section
/-! DEFINITION. Slot 0: the sequencer instructions (R238, R280-R290). -/

namespace Sys2Proof.Machine

/-- A taken branch: the next PC, and the no-op bundles of entry 27 (R281). -/
def State.branch (target : BitVec 17) (s : State) : State :=
  s.upd fun c => { c with nextPc := some (target &&& 0x1FFE0), idle := c.idle + s.lat 27 }

/-- The PC of a bundle number. -/
def bundlePc (t : BitVec 12) : BitVec 17 := t.setWidth 17 <<< 5

/-- A branch to a byte address in a register: MISALIGNED where its bits 4:0 are not zero (R280). -/
def State.branchTo (x : Word) (s : State) : State :=
  if x.extractLsb' 0 5 = 0 then s.branch (x.extractLsb' 0 17)
  else s.upd fun c => c.raise 0 .misaligned (some x)

/-- The no-op of any slot (R238). -/
def execNop (s : State) : Host.Outcome State Fault Refusal := .next s

/-- `br` (R280). -/
def execBr (g : BitVec 4) (t : BitVec 12) (s : State) : Host.Outcome State Fault Refusal :=
  .next (s.run (.br g t) fun s => if s.core.guardOf g then s.branch (bundlePc t) else s)

/-- `jmp` (R280). -/
def execJmp (t : BitVec 12) (s : State) : Host.Outcome State Fault Refusal :=
  .next (s.run (.jmp t) fun s => s.branch (bundlePc t))

/-- `jmpr` (R280). -/
def execJmpr (a : BitVec 6) (s : State) : Host.Outcome State Fault Refusal :=
  .next (s.run (.jmpr a) fun s => s.branchTo (s.core.sreg a))

/-- `call` (R280): s62 receives the PC of the bundle after. -/
def execCall (t : BitVec 12) (s : State) : Host.Outcome State Fault Refusal :=
  .next (s.run (.call t) fun s =>
    (s.upd fun c => c.after 0 (s.lat 0) (.sreg 62 ((c.pc + 32).setWidth 64))).branch (bundlePc t))

/-- `ret` (R280). -/
def execRet (s : State) : Host.Outcome State Fault Refusal :=
  .next (s.run .ret fun s => s.branchTo (s.core.sreg 62))

/-- Opening a loop of `n` iterations over a body of `len` bundles (R282). -/
def State.openLoop (n len : Nat) (s : State) : State :=
  let c := s.core
  if n = 0 then s.branch (c.pc + 32 + BitVec.ofNat 17 (32 * len))
  else if 6 ≤ c.loops.length then s.upd fun c => c.raise 0 .illegalOp (some 6)
  else s.upd fun c => { c with loopAct := some (some ⟨c.pc + 32, len, BitVec.ofNat 32 n, 0⟩) }

/-- `loop` (R282). -/
def execLoop (c l : BitVec 12) (s : State) : Host.Outcome State Fault Refusal :=
  .next (s.run (.loop c l) fun s => s.openLoop c.toNat (l.toNat + 1))

/-- `loopr` (R282): counts above 2^32 - 1 act as 2^32 - 1. -/
def execLoopr (a : BitVec 6) (l : BitVec 12) (s : State) : Host.Outcome State Fault Refusal :=
  .next (s.run (.loopr a l) fun s => s.openLoop (min (s.core.sreg a).toNat 0xFFFFFFFF) (l.toNat + 1))

/-- `lbrk` (R283). -/
def execLbrk (g : BitVec 4) (s : State) : Host.Outcome State Fault Refusal :=
  .next (s.run (.lbrk g) fun s =>
    if !s.core.guardOf g then s
    else
      match s.core.loops with
      | [] => s.upd fun c => c.raise 0 .illegalOp (some 0)
      | e :: _ =>
        (s.upd fun c => { c with loopAct := some none }).branch (e.start + BitVec.ofNat 17 (32 * e.len)))

/-- A checkpoint marker (R181, R217, R222, R236, R284): nothing on a control core, ILLEGAL_OP in a handler; a stamp that differs from
the low bits of CCY raises STAMP_DEVIATION. -/
def State.marker (i : Instr) (stamp : BitVec 12) (p : Bool) (s : State) : State :=
  s.runCore i fun c =>
    if c.isControl then c
    else if c.inh then c.illegal i
    else if BitVec.ofNat 12 c.ccy ≠ stamp then
      c.raise 9 .stampDeviation (some (BitVec.ofNat 64 (c.ccy % 4096 + 65536 * stamp.toNat)))
    else { c with ckptWord := some (stamp, p) }

/-- `ckpt` (R284). -/
def execCkpt (s' : BitVec 12) (s : State) : Host.Outcome State Fault Refusal :=
  .next (s.marker (.ckpt s') s' false)

/-- `ckpt.p` (R284). -/
def execCkptP (s' : BitVec 12) (s : State) : Host.Outcome State Fault Refusal :=
  .next (s.marker (.ckptP s') s' true)

/-- The lowest q register that holds a marked result (R190). -/
def Core.marked (c : Core) : Option Nat :=
  (List.range 4).find? fun q => (c.r.q.getD q QReg.reset).err && (c.r.q.getD q QReg.reset).arrived

/-- `halt` (R190, R285): its cohort's verdict releases the strand's gated effects; a marked ring result raises RING_STATE. -/
def execHalt (s : State) : Host.Outcome State Fault Refusal :=
  .next (s.runCore .halt fun c =>
    if c.inHandler then c.illegal .halt
    else
      match c.marked with
      | some q => c.raise 0 .ringState (some (c.markTval q))
      | none => { c with run := .halted, haltedAt := s.time.gcy })

/-- A call entry (R234, R286): taken after the bundle; in a compute core's handler it is a fault of its cause. -/
def State.callEntry (i : Instr) (cause : Cause) (code : BitVec 16) (s : State) : State :=
  s.runCore i fun c =>
    if c.inHandler then c.raise 0 cause (some (zext64 code)) else { c with call := some (cause, code) }

/-- `trap` (R286). -/
def execTrap (c : BitVec 16) (s : State) : Host.Outcome State Fault Refusal :=
  .next (s.callEntry (.trap c) .trapInsn c)

/-- `scall` (R286). -/
def execScall (c : BitVec 16) (s : State) : Host.Outcome State Fault Refusal :=
  .next (s.callEntry (.scall c) .scall c)

/-- `brk` (R286). -/
def execBrk (c : BitVec 16) (s : State) : Host.Outcome State Fault Refusal :=
  .next (s.callEntry (.brk c) .brk c)

/-- `tret` (R234, R236, R287): a handler is left once its operations have written; on a control core the next bundle is at
csr.tepc. -/
def execTret (s : State) : Host.Outcome State Fault Refusal :=
  .next (s.runCore .tret fun c =>
    if c.isControl then { c with retHandler := true, nextPc := some c.tepc }
    else if c.inh then { c with retHandler := true }
    else c.illegal .tret)

/-- `wgcy` (R182, R288). -/
def execWgcy (a : BitVec 6) (s : State) : Host.Outcome State Fault Refusal :=
  .next (s.runCore (.wgcy a) fun c =>
    let t := (c.sreg a).toNat
    if c.isControl then { c with wait := c.wait ++ [.gcy t] } else c.requestHold (.gcy t) .nothing)

/-- `rswap` (R140, R289, R358): the images are exchanged over the core cycles of entry 28, and the checkpoint follows. -/
def execRswap (s : State) : Host.Outcome State Fault Refusal :=
  .next (s.run .rswap fun s => s.upd fun c =>
    if c.isControl || c.inh then c.illegal .rswap
    else if c.eng.nest.isSome then c.raise 0 .mxNest (some 11)
    else { c with swap := some c.ccy, idle := c.idle + (s.lat 28 - 1) })

/-- `idle n` (R290). -/
def execIdle (n : BitVec 16) (s : State) : Host.Outcome State Fault Refusal :=
  .next (s.runCore (.idle n) fun c => { c with idle := c.idle + (n.toNat - 1) })

end Sys2Proof.Machine
end

