-- ==== Sys2Proof/Machine/Lanes.lean ====
section
/-! DEFINITION. The lanes of a vector register and the lane arithmetic of slots 3 and 4 (R307-R321). -/

namespace Sys2Proof.Machine

/-! ## Lanes (R307) -/

/-- The width of an element. -/
def laneBits (t : BitVec 3) : Nat :=
  match t.toNat with
  | 0 => 32 | 3 => 32 | 6 => 32 | 5 => 8 | _ => 16

/-- The format of an FP type; none for an int type. -/
def fpOf (t : BitVec 3) : Option FpFmt :=
  match t.toNat with
  | 0 => some fp32 | 1 => some bf16 | 2 => some fp16 | _ => none

/-- Element i of a vector, as a number. -/
def laneAt (t : BitVec 3) (x : Vec) (i : Nat) : Nat := (x.toNat / 2 ^ (laneBits t * i)) % 2 ^ laneBits t

/-- The elements of a vector. -/
def lanes (t : BitVec 3) (x : Vec) : List Nat := (List.range (laneCount t)).map (laneAt t x)

/-- A vector from elements of w bits; elements not listed are zero. -/
def packLanes (w : Nat) (xs : List Nat) : Vec := BitVec.ofNat 1024 (xs.foldr (fun x acc => x % 2 ^ w + 2 ^ w * acc) 0)

/-- A vector with every element the same. -/
def fillLanes (t : BitVec 3) (x : Nat) : Vec := packLanes (laneBits t) (List.replicate (laneCount t) x)

/-- No flags and no counts. -/
def Events.none : Events := ⟨0, 0, 0, 0, 0⟩

/-- The flags of all lanes ORed. -/
def orFlags (fs : List (BitVec 5)) : BitVec 5 := fs.foldl (· ||| ·) 0

/-- Lane results as a vector with their flags. -/
def gather (w : Nat) (rs : List (Nat × BitVec 5)) : Vec × Events :=
  (packLanes w (rs.map (·.1)), Events.ofFlags (orFlags (rs.map (·.2))))

def mapLanes (t : BitVec 3) (f : Nat → Nat × BitVec 5) (a : Vec) : Vec × Events :=
  gather (laneBits t) ((lanes t a).map f)

def zipLanes (t : BitVec 3) (f : Nat → Nat → Nat × BitVec 5) (a b : Vec) : Vec × Events :=
  gather (laneBits t) ((List.range (laneCount t)).map fun i => f (laneAt t a i) (laneAt t b i))

def zip3Lanes (t : BitVec 3) (f : Nat → Nat → Nat → Nat × BitVec 5) (a b c : Vec) : Vec × Events :=
  gather (laneBits t) ((List.range (laneCount t)).map fun i => f (laneAt t a i) (laneAt t b i) (laneAt t c i))

/-! ## Integer lanes (R308) -/

/-- The value of an int element: signed, but for n32. -/
def intLane (t : BitVec 3) (x : Nat) : Int := if t = 6 then (x : Int) else signedOf (laneBits t) x

/-- An integer wrapped into w bits. -/
def wrapLane (w : Nat) (x : Int) : Nat := (x % (2 ^ w : Nat)).toNat

/-- The ends of an int type's range. -/
def intLow (t : BitVec 3) : Int := if t = 6 then 0 else -(2 ^ (laneBits t - 1) : Nat)
def intHigh (t : BitVec 3) : Int := if t = 6 then 2 ^ 32 - 1 else (2 ^ (laneBits t - 1) : Nat) - 1

/-! ## Arithmetic of one lane (R309-R311) -/

/-- The timing entry of add, multiply and FMA (R309). -/
def arithEntry (t : BitVec 3) : Nat := if (fpOf t).isSome then 9 else 8

def laneAdd (t : BitVec 3) (x y : Nat) : Nat × BitVec 5 :=
  match fpOf t with
  | some f => f.add (f.unpack x) (f.unpack y)
  | none => ((x + y) % 2 ^ laneBits t, 0)

def laneSub (t : BitVec 3) (x y : Nat) : Nat × BitVec 5 :=
  match fpOf t with
  | some f => f.add (f.unpack x) (f.unpack y).neg
  | none => (wrapLane (laneBits t) ((x : Int) - y), 0)

def laneMul (t : BitVec 3) (x y : Nat) : Nat × BitVec 5 :=
  match fpOf t with
  | some f => f.mul (f.unpack x) (f.unpack y)
  | none => ((x * y) % 2 ^ laneBits t, 0)

/-- x * y + z, or x * y - z. -/
def laneFma (t : BitVec 3) (minus : Bool) (x y z : Nat) : Nat × BitVec 5 :=
  match fpOf t with
  | some f => f.fma (f.unpack x) (f.unpack y) (if minus then (f.unpack z).neg else f.unpack z)
  | none => (wrapLane (laneBits t) (if minus then (x * y : Int) - z else x * y + z), 0)

def laneMinMax (t : BitVec 3) (isMax : Bool) (x y : Nat) : Nat × BitVec 5 :=
  match fpOf t with
  | some f => f.minMax isMax x y
  | none => (if decide (intLane t x < intLane t y) != isMax then x else y, 0)

/-- The magnitude; for FP the sign bit alone is cleared. -/
def laneAbs (t : BitVec 3) (x : Nat) : Nat × BitVec 5 :=
  match fpOf t with
  | some f => (x % 2 ^ f.signBit, 0)
  | none => (wrapLane (laneBits t) (intLane t x).natAbs, 0)

/-- The opposite; for FP the sign bit alone is inverted. -/
def laneNeg (t : BitVec 3) (x : Nat) : Nat × BitVec 5 :=
  match fpOf t with
  | some f => ((x + 2 ^ f.signBit) % 2 ^ (f.signBit + 1), 0)
  | none => (wrapLane (laneBits t) (-(x : Int)), 0)

/-- Shifts by the count modulo the width: 0 left, 1 right with zeros, 2 right with copies of the top bit (R310). -/
def laneShift (t : BitVec 3) (kind : Nat) (x y : Nat) : Nat × BitVec 5 :=
  let w := laneBits t
  let n := y % w
  (match kind with
    | 0 => (x * 2 ^ n) % 2 ^ w
    | 1 => x / 2 ^ n
    | _ => wrapLane w (signedOf w x / (2 ^ n : Nat)), 0)

/-- The relations of the compares: 0 equal, 1 less, 2 less or equal (R311). -/
def laneRelation (t : BitVec 3) (rel x y : Nat) : Bool × BitVec 5 :=
  match fpOf t with
  | some f => fpRelation rel (f.unpack x) (f.unpack y)
  | none =>
    (match rel with
      | 0 => decide (intLane t x = intLane t y)
      | 1 => decide (intLane t x < intLane t y)
      | _ => decide (intLane t x ≤ intLane t y), 0)

/-- The mask of a compare; bits n(ty) to 127 are 0 (R311). -/
def compareLanes (t : BitVec 3) (rel : Nat) (a b : Vec) : Mask × Events :=
  let rs := (List.range (laneCount t)).map fun i => laneRelation t rel (laneAt t a i) (laneAt t b i)
  (BitVec.ofNat 128 (rs.foldr (fun r acc => r.1.toNat + 2 * acc) 0), Events.ofFlags (orFlags (rs.map (·.2))))

/-- The element that `vsplat` writes (R256). -/
def splatValue (t : BitVec 3) (i : BitVec 16) : Nat :=
  match t.toNat with
  | 0 => i.toNat * 2 ^ 16
  | 3 => (i.signExtend 32).toNat
  | _ => i.toNat

/-- An integer in an element type, with the flags of its rounding (R312, R313). -/
def ofIntLane (t : BitVec 3) (x : Int) : Nat × BitVec 5 :=
  match fpOf t with
  | some f => f.ofInt x
  | none => (wrapLane (laneBits t) x, 0)

/-- One element converted from type st to type dt (R313). -/
def laneConvert (dt st : BitVec 3) (x : Nat) : Nat × BitVec 5 :=
  match fpOf dt, fpOf st with
  | some f, some g => f.convert (g.unpack x)
  | some f, none => f.ofInt (intLane st x)
  | none, some g =>
    let r := (g.unpack x).toInt (intLow dt) (intHigh dt)
    (wrapLane (laneBits dt) r.1, r.2)
  | none, none =>
    let r := saturate (intLane st x) (intLow dt) (intHigh dt)
    (wrapLane (laneBits dt) r.1, r.2)

/-- The set bits of a mask, lowest first. -/
def maskBits (m : Mask) : List Nat := (List.range 128).filter fun i => m.getLsbD i

/-! ## Vector B (R315-R321) -/

/-- A function of one FP element. -/
def laneFn (t : BitVec 3) (fn : FpFmt → FpVal → Nat × BitVec 5) (x : Nat) : Nat × BitVec 5 :=
  match fpOf t with
  | some f => fn f (f.unpack x)
  | none => (0, 0)

/-- The quotient of two FP elements. -/
def laneDiv (t : BitVec 3) (x y : Nat) : Nat × BitVec 5 :=
  match fpOf t with
  | some f => f.div (f.unpack x) (f.unpack y)
  | none => (0, 0)

/-- An element widened to FP32 for a reduction; int elements stay (R316, R317). -/
def widen (t : BitVec 3) (x : Nat) : Nat × BitVec 5 :=
  match t.toNat with
  | 1 => fp32.convert (bf16.unpack x)
  | 2 => fp32.convert (fp16.unpack x)
  | _ => (x, 0)

/-- A reduction's result rounded to the element type (R316, R317). -/
def narrow (t : BitVec 3) (x : Nat) : Nat × BitVec 5 :=
  match t.toNat with
  | 0 => fp32.convert (fp32.unpack x)
  | 1 => bf16.convert (fp32.unpack x)
  | 2 => fp16.convert (fp32.unpack x)
  | _ => (x, 0)

/-- The type in which a reduction works. -/
def wideType (t : BitVec 3) : BitVec 3 := if t.toNat < 3 then 0 else t

def wideAdd (t : BitVec 3) (x y : Nat) : Nat × BitVec 5 := laneAdd (wideType t) x y

def wideMinMax (t : BitVec 3) (isMax : Bool) (x y : Nat) : Nat × BitVec 5 := laneMinMax (wideType t) isMax x y

/-- One level of the tree: neighbours combined (R316). -/
def pairUp (op : Nat → Nat → Nat × BitVec 5) : List Nat → List (Nat × BitVec 5)
  | x :: y :: rest => op x y :: pairUp op rest
  | _ => []

/-- The tree of a reduction, `levels` deep. -/
def treeReduce (op : Nat → Nat → Nat × BitVec 5) : Nat → List Nat × BitVec 5 → Nat × BitVec 5
  | 0, (xs, f) => (xs.headD 0, f)
  | k + 1, (xs, f) =>
    let rs := pairUp op xs
    treeReduce op k (rs.map (·.1), f ||| orFlags (rs.map (·.2)))

/-- `vredsum`, `vredmax`, `vredmin` (R316). -/
def reduceLanes (t : BitVec 3) (op : Nat → Nat → Nat × BitVec 5) (a : Vec) : Vec × Events :=
  let w := (lanes t a).map (widen t)
  let r := treeReduce op (laneCount t).log2 (w.map (·.1), orFlags (w.map (·.2)))
  let x := narrow t r.1
  (fillLanes t x.1, Events.ofFlags (r.2 ||| x.2))

/-- `vscan` (R317). -/
def scanLanes (t : BitVec 3) (a : Vec) : Vec × Events :=
  match (lanes t a).map (widen t) with
  | [] => (0, Events.none)
  | x :: rest =>
    let first := narrow t x.1
    let r := rest.foldl (fun (acc : Nat × List Nat × BitVec 5) y =>
      let sum := wideAdd t acc.1 y.1
      let out := narrow t sum.1
      (sum.1, out.1 :: acc.2.1, acc.2.2 ||| y.2 ||| sum.2 ||| out.2)) (x.1, [first.1], x.2 ||| first.2)
    (packLanes (laneBits t) r.2.1.reverse, Events.ofFlags r.2.2)

/-- The place of an element in the order of `vsortk`, as a number that falls as the element rises (R318). -/
def sortKey (t : BitVec 3) (x : Nat) : Nat :=
  let v : Int := match fpOf t with
    | some f =>
      let mag : Int := x % 2 ^ f.signBit
      if f.inf false < x % 2 ^ f.signBit then 2 ^ 33 else if x.testBit f.signBit then -mag - 1 else mag
    | none => intLane t x
  (2 ^ 34 - v).toNat

/-- The elements in descending order, stably, each with its original index (R318). -/
def sortLanes (t : BitVec 3) (a : Vec) : List (Nat × Nat) := sortBy (fun p => sortKey t p.1) (lanes t a).zipIdx

/-- The nibble i of a vector. -/
def nibbleAt (x : Vec) (i : Nat) : Nat := x.toNat / 2 ^ (4 * i) % 16

/-- `vpack` (R320). -/
def packPairs (t src : BitVec 3) (q : BitVec 1) (a b : Vec) : Vec × Events :=
  let xs := lanes src a ++ lanes src b
  if q = 1 then
    gather 4 (xs.map fun x => let r := saturate (intLane src x) (-8) 7; (wrapLane 4 r.1, r.2))
  else gather (laneBits t) (xs.map (laneConvert t src))

/-- `vunpack` (R320). -/
def unpackHalf (t src : BitVec 3) (h q : BitVec 1) (a : Vec) : Vec × Events :=
  if q = 1 then
    gather 8 ((List.range 128).map fun i => (wrapLane 8 (signedOf 4 (nibbleAt a (128 * h.toNat + i))), 0))
  else
    let n := laneCount t
    gather (laneBits t) ((List.range n).map fun i => laneConvert t src (laneAt src a (n * h.toNat + i)))

/-- The mixing of `vrnd` (R321). -/
def rndMix (x : BitVec 32) : BitVec 32 :=
  let x := x ^^^ (x >>> 16)
  let x := x * 0x7FEB352D
  let x := x ^^^ (x >>> 15)
  let x := x * 0x846CA68B
  x ^^^ (x >>> 16)

/-- `vrnd` (R321). -/
def rndLanes (t : BitVec 3) (key ctr : Nat) : Vec :=
  packLanes 32 ((List.range 32).map fun i =>
    let x := rndMix (BitVec.ofNat 32 key ^^^ BitVec.ofNat 32 (ctr + i))
    if t = 6 then x.toNat else (fp32.round false (x.toNat / 256) (-24) false).1)

end Sys2Proof.Machine
end

