-- ==== Sys2Proof/Machine/VectorMem.lean ====
section
/-! DEFINITION. Slot 5: vector memory (R322-R327). -/

namespace Sys2Proof.Machine

/-- The bytes of an access size code (R259). -/
def sizeOf2 (z : BitVec 2) : Nat := 2 ^ z.toNat

/-- The offsets of a strided access: s_x + i * s_(x+1), modulo 2^64 (R322). -/
def Core.strided (c : Core) (x : BitVec 6) (n : Nat) : List Nat :=
  (List.range n).map fun i => (c.sreg x + BitVec.ofNat 64 i * c.sreg (x + 1)).toNat

/-- The offsets of a gather or scatter: s_x + zext(vb[i]) (R322). -/
def Core.indexed (c : Core) (x : BitVec 6) (b : BitVec 5) : List Nat :=
  (List.range 32).map fun i => (c.sreg x + BitVec.ofNat 64 (laneAt 6 (c.vreg b) i)).toNat

/-- A load of one access through port S at issue; `f` makes the register value of its bytes (R324, R327). -/
def State.loadWhole (i : Instr) (v : BitVec 5) (e : BitVec 4) (off len align layout lat : Nat) (f : List Byte → Vec)
    (s : State) : State :=
  s.runCore i fun c =>
    match c.readElems e [off] len align layout with
    | .error x => c.raiseF 5 x
    | .ok d =>
      let places := physRange layout off len
      d.portS 5 c.ccy places fun d => d.after 5 lat (.vreg v (f (d.lclAt places)))

/-- A load of several elements by a sweep: rank j is read at c + j, the register is written `lat` after issue (R325, R326). -/
def State.loadSweep (i : Instr) (v : BitVec 5) (e : BitVec 4) (offs : List Nat) (len layout lat : Nat) (s : State) : State :=
  s.runCore i fun c =>
    match c.readElems e offs len len layout with
    | .error x => c.raiseF 5 x
    | .ok d =>
      let elems := offs.zipIdx.map fun p => (p.2, physRange layout p.1 len)
      d.sweep true 5 c.ccy elems fun at' xs d => d.at' 5 at' (.sweepRead v len xs (c.ccy + lat))

/-- The elements of a register as stored, with the mask's leave: element i of `len` bytes under bit i (R323). -/
def maskedElems (x : Vec) (len : Nat) (offs : List Nat) (me : BitVec 1) (m : Mask) : List (Nat × List (Byte × Bool)) :=
  offs.zipIdx.map fun p =>
    (p.1, (List.range len).map fun k => (lineByte x (len * p.2 + k), me == 0 || m.getLsbD p.2))

/-- `vld` (R324). -/
def execVld (v : BitVec 5) (e : BitVec 4) (x : BitVec 6) (l : BitVec 2) (i : BitVec 5) (s : State) :
    Host.Outcome State Fault Refusal :=
  .next (s.loadWhole (.vld v e x l i) v e (s.core.offset x (128 * i.toNat)) 128 128 l.toNat (s.lat 18) lineOf)

/-- `vst` (R323, R324): bit i of the mask governs bytes 4i to 4i + 3. -/
def execVst (v : BitVec 5) (e : BitVec 4) (x : BitVec 6) (l : BitVec 2) (g : BitVec 1) (m : BitVec 3) (i : BitVec 5)
    (s : State) : Host.Outcome State Fault Refusal :=
  .next (s.run (.vst v e x l g m i) fun s =>
    let c := s.core
    let bytes := (List.range 128).map fun k => (lineByte (c.vreg v) k, g == 0 || (c.mreg m).getLsbD (k / 4))
    s.storeElems false 5 (s.lat 20) e l.toNat 128 acceptStore [(c.offset x (128 * i.toNat), bytes)])

/-- `vlds` (R325, R326). -/
def execVlds (v : BitVec 5) (e : BitVec 4) (x : BitVec 6) (l z : BitVec 2) (s : State) :
    Host.Outcome State Fault Refusal :=
  .next (s.loadSweep (.vlds v e x l z) v e (s.core.strided x (128 / sizeOf2 z)) (sizeOf2 z) l.toNat (s.lat 18))

/-- `vsts` (R325, R326). -/
def execVsts (v : BitVec 5) (e : BitVec 4) (x : BitVec 6) (l : BitVec 2) (g : BitVec 1) (m : BitVec 3) (z : BitVec 2)
    (s : State) : Host.Outcome State Fault Refusal :=
  .next (s.run (.vsts v e x l g m z) fun s =>
    let c := s.core
    let n := sizeOf2 z
    s.storeElems true 5 (s.lat 20) e l.toNat n acceptStore (maskedElems (c.vreg v) n (c.strided x (128 / n)) g (c.mreg m)))

/-- `vgath` (R325, R326). -/
def execVgath (v : BitVec 5) (e : BitVec 4) (x : BitVec 6) (l : BitVec 2) (b : BitVec 5) (s : State) :
    Host.Outcome State Fault Refusal :=
  .next (s.loadSweep (.vgath v e x l b) v e (s.core.indexed x b) 4 l.toNat (s.lat 19))

/-- `vscat` (R325, R326): `lcl` only. -/
def execVscat (v : BitVec 5) (e : BitVec 4) (x : BitVec 6) (l : BitVec 2) (g : BitVec 1) (m : BitVec 3) (b : BitVec 5)
    (s : State) : Host.Outcome State Fault Refusal :=
  .next (s.run (.vscat v e x l g m b) fun s =>
    let c := s.core
    s.storeElems true 5 (s.lat 20) e l.toNat 4 acceptNone (maskedElems (c.vreg v) 4 (c.indexed x b) g (c.mreg m)))

/-- `vldb` (R327): every element takes the value read. -/
def execVldb (d : BitVec 5) (e : BitVec 4) (x : BitVec 6) (l z : BitVec 2) (i : BitVec 7) (s : State) :
    Host.Outcome State Fault Refusal :=
  let n := sizeOf2 z
  .next (s.loadWhole (.vldb d e x l z i) d e (s.core.offset x (n * i.toNat)) n n l.toNat (s.lat 18) fun bs =>
    packLanes (8 * n) (List.replicate (128 / n) (leNat bs)))

end Sys2Proof.Machine
end

