-- ==== Sys2Proof/Machine/Tiles.lean ====
section
/-! DEFINITION. Slot 5: tiles (R153-R156, R232, R328-R333). -/

namespace Sys2Proof.Machine

/-! ## Shapes (R153, R154) -/

/-- The shape byte of a tile. -/
def Core.shapeByte (c : Core) (t : BitVec 3) : BitVec 8 := c.r.tshape.extractLsb' (8 * t.toNat) 8

/-- CONF, rows, columns and element size of a tile. -/
def Core.tileConf (c : Core) (t : BitVec 3) : Bool := (c.shapeByte t).getLsbD 7
def Core.tileRows (c : Core) (t : BitVec 3) : Nat := 4 * (((c.shapeByte t).extractLsb' 2 2).toNat + 1)
def Core.tileCols (c : Core) (t : BitVec 3) : Nat := 4 * (((c.shapeByte t).extractLsb' 0 2).toNat + 1)
def Core.tileSize (c : Core) (t : BitVec 3) : Nat :=
  match ((c.shapeByte t).extractLsb' 4 3).toNat with
  | 0 => 4 | 3 => 4 | 4 => 1 | _ => 2

/-- csr.tval of the tile faults: t, and the index in bits 11:8 (R328). -/
def tileTval (t : BitVec 3) (idx : Nat) : Option Word := some (BitVec.ofNat 64 (t.toNat + 256 * idx))

/-! ## The first access after a swap point (R156, R232) -/

/-- Moving a tile, for the access at a PC: the file's contents go to the owner's save area if they differ from it; outside a handler the
active image's tile is loaded, under the checks of a read (R163, R166). -/
def Core.moveTile (c : Core) (t : BitVec 3) (pc : BitVec 17) : Core :=
  let k := t.toNat
  let bit : BitVec 8 := 1 <<< k
  let place := fun (img : Bool) => c.imageBase img + 0x2000 + 1024 * k
  let l : Late := ⟨c.ccy, c.ccy, 5, pc, .tileBytes t []⟩
  let d := if c.r.valid.getLsbD k && c.r.dirty.getLsbD k then
      c.unless l (c.badTile t (List.range 1024))
        (c.storeChecked l (cellsAt (place (c.r.owner.getLsbD k)) ((List.range 1024).map (tileByte (c.tile t)))))
    else c
  if c.inHandler then { d with r := { d.r with dirty := d.r.dirty &&& ~~~bit } }
  else
    match d.readPlates none ((List.range 1024).map (place c.r.act + ·)) with
    | .error f => d.faultOf l f.1 f.2
    | .ok d =>
      let x := BitVec.ofNat 8192 (d.lcl.readNat (place c.r.act) 1024)
      Core.mendReg { d with r := { (d.r.setTile t x) with
          owner := if c.r.act then d.r.owner ||| bit else d.r.owner &&& ~~~bit
          valid := d.r.valid ||| bit
          dirty := d.r.dirty &&& ~~~bit } } fun w => match w with
            | .tile u _ => u == t
            | _ => false

/-- An access to a claimed tile whose contents no image owns makes them the active image's (R396); where the first access after a swap
point has still to perform, the tile's move does that (R156). -/
def Core.ownTile (c : Core) (k : Nat) : Core :=
  if c.r.valid.getLsbD k ∨ c.ccy < SMap.get 0 k c.claims then c
  else
    let bit : BitVec 8 := 1 <<< k
    { c with r := { c.r with
        valid := c.r.valid ||| bit
        owner := if c.r.act then c.r.owner ||| bit else c.r.owner &&& ~~~bit } }

/-- Claiming a tile for an access that issues now: the core cycle p at which the access performs, and the core with the claim made
and the tile's move requested; or the row that found no place in the undo log. -/
def Core.claim (c : Core) (t : BitVec 3) : Except Nat (Nat × Core) :=
  let k := t.toNat
  if c.r.claimed.getLsbD k then .ok (max c.ccy (SMap.get 0 k c.claims), c.ownTile k)
  else
    let p := c.ccy + 8
    let d := { c with r := { c.r with claimed := c.r.claimed ||| (1 <<< k) }, claims := SMap.put 0 k p c.claims }
    let dirty := c.r.valid.getLsbD k && c.r.dirty.getLsbD k
    let moves := if c.inHandler then dirty else !(c.r.valid.getLsbD k) || c.r.owner.getLsbD k != c.r.act
    if !moves then .ok (p, d)
    else
      let row := rowOf (c.imageBase (c.r.owner.getLsbD k) + 0x2000 + 1024 * k)
      match d.reserve (if dirty then (List.range 8).map (row + ·) else []) with
      | .error r => .error r
      | .ok d => .ok (p, d.requestHold (.clocks (if dirty && !c.inHandler then 16 else 8)) (.tileMove t c.pc))

/-- An access to a tile: claimed, then `f` schedules it for its performance point. -/
def Core.onTile (c : Core) (t : BitVec 3) (f : Nat → Core → Core) : Core :=
  match c.claim t with
  | .error row => c.undoFull 5 row
  | .ok (p, d) => f p d

/-- The checks of a tile access against the shape, then the access (R328): `row` and `col` are the indices it names. -/
def Core.onShape (c : Core) (t : BitVec 3) (row col : Option Nat) (f : Nat → Core → Core) : Core :=
  if !c.tileConf t then c.raise 5 .tileUnconfig (tileTval t ((row.or col).getD 0))
  else
    match row.filter (c.tileRows t ≤ ·), col.filter (c.tileCols t ≤ ·) with
    | some r, _ => c.raise 5 .tileShape (tileTval t r)
    | none, some k => c.raise 5 .tileShape (tileTval t k)
    | none, none => c.onTile t f

/-! ## The instructions -/

/-- `tcfg` (R329). -/
def execTcfg (t : BitVec 3) (b : BitVec 8) (s : State) : Host.Outcome State Fault Refusal :=
  .next (s.runCore (.tcfg t b) fun c => c.after 5 1 (.tshapeByte t b))

/-- The checked length of a tile's rows in memory (R330). -/
def Core.tileLength (c : Core) (t : BitVec 3) : Nat := 64 * (c.tileRows t - 1) + c.tileCols t * c.tileSize t

/-- The rows of a tile with the memory offsets of their bytes (R330). -/
def Core.tileOffsets (c : Core) (t : BitVec 3) (off : Nat) : List (Nat × List Nat) :=
  (List.range (c.tileRows t)).map fun r => (r, offsets (off + 64 * r) (c.tileCols t * c.tileSize t))

/-- The same with physical places under a layout. -/
def placeRows (layout : Nat) (rows : List (Nat × List Nat)) : List (Nat × List Nat) :=
  rows.map fun r => (r.1, r.2.map (physOf layout))

/-- `tld` (R330). -/
def execTld (t : BitVec 3) (e : BitVec 4) (x : BitVec 6) (l : BitVec 2) (s : State) : Host.Outcome State Fault Refusal :=
  .next (s.run (.tld t e x l) fun s => s.upd fun c =>
    let off := (c.sreg x).toNat
    let rows := c.tileOffsets t off
    if !c.tileConf t then c.raise 5 .tileUnconfig (tileTval t 0)
    else
      match c.elemFault e [off] (c.tileLength t) 64 .load acceptNone with
      | some f => c.raiseF 5 f
      | none =>
        match c.sealedOff (rows.flatMap (·.2)) with
        | some o => c.raise 5 .sealedLoad (some (BitVec.ofNat 64 o))
        | none => c.onTile t fun p c =>
          let places := placeRows l.toNat rows
          c.portS 5 p (places.flatMap (·.2)) fun c => c.at' 5 p (.tile (.load t l.toNat places) (s.lat 22)))

/-- Scheduling the writes of a tile into `lcl` through port S, with their undo rows (R330, R332). -/
def Core.tileStore (c : Core) (t : BitVec 3) (lat : Nat) (places : List Nat) (op : TileOp) : Core :=
  match c.reserve (places.map rowOf) with
  | .error row => c.undoFull 5 row
  | .ok c => c.onTile t fun p c => c.portS 5 (p + lat) places fun c => c.at' 5 p (.tile op lat)

/-- `tst` (R330): into `lcl`, or one gated effect that carries the tile as read at its performance point. -/
def execTst (t : BitVec 3) (e : BitVec 4) (x : BitVec 6) (l : BitVec 2) (s : State) : Host.Outcome State Fault Refusal :=
  .next (s.run (.tst t e x l) fun s =>
    let c := s.core
    let off := (c.sreg x).toNat
    let rows := c.tileOffsets t off
    let refuse := fun (f : Cause × Option Word) => s.upd fun c => c.raiseF 5 f
    if !c.tileConf t then refuse (.tileUnconfig, tileTval t 0)
    else
      match c.elemFault e [off] (c.tileLength t) 64 .store acceptStore with
      | some f => refuse f
      | none =>
        if e = lclCode then
          match c.sealedOff (rows.flatMap (·.2)) with
          | some o => refuse (.sealedCopy, some (BitVec.ofNat 64 o))
          | none =>
            let places := placeRows l.toNat rows
            s.upd fun c => c.tileStore t (s.lat 22) (places.flatMap (·.2)) (.storeLcl t places)
        else
          match c.extent e with
          | none => s
          | some x =>
            if l ≠ 0 then refuse (.misaligned, some (BitVec.ofNat 64 off))
            else if x.sealed then refuse (.sealedCopy, some (BitVec.ofNat 64 off))
            else if 64 ≤ c.gated.length then refuse (.gateBufferFull, none)
            else
              let id := s.nextFill
              (s.gate 5 (x.classOf 0x02) 0 1 (.write x.backing (x.key false) [])).upd fun c =>
                c.onTile t fun p c =>
                  c.at' 5 p (.tile (.storeOut t id (rows.map fun r => (r.1, r.2.map x.address))) 0))

/-- The byte pairs of one element of a row or column move: vector byte, tile byte. -/
def elemPairs (size velem row col : Nat) : List (Nat × Nat) :=
  (List.range size).map fun k => (size * velem + k, 64 * row + size * col + k)

/-- The byte pairs of a row, or of a column (R331). -/
def Core.rowPairs (c : Core) (t : BitVec 3) (row h : Nat) : List (Nat × Nat) :=
  (List.range (c.tileCols t)).flatMap fun j => elemPairs (c.tileSize t) (16 * h + j) row j
def Core.colPairs (c : Core) (t : BitVec 3) (col h : Nat) : List (Nat × Nat) :=
  (List.range (c.tileRows t)).flatMap fun r => elemPairs (c.tileSize t) (16 * h + r) r col

/-- The bytes of a vector for the tile's places. -/
def pairBytes (x : Vec) (ps : List (Nat × Nat)) : List (Nat × Byte) := ps.map fun p => (p.2, lineByte x p.1)

/-- `trowv` (R331). -/
def execTrowv (v : BitVec 5) (t : BitVec 3) (i : BitVec 4) (h : BitVec 1) (s : State) : Host.Outcome State Fault Refusal :=
  .next (s.run (.trowv v t i h) fun s => s.upd fun c => c.onShape t (some i.toNat) none fun p c =>
    c.at' 5 p (.tile (.rowToVec v t (c.rowPairs t i.toNat h.toNat)) (s.lat 21)))

/-- `tvrow` (R331): v is read at issue. -/
def execTvrow (v : BitVec 5) (t : BitVec 3) (i : BitVec 4) (h : BitVec 1) (s : State) : Host.Outcome State Fault Refusal :=
  .next (s.run (.tvrow v t i h) fun s => s.upd fun c => c.onShape t (some i.toNat) none fun p c =>
    c.at' 5 p (.tile (.vecToTile t (pairBytes (c.vreg v) (c.rowPairs t i.toNat h.toNat))) (s.lat 21)))

/-- `tcolv` (R331). -/
def execTcolv (v : BitVec 5) (t : BitVec 3) (i : BitVec 4) (h : BitVec 1) (s : State) : Host.Outcome State Fault Refusal :=
  .next (s.run (.tcolv v t i h) fun s => s.upd fun c => c.onShape t none (some i.toNat) fun p c =>
    c.at' 5 p (.tile (.rowToVec v t (c.colPairs t i.toNat h.toNat)) (s.lat 21)))

/-- `tvcol` (R331): v is read at issue. -/
def execTvcol (v : BitVec 5) (t : BitVec 3) (i : BitVec 4) (h : BitVec 1) (s : State) : Host.Outcome State Fault Refusal :=
  .next (s.run (.tvcol v t i h) fun s => s.upd fun c => c.onShape t none (some i.toNat) fun p c =>
    c.at' 5 p (.tile (.vecToTile t (pairBytes (c.vreg v) (c.colPairs t i.toNat h.toNat))) (s.lat 21)))

/-- `tzero` (R331): every element of the configured shape. -/
def execTzero (t : BitVec 3) (s : State) : Host.Outcome State Fault Refusal :=
  .next (s.run (.tzero t) fun s => s.upd fun c => c.onShape t none none fun p c =>
    c.at' 5 p (.tile (.vecToTile t (pairBytes 0 ((List.range (c.tileRows t)).flatMap fun r => c.rowPairs t r 0))) (s.lat 21)))

/-- `tsave` (R332). -/
def execTsave (t : BitVec 3) (e : BitVec 4) (x : BitVec 6) (s : State) : Host.Outcome State Fault Refusal :=
  .next (s.run (.tsave t e x) fun s => s.upd fun c =>
    let off := (c.sreg x).toNat
    match c.elemFault e [off] 1024 128 .store acceptNone with
    | some f => c.raiseF 5 f
    | none =>
      match c.sealedOff (offsets off 1024) with
      | some o => c.raise 5 .sealedCopy (some (BitVec.ofNat 64 o))
      | none => c.tileStore t (s.lat 22) (offsets off 1024) (.save t off))

/-- `trest` (R332). -/
def execTrest (t : BitVec 3) (e : BitVec 4) (x : BitVec 6) (s : State) : Host.Outcome State Fault Refusal :=
  .next (s.run (.trest t e x) fun s => s.upd fun c =>
    let off := (c.sreg x).toNat
    match c.elemFault e [off] 1024 128 .load acceptNone with
    | some f => c.raiseF 5 f
    | none =>
      match c.sealedOff (offsets off 1024) with
      | some o => c.raise 5 .sealedLoad (some (BitVec.ofNat 64 o))
      | none => c.onTile t fun p c => c.portS 5 p (offsets off 1024) fun c => c.at' 5 p (.tile (.restore t off) (s.lat 22)))

end Sys2Proof.Machine
end

