-- ==== Sys2Proof/Machine/Rollback.lean ====
section
/-! DEFINITION. What comes about by itself on a strand: holds, the end of a lock, nest steps; rollback and resumption (R160, R182-R187,
R225-R229, R341). -/

namespace Sys2Proof.Machine

/-! ## Holds (R182-R184, R190, R414) -/

/-- What a request does when it is met: the register that it writes, or the tile that it moves (R156, R370, R374). -/
def Core.endRequest (c : Core) (h : HoldReq) : Core :=
  match h.fin with
  | .nothing => c
  | .rcolWrite d q word rev _ => { c with r := c.r.setS d ((c.qreg q).word word rev) }
  | .cwaitWrite d =>
    match c.colls with
    | [] => { c with r := c.r.setS d 0xFF }
    | w :: rest =>
      { c with
        r := c.r.setS d ((w.status.getD 0xFF).setWidth 64)
        colls := rest
        holds := c.holds.map fun (h : HoldReq) => match h.cond with
          | .collective k => { h with cond := .collective (k - 1) }
          | _ => h }
  | .tileMove t pc => c.moveTile t pc

/-- The requests of a core that have taken effect are met, in the order in which they were made. -/
def Core.endHold (c : Core) : Core :=
  c.inEffect.foldl Core.endRequest { c with inHold := false, holds := c.holds.filter fun h => decide (c.ccy < h.at') }

/-- A cohort is stopped by a fault. -/
def State.stopCohort (coh : Nat) (s : State) : State :=
  s.mapCores fun c =>
    if c.coh = coh && !c.isControl && (c.run == .running || c.run == .halted || c.run == .heldForHandler) then
      { c with run := .faulted, inHold := false }
    else c

/-- The requests in effect on the strands of a hold are met: a marked result stops the cohort, else the next bundle may issue. -/
def State.finishHold (c : Core) (s : State) : State :=
  let ids := (s.holdGroup c).map (·.id)
  if s.holdMarked c then
    (s.mapCores fun d => if ids.contains d.id then d.rcolFault else d).stopCohort c.coh
  else s.mapCores fun d => if ids.contains d.id then d.endHold else d

/-- `HOLD_TAKE_EFFECT` (R183): requests that have all been met lapse; else their strands hold. -/
def execHoldTakeEffect (core : Nat) (s : State) : Host.Outcome State Fault Refusal :=
  .next (match s.coreOf core with
    | none => s
    | some c =>
      if !c.goes || c.isControl || c.inEffect.isEmpty then s
      else if s.holdMarked c || (s.holdGroup c).all fun d => d.inEffect.all fun h => h.met then s.finishHold c
      else
        let ids := (s.holdGroup c).map (·.id)
        s.mapCores fun d => if ids.contains d.id then { d with inHold := true } else d)

/-- `HOLD_END` (R183): every request that took effect has been met. -/
def execHoldEnd (core : Nat) (s : State) : Host.Outcome State Fault Refusal :=
  .next (match s.coreOf core with
    | none => s
    | some c =>
      if c.inHold && (s.holdMarked c || (s.holdGroup c).all fun d => d.inEffect.all fun h => h.met) then s.finishHold c else s)

/-! ## Locks and nest steps -/

/-- `LOCK_EXPIRE` (R160): the lock ends; what it put off performs from this core cycle on. -/
def execLockExpire (core : Nat) (s : State) : Host.Outcome State Fault Refusal :=
  .next (match s.coreOf core with
    | none => s
    | some c => match c.lock with
      | some (_, last) =>
        if c.goes && decide (last < c.ccy) then s.onCore core fun c => { c with lock := none } else s
      | none => s)

/-- `NEST_STEP` (R338-R345). -/
def execNestStep (core : Nat) (s : State) : Host.Outcome State Fault Refusal :=
  .next (match s.coreOf core with
    | none => s
    | some c => match c.eng.nest with
      | some n =>
        if c.goes && !c.eng.suspended && c.faults.isEmpty && n.next == c.ccy then
          s.onCore core fun _ => s.nestStep c n
        else s
      | none => s)

/-! ## Rollback (R225-R228) -/

/-- The copy, issued before the checkpoint, that an operation in flight belongs to: it goes on through a rollback (R226). -/
def Core.outlives (c : Core) (e : Effect) : Bool :=
  match e with
  | .l2Chunk copy .. => c.isOlder copy
  | .portC copy _ => c.isOlder copy
  | .lclChunk copy .. => c.isOlder copy
  | _ => false

/-- Whether an access put off goes on through a rollback. -/
def Core.deferredOutlives (c : Core) (d : Deferred) : Bool :=
  match d.read with
  | some l => c.outlives l.eff
  | none => c.isOlder d.copy

/-- What a checkpoint holds of the operations in flight: its LWB image, and the reads still to be made at it for effects that have not
left (R193, R219). -/
def State.inImage (s : State) (e : Effect) : Bool :=
  match e.readsFor with
  | some g => s.released.any fun x => x.id == g
  | none => match e with
    | .l2Chunk .. => false
    | .portC .. => false
    | .lclChunk .. => false
    | _ => true

/-- The copies of a core that a rollback cancels (R187). -/
def Core.cancelled (c : Core) : List Nat := (c.copies.filter fun x => !c.older x).map (·.copy)

/-- The fills that carry late bytes of some copies. -/
def State.fillsOf (s : State) (copies : List Nat) : List Nat :=
  (s.fills.filter fun f => f.uses.any fun u => match u with
    | .copy k .. => copies.contains k
    | _ => false).map (·.id)

/-- Whether a rollback writes a word again: every register, the rows of the undo log, and the word of IMEM whose error it recovers from
(R163, R225, R235). -/
def Core.undoes (c : Core) (x : ErrorPlace) : Bool :=
  match x with
  | .register _ _ => true
  | .scratchpad off => c.undo.any fun u => u.1 == rowOf off
  | .imem off => c.faults.any fun f => f.cause == .eccImem && f.tval == some (BitVec.ofNat 64 off)
  | _ => false

/-- One strand goes back to its checkpoint (R225); `keep` are the faults that its resumption acts on. -/
def State.rollCore (s : State) (keep : List TrapRec) (c : Core) : Core :=
  let k := c.snap
  let older := c.copies.filter fun x => c.older x
  { c with
    run := .rolledBack
    gated := []
    seen := []
    late := (k.late.filter fun l => s.inImage l.eff) ++ c.late.filter fun l => c.outlives l.eff
    wbuf := c.wbuf.filter c.deferredOutlives
    copies := older
    uncached := c.uncached.filter fun u => older.any fun x => x.copy == u.copy
    waitFills := s.fillsOf c.cancelled
    lcl := c.undo.reverse.foldl (fun m u => m.writeBytes (128 * u.1) u.2) c.lcl
    plates := c.plates.foldl (fun m p =>
        let t := SMap.get PlateTag.reset p.1 k.plates
        if p.2.expSeq = t.expSeq then m else SMap.put PlateTag.reset p.1 t m) c.plates
    undo := []
    reserved := []
    r := k.regs
    claims := k.claims
    pc := k.pc
    loops := k.loops
    lock := k.lock
    idle := k.idle
    uses := k.uses
    windows := k.windows
    holds := k.holds
    colls := k.colls
    collNum := k.collNum
    ccy := k.ccy
    eng := { c.eng with
      nest := k.nest, step := k.step, acc := [], int32 := k.int32, carry := k.carry, bbuf := [], bsealed := false
      lastRet := k.lastRet, rets := k.rets }
    inHold := false, stall := 0, rest := [], bundle := [], turn := false, started := false, nextPc := none, loopAct := none
    ckptWord := none, swap := none, call := none, retHandler := false
    rbcnt := min 255 (c.rbcnt + 1)
    bad := c.bad.filter fun x => !(c.undoes x)
    faults := keep }

/-- The recovery class of a fault of a strand (R228, R235). -/
def Core.faultClass (c : Core) (f : TrapRec) : Nat :=
  if f.cause.cls = 0 ∧ c.rbcnt = 7 ∧ !f.cause.neverEscalates then 1 else f.cause.cls

/-- The faulting strands of a cohort by core number, each with its reported fault and its class (R227); a fault in a handler ends the task
(R231). -/
def State.verdictOn (s : State) (coh : Nat) : List (Core × TrapRec × Nat) :=
  (sortBy (·.id) ((s.cohort coh).filter fun c => !c.isControl && c.run == .faulted)).filterMap fun c =>
    c.reported.map fun f => (c, f, if c.inHandler then 2 else c.faultClass f)

/-- The whole cohort goes back to its checkpoint; the reads for released effects that belong to it are made again (R193). -/
def State.rollCohort (coh : Nat) (acted : List (Nat × TrapRec)) (s : State) : State :=
  let gone := (s.cohort coh).flatMap Core.cancelled
  let u : State := match s.cohort coh with
    | [] => s
    | c :: _ => s.rebaseLevels coh fun n => c.snap.ccy + (n - c.ccy)
  let t := u.mapCores fun c =>
    if c.coh = coh ∧ !c.isControl then s.rollCore ((acted.filter fun a => a.1 == c.id).map (·.2)) c else c
  let reads := fun (g : Gated) => ((s.cohort coh).flatMap fun c => c.snap.late.filter fun l => l.eff.readsFor == some g.id).length
  { t with
    released := t.released.map fun (g : Gated) =>
      if (s.cohort coh).any fun c => c.id == g.core && !c.isControl then { g with reads := reads g } else g
    fills := t.fills.map fun (f : Fill) => { f with uses := f.uses.filter fun u => match u with
      | .copy k .. => !gone.contains k
      | _ => true } }

/-- `ROLLBACK` (R225-R228): the most severe class among the faulting strands sets the response. What the resumption acts on stays
with the strands: the faults that enter handlers, or those after which the cohort is pre-empted (R68, R139). -/
def execRollback (core : Nat) (s : State) : Host.Outcome State Fault Refusal :=
  .next (match s.coreOf core with
    | none => s
    | some c =>
      if c.run != .faulted || c.isControl then s
      else
        let fs := s.verdictOn c.coh
        match fs.find? fun x => x.2.2 == 2 with
        | some (d, f, _) =>
          let (v, t) := s.faultTval f
          t.endTask d.task 7 f.cause.code v
        | none =>
          let acted := fs.filter fun x => x.2.2 == 1
          let landed := fs.filter fun x => x.2.1.cause.neverEscalates
          let t := s.rollCohort c.coh (((if acted.isEmpty then landed else acted)).map fun x => (x.1.id, x.2.1))
          if acted.isEmpty && !landed.isEmpty then t.askPreempt c.task else t)

/-- `ROLLBACK_RESUME` (R68, R118, R187, R225, R229): once the fills of cancelled copies are installed, the strands with a fault of the
handler class enter their handlers, and the others hold; or the cohort is pre-empted at its checkpoint; or it issues again. -/
def execRollbackResume (core : Nat) (s : State) : Host.Outcome State Fault Refusal :=
  .next (match s.coreOf core with
    | none => s
    | some c =>
      let members := s.cohort c.coh
      if c.run != .rolledBack || c.isControl || members.any (fun d => d.waitFills.any fun f => s.fills.any fun x => x.id == f) then s
      else
        let acted := (sortBy (·.id) members).filterMap fun d => d.faults.head?.map fun f => (d.id, f)
        let held := acted.any fun a => !a.2.cause.neverEscalates
        let t := s.mapCores fun d =>
          if d.coh = c.coh ∧ !d.isControl then
            { (if held then d else d.applyDue d.ccy) with
              faults := [], waitFills := []
              run := if held then .heldForHandler else if d.snap.halted then .halted else .running }
          else d
        if held then
          acted.foldl (fun t a => match t.coreOf a.1 with
            | some d => if d.run = .heldForHandler then t.takeException d.id a.2 (a.2.cause.cls == 0) d.snap.pc else t
            | none => t) t
        else if acted.isEmpty then t
        else
          let stale := acted.any fun a => a.2.cause == .keygenStale
          (if stale then t.onTask c.task fun k => { k with split := true } else t).landPreempt c.coh)

end Sys2Proof.Machine
end

