-- ==== Sys2Proof/Machine/Roundel.lean ====
section
/-! DEFINITION. The roundel: ring operations at issue, at their passage and at the arrival of their results; scrubs; collecting a
result (R62, R123, R174, R188-R190, R368-R370). -/

namespace Sys2Proof.Machine

/-! ## Issue (R188, R265, R368) -/

/-- The number of a slot over all canvases. -/
def slotNum (canvas slot : Nat) : Nat := 256 * canvas + slot

/-- Whether a core may operate on a slot (R368). -/
def State.ringOwns (s : State) (c : Core) (canvas slot : Nat) : Bool :=
  if c.isControl then c.id != 515
  else
    match SMap.get none (slotNum canvas slot) s.slotOwner with
    | some p => s.partitionOf (clusterOf c.id) == some p
    | none => false

/-- Whether a q register has an operation that has not performed: gated or armed (R368). -/
def QReg.busy (q : QReg) : Bool := q.entry.isSome

/-- Reserving a q register for an operation; a result still on its way to it is written no more (R368; log 76, DESIGN CHOICE). -/
def Core.reserveQ (c : Core) (q : BitVec 2) (slot : BitVec 8) (e : RingEntry) : Core :=
  { c with r := c.r.setQ q { c.qreg q with arrived := false, err := false, slot := slot, entry := some e, result := none } }

/-- Issuing a ring operation: `x` is its scalar operand, `cmp` the compare value, `payload` the 32 bytes. On a control core a mutation is
armed at issue, else it is gated. -/
def State.ringOp (i : Instr) (kind : RingKind) (q : BitVec 2) (slot : BitVec 8) (k word : BitVec 2) (x cmp : Word)
    (payload : Payload) (s : State) : State :=
  s.run i fun s =>
    let c := s.core
    let canvas := if c.isControl then k.toNat else canvasOf c.id
    let now := kind == .rget || c.isControl
    let e : RingEntry := ⟨kind, canvas, slot.toNat, payload, x, word.toNat, cmp, c.ccy, c.r.act,
      if now then .armed s.time.gcy else .gated⟩
    if !s.ringOwns c canvas slot.toNat then s.upd fun c => c.raise 7 .ringOwner none
    else if (c.qreg q).busy then s.upd fun c => c.raise 7 .ringState (some (BitVec.ofNat 64 (0x200 + q.toNat)))
    else if now then s.upd fun c => c.reserveQ q slot e
    else
      let t := s.gate 7 0 0 0 (.ring q)
      if t.nextFill = s.nextFill then t else t.upd fun c => c.reserveQ q slot e

/-- The 32 bytes that `rput` and `rboard` name: bytes 0 to 31 of a vector register, or four scalar registers of a control core (R265). -/
def Core.ringPayload (c : Core) (v : BitVec 5) : Payload :=
  if c.isControl then
    let s := fun (k : Nat) => c.sreg (BitVec.ofNat 6 (4 * v.toNat + k))
    s 3 ++ s 2 ++ s 1 ++ s 0
  else (c.vreg v).extractLsb' 0 256

/-- `rget` (R188, R368): armed at issue. -/
def execRget (q : BitVec 2) (n : BitVec 8) (k : BitVec 2) (s : State) : Host.Outcome State Fault Refusal :=
  .next (s.ringOp (.rget q n k) .rget q n k 0 0 0 0)

/-- `rput` (R369). -/
def execRput (q : BitVec 2) (n : BitVec 8) (v : BitVec 5) (k : BitVec 2) (s : State) : Host.Outcome State Fault Refusal :=
  .next (s.ringOp (.rput q n v k) .rput q n k 0 0 0 (s.core.ringPayload v))

/-- `radd` (R369). -/
def execRadd (q : BitVec 2) (n : BitVec 8) (o : BitVec 6) (w k : BitVec 2) (s : State) : Host.Outcome State Fault Refusal :=
  .next (s.ringOp (.radd q n o w k) .radd q n k w (s.core.sreg o) 0 0)

/-- `rmax` (R369). -/
def execRmax (q : BitVec 2) (n : BitVec 8) (o : BitVec 6) (w k : BitVec 2) (s : State) : Host.Outcome State Fault Refusal :=
  .next (s.ringOp (.rmax q n o w k) .rmax q n k w (s.core.sreg o) 0 0)

/-- `rmin` (R369). -/
def execRmin (q : BitVec 2) (n : BitVec 8) (o : BitVec 6) (w k : BitVec 2) (s : State) : Host.Outcome State Fault Refusal :=
  .next (s.ringOp (.rmin q n o w k) .rmin q n k w (s.core.sreg o) 0 0)

/-- `rand` (R369). -/
def execRand (q : BitVec 2) (n : BitVec 8) (o : BitVec 6) (w k : BitVec 2) (s : State) : Host.Outcome State Fault Refusal :=
  .next (s.ringOp (.rand q n o w k) .rand q n k w (s.core.sreg o) 0 0)

/-- `ror` (R369). -/
def execRor (q : BitVec 2) (n : BitVec 8) (o : BitVec 6) (w k : BitVec 2) (s : State) : Host.Outcome State Fault Refusal :=
  .next (s.ringOp (.ror q n o w k) .ror q n k w (s.core.sreg o) 0 0)

/-- `rcas` (R369). -/
def execRcas (q : BitVec 2) (n : BitVec 8) (o : BitVec 6) (w : BitVec 2) (c : BitVec 6) (k : BitVec 2) (s : State) :
    Host.Outcome State Fault Refusal :=
  .next (s.ringOp (.rcas q n o w c k) .rcas q n k w (s.core.sreg o) (s.core.sreg c) 0)

/-- `rboard` (R369). -/
def execRboard (q : BitVec 2) (n : BitVec 8) (v : BitVec 5) (k : BitVec 2) (s : State) : Host.Outcome State Fault Refusal :=
  .next (s.ringOp (.rboard q n v k) .rboard q n k 0 0 0 (s.core.ringPayload v))

/-- `ralight` (R369). -/
def execRalight (q : BitVec 2) (n : BitVec 8) (k : BitVec 2) (s : State) : Host.Outcome State Fault Refusal :=
  .next (s.ringOp (.ralight q n k) .ralight q n k 0 0 0 0)

/-- `rcol` and `rcol.rev` (R190, R370): `word` of the value, or with `rev` the revision and the states. -/
def State.rcolOp (i : Instr) (d : BitVec 6) (q : BitVec 2) (word : Nat) (rev : Bool) (s : State) : State :=
  s.runCore i fun c =>
    let x := c.qreg q
    let gated := match x.entry with
      | some e => e.phase == .gated
      | none => false
    if x.arrived then
      if x.err then c.raise 7 .ringState (some (BitVec.ofNat 64 (x.slot.toNat + 1024 * q.toNat)))
      else if c.isControl then { c with wait := c.wait ++ [.rcol d q word rev] }
      else c.requestHold (.rcol q) (.rcolWrite d q word rev c.pc)
    else if !x.busy && x.result.isNone || gated then c.raise 7 .ringState (some (BitVec.ofNat 64 (0x100 + q.toNat)))
    else if c.isControl then { c with wait := c.wait ++ [.rcol d q word rev] }
    else c.requestHold (.rcol q) (.rcolWrite d q word rev c.pc)

/-- `rcol` (R370). -/
def execRcol (d : BitVec 6) (q w : BitVec 2) (s : State) : Host.Outcome State Fault Refusal :=
  .next (s.rcolOp (.rcol d q w) d q w.toNat false)

/-- `rcol.rev` (R370). -/
def execRcolRev (d : BitVec 6) (q : BitVec 2) (s : State) : Host.Outcome State Fault Refusal :=
  .next (s.rcolOp (.rcolRev d q) d q 0 true)

/-! ## The passage (R189, R369) -/

/-- An empty slot that nothing has used. -/
def Slot.empty : Slot := ⟨false, 0, 0⟩

/-- A payload with word `k` replaced. -/
def setPayload (p : Payload) (k : Nat) (x : Word) : Payload :=
  (p &&& ~~~((BitVec.allOnes 64).setWidth 256 <<< (64 * k))) ||| (x.setWidth 256 <<< (64 * k))

/-- The new word of an arithmetic operation. -/
def RingKind.apply (k : RingKind) (w x : Word) : Word :=
  match k with
  | .radd => w + x
  | .rmax => if w.toInt < x.toInt then x else w
  | .rmin => if x.toInt < w.toInt then x else w
  | .rand => w &&& x
  | .ror => w ||| x
  | _ => x

/-- What an operation does to its slot (R369): the slot after it, the state error, CAS_OK. -/
def RingEntry.act (e : RingEntry) (t : Slot) : Slot × Bool × Bool :=
  let w : Word := t.payload.extractLsb' (64 * e.word) 64
  let put := fun (p : Payload) => (({ t with payload := p, rev := t.rev + 1 } : Slot), false, false)
  match e.kind with
  | .rget => (t, !t.boarded, false)
  | .rput => if t.boarded then put e.payload else (t, true, false)
  | .rboard => if t.boarded then (t, true, false) else (⟨true, t.rev + 1, e.payload⟩, false, false)
  | .ralight => if t.boarded then (⟨false, t.rev + 1, 0⟩, false, false) else (t, true, false)
  | .rcas =>
    if !t.boarded then (t, true, false)
    else if w = e.cmp then (⟨true, t.rev + 1, setPayload t.payload e.word e.x⟩, false, true)
    else (t, false, false)
  | k => if t.boarded then put (setPayload t.payload e.word (k.apply w e.x)) else (t, true, false)

/-- Changing q register k; what the roundel stop holds is no part of an image, so that a line is dirty only where a result is written
(R150, R151). -/
def ArchRegs.ringQ (r : ArchRegs) (writes : Bool) (k : BitVec 2) (x : QReg) : ArchRegs :=
  if writes then r.setQ k x else { r with q := r.q.set k.toNat x k.isLt }

/-- Changing a q register for an operation under way, in the registers and, where the checkpoint holds that operation, there too (R226). -/
def Core.onRing (c : Core) (writes : Bool) (q issued : Nat) (f : QReg → QReg) : Core :=
  let k := BitVec.ofNat 2 q
  let old := c.snap.regs.q.getD q QReg.reset
  let held := (old.entry.map (·.issued) == some issued) || (old.result.map (·.issued) == some issued)
  { c with
    r := c.r.ringQ writes k (f (c.qreg k))
    snap := if held then { c.snap with regs := c.snap.regs.ringQ writes k (f old) } else c.snap }

/-- Whether a core's strand has halted, also where its core cycles stand still for a rollback or a handler. -/
def Core.strandHalted (c : Core) : Bool :=
  c.run == .halted || c.snap.halted && (c.run == .rolledBack || c.run == .heldForHandler || c.inHandler)

/-- The fault of a mark that arrives after the `halt`: of the core cycle of its arrival, which may be yet to come (R190). -/
def Core.haltMark (c : Core) : Core :=
  match c.marked with
  | none => c
  | some q =>
    let f : TrapRec := ⟨.ringState, some (c.markTval q), 7, c.lastPc⟩
    let l : Late := ⟨c.ccy, c.ccy, 7, c.lastPc, .raise f⟩
    if c.run = .halted then { c with faults := c.faults ++ [f] }
    else if c.inHandler then { c with parkedLate := c.parkedLate ++ [{ l with due := c.snap.ccy, issued := c.snap.ccy }] }
    else { c with late := c.late ++ [l] }

/-- Changing the cores with a number that meet a condition: one that holds a strand or, where none does, a saved one. -/
def State.onRingCore (id : Nat) (p : Core → Bool) (f : Core → Core) (s : State) : State :=
  let g := fun (c : Core) => if c.id = id && p c then f c else c
  if s.cores.any fun c => c.id == id && p c then s.mapCores g
  else { s with tasks := s.tasks.map fun (k : Task) =>
    if k.phase = .preempted ∨ k.phase = .parked then { k with parkedCores := k.parkedCores.map g } else k }

/-- The entry of a q register. -/
def Core.ringEntry (c : Core) (q : Nat) : Option RingEntry := (c.r.q.getD q QReg.reset).entry

/-- The core that `RING_OP_PERFORM` names, with its entry. -/
def State.performing (s : State) (id q : Nat) : Option RingEntry :=
  (s.cores ++ s.savedCores).findSome? fun c =>
    if c.id = id then (c.ringEntry q).bind fun e => if s.entryDue id e then some e else none else none

/-- The slot that an operation reaches, after it. -/
def State.actOn (e : RingEntry) (id : Nat) (s : State) : (Slot × Bool × Bool) × State :=
  let n := slotNum e.canvas e.slot
  let x := e.act (SMap.get Slot.empty n s.slots)
  (x, { s with slots := SMap.put Slot.empty n x.1 s.slots, passed := s.passed ++ [(id, e.canvas)] })

/-- `RING_OP_PERFORM` (R189, R190, R369): the result arrives 2 cycles later. -/
def execRingOpPerform (core q : Nat) (s : State) : Host.Outcome State Fault Refusal :=
  .next (match s.performing core q with
    | some e =>
      let before := SMap.get Slot.empty (slotNum e.canvas e.slot) s.slots
      let (x, t) := s.actOn e core
      let r : RingResult := ⟨before.payload, before.rev, before.boarded, x.2.2, x.2.1, e.img, e.issued, s.time.gcy + 2⟩
      t.onRingCore core (fun c => c.ringEntry q == some e) fun c =>
        c.onRing false q e.issued fun y => { y with entry := none, result := some r }
    | none =>
      match s.orphans.find? fun o => o.core == core && o.q == q && s.entryDue core o.entry with
      | some o => { (s.actOn o.entry core).2 with orphans := s.orphans.filter fun x => x != o }
      | none => s)

/-- A result reaching the q register, or the image that was active when the operation was issued (R151, R190). -/
def Core.takeResult (c : Core) (q : Nat) (r : RingResult) : Core :=
  let done := fun (y : QReg) => { y with
    val := r.val, rev := r.rev, state := r.state, casOk := r.casOk, err := r.err, arrived := true, result := none }
  if c.isControl || r.img == c.r.act then (c.onRing true q r.issued done).mendReg (· == .q (BitVec.ofNat 2 q))
  else
    let d := c.onRing false q r.issued fun y => { y with result := none }
    let b := c.imageBase r.img + 0x300 + 64 * q
    let y := done QReg.reset
    d.storeOlder (cellsAt b y.bytes)

/-- `RING_RESULT_ARRIVE` (R150, R151, R190): a mark that arrives after the strand's `halt` raises RING_STATE. -/
def execRingResultArrive (core q : Nat) (s : State) : Host.Outcome State Fault Refusal :=
  let due := fun (c : Core) => match (c.r.q.getD q QReg.reset).result with
    | some r => decide (r.arrives ≤ s.time.gcy)
    | none => false
  .next (s.onRingCore core due fun c => match (c.r.q.getD q QReg.reset).result with
    | some r =>
      let d := c.takeResult q r
      if r.err && c.strandHalted && (c.isControl || r.img == c.r.act) then d.haltMark else d
    | none => c)

/-- `ROUNDEL_SCRUB` (R62, R123): the slot becomes EMPTY with a payload of zero; its revision is a free value (log 11, DESIGN CHOICE). -/
def execRoundelScrub (canvas slot : Nat) (s : State) : Host.Outcome State Fault Refusal :=
  .next (if s.slotScrub.contains (canvas, slot) && (slot + s.time.gcy) % 256 == 1 then
      let (x, t) := s.draw
      { t with
        slots := SMap.put Slot.empty (slotNum canvas slot) ⟨false, x.extractLsb' 0 8, 0⟩ t.slots
        slotScrub := t.slotScrub.filter fun p => p != (canvas, slot) }
    else s)

end Sys2Proof.Machine
end

