-- ==== Sys2Proof/Machine/Scalar.lean ====
section
/-! DEFINITION. Slot 1, integer operations and guards (R291-R296). -/

namespace Sys2Proof.Machine

/-! ## Functions on words -/

/-- The shift count: bits 5:0 (R291). -/
def shiftOf (x : Word) : Nat := (x.extractLsb' 0 6).toNat

/-- A truth value in a scalar register. -/
def flagWord (b : Bool) : Word := if b then 1 else 0

/-- Bits 127:64 of a product (R291). -/
def mulHigh (x y : BitVec 128) : Word := (x * y).extractLsb' 64 64

/-- The signed quotient, truncated toward zero; all ones for a divisor of 0, and -2^63 for -2^63 / -1 (R292). -/
def divSigned (a b : Word) : Word := if b = 0 then BitVec.allOnes 64 else BitVec.ofInt 64 (a.toInt.tdiv b.toInt)

/-- The unsigned quotient; all ones for a divisor of 0 (R292). -/
def divUnsigned (a b : Word) : Word := if b = 0 then BitVec.allOnes 64 else BitVec.ofNat 64 (a.toNat / b.toNat)

/-- The signed remainder, of the sign of the dividend; the dividend for a divisor of 0 (R292). -/
def remSigned (a b : Word) : Word := if b = 0 then a else BitVec.ofInt 64 (a.toInt.tmod b.toInt)

/-- The unsigned remainder; the dividend for a divisor of 0 (R292). -/
def remUnsigned (a b : Word) : Word := if b = 0 then a else BitVec.ofNat 64 (a.toNat % b.toNat)

/-- Leading zeros; 64 for 0 (R291). -/
def leadingZeros (x : Word) : Word := if x = 0 then 64 else BitVec.ofNat 64 (63 - x.toNat.log2)

/-- Trailing zeros; 64 for 0 (R291). -/
def trailingZeros (x : Word) : Word :=
  BitVec.ofNat 64 (((List.range 64).find? fun i => x.getLsbD i).getD 64)

/-- One bits (R291). -/
def oneBits (x : Word) : Word := BitVec.ofNat 64 ((List.range 64).filter fun i => x.getLsbD i).length

/-- The set positions of a word, lowest first. -/
def setBits (x : Word) : List Nat := (List.range 64).filter fun i => x.getLsbD i

/-- `bext` (R291): bits of a at the set positions of b, packed from bit 0. -/
def bitExtract (a b : Word) : Word :=
  (setBits b).zipIdx.foldl (fun (r : Word) p => if a.getLsbD p.1 then r ||| (1 <<< p.2) else r) 0

/-- `bdep` (R291): low bits of a placed at the set positions of b. -/
def bitDeposit (a b : Word) : Word :=
  (setBits b).zipIdx.foldl (fun (r : Word) p => if a.getLsbD p.2 then r ||| (1 <<< p.1) else r) 0

/-- The condition codes of `gset` (R251, R295). -/
def gsetHolds (cond : BitVec 3) (a b : Word) : Bool :=
  match cond.toNat with
  | 0 => a == b
  | 1 => a != b
  | 2 => a.slt b
  | 3 => !(a.slt b)
  | 4 => a.ult b
  | 5 => !(a.ult b)
  | _ => (a &&& b) != 0

/-! ## The instructions -/

/-- `add`: sa + sb (R291). -/
def execAdd (d a b : BitVec 6) (s : State) : Host.Outcome State Fault Refusal :=
  .next (s.scalarOp (.add d a b) 0 d fun c => c.sreg a + c.sreg b)

/-- `sub`: sa - sb (R291). -/
def execSub (d a b : BitVec 6) (s : State) : Host.Outcome State Fault Refusal :=
  .next (s.scalarOp (.sub d a b) 0 d fun c => c.sreg a - c.sreg b)

/-- `and`: sa AND sb (R291). -/
def execAnd (d a b : BitVec 6) (s : State) : Host.Outcome State Fault Refusal :=
  .next (s.scalarOp (.and d a b) 0 d fun c => c.sreg a &&& c.sreg b)

/-- `or`: sa OR sb (R291). -/
def execOr (d a b : BitVec 6) (s : State) : Host.Outcome State Fault Refusal :=
  .next (s.scalarOp (.or d a b) 0 d fun c => c.sreg a ||| c.sreg b)

/-- `xor`: sa XOR sb (R291). -/
def execXor (d a b : BitVec 6) (s : State) : Host.Outcome State Fault Refusal :=
  .next (s.scalarOp (.xor d a b) 0 d fun c => c.sreg a ^^^ c.sreg b)

/-- `andn`: sa AND NOT sb (R291). -/
def execAndn (d a b : BitVec 6) (s : State) : Host.Outcome State Fault Refusal :=
  .next (s.scalarOp (.andn d a b) 0 d fun c => c.sreg a &&& ~~~c.sreg b)

/-- `orn`: sa OR NOT sb (R291). -/
def execOrn (d a b : BitVec 6) (s : State) : Host.Outcome State Fault Refusal :=
  .next (s.scalarOp (.orn d a b) 0 d fun c => c.sreg a ||| ~~~c.sreg b)

/-- `shl`: left shift by sb[5:0] (R291). -/
def execShl (d a b : BitVec 6) (s : State) : Host.Outcome State Fault Refusal :=
  .next (s.scalarOp (.shl d a b) 0 d fun c => c.sreg a <<< shiftOf (c.sreg b))

/-- `shr`: right shift with zeros by sb[5:0] (R291). -/
def execShr (d a b : BitVec 6) (s : State) : Host.Outcome State Fault Refusal :=
  .next (s.scalarOp (.shr d a b) 0 d fun c => c.sreg a >>> shiftOf (c.sreg b))

/-- `sra`: right shift with copies of the sign by sb[5:0] (R291). -/
def execSra (d a b : BitVec 6) (s : State) : Host.Outcome State Fault Refusal :=
  .next (s.scalarOp (.sra d a b) 0 d fun c => (c.sreg a).sshiftRight (shiftOf (c.sreg b)))

/-- `rotl`: rotation left by sb[5:0] (R291). -/
def execRotl (d a b : BitVec 6) (s : State) : Host.Outcome State Fault Refusal :=
  .next (s.scalarOp (.rotl d a b) 0 d fun c => (c.sreg a).rotateLeft (shiftOf (c.sreg b)))

/-- `rotr`: rotation right by sb[5:0] (R291). -/
def execRotr (d a b : BitVec 6) (s : State) : Host.Outcome State Fault Refusal :=
  .next (s.scalarOp (.rotr d a b) 0 d fun c => (c.sreg a).rotateRight (shiftOf (c.sreg b)))

/-- `slt`: 1 if sa < sb signed (R291). -/
def execSlt (d a b : BitVec 6) (s : State) : Host.Outcome State Fault Refusal :=
  .next (s.scalarOp (.slt d a b) 0 d fun c => flagWord ((c.sreg a).slt (c.sreg b)))

/-- `sltu`: 1 if sa < sb unsigned (R291). -/
def execSltu (d a b : BitVec 6) (s : State) : Host.Outcome State Fault Refusal :=
  .next (s.scalarOp (.sltu d a b) 0 d fun c => flagWord ((c.sreg a).ult (c.sreg b)))

/-- `seq`: 1 if sa = sb (R291). -/
def execSeq (d a b : BitVec 6) (s : State) : Host.Outcome State Fault Refusal :=
  .next (s.scalarOp (.seq d a b) 0 d fun c => flagWord (c.sreg a == c.sreg b))

/-- `sne`: 1 if sa differs from sb (R291). -/
def execSne (d a b : BitVec 6) (s : State) : Host.Outcome State Fault Refusal :=
  .next (s.scalarOp (.sne d a b) 0 d fun c => flagWord (c.sreg a != c.sreg b))

/-- `min`: the smaller, signed (R291). -/
def execMin (d a b : BitVec 6) (s : State) : Host.Outcome State Fault Refusal :=
  .next (s.scalarOp (.min d a b) 0 d fun c => if (c.sreg b).slt (c.sreg a) then c.sreg b else c.sreg a)

/-- `max`: the larger, signed (R291). -/
def execMax (d a b : BitVec 6) (s : State) : Host.Outcome State Fault Refusal :=
  .next (s.scalarOp (.max d a b) 0 d fun c => if (c.sreg a).slt (c.sreg b) then c.sreg b else c.sreg a)

/-- `minu`: the smaller, unsigned (R291). -/
def execMinu (d a b : BitVec 6) (s : State) : Host.Outcome State Fault Refusal :=
  .next (s.scalarOp (.minu d a b) 0 d fun c => if (c.sreg b).ult (c.sreg a) then c.sreg b else c.sreg a)

/-- `maxu`: the larger, unsigned (R291). -/
def execMaxu (d a b : BitVec 6) (s : State) : Host.Outcome State Fault Refusal :=
  .next (s.scalarOp (.maxu d a b) 0 d fun c => if (c.sreg a).ult (c.sreg b) then c.sreg b else c.sreg a)

/-- `mul`: bits 63:0 of the product (R291). -/
def execMul (d a b : BitVec 6) (s : State) : Host.Outcome State Fault Refusal :=
  .next (s.scalarOp (.mul d a b) 1 d fun c => c.sreg a * c.sreg b)

/-- `mulh`: bits 127:64 of the signed product (R291). -/
def execMulh (d a b : BitVec 6) (s : State) : Host.Outcome State Fault Refusal :=
  .next (s.scalarOp (.mulh d a b) 1 d fun c => mulHigh ((c.sreg a).signExtend 128) ((c.sreg b).signExtend 128))

/-- `mulhu`: bits 127:64 of the unsigned product (R291). -/
def execMulhu (d a b : BitVec 6) (s : State) : Host.Outcome State Fault Refusal :=
  .next (s.scalarOp (.mulhu d a b) 1 d fun c => mulHigh ((c.sreg a).setWidth 128) ((c.sreg b).setWidth 128))

/-- `div`: signed quotient (R292) (R291). -/
def execDiv (d a b : BitVec 6) (s : State) : Host.Outcome State Fault Refusal :=
  .next (s.scalarOp (.div d a b) 2 d fun c => divSigned (c.sreg a) (c.sreg b))

/-- `divu`: unsigned quotient (R292) (R291). -/
def execDivu (d a b : BitVec 6) (s : State) : Host.Outcome State Fault Refusal :=
  .next (s.scalarOp (.divu d a b) 2 d fun c => divUnsigned (c.sreg a) (c.sreg b))

/-- `rem`: signed remainder (R292) (R291). -/
def execRem (d a b : BitVec 6) (s : State) : Host.Outcome State Fault Refusal :=
  .next (s.scalarOp (.rem d a b) 2 d fun c => remSigned (c.sreg a) (c.sreg b))

/-- `remu`: unsigned remainder (R292) (R291). -/
def execRemu (d a b : BitVec 6) (s : State) : Host.Outcome State Fault Refusal :=
  .next (s.scalarOp (.remu d a b) 2 d fun c => remUnsigned (c.sreg a) (c.sreg b))

/-- `bext`: bits of sa at the set positions of sb, packed (R291). -/
def execBext (d a b : BitVec 6) (s : State) : Host.Outcome State Fault Refusal :=
  .next (s.scalarOp (.bext d a b) 0 d fun c => bitExtract (c.sreg a) (c.sreg b))

/-- `bdep`: low bits of sa at the set positions of sb (R291). -/
def execBdep (d a b : BitVec 6) (s : State) : Host.Outcome State Fault Refusal :=
  .next (s.scalarOp (.bdep d a b) 0 d fun c => bitDeposit (c.sreg a) (c.sreg b))

/-- `clz`: leading zeros of sa (R291). -/
def execClz (d a : BitVec 6) (s : State) : Host.Outcome State Fault Refusal :=
  .next (s.scalarOp (.clz d a) 0 d fun c => leadingZeros (c.sreg a))

/-- `ctz`: trailing zeros of sa (R291). -/
def execCtz (d a : BitVec 6) (s : State) : Host.Outcome State Fault Refusal :=
  .next (s.scalarOp (.ctz d a) 0 d fun c => trailingZeros (c.sreg a))

/-- `popc`: one bits of sa (R291). -/
def execPopc (d a : BitVec 6) (s : State) : Host.Outcome State Fault Refusal :=
  .next (s.scalarOp (.popc d a) 0 d fun c => oneBits (c.sreg a))

/-- `addi` (R293). -/
def execAddi (d a : BitVec 6) (i : BitVec 14) (s : State) : Host.Outcome State Fault Refusal :=
  .next (s.scalarOp (.addi d a i) 0 d fun c => c.sreg a + sext64 i)

/-- `andi` (R293). -/
def execAndi (d a : BitVec 6) (i : BitVec 14) (s : State) : Host.Outcome State Fault Refusal :=
  .next (s.scalarOp (.andi d a i) 0 d fun c => c.sreg a &&& sext64 i)

/-- `ori` (R293). -/
def execOri (d a : BitVec 6) (i : BitVec 14) (s : State) : Host.Outcome State Fault Refusal :=
  .next (s.scalarOp (.ori d a i) 0 d fun c => c.sreg a ||| zext64 i)

/-- `xori` (R293). -/
def execXori (d a : BitVec 6) (i : BitVec 14) (s : State) : Host.Outcome State Fault Refusal :=
  .next (s.scalarOp (.xori d a i) 0 d fun c => c.sreg a ^^^ zext64 i)

/-- `slti` (R293). -/
def execSlti (d a : BitVec 6) (i : BitVec 14) (s : State) : Host.Outcome State Fault Refusal :=
  .next (s.scalarOp (.slti d a i) 0 d fun c => flagWord ((c.sreg a).slt (sext64 i)))

/-- `shli` (R293). -/
def execShli (d a m : BitVec 6) (s : State) : Host.Outcome State Fault Refusal :=
  .next (s.scalarOp (.shli d a m) 0 d fun c => c.sreg a <<< m.toNat)

/-- `shri` (R293). -/
def execShri (d a m : BitVec 6) (s : State) : Host.Outcome State Fault Refusal :=
  .next (s.scalarOp (.shri d a m) 0 d fun c => c.sreg a >>> m.toNat)

/-- `srai` (R293). -/
def execSrai (d a m : BitVec 6) (s : State) : Host.Outcome State Fault Refusal :=
  .next (s.scalarOp (.srai d a m) 0 d fun c => (c.sreg a).sshiftRight m.toNat)

/-- `lui` (R293). -/
def execLui (d : BitVec 6) (i : BitVec 20) (s : State) : Host.Outcome State Fault Refusal :=
  .next (s.scalarOp (.lui d i) 0 d fun _ => sext64 i <<< 12)

/-- `sel` (R294): the guard chooses the source. -/
def execSel (d a b : BitVec 6) (g : BitVec 4) (s : State) : Host.Outcome State Fault Refusal :=
  .next (s.scalarOp (.sel d a b g) 0 d fun c => if c.guardOf g then c.sreg a else c.sreg b)

/-- An operation that writes the guards of a mask at the latency of entry 0 (R295). -/
def State.guardOp (i : Instr) (mask : BitVec 8) (f : Core → BitVec 8) (s : State) : State :=
  s.run i fun t => t.upd fun c => c.after (slotOf i) (t.lat 0) (.guards mask (f c))

/-- A truth value in every guard of a byte. -/
def spread (b : Bool) : BitVec 8 := if b then 0xFF else 0

/-- `gset` (R295). -/
def execGset (d : BitVec 3) (a b : BitVec 6) (c : BitVec 3) (s : State) : Host.Outcome State Fault Refusal :=
  .next (s.guardOp (.gset d a b c) (1 <<< d.toNat) fun k => spread (gsetHolds c (k.sreg a) (k.sreg b)))

/-- `glog` (R295). -/
def execGlog (d : BitVec 3) (a b : BitVec 4) (o : BitVec 2) (s : State) : Host.Outcome State Fault Refusal :=
  .next (s.guardOp (.glog d a b o) (1 <<< d.toNat) fun k =>
    let x := k.guardOf a
    let y := k.guardOf b
    spread (if o = 0 then x && y else if o = 1 then x || y else x != y))

/-- `gmov sd, guards` (R295). -/
def execGmovToScalar (d : BitVec 6) (s : State) : Host.Outcome State Fault Refusal :=
  .next (s.scalarOp (.gmovToScalar d) 0 d fun c => c.guardByte.setWidth 64)

/-- `gmov guards, s` (R295): all seven guards take effect at c + 1. -/
def execGmovToGuards (a : BitVec 6) (s : State) : Host.Outcome State Fault Refusal :=
  .next (s.runCore (.gmovToGuards a) fun c => c.after 1 1 (.guards 0xFE ((c.sreg a).setWidth 8)))

/-- `latq` (R296): an entry of the core's own timing table; entries 29-63 give 0. -/
def execLatq (d e : BitVec 6) (s : State) : Host.Outcome State Fault Refusal :=
  .next (s.run (.latq d e) fun t => t.upd fun c =>
    let x := if 29 ≤ e.toNat then 0 else if c.isControl then entryA0 e.toNat else t.tableEntry c.id e.toNat
    c.after 1 (t.lat 0) (.sreg d (x.setWidth 64)))

end Sys2Proof.Machine
end

