-- ==== Sys2Proof/Machine/ScalarFp.lean ====
section
/-! DEFINITION. Slot 1, scalar floating point (R297-R299). -/

namespace Sys2Proof.Machine

/-- The format that P selects (R251). -/
def precision (p : BitVec 1) : FpFmt := if p = 1 then fp64 else fp32

/-- The operand bits of a register: bits 31:0 for FP32 (R297). -/
def fpOperand (p : BitVec 1) (x : Word) : Nat := if p = 1 then x.toNat else x.toNat % 2 ^ 32

/-- The value of an operand. -/
def fpValue (p : BitVec 1) (x : Word) : FpVal := (precision p).unpack (fpOperand p x)

/-- A result in a register: FP32 leaves bits 63:32 zero. -/
def fpWord (r : Nat × BitVec 5) : Word × BitVec 5 := (BitVec.ofNat 64 r.1, r.2)

/-- An operation on two operands of one precision. -/
def fpBinary (p : BitVec 1) (x y : Word) (op : FpFmt → FpVal → FpVal → Nat × BitVec 5) : Word × BitVec 5 :=
  fpWord (op (precision p) (fpValue p x) (fpValue p y))

/-- The conversions of `fcvt` (R299). -/
def fcvtResult (p : BitVec 1) (kind : BitVec 3) (x : Word) : Word × BitVec 5 :=
  let toI := fun (lo hi : Int) => let r := (fpValue p x).toInt lo hi; (BitVec.ofInt 64 r.1, r.2)
  match kind.toNat with
  | 0 => toI (-(2 ^ 63)) (2 ^ 63 - 1)
  | 3 => toI 0 (2 ^ 64 - 1)
  | 1 => fpWord ((precision p).ofInt x.toInt)
  | 4 => fpWord ((precision p).ofInt x.toNat)
  | 2 => if p = 1 then fpWord (fp64.convert (fp32.unpack (x.toNat % 2 ^ 32))) else fpWord (fp32.convert (fp64.unpack x.toNat))
  | 5 => fpWord (bf16.convert (fpValue p x))
  | _ => fpWord ((precision p).convert (bf16.unpack (x.toNat % 2 ^ 16)))

/-- `fadd`: the sum, rounded once (R297). -/
def execFadd (d a b : BitVec 6) (p : BitVec 1) (s : State) : Host.Outcome State Fault Refusal :=
  .next (s.scalarFlags (.fadd d a b p) 3 d fun c => fpBinary p (c.sreg a) (c.sreg b) fun f x y => f.add x y)

/-- `fsub`: the difference, rounded once (R297). -/
def execFsub (d a b : BitVec 6) (p : BitVec 1) (s : State) : Host.Outcome State Fault Refusal :=
  .next (s.scalarFlags (.fsub d a b p) 3 d fun c => fpBinary p (c.sreg a) (c.sreg b) fun f x y => f.add x y.neg)

/-- `fmul`: the product, rounded once (R297). -/
def execFmul (d a b : BitVec 6) (p : BitVec 1) (s : State) : Host.Outcome State Fault Refusal :=
  .next (s.scalarFlags (.fmul d a b p) 3 d fun c => fpBinary p (c.sreg a) (c.sreg b) fun f x y => f.mul x y)

/-- `fdiv`: the quotient, rounded once (R297). -/
def execFdiv (d a b : BitVec 6) (p : BitVec 1) (s : State) : Host.Outcome State Fault Refusal :=
  .next (s.scalarFlags (.fdiv d a b p) 4 d fun c => fpBinary p (c.sreg a) (c.sreg b) fun f x y => f.div x y)

/-- `fsqrt` (R297). -/
def execFsqrt (d a : BitVec 6) (p : BitVec 1) (s : State) : Host.Outcome State Fault Refusal :=
  .next (s.scalarFlags (.fsqrt d a p) 5 d fun c => fpBinary p (c.sreg a) 0 fun f x _ => f.sqrt x)

/-- `fmin` (R207, R297). -/
def execFmin (d a b : BitVec 6) (p : BitVec 1) (s : State) : Host.Outcome State Fault Refusal :=
  .next (s.scalarFlags (.fmin d a b p) 3 d fun c =>
    fpWord ((precision p).minMax false (fpOperand p (c.sreg a)) (fpOperand p (c.sreg b))))

/-- `fmax` (R207, R297). -/
def execFmax (d a b : BitVec 6) (p : BitVec 1) (s : State) : Host.Outcome State Fault Refusal :=
  .next (s.scalarFlags (.fmax d a b p) 3 d fun c =>
    fpWord ((precision p).minMax true (fpOperand p (c.sreg a)) (fpOperand p (c.sreg b))))

/-- `fcmp` (R298): sub codes 0 `eq`, 1 `lt`, 2 `le`, 3 `un`. -/
def execFcmp (d a b : BitVec 6) (p : BitVec 1) (u : BitVec 3) (s : State) : Host.Outcome State Fault Refusal :=
  .next (s.scalarFlags (.fcmp d a b p u) 3 d fun c =>
    let r := fpRelation u.toNat (fpValue p (c.sreg a)) (fpValue p (c.sreg b))
    (BitVec.ofNat 64 r.1.toNat, r.2))

/-- `fcvt` (R299), by the kinds of R251. -/
def execFcvt (d a : BitVec 6) (p : BitVec 1) (u : BitVec 3) (s : State) : Host.Outcome State Fault Refusal :=
  .next (s.scalarFlags (.fcvt d a p u) 3 d fun c => fcvtResult p u (c.sreg a))

/-- `fclass` (R298). -/
def execFclass (d a : BitVec 6) (p : BitVec 1) (s : State) : Host.Outcome State Fault Refusal :=
  .next (s.scalarFlags (.fclass d a p) 3 d fun c => (BitVec.ofNat 64 ((precision p).classMask (fpOperand p (c.sreg a))), 0))

/-- `fmadd`: sa * sb + sc, rounded once (R297). -/
def execFmadd (d a b c : BitVec 6) (p : BitVec 1) (s : State) : Host.Outcome State Fault Refusal :=
  .next (s.scalarFlags (.fmadd d a b c p) 3 d fun k =>
    fpWord ((precision p).fma (fpValue p (k.sreg a)) (fpValue p (k.sreg b)) (fpValue p (k.sreg c))))

end Sys2Proof.Machine
end

