-- ==== Sys2Proof/Machine/System.lean ====
section
/-! DEFINITION. Slot 7: converters and the system instructions of control cores (R203, R204, R375-R379). -/

namespace Sys2Proof.Machine

/-! ## The QF6 converter (R203, R204) -/

/-- QF6: a sign, 3 exponent bits of bias 3, 2 mantissa bits, no infinity and no NaN. -/
def qf6 : FpFmt := ⟨3, 2⟩

/-- The value of a QF6 code. -/
def qf6Value (x : Nat) : FpVal :=
  let neg := x.testBit 5
  let ex := bitsOf x 4 2
  if ex = 0 then .num neg (x % 4) (-4) else .num neg (x % 4 + 4) (ex - 5)

/-- The QF6 code of an FP value, with its flags (R203). -/
def qf6Of (a : FpVal) : Nat × BitVec 5 :=
  match a with
  | .nan _ => (0, flagNV)
  | .inf n => (32 * n.toNat + 31, flagOF)
  | .num n m e =>
    if m = 0 then (32 * n.toNat, 0)
    else
      let (packed, flags) := qf6.roundMag m e false
      if 31 < packed then (32 * n.toNat + 31, flagOF ||| flagNX) else (32 * n.toNat + packed, flags)

/-- Element i of a 6-bit stream (R204). -/
def qf6At (x : Vec) (i : Nat) : Nat := (x.extractLsb' (6 * i) 6).toNat

/-- The functions of the QF6 converter: none where the code is not one of them (R375). -/
def qf6Call (fn : Nat) (x : Vec) : Option (Vec × BitVec 5) :=
  let pack := fun (w : Nat) (rs : List (Nat × BitVec 5)) => some (packLanes w (rs.map (·.1)), orFlags (rs.map (·.2)))
  match fn with
  | 0 => pack 32 ((List.range 32).map fun i => fp32.convert (qf6Value (qf6At x i)))
  | 1 => pack 16 ((List.range 64).map fun i => bf16.convert (qf6Value (qf6At x i)))
  | 2 => pack 6 ((List.range 32).map fun i => qf6Of (fp32.unpack (x.extractLsb' (32 * i) 32).toNat))
  | 3 => pack 6 ((List.range 64).map fun i => qf6Of (bf16.unpack (x.extractLsb' (16 * i) 16).toNat))
  | _ => none

/-- What the converter of a core makes of a vector: none without such a converter or function (R175, R375). -/
def State.convertBy (s : State) (core ident fn : Nat) (x : Vec) : Option (Vec × BitVec 5) :=
  if s.overpaints.any fun o => o.core == core && o.role == 1 && o.format == ident then
    (if ident = 6 then qf6Call fn x else Config.converter ident fn x)
  else none

/-- `fxcall` (R375). -/
def execFxcall (d a : BitVec 5) (i : BitVec 8) (f : BitVec 4) (s : State) : Host.Outcome State Fault Refusal :=
  .next (s.run (.fxcall d a i f) fun s =>
    let c := s.core
    match s.convertBy c.id i.toNat f.toNat (c.vreg a) with
    | some (x, flags) => s.upd fun c => (c.after 7 (s.lat 11) (.vreg d x)).after 7 (s.lat 11) (.events (Events.ofFlags flags))
    | none => s.upd fun c => c.raise 7 .illegalOp (some (BitVec.ofNat 64 (i.toNat + 256 * f.toNat))))

/-! ## Images and overpaints (R376-R378) -/

/-- The data of a data unit under the Curator's key; of one without data, which is reported, free values (R85, log 11, DESIGN CHOICE). -/
def State.unitBytes (index : Nat) (s : State) : List Byte × State :=
  match s.unitRead index .curator with
  | some x => (lineBytes x, s)
  | none =>
    let (v, t) := (s.reportPoison index).draw
    let (w, t) := t.draw
    (leBytes 64 v.toNat ++ leBytes 64 w.toNat, t)

/-- The bytes of a range of an extent, or of `lcl`, that a control core reads for `iload`. -/
def State.imageBytes (e : BitVec 4) (off n : Nat) (s : State) : List Byte × State :=
  if e = lclCode then (s.core.lcl.readBytes off n, s)
  else
    match s.core.extent e with
    | none => ([], s)
    | some x =>
      match x.backing, s.deviceBytes x off n with
      | .nc, _ | .l2, _ =>
        let as := x.addresses off n
        let (units, t) := (distinct (as.map (· / 128))).foldl (fun (p : SMap (List Byte) × State) i =>
          let (bs, t) := p.2.unitBytes i
          (p.1 ++ [(i, bs)], t)) ([], s)
        (as.map fun a => (SMap.get [] (a / 128) units).getD (a % 128) 0, t)
      | _, .ok bs => (bs, s)
      | _, .error _ => ([], s)

/-- The checks of a source range, and the core after them: a read of `lcl` sets CHECKED (R163, R166, R270). -/
def Core.readSource (c : Core) (e : BitVec 4) (off n : Nat) : Except (Cause × Option Word) Core :=
  if e = lclCode then
    match c.lclFault off n 1 with
    | some f => .error f
    | none => c.readPlates none (physRange 0 off n)
  else
    match c.extFault e off n 1 .load fun _ => true with
    | some f => .error f
    | none => .ok c

/-- Bytes written into the IMEM of a compute core: its seal slots are cleared and its B buffer zeroed (R79, R169, R376). -/
def State.loadImem (core at' : Nat) (bs : List Byte) (s : State) : State :=
  let f := fun (c : Core) => Core.mend { c with
      imem := c.imem.writeBytes at' bs, sealSlots := (none, none)
      eng := { c.eng with bbuf := [], half := false, bsealed := false } } fun x => match x with
        | .imem off => decide (at' ≤ off) && decide (off < at' + bs.length)
        | .register (.bbuf _) _ => true
        | _ => false
  match s.coreOf core with
  | some _ => s.onCore core f
  | none => s.addCores [f (Core.fresh core .ended .task ArchRegs.reset 0)]

/-- `iload` (R376). -/
def execIload (e : BitVec 4) (x c n : BitVec 6) (s : State) : Host.Outcome State Fault Refusal :=
  let i := Instr.iload e x c n
  .next (s.run i fun s =>
    let k := s.core
    let sel := k.sreg c
    let len := (k.sreg n).toNat
    let first := (sel.extractLsb' 16 12).toNat
    let off := (k.sreg x).toNat
    if sel &&& ~~~0x0FFF01FF ≠ 0 ∨ len = 0 ∨ len % 32 ≠ 0 ∨ 4096 < first + len / 32 then s.upd fun c => c.illegal i
    else
      match k.readSource e off len with
      | .error f => s.upd fun c => c.raiseF 7 f
      | .ok k =>
        let (bs, t) := State.imageBytes e off len { s with core := k }
        t.loadImem (sel.extractLsb' 0 9).toNat (32 * first) bs)

/-- One data unit of a column image in HBM, shifted in: the bytes of it that lie in the 6 MiB from `base` on go to the place of the column; a unit
without data is reported, and leaves free values (R85, log 11, DESIGN CHOICE). -/
def State.shiftUnit (base place : Nat) (s : State) (index : Nat) : State :=
  let put := fun (bytes : List Byte) (t : State) =>
    { t with shadow := t.shadow.writeCells (((cellsAt (128 * index) bytes).filter fun b =>
        b.2 != 0 && decide (base ≤ b.1) && decide (b.1 < base + 6291456)).map fun b => (place + (b.1 - base), b.2)) }
  if s.unitRead index .curator = some 0 then s
  else
    let (bytes, t) := s.unitBytes index
    put bytes t

/-- A column image shifted into the shadow configuration from an extent. -/
def State.shiftColumn (x : Extent) (off column : Nat) (s : State) : State :=
  let base := x.address off
  let place := 6291456 * column
  let t := { s with
    shadow := s.shadow.clear place 6291456
    shifted := if s.shifted.contains column then s.shifted else s.shifted ++ [column] }
  if x.backing = .nc then ((List.range (6291456 / 128 + 1)).map (base / 128 + ·)).foldl (State.shiftUnit base place) t
  else { t with shadow := Memory.copyRange s.flash base 6291456 place t.shadow }

/-- `ovpload` (R135, R377): the Conservator stops issue for the 786,432 cycles of the shift. -/
def execOvpload (e : BitVec 4) (x c : BitVec 6) (s : State) : Host.Outcome State Fault Refusal :=
  let i := Instr.ovpload e x c
  .next (s.run i fun s =>
    let k := s.core
    let off := (k.sreg x).toNat
    if k.sreg c &&& ~~~0x3F ≠ 0 then s.upd fun c => c.illegal i
    else
      match k.readSource e off 6291456, k.extent e with
      | .error f, _ => s.upd fun c => c.raiseF 7 f
      | .ok _, some y =>
        (s.shiftColumn y off (k.sreg c).toNat).upd fun c => { c with wait := c.wait ++ [.clocks 786432] }
      | .ok _, none => s)

/-- `gcommit` (R53, R378): the first condition that holds refuses it. -/
def execGcommit (c : BitVec 6) (s : State) : Host.Outcome State Fault Refusal :=
  .next (s.run (.gcommit c) fun s =>
    let core := ((s.core.sreg c).extractLsb' 0 9).toNat
    let reason :=
      if (s.cs core).state ≠ 3 then 1 else if !s.shifted.contains (columnOf core) then 2 else if s.noFwUpdate core none then 3 else 0
    if reason ≠ 0 then s.upd fun c => c.raise 7 .privilege (some (BitVec.ofNat 64 (core + 2 ^ 16 * reason)))
    else s.commitRegion core)

/-! ## Debug reads (R379) -/

/-- `dbgrd` (R379): no plate check is made; a CHECKED that an earlier slot of its own bundle has set is not seen. -/
def execDbgrd (d w : BitVec 6) (k : BitVec 2) (s : State) : Host.Outcome State Fault Refusal :=
  .next (s.run (.dbgrd d w k) fun s => s.upd fun c =>
    let off := (c.sreg w).toNat
    let v := some (BitVec.ofNat 64 off)
    let put := fun (x : Word) => c.after 7 (s.lat 6) (.sreg d x)
    match k.toNat with
    | 0 =>
      if c.lclSize / 4096 ≤ off then c.raise 7 .extentBound v
      else put { c.plate off with checked := (c.plate off).checked && !c.checkedNow.contains off }.word
    | 1 =>
      match c.lclFault off 8 8 with
      | some f => c.raiseF 7 f
      | none =>
        if (c.sealedOff (offsets off 8)).isSome then c.raise 7 .sealedDebug v
        else
          match c.badWord (offsets off 8) with
          | some f => c.raiseF 7 f
          | none => put (BitVec.ofNat 64 (c.lcl.readNat off 8))
    | _ =>
      if 32760 < off then c.raise 7 .extentBound v
      else if off % 8 ≠ 0 then c.raise 7 .misaligned v
      else if c.eng.bsealed then c.raise 7 .sealedDebug v
      else
        match c.badReg (· == .bbuf (off / 8)) with
        | some f => c.raiseF 7 f
        | none => put (BitVec.ofNat 64 (c.eng.bbuf.readNat off 8)))

end Sys2Proof.Machine
end

