-- ==== Sys2Proof/Machine/VectorA.lean ====
section
/-! DEFINITION. Slot 3: vector A (R309-R314). -/

namespace Sys2Proof.Machine

/-- `vadd` (R309). -/
def execVadd (d a b : BitVec 5) (t : BitVec 3) (s : State) : Host.Outcome State Fault Refusal :=
  .next (s.vectorOp (.vadd d a b t) (arithEntry t) d fun c => zipLanes t (laneAdd t) (c.vreg a) (c.vreg b))

/-- `vsub` (R309). -/
def execVsub (d a b : BitVec 5) (t : BitVec 3) (s : State) : Host.Outcome State Fault Refusal :=
  .next (s.vectorOp (.vsub d a b t) (arithEntry t) d fun c => zipLanes t (laneSub t) (c.vreg a) (c.vreg b))

/-- `vmul` (R309). -/
def execVmul (d a b : BitVec 5) (t : BitVec 3) (s : State) : Host.Outcome State Fault Refusal :=
  .next (s.vectorOp (.vmul d a b t) (arithEntry t) d fun c => zipLanes t (laneMul t) (c.vreg a) (c.vreg b))

/-- `vfma` (R309). -/
def execVfma (d a b : BitVec 5) (t : BitVec 3) (c : BitVec 5) (s : State) : Host.Outcome State Fault Refusal :=
  .next (s.vectorOp (.vfma d a b t c) (arithEntry t) d fun k => zip3Lanes t (laneFma t false) (k.vreg a) (k.vreg b) (k.vreg c))

/-- `vfms` (R309). -/
def execVfms (d a b : BitVec 5) (t : BitVec 3) (c : BitVec 5) (s : State) : Host.Outcome State Fault Refusal :=
  .next (s.vectorOp (.vfms d a b t c) (arithEntry t) d fun k => zip3Lanes t (laneFma t true) (k.vreg a) (k.vreg b) (k.vreg c))

/-- `vmin` (R309). -/
def execVmin (d a b : BitVec 5) (t : BitVec 3) (s : State) : Host.Outcome State Fault Refusal :=
  .next (s.vectorOp (.vmin d a b t) 8 d fun c => zipLanes t (laneMinMax t false) (c.vreg a) (c.vreg b))

/-- `vmax` (R309). -/
def execVmax (d a b : BitVec 5) (t : BitVec 3) (s : State) : Host.Outcome State Fault Refusal :=
  .next (s.vectorOp (.vmax d a b t) 8 d fun c => zipLanes t (laneMinMax t true) (c.vreg a) (c.vreg b))

/-- `vabs` (R309). -/
def execVabs (d a : BitVec 5) (t : BitVec 3) (s : State) : Host.Outcome State Fault Refusal :=
  .next (s.vectorOp (.vabs d a t) 8 d fun c => mapLanes t (laneAbs t) (c.vreg a))

/-- `vneg` (R309). -/
def execVneg (d a : BitVec 5) (t : BitVec 3) (s : State) : Host.Outcome State Fault Refusal :=
  .next (s.vectorOp (.vneg d a t) 8 d fun c => mapLanes t (laneNeg t) (c.vreg a))

/-- `vand` (R310). -/
def execVand (d a b : BitVec 5) (t : BitVec 3) (s : State) : Host.Outcome State Fault Refusal :=
  .next (s.vectorOp (.vand d a b t) 8 d fun c => (c.vreg a &&& c.vreg b, Events.none))

/-- `vor` (R310). -/
def execVor (d a b : BitVec 5) (t : BitVec 3) (s : State) : Host.Outcome State Fault Refusal :=
  .next (s.vectorOp (.vor d a b t) 8 d fun c => (c.vreg a ||| c.vreg b, Events.none))

/-- `vxor` (R310). -/
def execVxor (d a b : BitVec 5) (t : BitVec 3) (s : State) : Host.Outcome State Fault Refusal :=
  .next (s.vectorOp (.vxor d a b t) 8 d fun c => (c.vreg a ^^^ c.vreg b, Events.none))

/-- `vnot` (R310). -/
def execVnot (d a : BitVec 5) (t : BitVec 3) (s : State) : Host.Outcome State Fault Refusal :=
  .next (s.vectorOp (.vnot d a t) 8 d fun c => (~~~c.vreg a, Events.none))

/-- `vshl` (R310). -/
def execVshl (d a b : BitVec 5) (t : BitVec 3) (s : State) : Host.Outcome State Fault Refusal :=
  .next (s.vectorOp (.vshl d a b t) 8 d fun c => zipLanes t (laneShift t 0) (c.vreg a) (c.vreg b))

/-- `vshr` (R310). -/
def execVshr (d a b : BitVec 5) (t : BitVec 3) (s : State) : Host.Outcome State Fault Refusal :=
  .next (s.vectorOp (.vshr d a b t) 8 d fun c => zipLanes t (laneShift t 1) (c.vreg a) (c.vreg b))

/-- `vsra` (R310). -/
def execVsra (d a b : BitVec 5) (t : BitVec 3) (s : State) : Host.Outcome State Fault Refusal :=
  .next (s.vectorOp (.vsra d a b t) 8 d fun c => zipLanes t (laneShift t 2) (c.vreg a) (c.vreg b))

/-- `vcmpeq` (R311). -/
def execVcmpeq (d : BitVec 3) (a b : BitVec 5) (t : BitVec 3) (s : State) : Host.Outcome State Fault Refusal :=
  .next (s.maskOp (.vcmpeq d a b t) 8 d fun c => compareLanes t 0 (c.vreg a) (c.vreg b))

/-- `vcmplt` (R311). -/
def execVcmplt (d : BitVec 3) (a b : BitVec 5) (t : BitVec 3) (s : State) : Host.Outcome State Fault Refusal :=
  .next (s.maskOp (.vcmplt d a b t) 8 d fun c => compareLanes t 1 (c.vreg a) (c.vreg b))

/-- `vcmple` (R311). -/
def execVcmple (d : BitVec 3) (a b : BitVec 5) (t : BitVec 3) (s : State) : Host.Outcome State Fault Refusal :=
  .next (s.maskOp (.vcmple d a b t) 8 d fun c => compareLanes t 2 (c.vreg a) (c.vreg b))

/-- `vsel` (R312): bits n(ty)-127 of the mask are ignored. -/
def execVsel (d a b : BitVec 5) (t m : BitVec 3) (s : State) : Host.Outcome State Fault Refusal :=
  .next (s.vectorOp (.vsel d a b t m) 8 d fun c =>
    (packLanes (laneBits t) ((List.range (laneCount t)).map fun i =>
      if (c.mreg m).getLsbD i then laneAt t (c.vreg a) i else laneAt t (c.vreg b) i), Events.none))

/-- `vmov` (R312). -/
def execVmov (d a : BitVec 5) (s : State) : Host.Outcome State Fault Refusal :=
  .next (s.vectorOp (.vmov d a) 8 d fun c => (c.vreg a, Events.none))

/-- `vsplat` (R256, R312). -/
def execVsplat (d : BitVec 5) (t : BitVec 3) (i : BitVec 16) (s : State) : Host.Outcome State Fault Refusal :=
  .next (s.vectorOp (.vsplat d t i) 8 d fun _ => (fillLanes t (splatValue t i), Events.none))

/-- `vext` (R312). -/
def execVext (d a : BitVec 5) (t : BitVec 3) (l : BitVec 7) (s : State) : Host.Outcome State Fault Refusal :=
  .next (s.vectorOp (.vext d a t l) 8 d fun c => (fillLanes t (laneAt t (c.vreg a) l.toNat), Events.none))

/-- `vins` (R312): the other elements keep the value of vd at issue. -/
def execVins (d a : BitVec 5) (t : BitVec 3) (l : BitVec 7) (s : State) : Host.Outcome State Fault Refusal :=
  .next (s.vectorOp (.vins d a t l) 8 d fun c =>
    (packLanes (laneBits t) ((lanes t (c.vreg d)).set l.toNat (laneAt t (c.vreg a) 0)), Events.none))

/-- `vcvt` (R313). -/
def execVcvt (d a : BitVec 5) (t src : BitVec 3) (s : State) : Host.Outcome State Fault Refusal :=
  .next (s.vectorOp (.vcvt d a t src) 10 d fun c =>
    gather (laneBits t) (((lanes src (c.vreg a)).take (min (laneCount t) (laneCount src))).map (laneConvert t src)))

/-- `vidx` (R312). -/
def execVidx (d : BitVec 5) (t : BitVec 3) (s : State) : Host.Outcome State Fault Refusal :=
  .next (s.vectorOp (.vidx d t) 8 d fun _ =>
    (packLanes (laneBits t) ((List.range (laneCount t)).map fun (i : Nat) => (ofIntLane t i).1), Events.none))

/-- `mand` (R314). -/
def execMand (d a b : BitVec 3) (s : State) : Host.Outcome State Fault Refusal :=
  .next (s.maskOp (.mand d a b) 8 d fun c => (c.mreg a &&& c.mreg b, Events.none))

/-- `mor` (R314). -/
def execMor (d a b : BitVec 3) (s : State) : Host.Outcome State Fault Refusal :=
  .next (s.maskOp (.mor d a b) 8 d fun c => (c.mreg a ||| c.mreg b, Events.none))

/-- `mxor` (R314). -/
def execMxor (d a b : BitVec 3) (s : State) : Host.Outcome State Fault Refusal :=
  .next (s.maskOp (.mxor d a b) 8 d fun c => (c.mreg a ^^^ c.mreg b, Events.none))

/-- `mnot` (R314). -/
def execMnot (d a : BitVec 3) (s : State) : Host.Outcome State Fault Refusal :=
  .next (s.maskOp (.mnot d a) 8 d fun c => (~~~c.mreg a, Events.none))

/-- `mpop` (R314). -/
def execMpop (a : BitVec 3) (d : BitVec 5) (s : State) : Host.Outcome State Fault Refusal :=
  .next (s.vectorOp (.mpop a d) 8 d fun c => (fillLanes 3 (maskBits (c.mreg a)).length, Events.none))

/-- `mfirst` (R314): 128 where no bit is set. -/
def execMfirst (a : BitVec 3) (d : BitVec 5) (s : State) : Host.Outcome State Fault Refusal :=
  .next (s.vectorOp (.mfirst a d) 8 d fun c => (fillLanes 3 ((maskBits (c.mreg a)).headD 128), Events.none))

end Sys2Proof.Machine
end

