-- ==== Sys2Proof/Machine/VectorB.lean ====
section
/-! DEFINITION. Slot 4: vector B (R309, R315-R321). -/

namespace Sys2Proof.Machine

/-- `vexp` (R315). -/
def execVexp (d a : BitVec 5) (t : BitVec 3) (s : State) : Host.Outcome State Fault Refusal :=
  .next (s.vectorOp (.vexp d a t) 11 d fun c => mapLanes t (laneFn t fun f x => f.exp x) (c.vreg a))

/-- `vexp2` (R315). -/
def execVexp2 (d a : BitVec 5) (t : BitVec 3) (s : State) : Host.Outcome State Fault Refusal :=
  .next (s.vectorOp (.vexp2 d a t) 11 d fun c => mapLanes t (laneFn t fun f x => f.exp2 x) (c.vreg a))

/-- `vlog2` (R315). -/
def execVlog2 (d a : BitVec 5) (t : BitVec 3) (s : State) : Host.Outcome State Fault Refusal :=
  .next (s.vectorOp (.vlog2 d a t) 11 d fun c => mapLanes t (laneFn t fun f x => f.log2 x) (c.vreg a))

/-- `vrcp` (R315). -/
def execVrcp (d a : BitVec 5) (t : BitVec 3) (s : State) : Host.Outcome State Fault Refusal :=
  .next (s.vectorOp (.vrcp d a t) 11 d fun c => mapLanes t (laneFn t fun f x => f.rcp x) (c.vreg a))

/-- `vrsqrt` (R315). -/
def execVrsqrt (d a : BitVec 5) (t : BitVec 3) (s : State) : Host.Outcome State Fault Refusal :=
  .next (s.vectorOp (.vrsqrt d a t) 11 d fun c => mapLanes t (laneFn t fun f x => f.rsqrt x) (c.vreg a))

/-- `vsqrt` (R315). -/
def execVsqrt (d a : BitVec 5) (t : BitVec 3) (s : State) : Host.Outcome State Fault Refusal :=
  .next (s.vectorOp (.vsqrt d a t) 11 d fun c => mapLanes t (laneFn t fun f x => f.sqrt x) (c.vreg a))

/-- `vdiv` (R315). -/
def execVdiv (d a b : BitVec 5) (t : BitVec 3) (s : State) : Host.Outcome State Fault Refusal :=
  .next (s.vectorOp (.vdiv d a b t) 12 d fun c => zipLanes t (laneDiv t) (c.vreg a) (c.vreg b))

/-- `vtanh` (R315). -/
def execVtanh (d a : BitVec 5) (t : BitVec 3) (s : State) : Host.Outcome State Fault Refusal :=
  .next (s.vectorOp (.vtanh d a t) 13 d fun c => mapLanes t (laneFn t fun f x => f.tanh x) (c.vreg a))

/-- `vsigm` (R315). -/
def execVsigm (d a : BitVec 5) (t : BitVec 3) (s : State) : Host.Outcome State Fault Refusal :=
  .next (s.vectorOp (.vsigm d a t) 13 d fun c => mapLanes t (laneFn t fun f x => f.sigm x) (c.vreg a))

/-- `vredsum` (R316). -/
def execVredsum (d a : BitVec 5) (t : BitVec 3) (s : State) : Host.Outcome State Fault Refusal :=
  .next (s.vectorOp (.vredsum d a t) 14 d fun c => reduceLanes t (wideAdd t) (c.vreg a))

/-- `vredmax` (R316). -/
def execVredmax (d a : BitVec 5) (t : BitVec 3) (s : State) : Host.Outcome State Fault Refusal :=
  .next (s.vectorOp (.vredmax d a t) 14 d fun c => reduceLanes t (wideMinMax t true) (c.vreg a))

/-- `vredmin` (R316). -/
def execVredmin (d a : BitVec 5) (t : BitVec 3) (s : State) : Host.Outcome State Fault Refusal :=
  .next (s.vectorOp (.vredmin d a t) 14 d fun c => reduceLanes t (wideMinMax t false) (c.vreg a))

/-- `vscan` (R317). -/
def execVscan (d a : BitVec 5) (t : BitVec 3) (s : State) : Host.Outcome State Fault Refusal :=
  .next (s.vectorOp (.vscan d a t) 15 d fun c => scanLanes t (c.vreg a))

/-- `vsortk` (R318): values to vd, original indices to vc. -/
def execVsortk (d a : BitVec 5) (t : BitVec 3) (c : BitVec 5) (s : State) : Host.Outcome State Fault Refusal :=
  .next (s.run (.vsortk d a t c) fun u => u.upd fun k =>
    let r := sortLanes t (k.vreg a)
    (k.after 4 (u.lat 16) (.vreg d (packLanes (laneBits t) (r.map (·.1))))).after 4 (u.lat 16)
      (.vreg c (packLanes (laneBits t) (r.map (·.2)))))

/-- `vperm` (R319). -/
def execVperm (d a b : BitVec 5) (t : BitVec 3) (s : State) : Host.Outcome State Fault Refusal :=
  .next (s.vectorOp (.vperm d a b t) 8 d fun c =>
    (packLanes (laneBits t) ((lanes t (c.vreg b)).map fun j => laneAt t (c.vreg a) (j % laneCount t)), Events.none))

/-- `vrotl` (R319): each element moves k places toward higher indices. -/
def execVrotl (d a : BitVec 5) (t : BitVec 3) (l : BitVec 7) (s : State) : Host.Outcome State Fault Refusal :=
  .next (s.vectorOp (.vrotl d a t l) 8 d fun c =>
    let n := laneCount t
    (packLanes (laneBits t) ((List.range n).map fun i => laneAt t (c.vreg a) ((i + n - l.toNat) % n)), Events.none))

/-- `vpack` (R320). -/
def execVpack (d a b : BitVec 5) (t src : BitVec 3) (q : BitVec 1) (s : State) : Host.Outcome State Fault Refusal :=
  .next (s.vectorOp (.vpack d a b t src q) 8 d fun c => packPairs t src q (c.vreg a) (c.vreg b))

/-- `vunpack` (R320). -/
def execVunpack (d a : BitVec 5) (t src : BitVec 3) (h q : BitVec 1) (s : State) : Host.Outcome State Fault Refusal :=
  .next (s.vectorOp (.vunpack d a t src h q) 8 d fun c => unpackHalf t src h q (c.vreg a))

/-- `vrnd` (R321). -/
def execVrnd (d a b : BitVec 5) (t : BitVec 3) (s : State) : Host.Outcome State Fault Refusal :=
  .next (s.vectorOp (.vrnd d a b t) 17 d fun c =>
    (rndLanes t (laneAt 6 (c.vreg a) 0) (laneAt 6 (c.vreg b) 0), Events.none))

/-- `vadd` in slot 4 (R309). -/
def execVbVadd (d a b : BitVec 5) (t : BitVec 3) (s : State) : Host.Outcome State Fault Refusal :=
  .next (s.vectorOp (.vbVadd d a b t) (arithEntry t) d fun c => zipLanes t (laneAdd t) (c.vreg a) (c.vreg b))

/-- `vmul` in slot 4 (R309). -/
def execVbVmul (d a b : BitVec 5) (t : BitVec 3) (s : State) : Host.Outcome State Fault Refusal :=
  .next (s.vectorOp (.vbVmul d a b t) (arithEntry t) d fun c => zipLanes t (laneMul t) (c.vreg a) (c.vreg b))

/-- `vfma` in slot 4 (R309). -/
def execVbVfma (d a b : BitVec 5) (t : BitVec 3) (c : BitVec 5) (s : State) : Host.Outcome State Fault Refusal :=
  .next (s.vectorOp (.vbVfma d a b t c) (arithEntry t) d fun k => zip3Lanes t (laneFma t false) (k.vreg a) (k.vreg b) (k.vreg c))

end Sys2Proof.Machine
end

