-- ==== Sys2Proof/Machine/Dispatch.lean ====
section
/-! DEFINITION. The one match from instructions to their meanings. -/

namespace Sys2Proof.Machine

def exec (i : Instr) (s : State) : Host.Outcome State Fault Refusal :=
  match i with
  | .nop => Sys2Proof.Machine.execNop s
  | .br g t => Sys2Proof.Machine.execBr g t s
  | .jmp t => Sys2Proof.Machine.execJmp t s
  | .jmpr a => Sys2Proof.Machine.execJmpr a s
  | .call t => Sys2Proof.Machine.execCall t s
  | .ret => Sys2Proof.Machine.execRet s
  | .loop c l => Sys2Proof.Machine.execLoop c l s
  | .loopr a l => Sys2Proof.Machine.execLoopr a l s
  | .lbrk g => Sys2Proof.Machine.execLbrk g s
  | .ckpt src => Sys2Proof.Machine.execCkpt src s
  | .ckptP src => Sys2Proof.Machine.execCkptP src s
  | .halt => Sys2Proof.Machine.execHalt s
  | .trap c => Sys2Proof.Machine.execTrap c s
  | .tret => Sys2Proof.Machine.execTret s
  | .wgcy a => Sys2Proof.Machine.execWgcy a s
  | .scall c => Sys2Proof.Machine.execScall c s
  | .rswap => Sys2Proof.Machine.execRswap s
  | .idle n => Sys2Proof.Machine.execIdle n s
  | .brk c => Sys2Proof.Machine.execBrk c s
  | .add d a b => Sys2Proof.Machine.execAdd d a b s
  | .sub d a b => Sys2Proof.Machine.execSub d a b s
  | .and d a b => Sys2Proof.Machine.execAnd d a b s
  | .or d a b => Sys2Proof.Machine.execOr d a b s
  | .xor d a b => Sys2Proof.Machine.execXor d a b s
  | .andn d a b => Sys2Proof.Machine.execAndn d a b s
  | .orn d a b => Sys2Proof.Machine.execOrn d a b s
  | .shl d a b => Sys2Proof.Machine.execShl d a b s
  | .shr d a b => Sys2Proof.Machine.execShr d a b s
  | .sra d a b => Sys2Proof.Machine.execSra d a b s
  | .rotl d a b => Sys2Proof.Machine.execRotl d a b s
  | .rotr d a b => Sys2Proof.Machine.execRotr d a b s
  | .slt d a b => Sys2Proof.Machine.execSlt d a b s
  | .sltu d a b => Sys2Proof.Machine.execSltu d a b s
  | .seq d a b => Sys2Proof.Machine.execSeq d a b s
  | .sne d a b => Sys2Proof.Machine.execSne d a b s
  | .min d a b => Sys2Proof.Machine.execMin d a b s
  | .max d a b => Sys2Proof.Machine.execMax d a b s
  | .minu d a b => Sys2Proof.Machine.execMinu d a b s
  | .maxu d a b => Sys2Proof.Machine.execMaxu d a b s
  | .mul d a b => Sys2Proof.Machine.execMul d a b s
  | .mulh d a b => Sys2Proof.Machine.execMulh d a b s
  | .mulhu d a b => Sys2Proof.Machine.execMulhu d a b s
  | .div d a b => Sys2Proof.Machine.execDiv d a b s
  | .divu d a b => Sys2Proof.Machine.execDivu d a b s
  | .rem d a b => Sys2Proof.Machine.execRem d a b s
  | .remu d a b => Sys2Proof.Machine.execRemu d a b s
  | .clz d a => Sys2Proof.Machine.execClz d a s
  | .ctz d a => Sys2Proof.Machine.execCtz d a s
  | .popc d a => Sys2Proof.Machine.execPopc d a s
  | .bext d a b => Sys2Proof.Machine.execBext d a b s
  | .bdep d a b => Sys2Proof.Machine.execBdep d a b s
  | .addi d a imm => Sys2Proof.Machine.execAddi d a imm s
  | .andi d a imm => Sys2Proof.Machine.execAndi d a imm s
  | .ori d a imm => Sys2Proof.Machine.execOri d a imm s
  | .xori d a imm => Sys2Proof.Machine.execXori d a imm s
  | .slti d a imm => Sys2Proof.Machine.execSlti d a imm s
  | .shli d a m => Sys2Proof.Machine.execShli d a m s
  | .shri d a m => Sys2Proof.Machine.execShri d a m s
  | .srai d a m => Sys2Proof.Machine.execSrai d a m s
  | .lui d imm => Sys2Proof.Machine.execLui d imm s
  | .sel d a b g => Sys2Proof.Machine.execSel d a b g s
  | .gset d a b c => Sys2Proof.Machine.execGset d a b c s
  | .glog d a b o => Sys2Proof.Machine.execGlog d a b o s
  | .gmovToScalar src => Sys2Proof.Machine.execGmovToScalar src s
  | .gmovToGuards src => Sys2Proof.Machine.execGmovToGuards src s
  | .latq d e => Sys2Proof.Machine.execLatq d e s
  | .fadd d a b p => Sys2Proof.Machine.execFadd d a b p s
  | .fsub d a b p => Sys2Proof.Machine.execFsub d a b p s
  | .fmul d a b p => Sys2Proof.Machine.execFmul d a b p s
  | .fdiv d a b p => Sys2Proof.Machine.execFdiv d a b p s
  | .fsqrt d a p => Sys2Proof.Machine.execFsqrt d a p s
  | .fmin d a b p => Sys2Proof.Machine.execFmin d a b p s
  | .fmax d a b p => Sys2Proof.Machine.execFmax d a b p s
  | .fcmp d a b p u => Sys2Proof.Machine.execFcmp d a b p u s
  | .fcvt d a p u => Sys2Proof.Machine.execFcvt d a p u s
  | .fclass d a p => Sys2Proof.Machine.execFclass d a p s
  | .fmadd d a b c p => Sys2Proof.Machine.execFmadd d a b c p s
  | .ldB d e x imm => Sys2Proof.Machine.execLdB d e x imm s
  | .ldBz d e x imm => Sys2Proof.Machine.execLdBz d e x imm s
  | .ldH d e x imm => Sys2Proof.Machine.execLdH d e x imm s
  | .ldHz d e x imm => Sys2Proof.Machine.execLdHz d e x imm s
  | .ldW d e x imm => Sys2Proof.Machine.execLdW d e x imm s
  | .ldWz d e x imm => Sys2Proof.Machine.execLdWz d e x imm s
  | .ldD d e x imm => Sys2Proof.Machine.execLdD d e x imm s
  | .stB v e x g imm => Sys2Proof.Machine.execStB v e x g imm s
  | .stH v e x g imm => Sys2Proof.Machine.execStH v e x g imm s
  | .stW v e x g imm => Sys2Proof.Machine.execStW v e x g imm s
  | .stD v e x g imm => Sys2Proof.Machine.execStD v e x g imm s
  | .aadd d x v g => Sys2Proof.Machine.execAadd d x v g s
  | .aand d x v g => Sys2Proof.Machine.execAand d x v g s
  | .aor d x v g => Sys2Proof.Machine.execAor d x v g s
  | .axor d x v g => Sys2Proof.Machine.execAxor d x v g s
  | .amin d x v g => Sys2Proof.Machine.execAmin d x v g s
  | .amax d x v g => Sys2Proof.Machine.execAmax d x v g s
  | .aminu d x v g => Sys2Proof.Machine.execAminu d x v g s
  | .amaxu d x v g => Sys2Proof.Machine.execAmaxu d x v g s
  | .aswap d x v g => Sys2Proof.Machine.execAswap d x v g s
  | .acas d x n g => Sys2Proof.Machine.execAcas d x n g s
  | .lockb m n => Sys2Proof.Machine.execLockb m n s
  | .csrr d c => Sys2Proof.Machine.execCsrr d c s
  | .csrw a c => Sys2Proof.Machine.execCsrw a c s
  | .csrs a c => Sys2Proof.Machine.execCsrs a c s
  | .csrc a c => Sys2Proof.Machine.execCsrc a c s
  | .fence p src k => Sys2Proof.Machine.execFence p src k s
  | .idr d imm => Sys2Proof.Machine.execIdr d imm s
  | .vadd d a b t => Sys2Proof.Machine.execVadd d a b t s
  | .vsub d a b t => Sys2Proof.Machine.execVsub d a b t s
  | .vmul d a b t => Sys2Proof.Machine.execVmul d a b t s
  | .vfma d a b t c => Sys2Proof.Machine.execVfma d a b t c s
  | .vfms d a b t c => Sys2Proof.Machine.execVfms d a b t c s
  | .vmin d a b t => Sys2Proof.Machine.execVmin d a b t s
  | .vmax d a b t => Sys2Proof.Machine.execVmax d a b t s
  | .vabs d a t => Sys2Proof.Machine.execVabs d a t s
  | .vneg d a t => Sys2Proof.Machine.execVneg d a t s
  | .vand d a b t => Sys2Proof.Machine.execVand d a b t s
  | .vor d a b t => Sys2Proof.Machine.execVor d a b t s
  | .vxor d a b t => Sys2Proof.Machine.execVxor d a b t s
  | .vnot d a t => Sys2Proof.Machine.execVnot d a t s
  | .vshl d a b t => Sys2Proof.Machine.execVshl d a b t s
  | .vshr d a b t => Sys2Proof.Machine.execVshr d a b t s
  | .vsra d a b t => Sys2Proof.Machine.execVsra d a b t s
  | .vcmpeq d a b t => Sys2Proof.Machine.execVcmpeq d a b t s
  | .vcmplt d a b t => Sys2Proof.Machine.execVcmplt d a b t s
  | .vcmple d a b t => Sys2Proof.Machine.execVcmple d a b t s
  | .vsel d a b t m => Sys2Proof.Machine.execVsel d a b t m s
  | .vmov d a => Sys2Proof.Machine.execVmov d a s
  | .vsplat d t imm => Sys2Proof.Machine.execVsplat d t imm s
  | .vext d a t l => Sys2Proof.Machine.execVext d a t l s
  | .vins d a t l => Sys2Proof.Machine.execVins d a t l s
  | .vcvt d a t src => Sys2Proof.Machine.execVcvt d a t src s
  | .vidx d t => Sys2Proof.Machine.execVidx d t s
  | .mand d a b => Sys2Proof.Machine.execMand d a b s
  | .mor d a b => Sys2Proof.Machine.execMor d a b s
  | .mxor d a b => Sys2Proof.Machine.execMxor d a b s
  | .mnot d a => Sys2Proof.Machine.execMnot d a s
  | .mpop a d => Sys2Proof.Machine.execMpop a d s
  | .mfirst a d => Sys2Proof.Machine.execMfirst a d s
  | .vexp d a t => Sys2Proof.Machine.execVexp d a t s
  | .vexp2 d a t => Sys2Proof.Machine.execVexp2 d a t s
  | .vlog2 d a t => Sys2Proof.Machine.execVlog2 d a t s
  | .vrcp d a t => Sys2Proof.Machine.execVrcp d a t s
  | .vrsqrt d a t => Sys2Proof.Machine.execVrsqrt d a t s
  | .vsqrt d a t => Sys2Proof.Machine.execVsqrt d a t s
  | .vdiv d a b t => Sys2Proof.Machine.execVdiv d a b t s
  | .vtanh d a t => Sys2Proof.Machine.execVtanh d a t s
  | .vsigm d a t => Sys2Proof.Machine.execVsigm d a t s
  | .vredsum d a t => Sys2Proof.Machine.execVredsum d a t s
  | .vredmax d a t => Sys2Proof.Machine.execVredmax d a t s
  | .vredmin d a t => Sys2Proof.Machine.execVredmin d a t s
  | .vscan d a t => Sys2Proof.Machine.execVscan d a t s
  | .vsortk d a t c => Sys2Proof.Machine.execVsortk d a t c s
  | .vperm d a b t => Sys2Proof.Machine.execVperm d a b t s
  | .vrotl d a t l => Sys2Proof.Machine.execVrotl d a t l s
  | .vpack d a b t src q => Sys2Proof.Machine.execVpack d a b t src q s
  | .vunpack d a t src h q => Sys2Proof.Machine.execVunpack d a t src h q s
  | .vrnd d a b t => Sys2Proof.Machine.execVrnd d a b t s
  | .vbVfma d a b t c => Sys2Proof.Machine.execVbVfma d a b t c s
  | .vbVadd d a b t => Sys2Proof.Machine.execVbVadd d a b t s
  | .vbVmul d a b t => Sys2Proof.Machine.execVbVmul d a b t s
  | .vld v e x l imm => Sys2Proof.Machine.execVld v e x l imm s
  | .vst v e x l g m imm => Sys2Proof.Machine.execVst v e x l g m imm s
  | .vlds v e x l z => Sys2Proof.Machine.execVlds v e x l z s
  | .vsts v e x l g m z => Sys2Proof.Machine.execVsts v e x l g m z s
  | .vgath v e x l b => Sys2Proof.Machine.execVgath v e x l b s
  | .vscat v e x l g m b => Sys2Proof.Machine.execVscat v e x l g m b s
  | .vldb d e x l z imm => Sys2Proof.Machine.execVldb d e x l z imm s
  | .tcfg t src => Sys2Proof.Machine.execTcfg t src s
  | .tld t e x l => Sys2Proof.Machine.execTld t e x l s
  | .tst t e x l => Sys2Proof.Machine.execTst t e x l s
  | .trowv v t imm h => Sys2Proof.Machine.execTrowv v t imm h s
  | .tvrow v t imm h => Sys2Proof.Machine.execTvrow v t imm h s
  | .tcolv v t imm h => Sys2Proof.Machine.execTcolv v t imm h s
  | .tvcol v t imm h => Sys2Proof.Machine.execTvcol v t imm h s
  | .tzero t => Sys2Proof.Machine.execTzero t s
  | .tsave t e x => Sys2Proof.Machine.execTsave t e x s
  | .trest t e x => Sys2Proof.Machine.execTrest t e x s
  | .mnest k l f a => Sys2Proof.Machine.execMnest k l f a s
  | .mfmt e f a => Sys2Proof.Machine.execMfmt e f a s
  | .mspar a => Sys2Proof.Machine.execMspar a s
  | .msparOff => Sys2Proof.Machine.execMsparOff s
  | .mtree a => Sys2Proof.Machine.execMtree a s
  | .mtreeOff => Sys2Proof.Machine.execMtreeOff s
  | .msel c m f => Sys2Proof.Machine.execMsel c m f s
  | .mselOff => Sys2Proof.Machine.execMselOff s
  | .mgo b => Sys2Proof.Machine.execMgo b s
  | .macc c r a f m => Sys2Proof.Machine.execMacc c r a f m s
  | .mzero m => Sys2Proof.Machine.execMzero m s
  | .mret c a f m => Sys2Proof.Machine.execMret c a f m s
  | .mstat a => Sys2Proof.Machine.execMstat a s
  | .mabort => Sys2Proof.Machine.execMabort s
  | .mrest => Sys2Proof.Machine.execMrest s
  | .cpy f e l x n y => Sys2Proof.Machine.execCpy f e l x n y s
  | .cpy2 f e l x n y => Sys2Proof.Machine.execCpy2 f e l x n y s
  | .mwait p => Sys2Proof.Machine.execMwait p s
  | .cflush e x n => Sys2Proof.Machine.execCflush e x n s
  | .cinv e x n => Sys2Proof.Machine.execCinv e x n s
  | .send l a r src => Sys2Proof.Machine.execSend l a r src s
  | .recv l d t => Sys2Proof.Machine.execRecv l d t s
  | .rget q src k => Sys2Proof.Machine.execRget q src k s
  | .rput q src v k => Sys2Proof.Machine.execRput q src v k s
  | .radd q src o w k => Sys2Proof.Machine.execRadd q src o w k s
  | .rmax q src o w k => Sys2Proof.Machine.execRmax q src o w k s
  | .rmin q src o w k => Sys2Proof.Machine.execRmin q src o w k s
  | .rand q src o w k => Sys2Proof.Machine.execRand q src o w k s
  | .ror q src o w k => Sys2Proof.Machine.execRor q src o w k s
  | .rcas q src o w c k => Sys2Proof.Machine.execRcas q src o w c k s
  | .rboard q src v k => Sys2Proof.Machine.execRboard q src v k s
  | .ralight q src k => Sys2Proof.Machine.execRalight q src k s
  | .rcol d q w => Sys2Proof.Machine.execRcol d q w s
  | .rcolRev d q => Sys2Proof.Machine.execRcolRev d q s
  | .gpass d src o p n => Sys2Proof.Machine.execGpass d src o p n s
  | .kvcommit e p n => Sys2Proof.Machine.execKvcommit e p n s
  | .coll e p o t => Sys2Proof.Machine.execColl e p o t s
  | .cwait d => Sys2Proof.Machine.execCwait d s
  | .fxcall d a imm f => Sys2Proof.Machine.execFxcall d a imm f s
  | .iload e x c n => Sys2Proof.Machine.execIload e x c n s
  | .ovpload e x c => Sys2Proof.Machine.execOvpload e x c s
  | .gcommit c => Sys2Proof.Machine.execGcommit c s
  | .dbgrd d w k => Sys2Proof.Machine.execDbgrd d w k s
  | .pauseExpire n vl => Sys2Proof.Machine.execPauseExpire n vl s
  | .linkDown n => Sys2Proof.Machine.execLinkDown n s
  | .timeFlitQueue => Sys2Proof.Machine.execTimeFlitQueue s
  | .slewStep => Sys2Proof.Machine.execSlewStep s
  | .levelChange coh => Sys2Proof.Machine.execLevelChange coh s
  | .domainReport n => Sys2Proof.Machine.execDomainReport n s
  | .dispatchWindow => Sys2Proof.Machine.execDispatchWindow s
  | .taskStart task => Sys2Proof.Machine.execTaskStart task s
  | .pboundKill task => Sys2Proof.Machine.execPboundKill task s
  | .takeover => Sys2Proof.Machine.execTakeover s
  | .holdTakeEffect core => Sys2Proof.Machine.execHoldTakeEffect core s
  | .holdEnd core => Sys2Proof.Machine.execHoldEnd core s
  | .lockExpire core => Sys2Proof.Machine.execLockExpire core s
  | .nestStep core => Sys2Proof.Machine.execNestStep core s
  | .rollback core => Sys2Proof.Machine.execRollback core s
  | .rollbackResume core => Sys2Proof.Machine.execRollbackResume core s
  | .cohortEnd core => Sys2Proof.Machine.execCohortEnd core s
  | .ringOpPerform core q => Sys2Proof.Machine.execRingOpPerform core q s
  | .ringResultArrive core q => Sys2Proof.Machine.execRingResultArrive core q s
  | .roundelScrub canvas slot => Sys2Proof.Machine.execRoundelScrub canvas slot s
  | .registerWrite w => Sys2Proof.Machine.execRegisterWrite w s
  | .packageReset damaged failed flit => Sys2Proof.Machine.execPackageReset damaged failed flit s
  | .drbgReseed => Sys2Proof.Machine.execDrbgReseed s
  | .linkTrain n ok delay => Sys2Proof.Machine.execLinkTrain n ok delay s
  | .flitSend n data => Sys2Proof.Machine.execFlitSend n data s
  | .flitReceive n flit taken => Sys2Proof.Machine.execFlitReceive n flit taken s
  | .linkRetrain n ok crossing => Sys2Proof.Machine.execLinkRetrain n ok crossing s
  | .gcyalign who val => Sys2Proof.Machine.execGcyalign who val s
  | .pwrmap who c val => Sys2Proof.Machine.execPwrmap who c val s
  | .regctl who n val => Sys2Proof.Machine.execRegctl who n val s
  | .powerInterval n est power => Sys2Proof.Machine.execPowerInterval n est power s
  | .doorbell v q val => Sys2Proof.Machine.execDoorbell v q val s
  | .kickmapClear who w val => Sys2Proof.Machine.execKickmapClear who w val s
  | .lqbaseWrite v q val be => Sys2Proof.Machine.execLqbaseWrite v q val be s
  | .lqcfgWrite v q val be => Sys2Proof.Machine.execLqcfgWrite v q val be s
  | .cqbaseWrite v val be => Sys2Proof.Machine.execCqbaseWrite v val be s
  | .cqcfgWrite v val be => Sys2Proof.Machine.execCqcfgWrite v val be s
  | .cqheadWrite v val => Sys2Proof.Machine.execCqheadWrite v val s
  | .completionRecordWrite v => Sys2Proof.Machine.execCompletionRecordWrite v s
  | .vfbindWrite v val => Sys2Proof.Machine.execVfbindWrite v val s
  | .s2inv val => Sys2Proof.Machine.execS2inv val s
  | .lockedSetWrite v reg w => Sys2Proof.Machine.execLockedSetWrite v reg w s
  | .ideStreamLoss v => Sys2Proof.Machine.execIdeStreamLoss v s
  | .vfFlr v => Sys2Proof.Machine.execVfFlr v s
  | .pfReset => Sys2Proof.Machine.execPfReset s
  | .vfResetDone v => Sys2Proof.Machine.execVfResetDone v s
  | .getTdispVersion v => Sys2Proof.Machine.execGetTdispVersion v s
  | .getTdispCapabilities v => Sys2Proof.Machine.execGetTdispCapabilities v s
  | .getDeviceInterfaceState v => Sys2Proof.Machine.execGetDeviceInterfaceState v s
  | .lockInterfaceRequest v flags => Sys2Proof.Machine.execLockInterfaceRequest v flags s
  | .getDeviceInterfaceReport v offset length => Sys2Proof.Machine.execGetDeviceInterfaceReport v offset length s
  | .startInterfaceRequest v nonce => Sys2Proof.Machine.execStartInterfaceRequest v nonce s
  | .stopInterfaceRequest v => Sys2Proof.Machine.execStopInterfaceRequest v s
  | .bindP2pStreamRequest v => Sys2Proof.Machine.execBindP2pStreamRequest v s
  | .unbindP2pStreamRequest v => Sys2Proof.Machine.execUnbindP2pStreamRequest v s
  | .setMmioAttributeRequest v => Sys2Proof.Machine.execSetMmioAttributeRequest v s
  | .tdispVendorRequest v => Sys2Proof.Machine.execTdispVendorRequest v s
  | .tdidone who val => Sys2Proof.Machine.execTdidone who val s
  | .tdictlLock who v val => Sys2Proof.Machine.execTdictlLock who v val s
  | .tdictlRun who v val => Sys2Proof.Machine.execTdictlRun who v val s
  | .tdictlError who v val => Sys2Proof.Machine.execTdictlError who v val s
  | .tdictlUnlock who v val => Sys2Proof.Machine.execTdictlUnlock who v val s
  | .getMeasurements v index => Sys2Proof.Machine.execGetMeasurements v index s
  | .spdmRequest v tdisp msg => Sys2Proof.Machine.execSpdmRequest v tdisp msg s
  | .ideKm stream secure => Sys2Proof.Machine.execIdeKm stream secure s
  | .worldCreate mb world policy parts => Sys2Proof.Machine.execWorldCreate mb world policy parts s
  | .worldRekey mb world => Sys2Proof.Machine.execWorldRekey mb world s
  | .worldDestroy mb world => Sys2Proof.Machine.execWorldDestroy mb world s
  | .worldDestroyDone world => Sys2Proof.Machine.execWorldDestroyDone world s
  | .worldExport mb world => Sys2Proof.Machine.execWorldExport mb world s
  | .worldImport mb world policy wrapped parts => Sys2Proof.Machine.execWorldImport mb world policy wrapped parts s
  | .sealInstall mb sealId policy key => Sys2Proof.Machine.execSealInstall mb sealId policy key s
  | .sealRemove mb sealId => Sys2Proof.Machine.execSealRemove mb sealId s
  | .frameReencrypt world frame => Sys2Proof.Machine.execFrameReencrypt world frame s
  | .generationRetire world => Sys2Proof.Machine.execGenerationRetire world s
  | .fetch who v q arg dmaOk => Sys2Proof.Machine.execFetch who v q arg dmaOk s
  | .start who v q arg dma => Sys2Proof.Machine.execStart who v q arg dma s
  | .invalidationComplete stage2 task => Sys2Proof.Machine.execInvalidationComplete stage2 task s
  | .translation task => Sys2Proof.Machine.execTranslation task s
  | .dispatchDecision task places anchor => Sys2Proof.Machine.execDispatchDecision task places anchor s
  | .quantumExpire task other => Sys2Proof.Machine.execQuantumExpire task other s
  | .preemptRequest task => Sys2Proof.Machine.execPreemptRequest task s
  | .taskResume task places => Sys2Proof.Machine.execTaskResume task places s
  | .jcommit who val => Sys2Proof.Machine.execJcommit who val s
  | .jcrcSeal who pos => Sys2Proof.Machine.execJcrcSeal who pos s
  | .jcrcCheck who pos => Sys2Proof.Machine.execJcrcCheck who pos s
  | .resume who => Sys2Proof.Machine.execResume who s
  | .curctlRelease who => Sys2Proof.Machine.execCurctlRelease who s
  | .assign who frame owner => Sys2Proof.Machine.execAssign who frame owner s
  | .release who frame => Sys2Proof.Machine.execRelease who frame s
  | .read who frame => Sys2Proof.Machine.execRead who frame s
  | .fotNop who => Sys2Proof.Machine.execFotNop who s
  | .scrubComplete frame => Sys2Proof.Machine.execScrubComplete frame s
  | .fillInstall fill ecc => Sys2Proof.Machine.execFillInstall fill ecc s
  | .releasedEffectPerform => Sys2Proof.Machine.execReleasedEffectPerform s
  | .cinvPerform => Sys2Proof.Machine.execCinvPerform s
  | .l2col who g val => Sys2Proof.Machine.execL2col who g val s
  | .columnChangeDone g => Sys2Proof.Machine.execColumnChangeDone g s
  | .hbmRetrain stack ok => Sys2Proof.Machine.execHbmRetrain stack ok s
  | .unitErrorDetect e => Sys2Proof.Machine.execUnitErrorDetect e s
  | .errhead who val => Sys2Proof.Machine.execErrhead who val s
  | .corestate who n val => Sys2Proof.Machine.execCorestate who n val s
  | .timingTableWrite who n e val => Sys2Proof.Machine.execTimingTableWrite who n e val s
  | .checkOverpaint who req => Sys2Proof.Machine.execCheckOverpaint who req s
  | .selfTest who req => Sys2Proof.Machine.execSelfTest who req s
  | .selfTestDone pass badPlots => Sys2Proof.Machine.execSelfTestDone pass badPlots s
  | .dropCore who req => Sys2Proof.Machine.execDropCore who req s
  | .postLoadOutcome who req => Sys2Proof.Machine.execPostLoadOutcome who req s
  | .collectiveStatusArrive group status remote => Sys2Proof.Machine.execCollectiveStatusArrive group status remote s
  | .debugPortScan core off => Sys2Proof.Machine.execDebugPortScan core off s
  | .uncachedCopySourceArrival core copy => Sys2Proof.Machine.execUncachedCopySourceArrival core copy s
  | .firmwareImageUpdate image copies => Sys2Proof.Machine.execFirmwareImageUpdate image copies s
  | .modulePowerOff => Sys2Proof.Machine.execModulePowerOff s

end Sys2Proof.Machine
end

