-- ==== Sys2Proof/Machine/Step.lean ====
section
/-! DEFINITION. One step of the part, and the placing of a word where the next step fetches it. -/

namespace Sys2Proof.Machine

/-- One step: an event runs whole; a word of a bundle runs on the focal core, and the core's turn goes on or ends. -/
def step (s : State) : Host.Outcome State Fault Refusal :=
  match s.nextAction with
  | .stop => .fault .noPower
  | .event i t => exec i t
  | .word i t =>
    match exec i t with
    | .next u => .next u.endOp
    | .fault f => .fault f
    | .refused r => .refused r

/-- The state with a slot word placed where the next step fetches it: in the slot in which the opcode table's word is read, in a
bundle of no-ops (log 2, DESIGN CHOICE, log 3, DESIGN CHOICE). -/
def State.withFetchWord (s : State) (nbits w : Nat) : State :=
  if nbits = 0 then s
  else
    match tableSlot (BitVec.ofNat 32 w) with
    | some (k, i) => s.placeWord k (BitVec.ofNat 32 w) i
    | none => s.placeWord 0 (BitVec.ofNat 32 w) .nop

end Sys2Proof.Machine
end

