-- ==== Sys2Proof/Safety.lean ====
section
/-! DEFINITION. What a safe run is: no step stops, and the memories of the part keep their canonical form. -/

namespace Sys2Proof.Machine

/-- A step that neither faults nor is refused. -/
def State.goesOn (s : State) : Bool :=
  match step s with
  | .next _ => true
  | _ => false

/-- Every memory of a core is in canonical form. -/
def Core.memWf (c : Core) : Bool := c.imem.wf && c.lcl.wf

/-- Every memory of the part is in canonical form. -/
def State.memWf (s : State) : Bool :=
  s.core.memWf && s.others.all Core.memWf && s.hbm.wf && s.hostMem.wf && s.flash.wf && s.tdiRsp.wf
    && s.cur.journal0.wf && s.cur.journal1.wf && s.shadow.wf && s.active.wf

end Sys2Proof.Machine
end

