-- ==== Sys2Proof/Certificates/Slice0/Obligations.lean ====
section
/-! DEFINITION. The statements about the machine, for the provers. -/

namespace Sys2Proof.Cert

open Sys2Proof.Machine

/-! ## Words that the statements share -/

/-- None of the checks of issue stops the instruction (R240-R243), no word that it reads is bad and no comparison of twins fails on it (R139,
R163), and no unit that it uses is condemned without a bypass (R131). -/
def Issues (i : Instr) (s : State) : Prop :=
  s.core.issueFault i = none ∧ s.core.strikes i = none ∧ (unitsOf i).any s.dead = false

/-- The focal core with an operation of slot k in flight, due n core cycles on: all else of it is unchanged. -/
def coreLater (c : Core) (k n : Nat) (e : Effect) : Core :=
  { c with late := c.late ++ [⟨c.ccy + n, c.ccy, k, c.pc, e⟩] }

/-- The state with that operation in flight on the focal core: nothing else changes. -/
def later (s : State) (k n : Nat) (e : Effect) : State := { s with core := coreLater s.core k n e }

/-- The state with another focal core. -/
def withCore (s : State) (c : Core) : State := { s with core := c }

/-- The focal core with one more fault. -/
def faulted (s : State) (slot : Nat) (cause : Cause) (tval : Option Word) : State :=
  withCore s { s.core with faults := s.core.faults ++ [⟨cause, tval, slot, s.core.pc⟩] }

/-- ILLEGAL_OP that an instruction of slot k raises at issue: csr.tval holds its word in bits 31:0 and the slot in bits 34:32 (R239). -/
def illegalAt (s : State) (k : Nat) (i : Instr) : State :=
  faulted s k .illegalOp (some (BitVec.ofNat 64 ((encode i).toNat + 2 ^ 32 * k)))

/-- An instruction of slot k that, once issued, only writes scalar register d, at the latency of table entry e (R144). -/
def ScalarResult (i : Instr) (k e : Nat) (d : BitVec 6) (f : Core → Word) : Prop :=
  ∀ s, Issues i s → exec i s = .next (later s k (s.lat e) (.sreg d (f s.core)))

/-- The same with flags that are applied with the result (R215). -/
def FpResult (i : Instr) (e : Nat) (d : BitVec 6) (f : Core → Word × BitVec 5) : Prop :=
  ∀ s, Issues i s → exec i s =
    .next (later (later s 1 (s.lat e) (.sreg d (f s.core).1)) 1 (s.lat e) (.events ⟨(f s.core).2, 0, 0, 0, 0⟩))

/-- An instruction that, once issued, only writes vector register d, with the flags and counts of its lanes (R215). -/
def VectorResult (i : Instr) (k e : Nat) (d : BitVec 5) (f : Core → Vec × Events) : Prop :=
  ∀ s, Issues i s → exec i s =
    .next (later (later s k (s.lat e) (.vreg d (f s.core).1)) k (s.lat e) (.events (f s.core).2))

/-- An instruction that, once issued, only writes mask register d. -/
def MaskResult (i : Instr) (e : Nat) (d : BitVec 3) (f : Core → Mask × Events) : Prop :=
  ∀ s, Issues i s → exec i s =
    .next (later (later s 3 (s.lat e) (.mreg d (f s.core).1)) 3 (s.lat e) (.events (f s.core).2))

/-- The focal core with a fault that an operation issued now takes at core cycle t (R158, R159). -/
def lateFault (s : State) (c : Core) (slot t : Nat) (cause : Cause) (tval : Option Word) : State :=
  withCore s { c with late := c.late ++ [⟨t, c.ccy, slot, c.pc, .raise ⟨cause, tval, slot, c.pc⟩⟩] }

/-- The state with one more effect of the focal core held until the next release (R193). -/
def gatedBy (s : State) (c : Core) (slot cls reserved reads : Nat) (eff : OutEffect) : State :=
  { (withCore s { c with gated := c.gated ++
      [⟨s.nextFill, c.id, clusterOf c.id, c.strand, c.ccy, slot, cls, reads, reserved, eff⟩] }) with nextFill := s.nextFill + 1 }

/-- The state with one more effect of the focal core that has left it (R193, R301). -/
def leftBy (s : State) (slot cls : Nat) (eff : OutEffect) : State :=
  { s with
    released := s.released ++
      [⟨s.nextFill, s.core.id, clusterOf s.core.id, s.core.strand, s.core.ccy, slot, cls, 0, 0, eff⟩]
    nextFill := s.nextFill + 1 }

/-- A truth value as a word. -/
def word01 (b : Prop) [Decidable b] : Word := if b then 1 else 0

/-- The focal core after a taken branch: the target is the next PC, and the no-op bundles of entry 27 follow (R281). -/
def branched (s : State) (target : BitVec 17) : State :=
  withCore s { s.core with nextPc := some (target &&& 0x1FFE0), idle := s.core.idle + s.lat 27 }

/-- The PC of bundle t. -/
def pcOf (t : BitVec 12) : BitVec 17 := BitVec.ofNat 17 (32 * t.toNat)

end Sys2Proof.Cert

open Sys2Proof Sys2Proof.Machine Sys2Proof.Cert

/-! ## Slot 0 -/

/-- R280: branches and calls; a target in a register that is not a multiple of 32 raises MISALIGNED. -/
def Obligations.BranchesGoToTheirTargets : Prop :=
  ∀ s : State,
    (Issues .nop s → exec .nop s = .next s) ∧
    (∀ g t, Issues (.br g t) s → exec (.br g t) s = .next (if s.core.guardOf g then branched s (pcOf t) else s)) ∧
    (∀ t, Issues (.jmp t) s → exec (.jmp t) s = .next (branched s (pcOf t))) ∧
    (∀ a, Issues (.jmpr a) s → (s.core.sreg a).toNat % 32 = 0 →
      exec (.jmpr a) s = .next (branched s (BitVec.ofNat 17 (s.core.sreg a).toNat))) ∧
    (∀ a, Issues (.jmpr a) s → (s.core.sreg a).toNat % 32 ≠ 0 →
      exec (.jmpr a) s = .next (faulted s 0 .misaligned (some (s.core.sreg a)))) ∧
    (∀ t, Issues (.call t) s → exec (.call t) s =
      .next (branched (later s 0 (s.lat 0) (.sreg 62 ((s.core.pc + 32).setWidth 64))) (pcOf t))) ∧
    (Issues .ret s → (s.core.sreg 62).toNat % 32 = 0 →
      exec .ret s = .next (branched s (BitVec.ofNat 17 (s.core.sreg 62).toNat))) ∧
    (Issues .ret s → (s.core.sreg 62).toNat % 32 ≠ 0 →
      exec .ret s = .next (faulted s 0 .misaligned (some (s.core.sreg 62))))

/-- R282, R283: opening a loop, skipping one of count 0, breaking out of one, and the faults of a full and of an empty loop stack. What a
loop instruction does to the loop stack waits in `loopAct` until the next PC is chosen, with the bundle's other words issued: `nextPos` then
pushes or pops the entry. -/
def Obligations.LoopsOpenAndBreak : Prop :=
  ∀ s : State,
    (∀ n l, Issues (.loop n l) s → n ≠ 0 → s.core.loops.length < 6 → exec (.loop n l) s =
      .next (withCore s { s.core with
        loopAct := some (some ⟨s.core.pc + 32, l.toNat + 1, BitVec.ofNat 32 n.toNat, 0⟩) })) ∧
    (∀ l, Issues (.loop 0 l) s → exec (.loop 0 l) s =
      .next (branched s (s.core.pc + 32 + BitVec.ofNat 17 (32 * (l.toNat + 1))))) ∧
    (∀ n l, Issues (.loop n l) s → n ≠ 0 → 6 ≤ s.core.loops.length → exec (.loop n l) s =
      .next (faulted s 0 .illegalOp (some 6))) ∧
    (∀ a l, Issues (.loopr a l) s → s.core.sreg a ≠ 0 → s.core.loops.length < 6 → exec (.loopr a l) s =
      .next (withCore s { s.core with
        loopAct := some (some ⟨s.core.pc + 32, l.toNat + 1, BitVec.ofNat 32 (min (s.core.sreg a).toNat (2 ^ 32 - 1)), 0⟩) })) ∧
    (∀ a l, Issues (.loopr a l) s → s.core.sreg a = 0 → exec (.loopr a l) s =
      .next (branched s (s.core.pc + 32 + BitVec.ofNat 17 (32 * (l.toNat + 1))))) ∧
    (∀ a l, Issues (.loopr a l) s → s.core.sreg a ≠ 0 → 6 ≤ s.core.loops.length → exec (.loopr a l) s =
      .next (faulted s 0 .illegalOp (some 6))) ∧
    (∀ c : Core, ∀ x, c.loopAct = some (some x) → c.nextPc = none → c.nextPos = (c.pc + 32, x :: c.loops)) ∧
    (∀ c : Core, ∀ t e es, c.loopAct = some none → c.loops = e :: es → c.nextPc = some t → c.nextPos = (t, es)) ∧
    (∀ g, Issues (.lbrk g) s → s.core.guardOf g = false → exec (.lbrk g) s = .next s) ∧
    (∀ g e es, Issues (.lbrk g) s → s.core.guardOf g = true → s.core.loops = e :: es → exec (.lbrk g) s =
      .next (branched (withCore s { s.core with loopAct := some none }) (e.start + BitVec.ofNat 17 (32 * e.len)))) ∧
    (∀ g, Issues (.lbrk g) s → s.core.guardOf g = true → s.core.loops = [] → exec (.lbrk g) s =
      .next (faulted s 0 .illegalOp (some 0)))

/-- R181, R217, R284, R236: a marker whose stamp is the low 12 bits of CCY asks for a checkpoint; another raises STAMP_DEVIATION; on a
control core a marker does nothing; in a handler it raises ILLEGAL_OP. -/
def Obligations.CheckpointMarkers : Prop :=
  ∀ (s : State) (x : BitVec 12),
    (Issues (.ckpt x) s → s.core.isControl = false → s.core.inh = false → x.toNat = s.core.ccy % 4096 →
      exec (.ckpt x) s = .next (withCore s { s.core with ckptWord := some (x, false) })) ∧
    (Issues (.ckptP x) s → s.core.isControl = false → s.core.inh = false → x.toNat = s.core.ccy % 4096 →
      exec (.ckptP x) s = .next (withCore s { s.core with ckptWord := some (x, true) })) ∧
    (Issues (.ckpt x) s → s.core.isControl = false → s.core.inh = false → x.toNat ≠ s.core.ccy % 4096 →
      exec (.ckpt x) s = .next (faulted s 9 .stampDeviation
        (some (BitVec.ofNat 64 (s.core.ccy % 4096 + 65536 * x.toNat))))) ∧
    (Issues (.ckptP x) s → s.core.isControl = false → s.core.inh = false → x.toNat ≠ s.core.ccy % 4096 →
      exec (.ckptP x) s = .next (faulted s 9 .stampDeviation
        (some (BitVec.ofNat 64 (s.core.ccy % 4096 + 65536 * x.toNat))))) ∧
    (Issues (.ckpt x) s → s.core.isControl = true → exec (.ckpt x) s = .next s) ∧
    (Issues (.ckptP x) s → s.core.isControl = true → exec (.ckptP x) s = .next s) ∧
    (Issues (.ckpt x) s → s.core.isControl = false → s.core.inh = true → exec (.ckpt x) s = .next (illegalAt s 0 (.ckpt x))) ∧
    (Issues (.ckptP x) s → s.core.isControl = false → s.core.inh = true → exec (.ckptP x) s = .next (illegalAt s 0 (.ckptP x)))

/-- R182, R190, R234, R236, R285-R290, R358: what the other sequencer instructions do at issue. The no-op bundles of an `rswap` are counted by
entry 28 of the timing table (log 23, DEDUCED). -/
def Obligations.SequencerControl : Prop :=
  ∀ s : State,
    (Issues .halt s → s.core.inHandler = false → (∀ q ∈ s.core.r.q.toList, (q.err && q.arrived) = false) →
      exec .halt s = .next (withCore s { s.core with run := .halted, haltedAt := s.time.gcy })) ∧
    (∀ c, Issues (.trap c) s → s.core.inHandler = false →
      exec (.trap c) s = .next (withCore s { s.core with call := some (.trapInsn, c) })) ∧
    (∀ c, Issues (.scall c) s → s.core.inHandler = false →
      exec (.scall c) s = .next (withCore s { s.core with call := some (.scall, c) })) ∧
    (∀ c, Issues (.brk c) s → s.core.inHandler = false →
      exec (.brk c) s = .next (withCore s { s.core with call := some (.brk, c) })) ∧
    (Issues .tret s → s.core.isControl = true →
      exec .tret s = .next (withCore s { s.core with retHandler := true, nextPc := some s.core.tepc })) ∧
    (Issues .tret s → s.core.isControl = false → s.core.inh = true →
      exec .tret s = .next (withCore s { s.core with retHandler := true })) ∧
    (∀ a, Issues (.wgcy a) s → s.core.isControl = false → exec (.wgcy a) s =
      .next (withCore s { s.core with holds :=
        s.core.holds ++ [⟨s.core.ccy + 8, .gcy (s.core.sreg a).toNat, .nothing, false⟩] })) ∧
    (∀ a, Issues (.wgcy a) s → s.core.isControl = true → exec (.wgcy a) s =
      .next (withCore s { s.core with wait := s.core.wait ++ [.gcy (s.core.sreg a).toNat] })) ∧
    (Issues .rswap s → s.core.isControl = false → s.core.inh = false → s.core.eng.nest = none → exec .rswap s =
      .next (withCore s { s.core with swap := some s.core.ccy, idle := s.core.idle + (s.lat 28 - 1) })) ∧
    (s.core.isControl = false → s.core.inh = true →
      (Issues .halt s → exec .halt s = .next (illegalAt s 0 .halt)) ∧
      (Issues .rswap s → exec .rswap s = .next (illegalAt s 0 .rswap)) ∧
      ∀ c, (Issues (.trap c) s → exec (.trap c) s = .next (faulted s 0 .trapInsn (some (c.setWidth 64)))) ∧
        (Issues (.scall c) s → exec (.scall c) s = .next (faulted s 0 .scall (some (c.setWidth 64)))) ∧
        (Issues (.brk c) s → exec (.brk c) s = .next (faulted s 0 .brk (some (c.setWidth 64))))) ∧
    (∀ q, q < 4 → Issues .halt s → s.core.inHandler = false →
      ((s.core.r.q.getD q QReg.reset).err && (s.core.r.q.getD q QReg.reset).arrived) = true →
      (∀ k, k < q → ((s.core.r.q.getD k QReg.reset).err && (s.core.r.q.getD k QReg.reset).arrived) = false) →
      exec .halt s = .next (faulted s 0 .ringState
        (some (BitVec.ofNat 64 ((s.core.r.q.getD q QReg.reset).slot.toNat + 1024 * q))))) ∧
    (Issues .rswap s → s.core.isControl = true → exec .rswap s = .next (illegalAt s 0 .rswap)) ∧
    (Issues .rswap s → s.core.isControl = false → s.core.inh = false → s.core.eng.nest ≠ none →
      exec .rswap s = .next (faulted s 0 .mxNest (some 11))) ∧
    (Issues .tret s → s.core.isControl = false → s.core.inh = false → exec .tret s = .next (illegalAt s 0 .tret)) ∧
    (∀ n, Issues (.idle n) s → n ≠ 0 →
      exec (.idle n) s = .next (withCore s { s.core with idle := s.core.idle + (n.toNat - 1) }))

/-! ## Slot 1 -/

/-- R291: the integer operations of one cycle on two registers. -/
def Obligations.ScalarLogicAndCompare : Prop :=
  ∀ d a b : BitVec 6,
    ScalarResult (.add d a b) 1 0 d (fun c => c.sreg a + c.sreg b) ∧
    ScalarResult (.sub d a b) 1 0 d (fun c => c.sreg a - c.sreg b) ∧
    ScalarResult (.and d a b) 1 0 d (fun c => c.sreg a &&& c.sreg b) ∧
    ScalarResult (.or d a b) 1 0 d (fun c => c.sreg a ||| c.sreg b) ∧
    ScalarResult (.xor d a b) 1 0 d (fun c => c.sreg a ^^^ c.sreg b) ∧
    ScalarResult (.andn d a b) 1 0 d (fun c => c.sreg a &&& ~~~c.sreg b) ∧
    ScalarResult (.orn d a b) 1 0 d (fun c => c.sreg a ||| ~~~c.sreg b) ∧
    ScalarResult (.shl d a b) 1 0 d (fun c => c.sreg a <<< ((c.sreg b).toNat % 64)) ∧
    ScalarResult (.shr d a b) 1 0 d (fun c => c.sreg a >>> ((c.sreg b).toNat % 64)) ∧
    ScalarResult (.sra d a b) 1 0 d (fun c => (c.sreg a).sshiftRight ((c.sreg b).toNat % 64)) ∧
    ScalarResult (.rotl d a b) 1 0 d (fun c => (c.sreg a).rotateLeft ((c.sreg b).toNat % 64)) ∧
    ScalarResult (.rotr d a b) 1 0 d (fun c => (c.sreg a).rotateRight ((c.sreg b).toNat % 64)) ∧
    ScalarResult (.slt d a b) 1 0 d (fun c => word01 ((c.sreg a).toInt < (c.sreg b).toInt)) ∧
    ScalarResult (.sltu d a b) 1 0 d (fun c => word01 ((c.sreg a).toNat < (c.sreg b).toNat)) ∧
    ScalarResult (.seq d a b) 1 0 d (fun c => word01 (c.sreg a = c.sreg b)) ∧
    ScalarResult (.sne d a b) 1 0 d (fun c => word01 (c.sreg a ≠ c.sreg b)) ∧
    ScalarResult (.min d a b) 1 0 d (fun c => BitVec.ofInt 64 (min (c.sreg a).toInt (c.sreg b).toInt)) ∧
    ScalarResult (.max d a b) 1 0 d (fun c => BitVec.ofInt 64 (max (c.sreg a).toInt (c.sreg b).toInt)) ∧
    ScalarResult (.minu d a b) 1 0 d (fun c => BitVec.ofNat 64 (min (c.sreg a).toNat (c.sreg b).toNat)) ∧
    ScalarResult (.maxu d a b) 1 0 d (fun c => BitVec.ofNat 64 (max (c.sreg a).toNat (c.sreg b).toNat))

/-- R291, R292: products and their high halves, quotients and remainders with the corners that R292 names. -/
def Obligations.ScalarMultiplyAndDivide : Prop :=
  ∀ d a b : BitVec 6,
    ScalarResult (.mul d a b) 1 1 d (fun c => BitVec.ofNat 64 ((c.sreg a).toNat * (c.sreg b).toNat)) ∧
    ScalarResult (.mulh d a b) 1 1 d (fun c => BitVec.ofInt 64 ((c.sreg a).toInt * (c.sreg b).toInt / 2 ^ 64)) ∧
    ScalarResult (.mulhu d a b) 1 1 d (fun c => BitVec.ofNat 64 ((c.sreg a).toNat * (c.sreg b).toNat / 2 ^ 64)) ∧
    ScalarResult (.div d a b) 1 2 d (fun c => if c.sreg b = 0 then BitVec.allOnes 64
      else BitVec.ofInt 64 ((c.sreg a).toInt.tdiv (c.sreg b).toInt)) ∧
    ScalarResult (.divu d a b) 1 2 d (fun c => if c.sreg b = 0 then BitVec.allOnes 64
      else BitVec.ofNat 64 ((c.sreg a).toNat / (c.sreg b).toNat)) ∧
    ScalarResult (.rem d a b) 1 2 d (fun c => if c.sreg b = 0 then c.sreg a
      else BitVec.ofInt 64 ((c.sreg a).toInt.tmod (c.sreg b).toInt)) ∧
    ScalarResult (.remu d a b) 1 2 d (fun c => if c.sreg b = 0 then c.sreg a
      else BitVec.ofNat 64 ((c.sreg a).toNat % (c.sreg b).toNat)) ∧
    (∀ s, Issues (.div d a b) s → s.core.sreg a = BitVec.intMin 64 → s.core.sreg b = BitVec.allOnes 64 →
      exec (.div d a b) s = .next (later s 1 (s.lat 2) (.sreg d (BitVec.intMin 64))) ∧
      exec (.rem d a b) s = .next (later s 1 (s.lat 2) (.sreg d 0)))

/-- R291: what the bit operations compute, bit by bit. The j-th set position of b is the bit i with j set bits below it. -/
def Obligations.ScalarBitFields : Prop :=
  ∀ (d a b : BitVec 6),
    (∀ s, Issues (.clz d a) s → ∃ w : Word, exec (.clz d a) s = .next (later s 1 (s.lat 0) (.sreg d w)) ∧
      w.toNat ≤ 64 ∧ (∀ i, 64 - w.toNat ≤ i → (s.core.sreg a).getLsbD i = false) ∧
      (w.toNat < 64 → (s.core.sreg a).getLsbD (63 - w.toNat) = true)) ∧
    (∀ s, Issues (.ctz d a) s → ∃ w : Word, exec (.ctz d a) s = .next (later s 1 (s.lat 0) (.sreg d w)) ∧
      w.toNat ≤ 64 ∧ (∀ i, i < w.toNat → (s.core.sreg a).getLsbD i = false) ∧
      (w.toNat < 64 → (s.core.sreg a).getLsbD w.toNat = true)) ∧
    (∀ s, Issues (.popc d a) s → exec (.popc d a) s = .next (later s 1 (s.lat 0)
      (.sreg d (BitVec.ofNat 64 ((List.range 64).countP fun i => (s.core.sreg a).getLsbD i))))) ∧
    (∀ s, Issues (.bext d a b) s → ∃ w : Word, exec (.bext d a b) s = .next (later s 1 (s.lat 0) (.sreg d w)) ∧
      (∀ i, i < 64 → (s.core.sreg b).getLsbD i = true →
        w.getLsbD ((List.range i).countP fun k => (s.core.sreg b).getLsbD k) = (s.core.sreg a).getLsbD i) ∧
      (∀ j, (List.range 64).countP (fun k => (s.core.sreg b).getLsbD k) ≤ j → w.getLsbD j = false)) ∧
    (∀ s, Issues (.bdep d a b) s → ∃ w : Word, exec (.bdep d a b) s = .next (later s 1 (s.lat 0) (.sreg d w)) ∧
      ∀ i, i < 64 → w.getLsbD i = ((s.core.sreg b).getLsbD i &&
        (s.core.sreg a).getLsbD ((List.range i).countP fun k => (s.core.sreg b).getLsbD k)))

/-- R293, R294: operations with an immediate, `lui` and `sel`. -/
def Obligations.ScalarImmediates : Prop :=
  ∀ (d a b m : BitVec 6) (i : BitVec 14) (u : BitVec 20) (g : BitVec 4),
    ScalarResult (.addi d a i) 1 0 d (fun c => c.sreg a + BitVec.ofInt 64 i.toInt) ∧
    ScalarResult (.andi d a i) 1 0 d (fun c => c.sreg a &&& BitVec.ofInt 64 i.toInt) ∧
    ScalarResult (.ori d a i) 1 0 d (fun c => c.sreg a ||| BitVec.ofNat 64 i.toNat) ∧
    ScalarResult (.xori d a i) 1 0 d (fun c => c.sreg a ^^^ BitVec.ofNat 64 i.toNat) ∧
    ScalarResult (.slti d a i) 1 0 d (fun c => word01 ((c.sreg a).toInt < i.toInt)) ∧
    ScalarResult (.shli d a m) 1 0 d (fun c => c.sreg a <<< m.toNat) ∧
    ScalarResult (.shri d a m) 1 0 d (fun c => c.sreg a >>> m.toNat) ∧
    ScalarResult (.srai d a m) 1 0 d (fun c => (c.sreg a).sshiftRight m.toNat) ∧
    ScalarResult (.lui d u) 1 0 d (fun _ => BitVec.ofInt 64 (4096 * u.toInt)) ∧
    ScalarResult (.sel d a b g) 1 0 d (fun c => if c.guardOf g then c.sreg a else c.sreg b)

/-- R295, R296: guards and the timing-table query. Guard k of a byte is bit k. -/
def Obligations.GuardsAndLatency : Prop :=
  ∀ s : State,
    (∀ (d : BitVec 3) (a b : BitVec 6) (c : BitVec 3), Issues (.gset d a b c) s → exec (.gset d a b c) s =
      .next (later s 1 (s.lat 0) (.guards (1 <<< d.toNat) (if gsetHolds c (s.core.sreg a) (s.core.sreg b) then 0xFF else 0)))) ∧
    (∀ (d : BitVec 3) (a b : BitVec 4) (o : BitVec 2), Issues (.glog d a b o) s → exec (.glog d a b o) s =
      .next (later s 1 (s.lat 0) (.guards (1 <<< d.toNat)
        (if (if o = 0 then s.core.guardOf a && s.core.guardOf b
             else if o = 1 then s.core.guardOf a || s.core.guardOf b
             else s.core.guardOf a != s.core.guardOf b) then 0xFF else 0)))) ∧
    (∀ d, Issues (.gmovToScalar d) s → exec (.gmovToScalar d) s =
      .next (later s 1 (s.lat 0) (.sreg d ((s.core.r.g ||| 1).setWidth 64)))) ∧
    (∀ a, Issues (.gmovToGuards a) s → exec (.gmovToGuards a) s =
      .next (later s 1 1 (.guards 0xFE ((s.core.sreg a).setWidth 8)))) ∧
    (∀ d e : BitVec 6, Issues (.latq d e) s → 29 ≤ e.toNat → exec (.latq d e) s =
      .next (later s 1 (s.lat 0) (.sreg d 0))) ∧
    (∀ d e : BitVec 6, Issues (.latq d e) s → e.toNat < 29 → s.core.isControl = false → exec (.latq d e) s =
      .next (later s 1 (s.lat 0) (.sreg d ((s.tableEntry s.core.id e.toNat).setWidth 64))))

/-- R297-R299: scalar floating point, one rounding each, with the flags of the result. -/
def Obligations.ScalarFloatingPoint : Prop :=
  ∀ (d a b c : BitVec 6) (p : BitVec 1) (u : BitVec 3),
    FpResult (.fadd d a b p) 3 d (fun k => fpWord ((precision p).add (fpValue p (k.sreg a)) (fpValue p (k.sreg b)))) ∧
    FpResult (.fsub d a b p) 3 d (fun k => fpWord ((precision p).add (fpValue p (k.sreg a)) (fpValue p (k.sreg b)).neg)) ∧
    FpResult (.fmul d a b p) 3 d (fun k => fpWord ((precision p).mul (fpValue p (k.sreg a)) (fpValue p (k.sreg b)))) ∧
    FpResult (.fdiv d a b p) 4 d (fun k => fpWord ((precision p).div (fpValue p (k.sreg a)) (fpValue p (k.sreg b)))) ∧
    FpResult (.fsqrt d a p) 5 d (fun k => fpWord ((precision p).sqrt (fpValue p (k.sreg a)))) ∧
    FpResult (.fmin d a b p) 3 d (fun k => fpWord ((precision p).minMax false (fpOperand p (k.sreg a)) (fpOperand p (k.sreg b)))) ∧
    FpResult (.fmax d a b p) 3 d (fun k => fpWord ((precision p).minMax true (fpOperand p (k.sreg a)) (fpOperand p (k.sreg b)))) ∧
    FpResult (.fcmp d a b p u) 3 d (fun k =>
      (word01 ((fpRelation u.toNat (fpValue p (k.sreg a)) (fpValue p (k.sreg b))).1 = true),
        (fpRelation u.toNat (fpValue p (k.sreg a)) (fpValue p (k.sreg b))).2)) ∧
    FpResult (.fcvt d a p u) 3 d (fun k => fcvtResult p u (k.sreg a)) ∧
    FpResult (.fclass d a p) 3 d (fun k => (BitVec.ofNat 64 ((precision p).classMask (fpOperand p (k.sreg a))), 0)) ∧
    FpResult (.fmadd d a b c p) 3 d (fun k =>
      fpWord ((precision p).fma (fpValue p (k.sreg a)) (fpValue p (k.sreg b)) (fpValue p (k.sreg c))))


/-! ## Slot 2 -/

/-- The banks of the bytes from off on. -/
def Sys2Proof.Cert.banks (off n : Nat) : List Nat := distinct ((offsets off n).map bankOf)

/-- R300, R270, R166: a load of size bytes from `lcl` that passes its checks takes port S at issue and writes sd at the latency of entry 6; the
first check that fails raises its fault; a held bank raises PORT_COLLISION at that core cycle; a DEVICE extent of a control core answers before
the next bundle, and a unit without data gives a free value and is reported (R85; log 11, DESIGN CHOICE). -/
def Sys2Proof.Cert.LoadResult (i : Instr) (d x : BitVec 6) (e : BitVec 4) (imm : BitVec 10) (size : Nat) (signed : Bool) : Prop :=
  ∀ s : State, Issues i s →
    (∀ k, e = 0xF → s.core.lclRead (s.core.offset x (size * imm.toNat)) size size none .sealedLoad = .ok k →
      k.busyBank false s.core.ccy (banks (s.core.offset x (size * imm.toNat)) size) = none →
      exec i s = .next (later (withCore s (k.usePort .S 2 k.ccy s.core.ccy false (banks (s.core.offset x (size * imm.toNat)) size))) 2 (s.lat 6)
        (.sreg d (loadValue size signed (s.core.lclAt (offsets (s.core.offset x (size * imm.toNat)) size)))))) ∧
    (∀ k b, e = 0xF → s.core.lclRead (s.core.offset x (size * imm.toNat)) size size none .sealedLoad = .ok k →
      k.busyBank false s.core.ccy (banks (s.core.offset x (size * imm.toNat)) size) = some b →
      exec i s = .next (lateFault s k 2 s.core.ccy .portCollision (some (portTval .S b)))) ∧
    (∀ f, e = 0xF → s.core.lclRead (s.core.offset x (size * imm.toNat)) size size none .sealedLoad = .error f →
      exec i s = .next (faulted s 2 f.1 f.2)) ∧
    (∀ f, e ≠ 0xF → s.core.extFault e (s.core.offset x (size * imm.toNat)) size size .load (·.device) = some f →
      exec i s = .next (faulted s 2 f.1 f.2)) ∧
    (∀ y, e ≠ 0xF → s.core.extFault e (s.core.offset x (size * imm.toNat)) size size .load (·.device) = none →
      s.core.extent e = some y →
      (∀ bs, s.deviceBytes y (s.core.offset x (size * imm.toNat)) size = .ok bs →
        exec i s = .next (later s 2 1 (.sreg d (loadValue size signed bs)))) ∧
      (∀ u, s.deviceBytes y (s.core.offset x (size * imm.toNat)) size = .error u →
        exec i s = .next (later (s.reportPoison u).draw.2 2 1
          (.sreg d (loadValue size signed (leBytes size (s.reportPoison u).draw.1.toNat))))))

/-- The loads; a value of size bytes is signed or not, in the byte order of R3. -/
def Obligations.LoadsReadLittleEndian : Prop :=
  ∀ (d x : BitVec 6) (e : BitVec 4) (imm : BitVec 10),
    LoadResult (.ldB d e x imm) d x e imm 1 true ∧ LoadResult (.ldBz d e x imm) d x e imm 1 false ∧
    LoadResult (.ldH d e x imm) d x e imm 2 true ∧ LoadResult (.ldHz d e x imm) d x e imm 2 false ∧
    LoadResult (.ldW d e x imm) d x e imm 4 true ∧ LoadResult (.ldWz d e x imm) d x e imm 4 false ∧
    LoadResult (.ldD d e x imm) d x e imm 8 false ∧
    (∀ b : Byte, loadValue 1 true [b] = b.signExtend 64 ∧ loadValue 1 false [b] = b.setWidth 64) ∧
    (∀ a b : Byte, loadValue 2 true [a, b] = (b ++ a).signExtend 64 ∧ loadValue 2 false [a, b] = (b ++ a).setWidth 64) ∧
    (∀ a b c f : Byte, loadValue 4 true [a, b, c, f] = (f ++ c ++ b ++ a).signExtend 64 ∧
      loadValue 4 false [a, b, c, f] = (f ++ c ++ b ++ a).setWidth 64) ∧
    (∀ w : Word, loadValue 8 false (leBytes 8 w.toNat) = w)

/-- R301, R193, R80: a store whose guard is 0 does nothing; a failed check raises its fault; into `lcl` it reserves its undo row, takes port S at
c + L(7) and writes then; to an extent it is one effect that writes the bytes at the addresses of the extent: held on a compute core until the
next release, gone from a control core at once, where a write to the register space performs at once unless one before it has not (log 35,
DEDUCED: the time at which it performs is the model's reading). -/
def Sys2Proof.Cert.StoreResult (i : Instr) (v x : BitVec 6) (e : BitVec 4) (g : BitVec 4) (imm : BitVec 6) (size : Nat) : Prop :=
  ∀ s : State, Issues i s →
    let off := s.core.offset x (size * imm.toNat)
    let bs := leBytes size (s.core.sreg v).toNat
    (s.core.guardOf g = false → exec i s = .next s) ∧
    (s.core.guardOf g = true → e = 0xF →
      (∀ f, s.core.lclWriteFault off size size = some f → exec i s = .next (faulted s 2 f.1 f.2)) ∧
      (s.core.lclWriteFault off size size = none →
        (∀ row, s.core.reserve [rowOf off] = .error row →
          exec i s = .next (faulted s 2 .undoFull (some (BitVec.ofNat 64 (row % 4096))))) ∧
        (∀ k, s.core.reserve [rowOf off] = .ok k →
          (k.busyBank false (s.core.ccy + s.lat 7) [bankOf off] = none → exec i s = .next
            (later (withCore s (k.usePort .S 2 k.ccy (s.core.ccy + s.lat 7) false [bankOf off])) 2 (s.lat 7)
              (.store .S (cellsAt off bs)))) ∧
          (∀ b, k.busyBank false (s.core.ccy + s.lat 7) [bankOf off] = some b →
            exec i s = .next (lateFault s k 2 (s.core.ccy + s.lat 7) .portCollision (some (portTval .S b))))))) ∧
    (s.core.guardOf g = true → e ≠ 0xF →
      (∀ f, s.core.extFault e off size size .store (fun y => !y.gateDst) = some f → exec i s = .next (faulted s 2 f.1 f.2)) ∧
      (∀ y, s.core.extFault e off size size .store (fun y => !y.gateDst) = none → s.core.extent e = some y →
        (y.sealed = true → exec i s = .next (faulted s 2 .sealedCopy (some (BitVec.ofNat 64 off)))) ∧
        (y.sealed = false → s.core.isControl = false → s.core.gated.length < 64 → exec i s = .next
          (gatedBy s s.core 2 (y.classOf 0x02) 0 0 (.write y.backing (y.key false) (y.cells off bs)))) ∧
        (y.sealed = false → s.core.isControl = false → 64 ≤ s.core.gated.length →
          exec i s = .next (faulted s 2 .gateBufferFull none)) ∧
        (y.sealed = false → s.core.isControl = true →
          (y.backing ≠ .stretcher → exec i s = .next
            (leftBy s 2 (y.classOf 0x02) (.write y.backing (y.key true) (y.cells off bs)))) ∧
          (y.backing = .stretcher → (s.released.any fun g => g.toStretcher s.core.id) = true → exec i s = .next
            (leftBy s 2 (y.classOf 0x02) (.write y.backing (y.key true) (y.cells off bs)))) ∧
          (y.backing = .stretcher → (s.released.any fun g => g.toStretcher s.core.id) = false → exec i s = .next
            ((leftBy s 2 (y.classOf 0x02) (.write y.backing (y.key true) (y.cells off bs))).performEffect
              ⟨s.nextFill, s.core.id, clusterOf s.core.id, s.core.strand, s.core.ccy, 2, y.classOf 0x02, 0, 0,
                .write y.backing (y.key true) (y.cells off bs)⟩)))))

/-- The stores of 1, 2, 4 and 8 bytes. -/
def Obligations.StoresWriteLowBytes : Prop :=
  ∀ (v x : BitVec 6) (e g : BitVec 4) (imm : BitVec 6),
    StoreResult (.stB v e x g imm) v x e g imm 1 ∧ StoreResult (.stH v e x g imm) v x e g imm 2 ∧
    StoreResult (.stW v e x g imm) v x e g imm 4 ∧ StoreResult (.stD v e x g imm) v x e g imm 8

/-- An open window that meets the one of an atomic on the bytes at s_x, issued now; those opened before it, `pre`, do not (R159). -/
def Sys2Proof.Cert.WindowMeets (s : State) (x : BitVec 6) (pre : List (Nat × Nat)) (w : Nat × Nat) : Prop :=
  (∀ v ∈ pre, v.1 = bankOf (s.core.sreg x).toNat → v.2 + 3 ≤ s.core.ccy + 1 ∨ s.core.ccy + 4 ≤ v.2) ∧
  w.1 = bankOf (s.core.sreg x).toNat ∧ s.core.ccy + 1 < w.2 + 3 ∧ w.2 < s.core.ccy + 4

/-- R302, R159, R220: an atomic takes the window of its bank at c + 1 to c + 3, reads there at c + 1, and with it is due the access of the
function given; with its guard 0 it takes the window alone; a failed check raises its fault; where, with either guard, an earlier window meets
it, PORT_COLLISION follows at the first core cycle that both hold. -/
def Sys2Proof.Cert.AtomicResult (i : Instr) (fn : Nat) (d x v : BitVec 6) (cmp : Option (BitVec 6)) (g : BitVec 4) : Prop :=
  ∀ s : State, Issues i s →
    (∀ k u, s.core.guardOf g = true → s.core.lclRead (s.core.sreg x).toNat 8 8 none .sealedCopy = .ok k →
      k.reserve [rowOf (s.core.sreg x).toNat] = .ok u →
      (∀ w ∈ u.windows, w.1 = bankOf (s.core.sreg x).toNat → w.2 + 3 ≤ s.core.ccy + 1 ∨ s.core.ccy + 4 ≤ w.2) →
      exec i s = .next (later (withCore s (u.openWindow (bankOf (s.core.sreg x).toNat) (s.core.ccy + 1))) 2 1
        (.atomic fn (s.core.sreg x).toNat d (s.core.sreg v) (cmp.map s.core.sreg) (s.lat 6)))) ∧
    (∀ k row, s.core.guardOf g = true → s.core.lclRead (s.core.sreg x).toNat 8 8 none .sealedCopy = .ok k →
      k.reserve [rowOf (s.core.sreg x).toNat] = .error row →
      exec i s = .next (faulted s 2 .undoFull (some (BitVec.ofNat 64 (row % 4096))))) ∧
    (∀ k u pre w post, s.core.guardOf g = true → s.core.lclRead (s.core.sreg x).toNat 8 8 none .sealedCopy = .ok k →
      k.reserve [rowOf (s.core.sreg x).toNat] = .ok u → u.windows = pre ++ w :: post → WindowMeets s x pre w → exec i s = .next
        (lateFault s u 2 (max (s.core.ccy + 1) w.2) .portCollision (some (portTval .S (bankOf (s.core.sreg x).toNat))))) ∧
    (∀ pre w post, s.core.guardOf g = false → s.core.windows = pre ++ w :: post → WindowMeets s x pre w → exec i s = .next
        (lateFault s s.core 2 (max (s.core.ccy + 1) w.2) .portCollision (some (portTval .S (bankOf (s.core.sreg x).toNat))))) ∧
    (s.core.guardOf g = false →
      (∀ w ∈ s.core.windows, w.1 = bankOf (s.core.sreg x).toNat → w.2 + 3 ≤ s.core.ccy + 1 ∨ s.core.ccy + 4 ≤ w.2) →
      exec i s = .next (withCore s (s.core.openWindow (bankOf (s.core.sreg x).toNat) (s.core.ccy + 1)))) ∧
    (∀ f, s.core.guardOf g = true → s.core.lclRead (s.core.sreg x).toNat 8 8 none .sealedCopy = .error f →
      exec i s = .next (faulted s 2 f.1 f.2))

/-- The ten atomics. -/
def Obligations.AtomicsTakeTheirWindow : Prop :=
  ∀ (d x v : BitVec 6) (g : BitVec 4),
    AtomicResult (.aadd d x v g) 0 d x v none g ∧ AtomicResult (.aand d x v g) 1 d x v none g ∧
    AtomicResult (.aor d x v g) 2 d x v none g ∧ AtomicResult (.axor d x v g) 3 d x v none g ∧
    AtomicResult (.amin d x v g) 4 d x v none g ∧ AtomicResult (.amax d x v g) 5 d x v none g ∧
    AtomicResult (.aminu d x v g) 6 d x v none g ∧ AtomicResult (.amaxu d x v g) 7 d x v none g ∧
    AtomicResult (.aswap d x v g) 8 d x v none g ∧ AtomicResult (.acas d x v g) 8 d x v (some d) g

/-- R302: what an atomic in flight does when it performs: sd takes the old value at c + L(6), the new value is written at c + 3; nothing
else of the core changes. `acas` writes its new value only where the old one is that of sd at issue. -/
def Obligations.AtomicsReadModifyWrite : Prop :=
  (∀ (c : Core) (l : Late) (fn addr lat : Nat) (d : BitVec 6) (v : Word) (cmp : Option Word), l.eff = .atomic fn addr d v cmp lat →
    c.performOwn l = { c with late := c.late ++
      [{ l with due := l.issued + lat, eff := .sreg d (BitVec.ofNat 64 (c.lcl.readNat addr 8)) },
       { l with due := l.issued + 3, eff := .store .S (cellsAt addr (leBytes 8 (match cmp with
          | none => atomicResult fn (BitVec.ofNat 64 (c.lcl.readNat addr 8)) v
          | some e => if BitVec.ofNat 64 (c.lcl.readNat addr 8) = e then v else BitVec.ofNat 64 (c.lcl.readNat addr 8)).toNat)) }] }) ∧
  (∀ old v : Word,
    atomicResult 0 old v = old + v ∧ atomicResult 1 old v = old &&& v ∧ atomicResult 2 old v = old ||| v ∧
    atomicResult 3 old v = old ^^^ v ∧ (atomicResult 4 old v).toInt = min old.toInt v.toInt ∧
    (atomicResult 5 old v).toInt = max old.toInt v.toInt ∧ (atomicResult 6 old v).toNat = min old.toNat v.toNat ∧
    (atomicResult 7 old v).toNat = max old.toNat v.toNat ∧ atomicResult 8 old v = v)

/-- R303-R306, R196, R215: bank locks, CSR accesses, fences and identifiers at issue. A set or a clear of CSR bits starts from what the CSR holds
at issue; a CSR that is not listed raises ILLEGAL_OP, and a write that the mode may not make does nothing; a fence of a control core waits for
its predecessors whatever its successors, one of a compute core asks for a hold where both sets hold something. -/
def Obligations.CsrsLocksAndFences : Prop :=
  ∀ s : State,
    (∀ m n, Issues (.lockb m n) s → exec (.lockb m n) s = .next (later s 2 1 (.lock m (s.core.ccy + n.toNat)))) ∧
    (∀ d n, Issues (.csrr d n) s → csrListed n = true → exec (.csrr d n) s =
      .next (later s 2 (s.lat 0) (.sreg d (s.csrRead n)))) ∧
    (∀ d a n, csrListed n = false →
      (Issues (.csrr d n) s → exec (.csrr d n) s = .next (illegalAt s 2 (.csrr d n))) ∧
      (Issues (.csrw a n) s → exec (.csrw a n) s = .next (illegalAt s 2 (.csrw a n))) ∧
      (Issues (.csrs a n) s → exec (.csrs a n) s = .next (illegalAt s 2 (.csrs a n))) ∧
      (Issues (.csrc a n) s → exec (.csrc a n) s = .next (illegalAt s 2 (.csrc a n)))) ∧
    (∀ a n, csrWritable s.core.mode n = true →
      (Issues (.csrw a n) s → exec (.csrw a n) s = .next (later s 2 1 (.csr n (s.core.sreg a)))) ∧
      (Issues (.csrs a n) s → exec (.csrs a n) s = .next (later s 2 1 (.csr n (s.core.csrHeld n ||| s.core.sreg a)))) ∧
      (Issues (.csrc a n) s → exec (.csrc a n) s = .next (later s 2 1 (.csr n (s.core.csrHeld n &&& ~~~s.core.sreg a))))) ∧
    (∀ a n, csrListed n = true → csrWritable s.core.mode n = false →
      (Issues (.csrw a n) s → exec (.csrw a n) s = .next s) ∧ (Issues (.csrs a n) s → exec (.csrs a n) s = .next s) ∧
      (Issues (.csrc a n) s → exec (.csrc a n) s = .next s)) ∧
    (∀ p q k, Issues (.fence p q k) s → k ≠ 7 → p = 0 ∨ q = 0 ∧ s.core.isControl = false → exec (.fence p q k) s = .next s) ∧
    (∀ p q k, Issues (.fence p q k) s → k ≠ 7 → p ≠ 0 → q ≠ 0 → s.core.isControl = false → exec (.fence p q k) s =
      .next (withCore s { s.core with holds := s.core.holds ++
        [⟨s.core.ccy + 8, .fence p.toNat k.toNat s.core.ccy [], .nothing, false⟩] })) ∧
    (∀ p q k, Issues (.fence p q k) s → k ≠ 7 → p ≠ 0 → s.core.isControl = true → exec (.fence p q k) s =
      .next (withCore s { s.core with wait := s.core.wait ++ [.fence p.toNat] })) ∧
    (∀ p q, Issues (.fence p q 7) s → exec (.fence p q 7) s = .next (illegalAt s 2 (.fence p q 7))) ∧
    (∀ d n, Issues (.idr d n) s → exec (.idr d n) s =
      .next (later s 2 (s.lat 0) (.sreg d (BitVec.ofNat 64 (s.core.identifier n.toNat)))))

/-- R177, R306: what the identifiers of a core are: core number, core in the cluster, cluster in the canvas, half, canvas, strand, strand
count, and the index of loop-stack entry n - 8, 0 where there is none. A control core names itself and counts one strand. -/
def Obligations.IdentifiersNameTheCore : Prop :=
  ∀ c : Core,
    (c.id < 512 →
      c.identifier 0 = c.id ∧ c.identifier 1 = c.id % 8 ∧ c.identifier 2 = c.id / 8 % 16 ∧ c.identifier 3 = c.id / 64 % 2 ∧
      c.identifier 4 = c.id / 128 ∧ c.identifier 5 = c.tstrand ∧ c.identifier 6 = c.tcount) ∧
    (512 ≤ c.id → c.identifier 0 = c.id ∧ c.identifier 6 = 1 ∧ ∀ n, 1 ≤ n → n ≤ 5 → c.identifier n = 0) ∧
    (∀ k e, c.loops[k]? = some e → c.identifier (8 + k) = e.index.toNat) ∧
    (∀ k, c.loops.length ≤ k → c.identifier (8 + k) = 0)

/-! ## Slots 3 and 4 -/

/-- R309-R311: the element-wise operations of vector A, with the timing entries of R309. -/
def Obligations.VectorArithmetic : Prop :=
  ∀ (d a b z : BitVec 5) (t : BitVec 3),
    VectorResult (.vadd d a b t) 3 (arithEntry t) d (fun c => zipLanes t (laneAdd t) (c.vreg a) (c.vreg b)) ∧
    VectorResult (.vsub d a b t) 3 (arithEntry t) d (fun c => zipLanes t (laneSub t) (c.vreg a) (c.vreg b)) ∧
    VectorResult (.vmul d a b t) 3 (arithEntry t) d (fun c => zipLanes t (laneMul t) (c.vreg a) (c.vreg b)) ∧
    VectorResult (.vfma d a b t z) 3 (arithEntry t) d
      (fun c => zip3Lanes t (laneFma t false) (c.vreg a) (c.vreg b) (c.vreg z)) ∧
    VectorResult (.vfms d a b t z) 3 (arithEntry t) d
      (fun c => zip3Lanes t (laneFma t true) (c.vreg a) (c.vreg b) (c.vreg z)) ∧
    VectorResult (.vmin d a b t) 3 8 d (fun c => zipLanes t (laneMinMax t false) (c.vreg a) (c.vreg b)) ∧
    VectorResult (.vmax d a b t) 3 8 d (fun c => zipLanes t (laneMinMax t true) (c.vreg a) (c.vreg b)) ∧
    VectorResult (.vabs d a t) 3 8 d (fun c => mapLanes t (laneAbs t) (c.vreg a)) ∧
    VectorResult (.vneg d a t) 3 8 d (fun c => mapLanes t (laneNeg t) (c.vreg a)) ∧
    VectorResult (.vshl d a b t) 3 8 d (fun c => zipLanes t (laneShift t 0) (c.vreg a) (c.vreg b)) ∧
    VectorResult (.vshr d a b t) 3 8 d (fun c => zipLanes t (laneShift t 1) (c.vreg a) (c.vreg b)) ∧
    VectorResult (.vsra d a b t) 3 8 d (fun c => zipLanes t (laneShift t 2) (c.vreg a) (c.vreg b)) ∧
    VectorResult (.vbVadd d a b t) 4 (arithEntry t) d (fun c => zipLanes t (laneAdd t) (c.vreg a) (c.vreg b)) ∧
    VectorResult (.vbVmul d a b t) 4 (arithEntry t) d (fun c => zipLanes t (laneMul t) (c.vreg a) (c.vreg b)) ∧
    VectorResult (.vbVfma d a b t z) 4 (arithEntry t) d
      (fun c => zip3Lanes t (laneFma t false) (c.vreg a) (c.vreg b) (c.vreg z)) ∧
    (arithEntry t = if t.toNat < 3 then 9 else 8)

/-- R310, R312-R314: bit operations, moves, conversions and masks of vector A. Elements and mask bits are numbered from the least significant
end; `mfirst` gives 128 for an empty mask. -/
def Obligations.VectorMovesAndMasks : Prop :=
  ∀ (d a b : BitVec 5) (t r : BitVec 3) (m n o : BitVec 3) (i : BitVec 16) (l : BitVec 7),
    VectorResult (.vand d a b t) 3 8 d (fun c => (c.vreg a &&& c.vreg b, Events.none)) ∧
    VectorResult (.vor d a b t) 3 8 d (fun c => (c.vreg a ||| c.vreg b, Events.none)) ∧
    VectorResult (.vxor d a b t) 3 8 d (fun c => (c.vreg a ^^^ c.vreg b, Events.none)) ∧
    VectorResult (.vnot d a t) 3 8 d (fun c => (~~~c.vreg a, Events.none)) ∧
    VectorResult (.vmov d a) 3 8 d (fun c => (c.vreg a, Events.none)) ∧
    VectorResult (.vsplat d t i) 3 8 d (fun _ => (fillLanes t (splatValue t i), Events.none)) ∧
    VectorResult (.vext d a t l) 3 8 d (fun c => (fillLanes t (laneAt t (c.vreg a) l.toNat), Events.none)) ∧
    VectorResult (.vins d a t l) 3 8 d (fun c => (packLanes (laneBits t) ((List.range (laneCount t)).map fun k =>
      if k = l.toNat then laneAt t (c.vreg a) 0 else laneAt t (c.vreg d) k), Events.none)) ∧
    VectorResult (.vidx d t) 3 8 d (fun _ => (packLanes (laneBits t) ((List.range (laneCount t)).map fun k : Nat => (ofIntLane t k).1), Events.none)) ∧
    VectorResult (.vcvt d a t r) 3 10 d (fun c => gather (laneBits t)
      ((List.range (min (laneCount t) (laneCount r))).map fun k => laneConvert t r (laneAt r (c.vreg a) k))) ∧
    VectorResult (.vsel d a b t m) 3 8 d (fun c => (packLanes (laneBits t) ((List.range (laneCount t)).map fun k =>
      if (c.mreg m).getLsbD k then laneAt t (c.vreg a) k else laneAt t (c.vreg b) k), Events.none)) ∧
    MaskResult (.vcmpeq m a b t) 8 m (fun c => compareLanes t 0 (c.vreg a) (c.vreg b)) ∧
    MaskResult (.vcmplt m a b t) 8 m (fun c => compareLanes t 1 (c.vreg a) (c.vreg b)) ∧
    MaskResult (.vcmple m a b t) 8 m (fun c => compareLanes t 2 (c.vreg a) (c.vreg b)) ∧
    MaskResult (.mand m n o) 8 m (fun c => (c.mreg n &&& c.mreg o, Events.none)) ∧
    MaskResult (.mor m n o) 8 m (fun c => (c.mreg n ||| c.mreg o, Events.none)) ∧
    MaskResult (.mxor m n o) 8 m (fun c => (c.mreg n ^^^ c.mreg o, Events.none)) ∧
    MaskResult (.mnot m n) 8 m (fun c => (~~~c.mreg n, Events.none)) ∧
    VectorResult (.mpop n d) 3 8 d (fun c => (fillLanes 3 ((List.range 128).countP fun k => (c.mreg n).getLsbD k), Events.none)) ∧
    VectorResult (.mfirst n d) 3 8 d (fun c => (fillLanes 3 (((List.range 128).find? fun k => (c.mreg n).getLsbD k).getD 128), Events.none))

/-- R315-R321: the operations of vector B; a sort writes its values and their original indices. -/
def Obligations.VectorFunctions : Prop :=
  ∀ (d a b z : BitVec 5) (t r : BitVec 3) (h q : BitVec 1) (l : BitVec 7),
    VectorResult (.vexp d a t) 4 11 d (fun c => mapLanes t (laneFn t fun f x => f.exp x) (c.vreg a)) ∧
    VectorResult (.vexp2 d a t) 4 11 d (fun c => mapLanes t (laneFn t fun f x => f.exp2 x) (c.vreg a)) ∧
    VectorResult (.vlog2 d a t) 4 11 d (fun c => mapLanes t (laneFn t fun f x => f.log2 x) (c.vreg a)) ∧
    VectorResult (.vrcp d a t) 4 11 d (fun c => mapLanes t (laneFn t fun f x => f.rcp x) (c.vreg a)) ∧
    VectorResult (.vrsqrt d a t) 4 11 d (fun c => mapLanes t (laneFn t fun f x => f.rsqrt x) (c.vreg a)) ∧
    VectorResult (.vsqrt d a t) 4 11 d (fun c => mapLanes t (laneFn t fun f x => f.sqrt x) (c.vreg a)) ∧
    VectorResult (.vdiv d a b t) 4 12 d (fun c => zipLanes t (laneDiv t) (c.vreg a) (c.vreg b)) ∧
    VectorResult (.vtanh d a t) 4 13 d (fun c => mapLanes t (laneFn t fun f x => f.tanh x) (c.vreg a)) ∧
    VectorResult (.vsigm d a t) 4 13 d (fun c => mapLanes t (laneFn t fun f x => f.sigm x) (c.vreg a)) ∧
    VectorResult (.vredsum d a t) 4 14 d (fun c => reduceLanes t (wideAdd t) (c.vreg a)) ∧
    VectorResult (.vredmax d a t) 4 14 d (fun c => reduceLanes t (wideMinMax t true) (c.vreg a)) ∧
    VectorResult (.vredmin d a t) 4 14 d (fun c => reduceLanes t (wideMinMax t false) (c.vreg a)) ∧
    VectorResult (.vscan d a t) 4 15 d (fun c => scanLanes t (c.vreg a)) ∧
    (∀ s, Issues (.vsortk d a t z) s → exec (.vsortk d a t z) s = .next (later
      (later s 4 (s.lat 16) (.vreg d (packLanes (laneBits t) ((sortLanes t (s.core.vreg a)).map (·.1))))) 4 (s.lat 16)
      (.vreg z (packLanes (laneBits t) ((sortLanes t (s.core.vreg a)).map (·.2)))))) ∧
    VectorResult (.vperm d a b t) 4 8 d (fun c => (packLanes (laneBits t) ((List.range (laneCount t)).map fun k =>
      laneAt t (c.vreg a) (laneAt t (c.vreg b) k % laneCount t)), Events.none)) ∧
    VectorResult (.vrotl d a t l) 4 8 d (fun c => (packLanes (laneBits t) ((List.range (laneCount t)).map fun k =>
      laneAt t (c.vreg a) ((k + laneCount t - l.toNat) % laneCount t)), Events.none)) ∧
    VectorResult (.vpack d a b t r q) 4 8 d (fun c => packPairs t r q (c.vreg a) (c.vreg b)) ∧
    VectorResult (.vunpack d a t r h q) 4 8 d (fun c => unpackHalf t r h q (c.vreg a)) ∧
    VectorResult (.vrnd d a b t) 4 17 d (fun c => (rndLanes t (laneAt 6 (c.vreg a) 0) (laneAt 6 (c.vreg b) 0), Events.none))

/-- R307, R308: an element-wise operation makes element i of its result of the elements i of its sources alone, cut to the element's width;
on int types, add, subtract and multiply wrap, and a compare sets exactly the mask bits of the elements whose relation holds. -/
def Obligations.LanesAreIndependent : Prop :=
  ∀ (t : BitVec 3) (a b : Vec) (i : Nat), t ≠ 7 → i < laneCount t →
    laneCount t * laneBits t = 1024 ∧
    (∀ f, laneAt t (zipLanes t f a b).1 i = (f (laneAt t a i) (laneAt t b i)).1 % 2 ^ laneBits t) ∧
    (∀ f, laneAt t (mapLanes t f a).1 i = (f (laneAt t a i)).1 % 2 ^ laneBits t) ∧
    (3 ≤ t.toNat →
      laneAt t (zipLanes t (laneAdd t) a b).1 i = (laneAt t a i + laneAt t b i) % 2 ^ laneBits t ∧
      laneAt t (zipLanes t (laneSub t) a b).1 i = (laneAt t a i + 2 ^ laneBits t - laneAt t b i) % 2 ^ laneBits t ∧
      laneAt t (zipLanes t (laneMul t) a b).1 i = laneAt t a i * laneAt t b i % 2 ^ laneBits t) ∧
    (∀ rel, ((compareLanes t rel a b).1.getLsbD i = (laneRelation t rel (laneAt t a i) (laneAt t b i)).1)) ∧
    (∀ rel k, laneCount t ≤ k → (compareLanes t rel a b).1.getLsbD k = false)

/-! ## Slot 5 -/

/-- R324-R327: the vector loads from `lcl`. A load of one access reads at issue through port S; a sweep reads the rows of rank j at c + j
(R325); a broadcast gives every element the value read. A failed check raises its fault. -/
def Obligations.VectorLoads : Prop :=
  ∀ (s : State) (v b : BitVec 5) (x : BitVec 6) (l z : BitVec 2) (i : BitVec 5) (j : BitVec 7),
    (∀ k, Issues (.vld v 0xF x l i) s →
      s.core.readElems 0xF [s.core.offset x (128 * i.toNat)] 128 128 l.toNat = .ok k →
      k.busyBank false k.ccy (distinct ((physRange l.toNat (s.core.offset x (128 * i.toNat)) 128).map bankOf)) = none →
      exec (.vld v 0xF x l i) s = .next (later (withCore s (k.usePort .S 5 k.ccy k.ccy false
          (distinct ((physRange l.toNat (s.core.offset x (128 * i.toNat)) 128).map bankOf)))) 5 (s.lat 18)
        (.vreg v (lineOf (s.core.lclAt (physRange l.toNat (s.core.offset x (128 * i.toNat)) 128)))))) ∧
    (∀ k b, Issues (.vld v 0xF x l i) s →
      s.core.readElems 0xF [s.core.offset x (128 * i.toNat)] 128 128 l.toNat = .ok k →
      k.busyBank false k.ccy (distinct ((physRange l.toNat (s.core.offset x (128 * i.toNat)) 128).map bankOf)) = some b →
      exec (.vld v 0xF x l i) s = .next (lateFault s k 5 k.ccy .portCollision (some (portTval .S b)))) ∧
    (∀ k b, Issues (.vldb v 0xF x l z j) s →
      s.core.readElems 0xF [s.core.offset x (sizeOf2 z * j.toNat)] (sizeOf2 z) (sizeOf2 z) l.toNat = .ok k →
      k.busyBank false k.ccy (distinct ((physRange l.toNat (s.core.offset x (sizeOf2 z * j.toNat)) (sizeOf2 z)).map bankOf)) = some b →
      exec (.vldb v 0xF x l z j) s = .next (lateFault s k 5 k.ccy .portCollision (some (portTval .S b)))) ∧
    (∀ e f, Issues (.vld v e x l i) s → s.core.readElems e [s.core.offset x (128 * i.toNat)] 128 128 l.toNat = .error f →
      exec (.vld v e x l i) s = .next (faulted s 5 f.1 f.2)) ∧
    (∀ e f, Issues (.vldb v e x l z j) s →
      s.core.readElems e [s.core.offset x (sizeOf2 z * j.toNat)] (sizeOf2 z) (sizeOf2 z) l.toNat = .error f →
      exec (.vldb v e x l z j) s = .next (faulted s 5 f.1 f.2)) ∧
    (∀ e f, Issues (.vlds v e x l z) s →
      s.core.readElems e (s.core.strided x (128 / sizeOf2 z)) (sizeOf2 z) (sizeOf2 z) l.toNat = .error f →
      exec (.vlds v e x l z) s = .next (faulted s 5 f.1 f.2)) ∧
    (∀ e f, Issues (.vgath v e x l b) s → s.core.readElems e (s.core.indexed x b) 4 4 l.toNat = .error f →
      exec (.vgath v e x l b) s = .next (faulted s 5 f.1 f.2)) ∧
    (∀ k, Issues (.vldb v 0xF x l z j) s →
      s.core.readElems 0xF [s.core.offset x (sizeOf2 z * j.toNat)] (sizeOf2 z) (sizeOf2 z) l.toNat = .ok k →
      k.busyBank false k.ccy (distinct ((physRange l.toNat (s.core.offset x (sizeOf2 z * j.toNat)) (sizeOf2 z)).map bankOf)) = none →
      exec (.vldb v 0xF x l z j) s = .next (later (withCore s (k.usePort .S 5 k.ccy k.ccy false
          (distinct ((physRange l.toNat (s.core.offset x (sizeOf2 z * j.toNat)) (sizeOf2 z)).map bankOf)))) 5 (s.lat 18)
        (.vreg v (packLanes (8 * sizeOf2 z) (List.replicate (128 / sizeOf2 z)
          (leNat (s.core.lclAt (physRange l.toNat (s.core.offset x (sizeOf2 z * j.toNat)) (sizeOf2 z))))))))) ∧
    (∀ k, Issues (.vlds v 0xF x l z) s →
      s.core.readElems 0xF (s.core.strided x (128 / sizeOf2 z)) (sizeOf2 z) (sizeOf2 z) l.toNat = .ok k →
      exec (.vlds v 0xF x l z) s = .next (withCore s (k.sweep true 5 s.core.ccy
        ((s.core.strided x (128 / sizeOf2 z)).zipIdx.map fun p => (p.2, physRange l.toNat p.1 (sizeOf2 z)))
        fun t xs d => d.at' 5 t (.sweepRead v (sizeOf2 z) xs (s.core.ccy + s.lat 18))))) ∧
    (∀ k, Issues (.vgath v 0xF x l b) s → s.core.readElems 0xF (s.core.indexed x b) 4 4 l.toNat = .ok k →
      exec (.vgath v 0xF x l b) s = .next (withCore s (k.sweep true 5 s.core.ccy
        ((s.core.indexed x b).zipIdx.map fun p => (p.2, physRange l.toNat p.1 4))
        fun t xs d => d.at' 5 t (.sweepRead v 4 xs (s.core.ccy + s.lat 19)))))

/-- R323-R326: the vector stores: which bytes go to which offsets under which bits of the mask. -/
def Obligations.VectorStoresAreElementStores : Prop :=
  ∀ (s : State) (v b : BitVec 5) (e : BitVec 4) (x : BitVec 6) (l z : BitVec 2) (g : BitVec 1) (m : BitVec 3) (i : BitVec 5),
    (Issues (.vst v e x l g m i) s → exec (.vst v e x l g m i) s =
      .next (s.storeElems false 5 (s.lat 20) e l.toNat 128 (fun y => !y.gateDst) [(s.core.offset x (128 * i.toNat),
        (List.range 128).map fun k => (lineByte (s.core.vreg v) k, decide (g = 0) || (s.core.mreg m).getLsbD (k / 4)))])) ∧
    (Issues (.vsts v e x l g m z) s → exec (.vsts v e x l g m z) s =
      .next (s.storeElems true 5 (s.lat 20) e l.toNat (2 ^ z.toNat) (fun y => !y.gateDst)
        ((s.core.strided x (128 / 2 ^ z.toNat)).zipIdx.map fun p => (p.1, (List.range (2 ^ z.toNat)).map fun k =>
          (lineByte (s.core.vreg v) (2 ^ z.toNat * p.2 + k), decide (g = 0) || (s.core.mreg m).getLsbD p.2))))) ∧
    (Issues (.vscat v e x l g m b) s → exec (.vscat v e x l g m b) s =
      .next (s.storeElems true 5 (s.lat 20) e l.toNat 4 (fun _ => false)
        ((s.core.indexed x b).zipIdx.map fun p => (p.1, (List.range 4).map fun k =>
          (lineByte (s.core.vreg v) (4 * p.2 + k), decide (g = 0) || (s.core.mreg m).getLsbD p.2)))))

/-- R80, R193, R220, R322, R325: a store of elements, all of one length: the first failed check of an element raises its fault; into `lcl` the
rows of the bytes that may be written get their undo entries and the writes go through port S from lat core cycles on; to an extent, one
gated effect carries the bytes that may be written. -/
def Obligations.ElementStores : Prop :=
  ∀ (s : State) (swept : Bool) (slot lat : Nat) (e : BitVec 4) (layout align : Nat) (accepts : Extent → Bool)
    (elems : List (Nat × List (Byte × Bool))),
    (∀ f, s.core.elemFault e (elems.map (·.1)) ((elems.map (·.2.length)).headD 0) align .store accepts = some f →
      s.storeElems swept slot lat e layout align accepts elems = faulted s slot f.1 f.2) ∧
    (∀ o, e = 0xF → s.core.elemFault e (elems.map (·.1)) ((elems.map (·.2.length)).headD 0) align .store accepts = none →
      rankFault (elems.map (·.1)) (elems.map fun x => rowOf ((physRange layout x.1 x.2.length).headD 0)) = none →
      s.core.sealedOff (elems.flatMap fun x => offsets x.1 ((elems.map (·.2.length)).headD 0)) = some o →
      s.storeElems swept slot lat e layout align accepts elems = faulted s slot .sealedCopy (some (BitVec.ofNat 64 o))) ∧
    (∀ k, e = 0xF → s.core.elemFault e (elems.map (·.1)) ((elems.map (·.2.length)).headD 0) align .store accepts = none →
      rankFault (elems.map (·.1)) (elems.map fun x => rowOf ((physRange layout x.1 x.2.length).headD 0)) = none →
      s.core.sealedOff (elems.flatMap fun x => offsets x.1 ((elems.map (·.2.length)).headD 0)) = none →
      s.core.reserve (elems.flatMap fun x => ((physRange layout x.1 x.2.length).zip x.2).filterMap fun p =>
        if p.2.2 then some (rowOf p.1) else none) = .ok k →
      s.storeElems swept slot lat e layout align accepts elems =
        withCore s (k.sweep swept slot (s.core.ccy + lat) (elems.map fun x => (x.2, physRange layout x.1 x.2.length)) fun t xs d =>
          d.at' slot t (.store .S (xs.flatMap fun x => (x.2.zip x.1).filterMap fun p => if p.2.2 then some (p.1, p.2.1) else none)))) ∧
    (∀ y, e ≠ 0xF → s.core.elemFault e (elems.map (·.1)) ((elems.map (·.2.length)).headD 0) align .store accepts = none →
      s.core.extent e = some y → layout = 0 → y.sealed = false → s.core.isControl = false → s.core.gated.length < 64 →
      s.storeElems swept slot lat e layout align accepts elems = gatedBy s s.core slot (y.classOf 0x02) 0 0
        (.write y.backing (y.key false) (elems.flatMap fun x => x.2.zipIdx.filterMap fun p =>
          if p.1.2 then some (y.address (x.1 + p.2), p.1.1) else none))) ∧
    (e = 0xF → s.core.elemFault e (elems.map (·.1)) ((elems.map (·.2.length)).headD 0) align .store accepts = none →
      (∀ f, rankFault (elems.map (·.1)) (elems.map fun x => rowOf ((physRange layout x.1 x.2.length).headD 0)) = some f →
        s.storeElems swept slot lat e layout align accepts elems = faulted s slot f.1 f.2) ∧
      (∀ row, rankFault (elems.map (·.1)) (elems.map fun x => rowOf ((physRange layout x.1 x.2.length).headD 0)) = none →
        s.core.sealedOff (elems.flatMap fun x => offsets x.1 ((elems.map (·.2.length)).headD 0)) = none →
        s.core.reserve (elems.flatMap fun x => ((physRange layout x.1 x.2.length).zip x.2).filterMap fun p =>
          if p.2.2 then some (rowOf p.1) else none) = .error row →
        s.storeElems swept slot lat e layout align accepts elems = faulted s slot .undoFull (some (BitVec.ofNat 64 (row % 4096))))) ∧
    (∀ y, e ≠ 0xF → s.core.elemFault e (elems.map (·.1)) ((elems.map (·.2.length)).headD 0) align .store accepts = none →
      s.core.extent e = some y →
      (layout ≠ 0 → s.storeElems swept slot lat e layout align accepts elems =
        faulted s slot .misaligned (some (BitVec.ofNat 64 ((elems.map (·.1)).headD 0)))) ∧
      (layout = 0 → y.sealed = true → s.storeElems swept slot lat e layout align accepts elems =
        faulted s slot .sealedCopy (some (BitVec.ofNat 64 ((elems.map (·.1)).headD 0)))) ∧
      (layout = 0 → y.sealed = false → s.core.isControl = false → 64 ≤ s.core.gated.length →
        s.storeElems swept slot lat e layout align accepts elems = faulted s slot .gateBufferFull none))

/-- R156, R328, R331: a move between a tile and a vector, or a zeroing. An unconfigured tile raises TILE_UNCONFIG, and an index outside the
shape TILE_SHAPE, both with the tile and the index in csr.tval; a tile that must first be saved for want of undo rows raises UNDO_FULL; else
the access is claimed and performs at its performance point p, its writes L(21) later. -/
def Sys2Proof.Cert.TileMove (i : Instr) (t : BitVec 3) (idx : Nat) (limit : Core → Option Nat) (op : Core → TileOp) : Prop :=
  ∀ s : State, Issues i s →
    (s.core.tileConf t = false → exec i s = .next (faulted s 5 .tileUnconfig (some (BitVec.ofNat 64 (t.toNat + 256 * idx))))) ∧
    (∀ n, s.core.tileConf t = true → limit s.core = some n → n ≤ idx →
      exec i s = .next (faulted s 5 .tileShape (some (BitVec.ofNat 64 (t.toNat + 256 * idx))))) ∧
    (s.core.tileConf t = true → (∀ n, limit s.core = some n → idx < n) →
      (∀ row, s.core.claim t = .error row →
        exec i s = .next (faulted s 5 .undoFull (some (BitVec.ofNat 64 (row % 4096))))) ∧
      (∀ p k, s.core.claim t = .ok (p, k) → exec i s = .next (withCore s (k.at' 5 p (.tile (op k) (s.lat 21))))))

/-- R328, R329, R331: the row and column moves and `tzero`, each with the index that it checks and the bytes that it moves; `tcfg` is no
access, and is seen from c + 1. -/
def Obligations.TileAccesses : Prop :=
  ∀ (t : BitVec 3) (v : BitVec 5) (i : BitVec 4) (h : BitVec 1) (b : BitVec 8),
    (∀ s, Issues (.tcfg t b) s → exec (.tcfg t b) s = .next (later s 5 1 (.tshapeByte t b))) ∧
    TileMove (.trowv v t i h) t i.toNat (fun c => some (c.tileRows t)) (fun c => .rowToVec v t (c.rowPairs t i.toNat h.toNat)) ∧
    TileMove (.tcolv v t i h) t i.toNat (fun c => some (c.tileCols t)) (fun c => .rowToVec v t (c.colPairs t i.toNat h.toNat)) ∧
    TileMove (.tvrow v t i h) t i.toNat (fun c => some (c.tileRows t))
      (fun c => .vecToTile t (pairBytes (c.vreg v) (c.rowPairs t i.toNat h.toNat))) ∧
    TileMove (.tvcol v t i h) t i.toNat (fun c => some (c.tileCols t))
      (fun c => .vecToTile t (pairBytes (c.vreg v) (c.colPairs t i.toNat h.toNat))) ∧
    TileMove (.tzero t) t 0 (fun _ => none)
      (fun c => .vecToTile t (pairBytes 0 ((List.range (c.tileRows t)).flatMap fun r => c.rowPairs t r 0))) ∧
    (∀ (c k : Core) p, c.claim t = .ok (p, k) →
      k.vreg v = c.vreg v ∧ (p = c.ccy ∨ p = c.ccy + 8 ∨ p = SMap.get 0 t.toNat c.claims) ∧
      k.tileConf t = c.tileConf t ∧ k.tileRows t = c.tileRows t ∧ k.tileCols t = c.tileCols t ∧ k.tileSize t = c.tileSize t)

/-- R156, R220, R328, R330, R332: a tile access between a tile and `lcl`, once its checks have passed: it reserves the undo rows of what it
writes there, is claimed, takes port S at p + n, where a held bank raises PORT_COLLISION, and performs at p. -/
def Sys2Proof.Cert.TileLcl (i : Instr) (s : State) (t : BitVec 3) (rows : List Nat) (n : Nat) (places : List Nat) (op : TileOp) : Prop :=
  (∀ row, s.core.reserve rows = .error row → exec i s = .next (faulted s 5 .undoFull (some (BitVec.ofNat 64 (row % 4096))))) ∧
  (∀ r, s.core.reserve rows = .ok r →
    (∀ row, r.claim t = .error row →
      exec i s = .next (faulted (withCore s r) 5 .undoFull (some (BitVec.ofNat 64 (row % 4096))))) ∧
    (∀ p k, r.claim t = .ok (p, k) →
      (k.busyBank false (p + n) (distinct (places.map bankOf)) = none → exec i s = .next (withCore s
        ((k.usePort .S 5 k.ccy (p + n) false (distinct (places.map bankOf))).at' 5 p (.tile op (s.lat 22))))) ∧
      (∀ b, k.busyBank false (p + n) (distinct (places.map bankOf)) = some b →
        exec i s = .next (lateFault s k 5 (p + n) .portCollision (some (portTval .S b))))))

/-- R80, R193, R328, R330, R332: tile loads and stores, and saves and restores of whole tiles: the checks that fail raise their faults; a tile
stored to an extent is one gated effect, which carries the tile as read at p. The order (TILE_UNCONFIG, extent, alignment, seals, undo rows,
claim, port) is the model's reading (log 29, DEDUCED). -/
def Obligations.TileTransfers : Prop :=
  ∀ (s : State) (t : BitVec 3) (e : BitVec 4) (x : BitVec 6) (l : BitVec 2),
    let off := (s.core.sreg x).toNat
    let rows := s.core.tileOffsets t off
    let places := (placeRows l.toNat rows).flatMap (·.2)
    (s.core.tileConf t = false →
      (Issues (.tld t e x l) s → exec (.tld t e x l) s = .next (faulted s 5 .tileUnconfig (some (BitVec.ofNat 64 t.toNat)))) ∧
      (Issues (.tst t e x l) s → exec (.tst t e x l) s = .next (faulted s 5 .tileUnconfig (some (BitVec.ofNat 64 t.toNat))))) ∧
    (Issues (.tld t e x l) s → s.core.tileConf t = true →
      (∀ f, s.core.elemFault e [off] (s.core.tileLength t) 64 .load (fun _ => false) = some f →
        exec (.tld t e x l) s = .next (faulted s 5 f.1 f.2)) ∧
      (s.core.elemFault e [off] (s.core.tileLength t) 64 .load (fun _ => false) = none →
        (∀ o, s.core.sealedOff (rows.flatMap (·.2)) = some o →
          exec (.tld t e x l) s = .next (faulted s 5 .sealedLoad (some (BitVec.ofNat 64 o)))) ∧
        (s.core.sealedOff (rows.flatMap (·.2)) = none →
          TileLcl (.tld t e x l) s t [] 0 places (.load t l.toNat (placeRows l.toNat rows))))) ∧
    (Issues (.tst t e x l) s → s.core.tileConf t = true →
      (∀ f, s.core.elemFault e [off] (s.core.tileLength t) 64 .store (fun y => !y.gateDst) = some f →
        exec (.tst t e x l) s = .next (faulted s 5 f.1 f.2)) ∧
      (s.core.elemFault e [off] (s.core.tileLength t) 64 .store (fun y => !y.gateDst) = none →
        (∀ o, e = 0xF → s.core.sealedOff (rows.flatMap (·.2)) = some o →
          exec (.tst t e x l) s = .next (faulted s 5 .sealedCopy (some (BitVec.ofNat 64 o)))) ∧
        (e = 0xF → s.core.sealedOff (rows.flatMap (·.2)) = none →
          TileLcl (.tst t e x l) s t (places.map rowOf) (s.lat 22) places (.storeLcl t (placeRows l.toNat rows))) ∧
        (∀ y, e ≠ 0xF → s.core.extent e = some y →
          (l ≠ 0 → exec (.tst t e x l) s = .next (faulted s 5 .misaligned (some (BitVec.ofNat 64 off)))) ∧
          (l = 0 → y.sealed = true → exec (.tst t e x l) s = .next (faulted s 5 .sealedCopy (some (BitVec.ofNat 64 off)))) ∧
          (l = 0 → y.sealed = false → 64 ≤ s.core.gated.length →
            exec (.tst t e x l) s = .next (faulted s 5 .gateBufferFull none)) ∧
          (∀ row, l = 0 → y.sealed = false → s.core.gated.length < 64 → s.core.isControl = false →
            (gatedBy s s.core 5 (y.classOf 0x02) 0 1 (.write y.backing (y.key false) [])).core.claim t = .error row →
            exec (.tst t e x l) s = .next (faulted (gatedBy s s.core 5 (y.classOf 0x02) 0 1 (.write y.backing (y.key false) []))
              5 .undoFull (some (BitVec.ofNat 64 (row % 4096))))) ∧
          (∀ p k, l = 0 → y.sealed = false → s.core.gated.length < 64 → s.core.isControl = false →
            (gatedBy s s.core 5 (y.classOf 0x02) 0 1 (.write y.backing (y.key false) [])).core.claim t = .ok (p, k) →
            exec (.tst t e x l) s = .next { (withCore s (k.at' 5 p (.tile (.storeOut t s.nextFill
              (rows.map fun r => (r.1, r.2.map y.address))) 0))) with nextFill := s.nextFill + 1 })))) ∧
    (Issues (.tsave t e x) s →
      (∀ f, s.core.elemFault e [off] 1024 128 .store (fun _ => false) = some f →
        exec (.tsave t e x) s = .next (faulted s 5 f.1 f.2)) ∧
      (s.core.elemFault e [off] 1024 128 .store (fun _ => false) = none →
        (∀ o, s.core.sealedOff (offsets off 1024) = some o →
          exec (.tsave t e x) s = .next (faulted s 5 .sealedCopy (some (BitVec.ofNat 64 o)))) ∧
        (s.core.sealedOff (offsets off 1024) = none →
          TileLcl (.tsave t e x) s t ((offsets off 1024).map rowOf) (s.lat 22) (offsets off 1024) (.save t off)))) ∧
    (Issues (.trest t e x) s →
      (∀ f, s.core.elemFault e [off] 1024 128 .load (fun _ => false) = some f →
        exec (.trest t e x) s = .next (faulted s 5 f.1 f.2)) ∧
      (s.core.elemFault e [off] 1024 128 .load (fun _ => false) = none →
        (∀ o, s.core.sealedOff (offsets off 1024) = some o →
          exec (.trest t e x) s = .next (faulted s 5 .sealedLoad (some (BitVec.ofNat 64 o)))) ∧
        (s.core.sealedOff (offsets off 1024) = none → TileLcl (.trest t e x) s t [] 0 (offsets off 1024) (.restore t off))))

/-- R331: a row that performs puts byte k of element j of the row at byte k of element 16h + j of the vector, and zero into every byte of
the vector that no element of the row takes. -/
def Obligations.TileRowsReachVectors : Prop :=
  ∀ (c : Core) (l : Late) (lat : Nat) (v : BitVec 5) (t : BitVec 3) (row h : Nat), h < 2 → row < 16 →
    ∃ x : Vec, c.tileNow l lat (.rowToVec v t (c.rowPairs t row h)) =
        { c with late := c.late ++ [{ l with due := l.due + lat, eff := .vreg v x }] } ∧
      (∀ j k, j < c.tileCols t → k < c.tileSize t → c.tileSize t * (16 * h + j) + k < 128 →
        lineByte x (c.tileSize t * (16 * h + j) + k) = tileByte (c.tile t) (64 * row + c.tileSize t * j + k)) ∧
      (∀ n, n < 128 → (n < c.tileSize t * 16 * h ∨ c.tileSize t * (16 * h + c.tileCols t) ≤ n) → lineByte x n = 0)

/-! ## Slot 6 -/

/-- The state at a slot-6 instruction: the first one of a handler copies the interrupted matrix state in a hold (R233). -/
def Sys2Proof.Cert.inMatrix (s : State) : State := withCore s s.core.matrixUse

/-- R348, R349, R158: a descriptor that a slot-6 instruction reads through port M at issue: the check that fails raises its fault, a bank that an
atomic or a sweep holds PORT_COLLISION, a descriptor with a bad byte MX_NEST reason 7; else the port is taken and the descriptor is in force
from c + 1 on. -/
def Sys2Proof.Cert.DescriptorResult (i : Instr) (a : BitVec 6) (len : Nat) (bad : List Byte → Option Nat) (eff : List Byte → Effect) : Prop :=
  ∀ s : State, Issues i s → s.core.nestSuspended = false →
    let c := s.core.matrixUse
    let off := (c.sreg a).toNat
    (∀ f, c.lclRead off len len none .sealedLoad = .error f → exec i s = .next (faulted (inMatrix s) 6 f.1 f.2)) ∧
    (∀ k, c.lclRead off len len none .sealedLoad = .ok k →
      (∀ b, k.heldM k.ccy (offsets off len) = some b →
        exec i s = .next (faulted (withCore s k) 6 .portCollision (some (portTval .M b)))) ∧
      (k.heldM k.ccy (offsets off len) = none →
        (∀ j, bad (k.lcl.readBytes off len) = some j → exec i s = .next (faulted
          (withCore s (k.useM 6 k.ccy (offsets off len))) 6 .mxNest (some (BitVec.ofNat 64 (7 + 256 * (j % 16)))))) ∧
        (bad (k.lcl.readBytes off len) = none → exec i s = .next (later
          (withCore s (k.useM 6 k.ccy (offsets off len))) 6 1 (eff (k.lcl.readBytes off len))))))

/-- R346-R350, R344: writes of the tables and descriptors, seen from c + 1, and what they refuse. -/
def Obligations.MatrixTables : Prop :=
  (∀ s : State, s.core.nestSuspended = false →
    let m := inMatrix s
    (∀ k l f a, Issues (.mnest k l f a) s → nestValueOk l.toNat f.toNat (m.core.sreg a) = true →
      (m.core.eng.nest.map (·.bank)) ≠ some k.toNat → exec (.mnest k l f a) s =
        .next (later m 6 1 (.nestValue k.toNat l.toNat f.toNat (m.core.sreg a)))) ∧
    (∀ k l f a, Issues (.mnest k l f a) s → nestValueOk l.toNat f.toNat (m.core.sreg a) = false → exec (.mnest k l f a) s =
      .next (faulted m 6 .mxNest (some (BitVec.ofNat 64 (1 + 256 * l.toNat + 4096 * f.toNat))))) ∧
    (∀ k l f a, Issues (.mnest k l f a) s → nestValueOk l.toNat f.toNat (m.core.sreg a) = true →
      (m.core.eng.nest.map (·.bank)) = some k.toNat → exec (.mnest k l f a) s =
        .next (faulted m 6 .mxNest (some (BitVec.ofNat 64 (2 + 256 * l.toNat + 4096 * f.toNat))))) ∧
    (∀ e f a, Issues (.mfmt e f a) s → fmtValueOk f.toNat (m.core.sreg a).toNat = true → m.core.liveEntries.contains e.toNat = false →
      exec (.mfmt e f a) s = .next (later m 6 1
        (.fmtEntry e.toNat ((m.core.r.fmtAt e.toNat).setField f.toNat (m.core.sreg a).toNat)))) ∧
    (∀ e f a, Issues (.mfmt e f a) s → fmtValueOk f.toNat (m.core.sreg a).toNat = false → exec (.mfmt e f a) s =
      .next (faulted m 6 .mxFormat (some (BitVec.ofNat 64 (e.toNat + 6 * 256))))) ∧
    (∀ e f a, Issues (.mfmt e f a) s → fmtValueOk f.toNat (m.core.sreg a).toNat = true → m.core.liveEntries.contains e.toNat = true →
      exec (.mfmt e f a) s = .next (faulted m 6 .mxNest (some (BitVec.ofNat 64 (2 + 256 * e.toNat))))) ∧
    (m.core.eng.nest = none → m.core.liveEntries = []) ∧
    (Issues .msparOff s → exec .msparOff s = .next (later m 6 1 (.sparsity false false))) ∧
    (Issues .mtreeOff s → exec .mtreeOff s = .next (later m 6 1 (.treeDesc none))) ∧
    (Issues .mselOff s → exec .mselOff s = .next (later m 6 1 (.source ⟨none, false, 0⟩))) ∧
    (∀ c b f, Issues (.msel c b f) s → exec (.msel c b f) s = .next (later m 6 1 (.source ⟨some c.toNat, b == 1, f⟩)))) ∧
  (∀ a, DescriptorResult (.mspar a) a 8 badSparsity (fun bs => .sparsity ((bs.getD 0 0).getLsbD 0) ((bs.getD 0 0).getLsbD 1)) ∧
    DescriptorResult (.mtree a) a 128 badTree (fun bs => .treeDesc (some bs)))

/-- The nest that `mgo` opens on a core (R339, R351). -/
def Sys2Proof.Cert.openedNest (c : Core) (b : BitVec 1) (lat : Nat) : Nest :=
  ⟨b.toNat, [0, 0, 0, 0, 0, 0], c.ccy + lat, endField ((c.r.nestBank b.toNat).headD NestLevel.zero).endv 16 4,
    endField ((c.r.nestBank b.toNat).headD NestLevel.zero).endv 8 2, 0, c.pc, c.ccy, true⟩

/-- R339, R342, R351-R355, R81: starting a nest, and what the engine's other instructions do to accumulators, retirement and status. With entry 24
at 0 the first step of a nest starts with its `mgo`. -/
def Obligations.MatrixEngine : Prop :=
  ∀ s : State, s.core.nestSuspended = false →
    let m := inMatrix s
    (∀ b, Issues (.mgo b) s → m.core.mgoFault b.toNat (s.lat 24) = none → s.lat 24 ≠ 0 → exec (.mgo b) s =
      .next (withCore s { m.core with eng := { m.core.eng with nest := some (openedNest m.core b (s.lat 24)), carry := [] } })) ∧
    (∀ b, Issues (.mgo b) s → m.core.mgoFault b.toNat (s.lat 24) = none → s.lat 24 = 0 → exec (.mgo b) s =
      .next (withCore s (s.nestStep
        { m.core with eng := { m.core.eng with nest := some (openedNest m.core b (s.lat 24)), carry := [] } }
        (openedNest m.core b (s.lat 24))))) ∧
    (∀ b f, Issues (.mgo b) s → m.core.mgoFault b.toNat (s.lat 24) = some f → exec (.mgo b) s = .next (faulted m 6 f.1 f.2)) ∧
    (∀ c r a f g, Issues (.macc c r a f g) s →
      (∀ z, m.core.lclWriteFault (m.core.sreg a).toNat (64 * outBytes f.toNat) (min (64 * outBytes f.toNat) 128) = some z →
        exec (.macc c r a f g) s = .next (faulted m 6 z.1 z.2)) ∧
      (∀ k, m.core.lclWriteFault (m.core.sreg a).toNat (64 * outBytes f.toNat) (min (64 * outBytes f.toNat) 128) = none →
        m.core.reserve ((offsets (m.core.sreg a).toNat (64 * outBytes f.toNat)).map rowOf) = .ok k →
        (∀ z, k.badAcc c.toNat (fun i => i / 64 == r.toNat) = some z → exec (.macc c r a f g) s = .next (faulted (withCore s k) 6 z.1 z.2)) ∧
        (k.badAcc c.toNat (fun i => i / 64 == r.toNat) = none →
          exec (.macc c r a f g) s = .next (later (later (withCore s k) 6 (s.lat 23) (.store .M (cellsAt (m.core.sreg a).toNat
              (convertRow (k.eng.bank c.toNat) 0 (k.eng.int32.getLsbD c.toNat) f.toNat (g == 1) k.r.tree r.toNat).1)))
            6 (s.lat 23)
            (.events (convertRow (k.eng.bank c.toNat) 0 (k.eng.int32.getLsbD c.toNat) f.toNat (g == 1) k.r.tree r.toNat).2))))) ∧
    (∀ a, Issues (.mzero a) s → a &&& m.core.heldBanks = 0 → ∃ k : Core, exec (.mzero a) s = .next (withCore s k) ∧
      k = { m.core with eng := { m.core.eng with acc := k.eng.acc }, bad := k.bad } ∧
      ∀ b, k.eng.bank b = if b < 4 ∧ a.getLsbD b then [] else m.core.eng.bank b) ∧
    (∀ a, Issues (.mzero a) s → a &&& m.core.heldBanks ≠ 0 → exec (.mzero a) s =
      .next (faulted m 6 .mxNest (some (BitVec.ofNat 64 (8 + 256 * a.toNat))))) ∧
    (∀ c a f g, Issues (.mret c a f g) s →
      (∀ z, m.core.lclWriteFault (m.core.sreg a).toNat (4096 * outBytes f.toNat) 128 = some z →
        exec (.mret c a f g) s = .next (faulted m 6 z.1 z.2)) ∧
      (m.core.lclWriteFault (m.core.sreg a).toNat (4096 * outBytes f.toNat) 128 = none →
        (m.core.eng.nest ≠ none ∨ m.core.retiring = true → exec (.mret c a f g) s =
          .next (faulted m 6 .mxNest (some (BitVec.ofNat 64 (8 + 256 * 2 ^ c.toNat))))) ∧
        (m.core.eng.nest = none → m.core.retiring = false → exec (.mret c a f g) s = .next (withCore s
          (m.core.retire 6 m.core.ccy m.core.pc c.toNat f (g == 1) (m.core.sreg a).toNat 0 (s.lat 23)))))) ∧
    (∀ a k, Issues (.mstat a) s → m.core.lclWriteFault (m.core.sreg a).toNat 64 64 = none →
      m.core.reserve [rowOf (m.core.sreg a).toNat] = .ok k → exec (.mstat a) s =
        .next (later (withCore s k) 6 (s.lat 23) (.store .M (cellsAt (m.core.sreg a).toNat k.engineStatus)))) ∧
    (∀ a z, Issues (.mstat a) s → m.core.lclWriteFault (m.core.sreg a).toNat 64 64 = some z →
      exec (.mstat a) s = .next (faulted m 6 z.1 z.2))

/-- R233, R344, R355-R357: at the first slot-6 instruction of a handler the interrupted state is copied in a hold of 64 core cycles;
`mabort` closes the nest and its step, `mrest` puts the state of the trap save buffer back, and while a restored nest waits every
slot-6 instruction but `mstat` raises MX_NEST reason 11. -/
def Obligations.MatrixInHandlers : Prop :=
  ∀ s : State,
    (s.core.inHandler = true → s.core.eng.suspended = true → s.core.save ≠ none → s.core.matrixUse = { s.core with
      holds := s.core.holds ++ [⟨s.core.ccy + 8, .clocks 64, .nothing, false⟩]
      eng := { s.core.eng with suspended := false } }) ∧
    (s.core.inHandler = false ∨ s.core.eng.suspended = false ∨ s.core.save = none → s.core.matrixUse = s.core) ∧
    (Issues .mabort s → s.core.nestSuspended = false → exec .mabort s = .next (withCore s { s.core.matrixUse with
      eng := { s.core.matrixUse.eng with nest := none, step := none, carry := [] }
      late := s.core.matrixUse.late.filter fun l => !l.eff.isSums })) ∧
    (∀ m, Issues .mrest s → s.core.nestSuspended = false → s.core.save = some m →
      exec .mrest s = .next (withCore s { s.core.matrixUse with
        eng := { s.core.matrixUse.eng with
          suspended := m.nest.isSome, nest := m.nest, lastRet := m.lastRet, rets := m.rets, step := none }
        r := { s.core.r with nests := m.nests, fmt := m.fmt, coarse := m.coarse, sp24 := m.sp24, tree := m.tree, src := m.src }
        save := none })) ∧
    (Issues .mrest s → s.core.nestSuspended = false → s.core.save = none → exec .mrest s = .next (faulted (inMatrix s) 6 .mxNest (some 9))) ∧
    (s.core.nestSuspended = true →
      (Issues .mabort s → exec .mabort s = .next (faulted s 6 .mxNest (some 11))) ∧
      (Issues .mrest s → exec .mrest s = .next (faulted s 6 .mxNest (some 11))) ∧
      (∀ b, Issues (.mgo b) s → exec (.mgo b) s = .next (faulted s 6 .mxNest (some 11))) ∧
      (∀ m, Issues (.mzero m) s → exec (.mzero m) s = .next (faulted s 6 .mxNest (some 11))) ∧
      (∀ k l f a, Issues (.mnest k l f a) s → exec (.mnest k l f a) s = .next (faulted s 6 .mxNest (some 11))) ∧
      (∀ e f a, Issues (.mfmt e f a) s → exec (.mfmt e f a) s = .next (faulted s 6 .mxNest (some 11))) ∧
      (∀ c r a f g, Issues (.macc c r a f g) s → exec (.macc c r a f g) s = .next (faulted s 6 .mxNest (some 11))) ∧
      (∀ c a f g, Issues (.mret c a f g) s → exec (.mret c a f g) s = .next (faulted s 6 .mxNest (some 11))) ∧
      (∀ a, (Issues (.mspar a) s → exec (.mspar a) s = .next (faulted s 6 .mxNest (some 11))) ∧
        (Issues (.mtree a) s → exec (.mtree a) s = .next (faulted s 6 .mxNest (some 11)))) ∧
      (∀ i ∈ [Instr.msparOff, .mtreeOff, .mselOff], Issues i s → exec i s = .next (faulted s 6 .mxNest (some 11))) ∧
      (∀ c b f, Issues (.msel c b f) s → exec (.msel c b f) s = .next (faulted s 6 .mxNest (some 11))))

/-- R342, R80, R163: a retirement passes the bank to the retirement buffer, zeroes it, and its 64 rows are due lat core cycles later, one a core
cycle; a destination in a sealed plate raises SEALED_COPY instead, and a bank with a bad word its error. -/
def Obligations.RetirementPassesTheBank : Prop :=
  ∀ (c : Core) (slot op : Nat) (pc : BitVec 17) (bank : Nat) (f : BitVec 3) (sat : Bool) (dst layout lat : Nat),
    (c.sealedOff ((List.range (4096 * outBytes f.toNat)).map (dst + ·)) = none →
      (c.badAcc bank (fun _ => true) = none →
        (c.retire slot op pc bank f sat dst layout lat).eng.bank bank = [] ∧
        (∀ b, b ≠ bank → (c.retire slot op pc bank f sat dst layout lat).eng.bank b = c.eng.bank b) ∧
        (c.retire slot op pc bank f sat dst layout lat).eng.lastRet = some c.ccy ∧
        (c.retire slot op pc bank f sat dst layout lat).eng.rets =
          c.eng.rets ++ [⟨c.ccy, op, c.eng.bank bank, c.eng.int32.getLsbD bank, f, sat, dst, layout, c.r.tree⟩] ∧
        (c.retire slot op pc bank f sat dst layout lat).late =
          c.late ++ (List.range 64).map fun r => ⟨c.ccy + lat + r, c.ccy, slot, pc, .retRow r⟩) ∧
      (∀ z, c.badAcc bank (fun _ => true) = some z → c.retire slot op pc bank f sat dst layout lat =
        { c with faults := c.faults ++ [⟨z.1, z.2, slot, pc⟩] })) ∧
    (∀ o, c.sealedOff ((List.range (4096 * outBytes f.toNat)).map (dst + ·)) = some o →
      c.retire slot op pc bank f sat dst layout lat =
        { c with faults := c.faults ++ [⟨.sealedCopy, some (BitVec.ofNat 64 o), slot, pc⟩] })

/-! ## Slot 7 -/

/-- R81, R361, R363, R364: a copy of length 0, or of no rows, does nothing; a row that fails its checks raises its fault, the extents first,
then the alignments, then the seals; else the copy starts, from its checked core. -/
def Obligations.CopiesCheckTheirRows : Prop :=
  (∀ (s : State) (f : BitVec 1) (e : BitVec 4) (l x n : BitVec 6) (y : BitVec 2),
    (Issues (.cpy f e l x n y) s →
      let form : CopyForm := ⟨f == 1, e, y.toNat, false⟩
      let row : CopyRow := ⟨(s.core.sreg x).toNat, (s.core.sreg l).toNat, (s.core.sreg n).toNat⟩
      (s.core.sreg n = 0 → exec (.cpy f e l x n y) s = .next s) ∧
      (s.core.sreg n ≠ 0 →
        (∀ z, s.core.copyRow form row = .error z → exec (.cpy f e l x n y) s = .next (faulted s 7 z.1 z.2)) ∧
        (∀ k, s.core.copyRow form row = .ok k → exec (.cpy f e l x n y) s =
          .next (if f = 1 ∧ e ≠ 0xF then (withCore s k).copyOut form [row] else (withCore s k).copyIn form [row])))) ∧
    (Issues (.cpy2 f e l x n y) s →
      let form : CopyForm := ⟨f == 1, e, y.toNat, true⟩
      ((s.core.sreg n).extractLsb' 0 32 = 0 ∨ (s.core.sreg n).extractLsb' 32 16 = 0 → exec (.cpy2 f e l x n y) s = .next s) ∧
      ((s.core.sreg n).extractLsb' 0 32 ≠ 0 → (s.core.sreg n).extractLsb' 32 16 ≠ 0 →
        (∀ z, s.core.copyRows form (s.core.rows2 l x n) = .error z →
          exec (.cpy2 f e l x n y) s = .next (faulted s 7 z.1 z.2)) ∧
        (∀ k, s.core.copyRows form (s.core.rows2 l x n) = .ok k → exec (.cpy2 f e l x n y) s =
          .next (if f = 1 ∧ e ≠ 0xF then (withCore s k).copyOut form (s.core.rows2 l x n)
            else (withCore s k).copyIn form (s.core.rows2 l x n))))) ∧
    (∀ r, r < ((s.core.sreg n).extractLsb' 32 16).toNat → ∃ q : CopyRow, (s.core.rows2 l x n)[r]? = some q ∧
      q.len = ((s.core.sreg n).extractLsb' 0 32).toNat ∧
      (q.ext : Int) = ((s.core.sreg x).toNat + r * ((s.core.sreg (n + 1)).extractLsb' 0 32).toInt) % 2 ^ 64 ∧
      (q.lcl : Int) = ((s.core.sreg l).toNat + r * ((s.core.sreg (n + 1)).extractLsb' 32 32).toInt) % 2 ^ 64)) ∧
  (∀ (c : Core) (f : CopyForm) (r : CopyRow),
    (∀ z, c.copyRange f r = some z → c.copyRow f r = .error z) ∧
    (∀ z, c.copyRange f r = none → c.copySealed f r = some z → c.copyRow f r = .error z) ∧
    (∀ z, c.extSide f r 1 = some z → c.copyRange f r = some z) ∧
    (c.extSide f r 1 = none →
      (524288 < r.len → c.copyRange f r = some (.extentBound, f.tval r.ext none)) ∧
      (r.len ≤ 524288 →
        (∀ z, c.lclFault r.lcl r.len 1 = some z → c.copyRange f r = some z) ∧
        (c.lclFault r.lcl r.len 1 = none → r.len % 16 ≠ 0 →
          c.copyRange f r = some (.misaligned, f.tval r.ext (some r.len))))))

/-- R165, R220, R361, R363: a copy into `lcl` reserves the undo entries of its rows, tags its plates and starts its transfer: row by row within
`lcl`, from the lines of L2 (those that miss are written late), or as one late arrival from an NC, HOST or DEVICE extent. -/
def Obligations.CopiesIntoLcl : Prop :=
  ∀ (s : State) (f : CopyForm) (rows : List CopyRow),
    let cs := markChunks f.several (chunkOffsets f rows)
    (∀ row, s.core.reserve (cs.map fun x => rowOf (physOf f.layout x.dst)) = .error row →
      s.copyIn f rows = faulted s 7 .undoFull (some (BitVec.ofNat 64 (row % 4096)))) ∧
    (∀ u, s.core.reserve (cs.map fun x => rowOf (physOf f.layout x.dst)) = .ok u →
      (f.ext = 0xF → s.copyIn f rows = { withCore s
        ((u.openCopy s.nextFill f.layout none false (placed id f.layout cs) [] fun _ => false).copyWithin s.nextFill f.layout cs)
        with nextFill := s.nextFill + 1 }) ∧
      (∀ x, f.ext ≠ 0xF → s.core.extent f.ext = some x →
        let at' := placed x.address f.layout cs
        let tagged := u.openCopy s.nextFill f.layout (if x.sealed then some x.sealId else none) (x.backing == .host) at' (chunkOffsets f rows)
        (x.backing ≠ .l2 → s.copyIn f rows = { withCore s { tagged (fun _ => true) with
          uncached := u.uncached ++ [⟨s.nextFill, x.backing, x.key s.core.isControl,
            (at'.filter fun y => y.live).flatMap fun y => (sixteen y.src).zip (sixteen y.dst),
            (at'.filter fun y => !y.live).flatMap fun y => (sixteen y.src).zip (sixteen y.dst), s.core.ccy⟩] }
          with nextFill := s.nextFill + 1 }) ∧
        (x.backing = .l2 → s.copyIn f rows = { withCore s
            (tagged fun y => (s.hit (clusterOf s.core.id) (y.src / 128) (x.key s.core.isControl)).isNone)
          with nextFill := s.nextFill + 1 }.copyL2 s.nextFill (x.key s.core.isControl) at')))

/-- R165, R77: at issue a copy into `lcl` gives each plate that it writes the next EXPSEQ and its layout, with CHECKED, POISON and REFUSED
cleared; the tags of the other plates, the scratchpad and the registers stay. -/
def Obligations.CopiesTagTheirPlates : Prop :=
  ∀ (c : Core) (copy layout : Nat) (host : Bool) (cs : List Chunk) (late : Chunk → Bool) (p : Nat),
    let d := c.openCopy copy layout none host cs [] late
    ((∃ x ∈ cs, plateOf x.dst = p) → d.plate p = { c.plate p with
      expSeq := (c.plate p).expSeq + 1, layout := BitVec.ofNat 2 layout, checked := false, poison := false, refused := false
      sealId := (c.plate p).sealId }) ∧
    ((∀ x ∈ cs, plateOf x.dst ≠ p) → d.plate p = c.plate p) ∧
    d.lcl = c.lcl ∧ d.r = c.r ∧ d.late = c.late

/-- R360, R363, R364, R193: a copy out of `lcl` is one gated effect of class cw: on a compute core its rows are read one a core cycle from c + 1 on;
on a control core it leaves at issue with the bytes as they stand, and one to the register space performs there unless a write before it has not
(log 35, DEDUCED); 64 KiB bound the outbound buffer of a strand, and 64 its gated effects. -/
def Obligations.CopiesOutOfLcl : Prop :=
  ∀ (s : State) (f : CopyForm) (rows : List CopyRow) (x : Extent), s.core.extent f.ext = some x →
    let cs := markChunks f.several (chunkOffsets f rows)
    (s.core.isControl = false → 65536 < s.outbound s.core + 16 * cs.length → s.copyOut f rows = faulted s 7 .gateBufferFull none) ∧
    (s.core.isControl = false → s.outbound s.core + 16 * cs.length ≤ 65536 → 64 ≤ s.core.gated.length →
      s.copyOut f rows = faulted s 7 .gateBufferFull none) ∧
    (s.core.isControl = false → s.outbound s.core + 16 * cs.length ≤ 65536 → s.core.gated.length < 64 →
      s.copyOut f rows = { withCore s { s.core with
        gated := s.core.gated ++ [⟨s.nextFill, s.core.id, clusterOf s.core.id, s.core.strand, s.core.ccy, 7,
          x.classOf 0x08, (byRow cs).length, 16 * cs.length, .write x.backing (x.key false) []⟩]
        late := s.core.late ++ (byRow cs).zipIdx.map fun g => ⟨s.core.ccy + 1 + g.2, s.core.ccy, 7, s.core.pc,
          .outRow s.nextFill ((g.1.filter fun q => q.live).flatMap fun q => sixteen (physOf f.layout q.src))
            ((g.1.filter fun q => q.live).flatMap fun q => sixteen (x.address q.dst))⟩ }
        with nextFill := s.nextFill + 1 }) ∧
    (s.core.isControl = true →
      let eff : OutEffect := .write x.backing (x.key true)
        (((cs.filter fun q => q.live).flatMap fun q => sixteen (x.address q.dst)).zip
          (s.core.lclAt ((cs.filter fun q => q.live).flatMap fun q => sixteen (physOf f.layout q.src))))
      (x.backing ≠ .stretcher ∨ (s.released.any fun g => g.toStretcher s.core.id) = true →
        s.copyOut f rows = leftBy s 7 (x.classOf 0x08) eff) ∧
      (x.backing = .stretcher → (s.released.any fun g => g.toStretcher s.core.id) = false →
        s.copyOut f rows = (leftBy s 7 (x.classOf 0x08) eff).performEffect
          ⟨s.nextFill, s.core.id, clusterOf s.core.id, s.core.strand, s.core.ccy, 7, x.classOf 0x08, 0, 0, eff⟩))

/-- R182, R365, R366, R367, R185: waits for a plate, cache maintenance, sends and receives. -/
def Obligations.WaitsMaintenanceAndTransfers : Prop :=
  ∀ s : State,
    (∀ p, Issues (.mwait p) s → s.core.isControl = false → exec (.mwait p) s = .next (withCore s { s.core with holds :=
      s.core.holds ++ [⟨s.core.ccy + 8, .mwait p.toNat, .nothing, false⟩] })) ∧
    (∀ p, Issues (.mwait p) s → s.core.isControl = true → p.toNat < 64 → exec (.mwait p) s =
      .next (withCore s { s.core with wait := s.core.wait ++ [.mwait p.toNat] })) ∧
    (∀ p, Issues (.mwait p) s → s.core.isControl = true → 64 ≤ p.toNat → exec (.mwait p) s = .next (faulted s 7 .extentBound none)) ∧
    (∀ x n, s.core.sreg n ≠ 0 → ∃ f : Cause × Option Word,
      f = (if s.core.lclSize < (s.core.sreg x).toNat + (s.core.sreg n).toNat then .extentBound else .extentPerm, some (s.core.sreg x)) ∧
      (Issues (.cflush 0xF x n) s → exec (.cflush 0xF x n) s = .next (faulted s 7 f.1 f.2)) ∧
      (Issues (.cinv 0xF x n) s → exec (.cinv 0xF x n) s = .next (faulted s 7 f.1 f.2))) ∧
    (∀ e x n y, e ≠ 0xF → s.core.sreg n ≠ 0 → s.core.extent e = some y → y.backing = .nc →
      s.core.extFault e (s.core.sreg x).toNat (s.core.sreg n).toNat 1 .load (fun y => !y.device && y.backing != .host) = none →
      (Issues (.cflush e x n) s → exec (.cflush e x n) s = .next s) ∧ (Issues (.cinv e x n) s → exec (.cinv e x n) s = .next s)) ∧
    (∀ e x n, s.core.sreg n = 0 → (Issues (.cflush e x n) s → exec (.cflush e x n) s = .next s) ∧
      (Issues (.cinv e x n) s → exec (.cinv e x n) s = .next s)) ∧
    (∀ e x n y, e ≠ 0xF → s.core.sreg n ≠ 0 → s.core.extent e = some y → y.backing = .l2 →
      s.core.extFault e (s.core.sreg x).toNat (s.core.sreg n).toNat 1 .load (fun y => !y.device && y.backing != .host) = none →
      (Issues (.cflush e x n) s → s.core.isControl = false → s.core.gated.length < 64 → exec (.cflush e x n) s = .next
        (gatedBy s s.core 7 0x08 0 0 (.flush (y.lines (s.core.sreg x).toNat (s.core.sreg n).toNat)))) ∧
      (Issues (.cflush e x n) s → s.core.isControl = false → 64 ≤ s.core.gated.length →
        exec (.cflush e x n) s = .next (faulted s 7 .gateBufferFull none)) ∧
      (Issues (.cflush e x n) s → s.core.isControl = true → exec (.cflush e x n) s = .next
        (leftBy s 7 0x08 (.flush (y.lines (s.core.sreg x).toNat (s.core.sreg n).toNat)))) ∧
      (Issues (.cinv e x n) s → exec (.cinv e x n) s = .next
        (leftBy s 7 0x08 (.inval (y.lines (s.core.sreg x).toNat (s.core.sreg n).toNat))))) ∧
    (∀ e x n f, e ≠ 0xF → s.core.sreg n ≠ 0 →
      s.core.extFault e (s.core.sreg x).toNat (s.core.sreg n).toNat 1 .load (fun y => !y.device && y.backing != .host) = some f →
      (Issues (.cflush e x n) s → exec (.cflush e x n) s = .next (faulted s 7 f.1 f.2)) ∧
      (Issues (.cinv e x n) s → exec (.cinv e x n) s = .next (faulted s 7 f.1 f.2))) ∧
    (∀ l a r t d, Issues (.send l a r t) s → (s.cohort s.core.coh).find? (fun d => d.tstrand % d.cohsize == r.toNat) = some d →
      exec (.send l a r t) s = .next (s.onCore d.id fun d => { d with late := d.late ++
        [⟨d.ccy + 1 + s.transitSum s.core.id d.id, d.ccy, 7, s.core.pc,
          .land l (s.core.vreg a) ((s.core.sreg t).extractLsb' 0 16) d.r.act s.core.id⟩] })) ∧
    (∀ l a r t, Issues (.send l a r t) s → (s.cohort s.core.coh).find? (fun d => d.tstrand % d.cohsize == r.toNat) = none →
      exec (.send l a r t) s = .next (faulted s 7 .xferTag (some (BitVec.ofNat 64 (2 ^ 33))))) ∧
    (∀ l d t, Issues (.recv l d t) s → (s.core.lreg l).full = true → (s.core.lreg l).tag = t → exec (.recv l d t) s =
      .next (later (withCore s { s.core with r := s.core.r.emptyL l }) 7 (s.lat 8)
        (.vreg d (s.core.lreg l).val))) ∧
    (∀ l d t, Issues (.recv l d t) s → ((s.core.lreg l).full = false ∨ (s.core.lreg l).tag ≠ t) → exec (.recv l d t) s =
      .next (faulted s 7 .xferTag (some (BitVec.ofNat 64
        (t.toNat + 2 ^ 16 * (s.core.lreg l).tag.toNat + 2 ^ 32 * (!(s.core.lreg l).full).toNat)))))

/-- R188, R368: a ring operation issued: it reserves its q register, whose arrival and error marks are cleared; a mutation of a compute core is a
gated effect of no fence class, `rget` and the operations of control cores are armed at issue; a slot of another partition raises
RING_OWNER, a q register with an operation that has not performed RING_STATE. A result under way to the register is written no more: the
model's choice (log 76, DESIGN CHOICE). -/
def Sys2Proof.Cert.RingResult (i : Instr) (kind : RingKind) (q : BitVec 2) (n : BitVec 8) (k w : BitVec 2)
    (x cmp : Core → Word) (payload : Core → Payload) : Prop :=
  ∀ s : State, Issues i s →
    let canvas := if s.core.isControl then k.toNat else s.core.id / 128
    (s.ringOwns s.core canvas n.toNat = false → exec i s = .next (faulted s 7 .ringOwner none)) ∧
    (s.ringOwns s.core canvas n.toNat = true → (s.core.qreg q).busy = true →
      exec i s = .next (faulted s 7 .ringState (some (BitVec.ofNat 64 (0x200 + q.toNat))))) ∧
    (s.ringOwns s.core canvas n.toNat = true → (s.core.qreg q).busy = false → kind = .rget ∨ s.core.isControl = true →
      exec i s = .next (withCore s { s.core with r := s.core.r.setQ q { s.core.qreg q with
        arrived := false, err := false, slot := n, result := none
        entry := some ⟨kind, canvas, n.toNat, payload s.core, x s.core, w.toNat, cmp s.core, s.core.ccy, s.core.r.act,
          .armed s.time.gcy⟩ } })) ∧
    (s.ringOwns s.core canvas n.toNat = true → (s.core.qreg q).busy = false → kind ≠ .rget → s.core.isControl = false →
      (64 ≤ s.core.gated.length → exec i s = .next (faulted s 7 .gateBufferFull none)) ∧
      (s.core.gated.length < 64 → exec i s = .next (gatedBy s { s.core with
        r := s.core.r.setQ q { s.core.qreg q with
          arrived := false, err := false, slot := n, result := none
          entry := some ⟨kind, canvas, n.toNat, payload s.core, x s.core, w.toNat, cmp s.core, s.core.ccy, s.core.r.act, .gated⟩ } }
        7 0 0 0 (.ring q))))

/-- The ten ring operations. -/
def Obligations.RingOperationsReserveTheirRegister : Prop :=
  ∀ (q w k : BitVec 2) (n : BitVec 8) (o c : BitVec 6) (v : BitVec 5),
    RingResult (.rget q n k) .rget q n k 0 (fun _ => 0) (fun _ => 0) (fun _ => 0) ∧
    RingResult (.rput q n v k) .rput q n k 0 (fun _ => 0) (fun _ => 0) (·.ringPayload v) ∧
    RingResult (.radd q n o w k) .radd q n k w (·.sreg o) (fun _ => 0) (fun _ => 0) ∧
    RingResult (.rmax q n o w k) .rmax q n k w (·.sreg o) (fun _ => 0) (fun _ => 0) ∧
    RingResult (.rmin q n o w k) .rmin q n k w (·.sreg o) (fun _ => 0) (fun _ => 0) ∧
    RingResult (.rand q n o w k) .rand q n k w (·.sreg o) (fun _ => 0) (fun _ => 0) ∧
    RingResult (.ror q n o w k) .ror q n k w (·.sreg o) (fun _ => 0) (fun _ => 0) ∧
    RingResult (.rcas q n o w c k) .rcas q n k w (·.sreg o) (·.sreg c) (fun _ => 0) ∧
    RingResult (.rboard q n v k) .rboard q n k 0 (fun _ => 0) (fun _ => 0) (·.ringPayload v) ∧
    RingResult (.ralight q n k) .ralight q n k 0 (fun _ => 0) (fun _ => 0) (fun _ => 0)

/-- R369: what each operation does to its slot as it passes: the slot after it, and whether it marks a state error. The revision counts the
changes modulo 256; an arithmetic operation changes one word of the payload. -/
def Obligations.RingOperationsAtTheSlot : Prop :=
  ∀ (e : RingEntry) (t : Slot), e.word < 4 →
    (e.kind = .rget → e.act t = (t, !t.boarded, false)) ∧
    (e.kind = .rput → t.boarded = true → e.act t = (⟨true, t.rev + 1, e.payload⟩, false, false)) ∧
    (e.kind = .rboard → t.boarded = false → e.act t = (⟨true, t.rev + 1, e.payload⟩, false, false)) ∧
    (e.kind = .ralight → t.boarded = true → e.act t = (⟨false, t.rev + 1, 0⟩, false, false)) ∧
    ((e.kind = .rput ∨ e.kind = .radd ∨ e.kind = .rmax ∨ e.kind = .rmin ∨ e.kind = .rand ∨ e.kind = .ror ∨ e.kind = .rcas ∨
      e.kind = .ralight) → t.boarded = false → e.act t = (t, true, false)) ∧
    (e.kind = .rboard → t.boarded = true → e.act t = (t, true, false)) ∧
    (e.kind = .rcas → t.boarded = true → t.payload.extractLsb' (64 * e.word) 64 ≠ e.cmp → e.act t = (t, false, false)) ∧
    (t.boarded = true → ∀ f : Word → Word,
      (e.kind = .radd ∧ f = (· + e.x)) ∨
      (e.kind = .rmax ∧ f = fun w => if w.toInt < e.x.toInt then e.x else w) ∨
      (e.kind = .rmin ∧ f = fun w => if e.x.toInt < w.toInt then e.x else w) ∨
      (e.kind = .rand ∧ f = (· &&& e.x)) ∨ (e.kind = .ror ∧ f = (· ||| e.x)) ∨
      (e.kind = .rcas ∧ t.payload.extractLsb' (64 * e.word) 64 = e.cmp ∧ f = fun _ => e.x) →
      ∃ u : Slot, e.act t = (u, false, decide (e.kind = .rcas)) ∧ u.boarded = true ∧ u.rev = t.rev + 1 ∧
        u.payload.extractLsb' (64 * e.word) 64 = f (t.payload.extractLsb' (64 * e.word) 64) ∧
        ∀ k, k < 4 → k ≠ e.word → u.payload.extractLsb' (64 * k) 64 = t.payload.extractLsb' (64 * k) 64)

/-- R190, R370: collecting the result of a ring operation: a marked result raises RING_STATE with its slot, a register without an operation, or
with one still gated, RING_STATE; else the strand asks for a hold or, on a control core, waits. -/
def Sys2Proof.Cert.CollectResult (i : Instr) (d : BitVec 6) (q : BitVec 2) (word : Nat) (rev : Bool) : Prop :=
  ∀ s : State, Issues i s →
    ((s.core.qreg q).arrived = true → (s.core.qreg q).err = true → exec i s =
      .next (faulted s 7 .ringState (some (BitVec.ofNat 64 ((s.core.qreg q).slot.toNat + 1024 * q.toNat))))) ∧
    ((s.core.qreg q).arrived = false → (s.core.qreg q).entry = none → (s.core.qreg q).result = none → exec i s =
      .next (faulted s 7 .ringState (some (BitVec.ofNat 64 (0x100 + q.toNat))))) ∧
    (∀ e, (s.core.qreg q).arrived = false → (s.core.qreg q).entry = some e → e.phase = .gated → exec i s =
      .next (faulted s 7 .ringState (some (BitVec.ofNat 64 (0x100 + q.toNat))))) ∧
    (((s.core.qreg q).arrived = true ∧ (s.core.qreg q).err = false) ∨
        ((s.core.qreg q).arrived = false ∧ ((s.core.qreg q).entry ≠ none ∨ (s.core.qreg q).result ≠ none) ∧
          ∀ e, (s.core.qreg q).entry = some e → e.phase ≠ .gated) →
      (s.core.isControl = false → exec i s = .next (withCore s { s.core with holds := s.core.holds ++
        [⟨s.core.ccy + 8, .rcol q, .rcolWrite d q word rev s.core.pc, false⟩] })) ∧
      (s.core.isControl = true → exec i s = .next (withCore s { s.core with wait := s.core.wait ++ [.rcol d q word rev] })))

/-- R190, R370, R374: collecting the result of a ring operation, and the status of a collective. -/
def Obligations.CollectingResults : Prop :=
  ∀ (s : State) (d : BitVec 6) (q w : BitVec 2),
    CollectResult (.rcol d q w) d q w.toNat false ∧ CollectResult (.rcolRev d q) d q 0 true ∧
    (Issues (.cwait d) s → s.core.isControl = true → exec (.cwait d) s = .next (later s 7 1 (.sreg d 0xFF))) ∧
    (Issues (.cwait d) s → s.core.isControl = false → s.core.colls.length ≤ s.core.collecting → exec (.cwait d) s =
      .next (later s 7 8 (.sreg d 0xFF))) ∧
    (Issues (.cwait d) s → s.core.isControl = false → s.core.collecting < s.core.colls.length → exec (.cwait d) s =
      .next (withCore s { s.core with holds := s.core.holds ++
        [⟨s.core.ccy + 8, .collective s.core.collecting, .cwaitWrite d, false⟩] }))

/-- R371-R373, R360: gates, key/value commits and collectives that pass their checks are one gated effect each, which reads its source
after its release; the checks that fail raise their faults. The fence classes 0x0C and 0x04 of `kvcommit` and `coll`, and GATE_DENIED for a
`gpass` of a control core, are the model's reading (log 48, DEDUCED). -/
def Obligations.GatesCommitsAndCollectives : Prop :=
  ∀ s : State,
    (∀ d e o p n, Issues (.gpass d e o p n) s → s.core.isControl = true →
      exec (.gpass d e o p n) s = .next (faulted s 7 .gateDenied none)) ∧
    (s.core.isControl = false →
    (∀ d e o p n f, Issues (.gpass d e o p n) s →
      s.gateCheck ⟨d, e, (s.core.sreg o).toNat, (s.core.sreg p).toNat, (s.core.sreg n).toNat⟩ = .error f →
      exec (.gpass d e o p n) s = .next (faulted s 7 f.1 f.2)) ∧
    (∀ d e o p n k layout x y, Issues (.gpass d e o p n) s →
      s.gateCheck ⟨d, e, (s.core.sreg o).toNat, (s.core.sreg p).toNat, (s.core.sreg n).toNat⟩ = .ok (k, layout) →
      k.extent d = some x → k.extent e = some y → k.gated.length < 64 → k.isControl = false → exec (.gpass d e o p n) s =
        .next (gatedBy s k 7 (x.classOf 0x0C) 0 0 (.gather y.backing (y.key false)
          (y.lines (s.core.sreg p).toNat (s.core.sreg n).toNat) []
          (.bytes x.backing (x.key false) (x.addresses (s.core.sreg o).toNat (s.core.sreg n).toNat))))) ∧
    (∀ d e o p n k layout x, Issues (.gpass d e o p n) s →
      s.gateCheck ⟨d, e, (s.core.sreg o).toNat, (s.core.sreg p).toNat, (s.core.sreg n).toNat⟩ = .ok (k, layout) →
      k.extent d = some x → k.extent e = none → exec (.gpass d e o p n) s = .next ((withCore s k).gatePassLcl x
        ⟨d, e, (s.core.sreg o).toNat, (s.core.sreg p).toNat, (s.core.sreg n).toNat⟩ layout)) ∧
    (∀ e p n, Issues (.kvcommit e p n) s → s.core.sreg n = 0 → exec (.kvcommit e p n) s = .next s) ∧
    (∀ e p n, Issues (.kvcommit e p n) s → 64 < (s.core.sreg n).toNat → exec (.kvcommit e p n) s =
      .next (illegalAt s 7 (.kvcommit e p n))) ∧
    (∀ e p n k x bs, Issues (.kvcommit e p n) s → s.core.sreg n ≠ 0 → (s.core.sreg n).toNat ≤ 64 →
      s.core.lclRead (s.core.sreg p).toNat 128 128 none .sealedLoad = .ok k → bs = s.core.lcl.readBytes (s.core.sreg p).toNat 128 →
      pathOk bs (s.core.sreg n).toNat = true → k.extent e = some x → e ≠ 0xF →
      (∀ j, j < (s.core.sreg n).toNat →
        k.l2Range e (fun _ => true) (fieldAt bs 8 8 + fieldAt bs (32 + j) 1 * fieldAt bs 0 4) (fieldAt bs 0 4) = none ∧
        k.l2Range e (fun _ => true) (fieldAt bs 16 8 + j * fieldAt bs 0 4) (fieldAt bs 0 4) = none) →
      (x.sealed = true → exec (.kvcommit e p n) s = .next (faulted (withCore s k) 7 .extentPerm
        (some (BitVec.ofNat 64 (fieldAt bs 8 8 + fieldAt bs 32 1 * fieldAt bs 0 4))))) ∧
      (x.sealed = false → k.gated.length < 64 → k.isControl = false → exec (.kvcommit e p n) s =
        .next (gatedBy s k 7 0x0C 0 0 (.gather .l2 (x.key false)
          ((List.range (s.core.sreg n).toNat).flatMap fun j => x.lines (fieldAt bs 8 8 + fieldAt bs (32 + j) 1 * fieldAt bs 0 4) (fieldAt bs 0 4))
          [] (.bytes .l2 (x.key false)
            ((List.range (s.core.sreg n).toNat).flatMap fun j => x.addresses (fieldAt bs 16 8 + j * fieldAt bs 0 4) (fieldAt bs 0 4))))))) ∧
    (∀ e p o t, Issues (.coll e p o t) s → s.core.collgrp = none → exec (.coll e p o t) s =
      .next (illegalAt s 7 (.coll e p o t))) ∧
    (∀ e p o t group k x bs w, Issues (.coll e p o t) s → s.core.collgrp = some group →
      s.core.lclRead (s.core.sreg p).toNat 32 32 none .sealedLoad = .ok k → bs = s.core.lcl.readBytes (s.core.sreg p).toNat 32 →
      fieldAt bs 0 8 % 128 = 0 → fieldAt bs 8 8 % 128 = 0 → fieldAt bs 16 4 ≠ 0 → fieldAt bs 16 4 ≤ 16777216 → zeroBytes bs 20 12 = true →
      k.l2Range e (fun _ => true) (fieldAt bs 0 8) (fieldAt bs 16 4 * collSize t) = none →
      k.l2Range e (fun _ => true) (fieldAt bs 8 8) (fieldAt bs 16 4 * collSize t) = none →
      k.extent e = some x → x.sealed = false → s.world x.world = some w → w.gen = x.gen → k.colls.length < 4 → k.gated.length < 64 →
      k.isControl = false → exec (.coll e p o t) s = .next (gatedBy s
        { k with colls := k.colls ++ [⟨k.collNum + 1, s.collEnd group (k.collNum + 1)⟩], collNum := k.collNum + 1 }
        7 0x04 0 0 (.gather .l2 (x.key false) (x.lines (fieldAt bs 0 8) (fieldAt bs 16 4 * collSize t)) []
          (.coll group ⟨k.collNum + 1, o, t, x.lines (fieldAt bs 8 8) (fieldAt bs 16 4 * collSize t), fieldAt bs 16 4, x.gen, x.key false⟩)))))

/-- R375-R379: converters, and the loads, commits and debug reads of the system cores. -/
def Obligations.ConvertersAndSystemLoads : Prop :=
  ∀ s : State,
    (∀ d a i f x fl, Issues (.fxcall d a i f) s → s.convertBy s.core.id i.toNat f.toNat (s.core.vreg a) = some (x, fl) →
      exec (.fxcall d a i f) s = .next (later (later s 7 (s.lat 11) (.vreg d x)) 7 (s.lat 11) (.events ⟨fl, 0, 0, 0, 0⟩))) ∧
    (∀ d a i f, Issues (.fxcall d a i f) s → s.convertBy s.core.id i.toNat f.toNat (s.core.vreg a) = none →
      exec (.fxcall d a i f) s = .next (faulted s 7 .illegalOp (some (BitVec.ofNat 64 (i.toNat + 256 * f.toNat))))) ∧
    (∀ e x c n, Issues (.iload e x c n) s → s.core.sreg c &&& ~~~0x0FFF01FF = 0 → s.core.sreg n ≠ 0 → (s.core.sreg n).toNat % 32 = 0 →
      ((s.core.sreg c).extractLsb' 16 12).toNat + (s.core.sreg n).toNat / 32 ≤ 4096 →
      ∀ k, s.core.readSource e (s.core.sreg x).toNat (s.core.sreg n).toNat = .ok k → exec (.iload e x c n) s =
        .next ((((withCore s k).imageBytes e (s.core.sreg x).toNat (s.core.sreg n).toNat).2).loadImem
          ((s.core.sreg c).extractLsb' 0 9).toNat (32 * ((s.core.sreg c).extractLsb' 16 12).toNat)
          ((withCore s k).imageBytes e (s.core.sreg x).toNat (s.core.sreg n).toNat).1)) ∧
    (∀ e x c n, Issues (.iload e x c n) s → s.core.sreg c &&& ~~~0x0FFF01FF ≠ 0 ∨ s.core.sreg n = 0 ∨ (s.core.sreg n).toNat % 32 ≠ 0 ∨
      4096 < ((s.core.sreg c).extractLsb' 16 12).toNat + (s.core.sreg n).toNat / 32 →
      exec (.iload e x c n) s = .next (illegalAt s 7 (.iload e x c n))) ∧
    (∀ e x c, Issues (.ovpload e x c) s → s.core.sreg c &&& ~~~0x3F ≠ 0 →
      exec (.ovpload e x c) s = .next (illegalAt s 7 (.ovpload e x c))) ∧
    (∀ e x c y k, Issues (.ovpload e x c) s → s.core.sreg c &&& ~~~0x3F = 0 → s.core.extent e = some y →
      s.core.readSource e (s.core.sreg x).toNat 6291456 = .ok k → exec (.ovpload e x c) s =
        .next ((s.shiftColumn y (s.core.sreg x).toNat (s.core.sreg c).toNat).upd fun c => { c with wait := c.wait ++ [.clocks 786432] })) ∧
    (∀ c, Issues (.gcommit c) s → (s.cs ((s.core.sreg c).extractLsb' 0 9).toNat).state = 3 →
      s.shifted.contains (columnOf ((s.core.sreg c).extractLsb' 0 9).toNat) = true →
      s.noFwUpdate ((s.core.sreg c).extractLsb' 0 9).toNat none = false → exec (.gcommit c) s =
        .next (s.commitRegion ((s.core.sreg c).extractLsb' 0 9).toNat)) ∧
    (∀ c, Issues (.gcommit c) s → (s.cs ((s.core.sreg c).extractLsb' 0 9).toNat).state ≠ 3 → exec (.gcommit c) s =
      .next (faulted s 7 .privilege (some (BitVec.ofNat 64 (((s.core.sreg c).extractLsb' 0 9).toNat + 2 ^ 16))))) ∧
    (∀ e x c n f, Issues (.iload e x c n) s → s.core.sreg c &&& ~~~0x0FFF01FF = 0 → s.core.sreg n ≠ 0 → (s.core.sreg n).toNat % 32 = 0 →
      ((s.core.sreg c).extractLsb' 16 12).toNat + (s.core.sreg n).toNat / 32 ≤ 4096 →
      s.core.readSource e (s.core.sreg x).toNat (s.core.sreg n).toNat = .error f →
      exec (.iload e x c n) s = .next (faulted s 7 f.1 f.2)) ∧
    (∀ e x c f, Issues (.ovpload e x c) s → s.core.sreg c &&& ~~~0x3F = 0 → s.core.readSource e (s.core.sreg x).toNat 6291456 = .error f →
      exec (.ovpload e x c) s = .next (faulted s 7 f.1 f.2)) ∧
    (∀ c, Issues (.gcommit c) s → (s.cs ((s.core.sreg c).extractLsb' 0 9).toNat).state = 3 →
      s.shifted.contains (columnOf ((s.core.sreg c).extractLsb' 0 9).toNat) = false → exec (.gcommit c) s =
        .next (faulted s 7 .privilege (some (BitVec.ofNat 64 (((s.core.sreg c).extractLsb' 0 9).toNat + 2 ^ 16 * 2))))) ∧
    (∀ d w, Issues (.dbgrd d w 0) s → s.core.lclSize / 4096 ≤ (s.core.sreg w).toNat → exec (.dbgrd d w 0) s =
      .next (faulted s 7 .extentBound (some (s.core.sreg w)))) ∧
    (∀ d w f, Issues (.dbgrd d w 1) s → s.core.lclFault (s.core.sreg w).toNat 8 8 = some f → exec (.dbgrd d w 1) s =
      .next (faulted s 7 f.1 f.2)) ∧
    (∀ d w, Issues (.dbgrd d w 2) s → 32760 < (s.core.sreg w).toNat → exec (.dbgrd d w 2) s =
      .next (faulted s 7 .extentBound (some (s.core.sreg w)))) ∧
    (∀ d w, Issues (.dbgrd d w 2) s → (s.core.sreg w).toNat ≤ 32760 → (s.core.sreg w).toNat % 8 = 0 → s.core.eng.bsealed = true →
      exec (.dbgrd d w 2) s = .next (faulted s 7 .sealedDebug (some (s.core.sreg w)))) ∧
    (∀ d w, Issues (.dbgrd d w 0) s → (s.core.sreg w).toNat < s.core.lclSize / 4096 → exec (.dbgrd d w 0) s =
      .next (later s 7 (s.lat 6) (.sreg d { s.core.plate (s.core.sreg w).toNat with
        checked := (s.core.plate (s.core.sreg w).toNat).checked && !s.core.checkedNow.contains (s.core.sreg w).toNat }.word))) ∧
    (∀ d w, Issues (.dbgrd d w 1) s → s.core.lclFault (s.core.sreg w).toNat 8 8 = none →
      s.core.sealedOff (offsets (s.core.sreg w).toNat 8) = none → s.core.badWord (offsets (s.core.sreg w).toNat 8) = none →
      exec (.dbgrd d w 1) s = .next (later s 7 (s.lat 6) (.sreg d (BitVec.ofNat 64 (s.core.lcl.readNat (s.core.sreg w).toNat 8))))) ∧
    (∀ d w o, Issues (.dbgrd d w 1) s → s.core.lclFault (s.core.sreg w).toNat 8 8 = none →
      s.core.sealedOff (offsets (s.core.sreg w).toNat 8) = some o → exec (.dbgrd d w 1) s =
        .next (faulted s 7 .sealedDebug (some (s.core.sreg w)))) ∧
    (∀ d w, Issues (.dbgrd d w 2) s → (s.core.sreg w).toNat ≤ 32760 → (s.core.sreg w).toNat % 8 = 0 → s.core.eng.bsealed = false →
      s.core.badReg (· == .bbuf ((s.core.sreg w).toNat / 8)) = none → exec (.dbgrd d w 2) s =
        .next (later s 7 (s.lat 6) (.sreg d (BitVec.ofNat 64 (s.core.eng.bbuf.readNat (s.core.sreg w).toNat 8)))))

/-! ## Rows without a word: links, time and power -/

/-- R13-R18: training, sending, receiving, pauses, and the loss and retraining of a link. -/
def Obligations.LinksCarryFlits : Prop :=
  ∀ (s : State) (n : Nat), n < 16 →
    (∀ d, (s.link n).up = false → (s.link n).removed = false → exec (.linkTrain n true d) s =
      .next (s.onLink n fun l => { l with up := true, delay := d })) ∧
    (∀ vl, exec (.pauseExpire n vl) s =
      .next (s.onLink n fun l => { l with pauses := l.pauses.filter fun p => !(p.1 == vl && decide (p.2 ≤ s.time.gcy)) })) ∧
    ((s.link n).up = true → 8 ≤ (s.link n).asks → exec (.linkDown n) s =
      .next ((s.onLink n fun l => { l with up := false }).reportDomain n)) ∧
    (∀ vl payload, (s.link n).up = true → (s.link n).removed = false → (s.link n).timeQueued = false → (s.link n).retry = none →
      (s.link n).resend = none → (s.link n).pauseMask = 0 → 1 ≤ vl → vl ≤ 4 → (s.link n).paused s.time.gcy vl = false →
      (s.link n).replay.length < 128 → exec (.flitSend n (some (vl, payload))) s =
        .next { s.onLink n (fun _ => { s.link n with
          nextSeq := (s.link n).nextSeq + 1
          replay := (s.link n).replay ++ [⟨(s.link n).nextSeq, vl, padTo 240 payload⟩] }) with
          out := s.out ++ [.flit n (flitBytes (s.link n).nextSeq ((s.link n).expected - 1) vl 1 0 0 (padTo 240 payload))] }) ∧
    (∀ seq ack : BitVec 16, ∀ vl payload, (s.link n).up = true → (s.link n).removed = false → vl ≤ 4 →
      exec (.flitReceive n (flitBytes seq ack vl 1 0 0 payload) []) s =
        .next (((s.onLink n fun l => l.take []).onLink n fun l => (l.acked ack).pauseBy s.time.gcy 0 0).onLink n
          fun l => l.data ⟨seq, vl, padTo 240 payload⟩)) ∧
    ((s.link n).up = true → (s.link n).removed = false → (s.link n).timeQueued = false → (s.link n).retry = none →
      (s.link n).resend = none → (s.link n).pauseMask = 0 → (s.link n).paused s.time.gcy 0 = false → exec (.flitSend n none) s =
        .next { s.onLink n (fun _ => s.link n) with
          out := s.out ++ [.flit n (flitBytes (s.link n).nextSeq ((s.link n).expected - 1) 0 0 0 0 [])] }) ∧
    (∀ crossing, (s.link n).removed = false → ((s.link n).up = true ∨ 8 ≤ (s.link n).asks) →
      exec (.linkRetrain n true crossing) s =
        .next (s.onLink n fun l => { l with up := true, asks := 0, resend := l.replay.head?.map (·.seq) }) ∧
      (∃ t, exec (.linkRetrain n false crossing) s = .next t ∧ (t.link n).up = false ∧ (t.link n).removed = true ∧
        t.cutGroups = distinct (s.cutGroups ++ crossing) ∧ ∀ g ∈ crossing, ∀ k, t.collEnd g k ≠ none))

/-- The grants g of R33 for demands d and floors f: h after the floors, with b left of the cap; then the surplus, with e left of it. -/
def Sys2Proof.Cert.Granted (cap : Nat) (d f g : Nat → Nat) : Prop :=
  ∃ h b e : Nat → Nat, b 0 = min cap 800 ∧ e 0 = b 8 ∧ ∀ t, t < 8 →
    h t = min (d t) (min (4 * f t) (b t)) ∧ b (t + 1) = b t - h t ∧
    g t = h t + min (d t - h t) (e t) ∧ e (t + 1) = e t - min (d t - h t) (e t)

/-- R33, R34, R35, R38: what an interval of a regulator n decides, with its estimates and its power, from s to t. A tier may leave level 3 in
an interval over 800 W too (log 70, DESIGN CHOICE). -/
def Sys2Proof.Cert.Decides (s t : State) (n : Nat) (est : List TierEstimate) (power : Nat) : Prop :=
  let demand := fun k => if s.tierCohorts n k = [] then 0 else (est.getD k ⟨0, 0⟩).demand
  let down := fun k => if s.tierCohorts n k = [] then 0 else (est.getD k ⟨0, 0⟩).demandDown
  let level := fun k => (s.reg n).levelOf k
  (∃ g, Granted (s.reg n).cap.toNat demand (fun k => ((s.reg n).floors.extractLsb' (8 * k) 8).toNat) g ∧
    ∀ k, k < 8 → (t.reg n).levelOf k =
      if g k < demand k then min 3 (level k + 1) else if 0 < level k ∧ down k ≤ g k then level k - 1 else level k) ∧
  (t.reg n).overRuns =
    (if 800 < power ∧ ∀ k, k < 8 → s.tierCohorts n k ≠ [] → level k = 3 then (s.reg n).overRuns + 1 else 0) ∧
  ∃ changes, t.pendLevel = s.pendLevel ++ changes ∧
    (∀ p ∈ changes, ∃ k, k < 8 ∧ p.1 ∈ s.tierCohorts n k ∧ p.2.1 = (t.reg n).levelOf k ∧
      ∃ c ∈ s.strands, c.coh = p.1 ∧ p.2.2 = c.ccy + 8) ∧
    ∀ k, k < 8 → ∀ coh ∈ s.tierCohorts n k, (∀ p ∈ s.pendLevel, p.1 ≠ coh) →
      (∀ c ∈ s.strands, c.coh = coh → c.level ≠ (t.reg n).levelOf k) → ∃ p ∈ changes, p.1 = coh

/-- R20-R26, R27-R38: alignment of the global cycle count, and the registers and intervals of the regulators. -/
def Obligations.TimeAndPower : Prop :=
  ∀ s : State,
    (s.time.enable = true → exec .timeFlitQueue s = .next { (List.range 16).foldl (fun s n => s.onLink n fun l =>
      if l.up then { l with timeQueued := true } else l) s with time := { s.time with queuedAt := s.time.gcy + 1 } }) ∧
    (0 < s.time.pending → exec .slewStep s = .next { s with time := { s.time with
      pending := s.time.pending - 1, doubled := true, slewDone := s.time.gcy + 1 } }) ∧
    (s.time.pending < 0 → exec .slewStep s = .next { s with time := { s.time with
      pending := s.time.pending + 1, slewDone := s.time.gcy + 1 } }) ∧
    (∀ val, s.tasks.any Task.dispatched = false → exec (.gcyalign 514 val) s = .next { s with time := { s.time with
      alignErr := s.time.alignErr && !val.getLsbD 31
      loadRefused := s.time.loadRefused && !val.getLsbD 30
      enable := val.getLsbD 7
      root := val.getLsbD 6
      parent := val.extractLsb' 0 4
      loading := if val.getLsbD 7 && !s.time.enable then !val.getLsbD 6 && !s.time.barred else s.time.loading && val.getLsbD 7 } }) ∧
    (∀ who c val, 512 ≤ who → c < 4 → (∀ k, s.clusterBusy k = false) → ∃ t, exec (.pwrmap who c val) s = .next t ∧
      t = { s with pwrmap := t.pwrmap } ∧ t.pwrmap.toList = s.pwrmap.toList.set c val) ∧
    (∀ who c, ∀ val : BitVec 32, 512 ≤ who → c < 4 →
      let field := fun k => ((val >>> (2 * k)).extractLsb' 0 2 : BitVec 2).toNat
      let refused := fun n => (List.range 16).any fun k => s.clusterBusy (16 * c + k) && s.regOf (16 * c + k) == n && field k != n
      ∃ t, exec (.pwrmap who c val) s = .next t ∧ t = { s with pwrmap := t.pwrmap, regs := t.regs } ∧
        (∀ k, k < 16 → t.regOf (16 * c + k) = if s.clusterBusy (16 * c + k) = true then s.regOf (16 * c + k) else field k) ∧
        (∀ g, g / 16 ≠ c → t.regOf g = s.regOf g) ∧
        ∀ n, n < 4 → t.reg n = { s.reg n with mapRefused := (s.reg n).mapRefused || refused n }) ∧
    (∀ who n val, 512 ≤ who → n < 4 →
      let total := ((List.range 4).filter (· != n)).foldl (fun t k => t + (s.reg k).cap.toNat) 0 + (val.extractLsb' 16 10 : BitVec 10).toNat
      let usual := fun (r : Regulator) => { r with
        capErr := r.capErr && !val.getLsbD 31, mapRefused := r.mapRefused && !val.getLsbD 30
        slotmask := val.extractLsb' 8 8 &&& 0xFE, vtrim := if who = 514 then val.extractLsb' 0 6 else r.vtrim }
      (total ≤ 2600 → exec (.regctl who n val) s = .next (s.onReg n fun r => { usual r with cap := val.extractLsb' 16 10 })) ∧
      (2600 < total → exec (.regctl who n val) s = .next (s.onReg n fun r => { usual r with capErr := true }))) ∧
    (∀ n est power, n < 4 → (s.reg n).lastRun + 2048 ≤ s.time.gcy → ∃ t, exec (.powerInterval n est power) s = .next t ∧
      (t.reg n).lastRun = s.time.gcy ∧ (t.reg n).power = BitVec.ofNat 16 (min 65535 power) ∧ Decides s t n est power ∧
      t = { s with regs := t.regs, pendLevel := t.pendLevel } ∧ ∀ m, m ≠ n → t.reg m = s.reg m) ∧
    (∀ coh p, s.pendLevel.find? (fun p => p.1 == coh) = some p → s.cohort coh ≠ [] → (∀ c ∈ s.cohort coh, c.goes = true ∧ p.2.2 ≤ c.ccy) →
      exec (.levelChange coh) s = .next { s.mapCores (fun c => if c.coh = coh ∧ !c.isControl then { c with level := p.2.1 } else c) with
        pendLevel := s.pendLevel.eraseP fun x => x.1 == coh }) ∧
    (∀ n, n < 4 → 16 ≤ (s.reg n).overRuns → exec (.domainReport n) s =
      .next ((s.onReg n fun r => { r with overRuns := 0 }).reportDomain n))

/-! ## Rows without a word: the host -/

/-- A virtual function that takes register writes: no arrival before is unfinished there (R387, R389), and it accepts a memory request with the
T bit that the state of its TDI asks for (R40, R54). -/
def Sys2Proof.Cert.TakesWrites (s : State) (v : Nat) : Prop :=
  v < 128 ∧ s.unfinished v = false ∧ s.vfAccepts v (decide ((s.vf v).tdi = 2)) = true

/-- R43-R49: doorbells, the queue registers, and the pending-kick bitmap. What a write of LQCFG or CQCFG that may not set ENABLE does to the other
fields is the model's choice (log 80, DESIGN CHOICE). -/
def Obligations.QueueRegisters : Prop :=
  ∀ (s : State) (v q : Nat), TakesWrites s v → q < 8 →
    (∀ val : BitVec 32, ((s.vf v).queue q).enable = true → (val.extractLsb' 0 16 : BitVec 16).toNat < 2 ^ ((s.vf v).queue q).log2.toNat →
      exec (.doorbell v q val) s = .next (s.onQueue v q fun l => { l with tail := val.extractLsb' 0 16, kick := some s.time.gcy })) ∧
    (∀ val, ((s.vf v).queue q).enable = false → exec (.doorbell v q val) s = .next s) ∧
    (∀ val : BitVec 32, ((s.vf v).queue q).enable = true → 2 ^ ((s.vf v).queue q).log2.toNat ≤ (val.extractLsb' 0 16 : BitVec 16).toNat →
      exec (.doorbell v q val) s = .next (s.stopQueue v q)) ∧
    (∀ val, ((s.vf v).queue q).enable = false → exec (.lqbaseWrite v q val 0xFF) s =
      .next (s.onQueue v q fun l => { l with base := val &&& ~~~(0x7F : Word) })) ∧
    (∀ val, ((s.vf v).queue q).enable = true → val &&& ~~~(0x7F : Word) ≠ ((s.vf v).queue q).base →
      exec (.lqbaseWrite v q val 0xFF) s = .next (s.onVf v fun f => { f with cfgErr := true })) ∧
    (∀ val : BitVec 32, ((s.vf v).queue q).enable = false → val.getLsbD 31 = true → sizeLegal (val.extractLsb' 16 4) = true →
      exec (.lqcfgWrite v q val 0xF) s =
        .next (s.onQueue v q fun l => { l with enable := true, log2 := val.extractLsb' 16 4, head := 0 })) ∧
    (∀ val : BitVec 32, ((s.vf v).queue q).enable = true → (val.extractLsb' 16 4 : BitVec 4) ≠ ((s.vf v).queue q).log2 →
      exec (.lqcfgWrite v q val 0xF) s = .next (s.onVf v fun f => { f with cfgErr := true })) ∧
    (∀ val : BitVec 32, ((s.vf v).queue q).enable = true → (val.extractLsb' 16 4 : BitVec 4) = ((s.vf v).queue q).log2 →
      exec (.lqcfgWrite v q val 0xF) s = .next (s.onQueue v q fun l => { l with enable := val.getLsbD 31 })) ∧
    (∀ val : BitVec 32, ((s.vf v).queue q).enable = false → val.getLsbD 31 = true → sizeLegal (val.extractLsb' 16 4) = false →
      exec (.lqcfgWrite v q val 0xF) s =
        .next ((s.onQueue v q fun l => { l with log2 := val.extractLsb' 16 4 }).onVf v fun f => { f with cfgErr := true })) ∧
    (∀ val : BitVec 32, ((s.vf v).queue q).enable = false → val.getLsbD 31 = false →
      exec (.lqcfgWrite v q val 0xF) s = .next (s.onQueue v q fun l => { l with log2 := val.extractLsb' 16 4 })) ∧
    (∀ val, (s.vf v).cqEnable = true → val &&& ~~~(0x1F : Word) ≠ (s.vf v).cqBase →
      exec (.cqbaseWrite v val 0xFF) s = .next (s.onVf v fun f => { f with cfgErr := true })) ∧
    (∀ val : BitVec 32, (s.vf v).cqEnable = true → (val.extractLsb' 16 4 : BitVec 4) ≠ (s.vf v).cqLog2 →
      exec (.cqcfgWrite v val 0xF) s = .next (s.onVf v fun f => { f with cfgErr := true })) ∧
    (∀ val : BitVec 32, (s.vf v).cqEnable = true → (val.extractLsb' 16 4 : BitVec 4) = (s.vf v).cqLog2 →
      exec (.cqcfgWrite v val 0xF) s = .next (
        let t := s.onVf v fun f => { f with cqEnable := val.getLsbD 31, intMask := val.getLsbD 30 }
        t.drainRecords v (t.vf v).heldRecs.length)) ∧
    (∀ val : BitVec 32, (s.vf v).cqEnable = false → val.getLsbD 31 = true → sizeLegal (val.extractLsb' 16 4) = false →
      exec (.cqcfgWrite v val 0xF) s = .next (
        let t := s.onVf v fun f => { f with intMask := val.getLsbD 30, cqLog2 := val.extractLsb' 16 4, cfgErr := true }
        t.drainRecords v (t.vf v).heldRecs.length)) ∧
    (∀ val : BitVec 32, (s.vf v).cqEnable = false → val.getLsbD 31 = false →
      exec (.cqcfgWrite v val 0xF) s = .next (
        let t := s.onVf v fun f => { f with intMask := val.getLsbD 30, cqLog2 := val.extractLsb' 16 4 }
        t.drainRecords v (t.vf v).heldRecs.length)) ∧
    (∀ val, (s.vf v).cqEnable = false → exec (.cqbaseWrite v val 0xFF) s =
      .next (s.onVf v fun f => { f with cqBase := val &&& ~~~(0x1F : Word) })) ∧
    (∀ val : BitVec 32, (s.vf v).cqEnable = false → val.getLsbD 31 = true → sizeLegal (val.extractLsb' 16 4) = true →
      exec (.cqcfgWrite v val 0xF) s = .next (
        let t := s.onVf v fun f => { f with
          cqEnable := true, intMask := val.getLsbD 30, cqLog2 := val.extractLsb' 16 4, cqTail := 0, phase := true }
        t.drainRecords v (t.vf v).heldRecs.length)) ∧
    (∀ val : BitVec 32, exec (.cqheadWrite v val) s = .next (
      let t := s.onVf v fun f => { f with cqHead := val.extractLsb' 0 16 }
      t.drainRecords v (t.vf v).heldRecs.length)) ∧
    (∀ w val, w < 16 → exec (.kickmapClear 512 w val) s = .next (s.clearKicks w val))

/-- R41, R47, R50, R51, R56, R111, R123: completion records, bindings, invalidations of stage 2, resets, the locked set, and writes of
registers without a row of their own. The association registers of a stream and the place of the DOE capability are presumed (log 79,
PRESUMED), which host writes reach a function and what a reset of the PF clears too (log 17, PRESUMED), and so is the merging of the enabled
bytes (log 32, DESIGN CHOICE). -/
def Obligations.FunctionsAndRecords : Prop :=
  ∀ (s : State) (v : Nat), v < 128 →
    (∀ k e, (s.vf v).resetting = false → (s.vf v).tdi ≠ 3 → s.nextRecord v = some (k, e) → s.cur.holding = false →
      exec (.completionRecordWrite v) s = .next ((s.retireTask k).deliver v (k.completion e))) ∧
    (∀ k e, (s.vf v).resetting = false → (s.vf v).tdi ≠ 3 → s.nextRecord v = some (k, e) → s.cur.holding = true →
      s.cur.hold.length < 256 → exec (.completionRecordWrite v) s =
        .next ((s.retireTask k).onCur fun c => { c with hold := c.hold ++ [(v, k.completion e)] })) ∧
    (∀ val, s.pfWaits [v] = false → (s.vf v).tdi = 0 → (∀ p, p < 64 → (val.extractLsb' 64 64 : Word).getLsbD p = true →
        s.worldOf p = some (val.extractLsb' 0 6 : BitVec 6).toNat) →
      exec (.vfbindWrite v val) s = .next (s.onVf v fun f => { f with
        parts := val.extractLsb' 64 64, bound := val.getLsbD 31, world := val.extractLsb' 0 6 })) ∧
    (∀ val, s.pfWaits [v] = false → (s.vf v).isLocked = true → exec (.vfbindWrite v val) s = .next (s.lockedHit v 6)) ∧
    (∀ val : BitVec 128, s.s2inv = none → val.getLsbD 127 = true → exec (.s2inv val) s = .next (
      let r := s.invalidate true (val.extractLsb' 96 7).toNat (val.extractLsb' 0 64).toNat (val.extractLsb' 64 32).toNat
      { r.2 with s2inv := some r.1 })) ∧
    (∀ val : BitVec 128, s.s2inv ≠ none ∨ val.getLsbD 127 = false → exec (.s2inv val) s = .next s) ∧
    (∀ val be, s.pfWaits [v] = false → (s.vf v).tdi = 0 →
      exec (.lockedSetWrite v .streamControl ⟨val, be⟩) s =
        .next (s.onVf v fun f => { f with ide := { f.ide with control := mergeBytes f.ide.control (val.extractLsb' 0 32) be.getLsbD } }) ∧
      (∀ k, k < 2 → exec (.lockedSetWrite v (.ridAssociation k) ⟨val, be⟩) s =
        .next (s.onVf v fun f => { f with ide := { f.ide with rid := putWord f.ide.rid (32 * k) val be } })) ∧
      (∀ k, k < 3 → exec (.lockedSetWrite v (.addressAssociation k) ⟨val, be⟩) s =
        .next (s.onVf v fun f => { f with ide := { f.ide with addr := putWord f.ide.addr (32 * k) val be } })) ∧
      exec (.lockedSetWrite v .vfbind ⟨val, be⟩) s = .next (s.setVfbind v ((s.vf v).parts ++
        mergeBytes (BitVec.ofNat 64 ((s.vf v).world.toNat + 2 ^ 31 * (s.vf v).bound.toNat)) val be.getLsbD))) ∧
    (∀ val be k, s.pfWaits [v] = false → (s.vf v).isLocked = true → be.extractLsb' 0 4 ≠ 0 →
      exec (.lockedSetWrite v .streamControl ⟨val, be⟩) s = .next (s.lockedHit v 5) ∧
      exec (.lockedSetWrite v (.ridAssociation k) ⟨val, be⟩) s = .next (s.lockedHit v 5) ∧
      exec (.lockedSetWrite v (.addressAssociation k) ⟨val, be⟩) s = .next (s.lockedHit v 5) ∧
      exec (.lockedSetWrite v .vfbind ⟨val, be⟩) s = .next (s.lockedHit v 6)) ∧
    (∀ val be, s.unfinished v = false → (s.vf v).resetting = false → (s.vf v).tdi = 0 →
      exec (.lockedSetWrite v .msixControl ⟨val, be⟩) s = .next ((s.onVf v fun f => { f with
        msixCtl := (mergeBytes f.msixCtl (val.extractLsb' 0 16) be.getLsbD &&& 0xC000) ||| 1 }).msixUnmasked v)) ∧
    (∀ val be off, s.unfinished v = false → off < 32 → (s.vf v).tdi = 0 → s.vfAccepts v false = true →
      exec (.lockedSetWrite v (.msixEntry off) ⟨val, be⟩) s = .next ((s.onVf v fun f => { f with
        msixTable := putWord f.msixTable (8 * (off / 4 * 4)) val be }).msixUnmasked v)) ∧
    (∀ val be, s.pfWaits (List.range 128) = false →
      (∃ t, exec (.lockedSetWrite v .bar0 ⟨val, be⟩) s = .next t ∧
        t.pf = { s.pf with vfBar0 := mergeBytes s.pf.vfBar0 val be.getLsbD &&& ~~~0xFFFF }) ∧
      (∃ t, exec (.lockedSetWrite v .bar2 ⟨val, be⟩) s = .next t ∧
        t.pf = { s.pf with vfBar2 := mergeBytes s.pf.vfBar2 val be.getLsbD &&& ~~~0xFFFFF }) ∧
      (∃ t, exec (.lockedSetWrite v .command ⟨val, be⟩) s = .next t ∧
        t.pf = { s.pf with command := mergeBytes s.pf.command (val.extractLsb' 0 16) be.getLsbD }) ∧
      (∃ t, exec (.lockedSetWrite v .sriovControl ⟨val, be⟩) s = .next t ∧
        t.pf = { s.pf with sriov := mergeBytes s.pf.sriov (val.extractLsb' 0 16) be.getLsbD })) ∧
    (s.unfinished v = false → (s.vf v).isLocked = false → exec (.ideStreamLoss v) s = .next (s.onVf v fun f => { f with secure := false })) ∧
    (s.unfinished v = false → (s.vf v).isLocked = true → exec (.ideStreamLoss v) s =
      .next (((s.onVf v fun f => { f with secure := false }).enterError v).notice 3 v 0)) ∧
    (s.unfinished v = false → exec (.vfFlr v) s = .next ((s.beginVfReset v).notice 4 v 0)) ∧
    (∃ t, exec .pfReset s = .next t ∧ t.pf = { s.pf with command := 0, sriov := 0, vfBar0 := 0, vfBar2 := 0, msixCtl := 0 }) ∧
    ((s.vf v).resetting = true → (s.vf v).scrubbing = true → (s.slotScrub.any fun x => (s.vfSlots v).contains x) = false →
      exec (.vfResetDone v) s = .next ((s.vf v).stopRsp.toList.foldl (fun t b => t.respond v b)
        (s.onVf v fun f => { f with resetting := false, scrubbing := false, stopRsp := none }))) ∧
    ((s.vf v).resetting = true → (s.vf v).scrubbing = false → (∀ k ∈ s.tasks, k.vf = v → k.phase = .ended ∧ s.effectsDone k.id = true) →
      s.vfSlots v ≠ [] → ∃ t, exec (.vfResetDone v) s = .next t ∧
        t.tasks = s.tasks.filter (fun k => k.vf != v) ∧ (t.vf v) = (s.vf v).afterReset ∧
        t.slotScrub = s.slotScrub ++ (s.vfSlots v).filter fun x => !s.slotScrub.contains x) ∧
    (∀ (w : RegWrite), TakesWrites s v → w.space = .vfBar0 v → w.tee = decide ((s.vf v).tdi = 2) → w.stream = some (1 + v) →
      inDoeMirror w.off = false →
      exec (.registerWrite w) s = .next (s.vfBar0Bytes v (cellsAt w.off (leBytes (min 8 w.len) w.val.toNat)))) ∧
    (∀ val : Word, ∀ tee stream, TakesWrites s v → tee = decide ((s.vf v).tdi = 2) → (tee = true → stream = some (1 + v)) →
      exec (.registerWrite ⟨.vfBar0 v, 0, 0x108, 4, val, tee, stream⟩) s = .next (s.onVf v fun f => { f with lswin := val.extractLsb' 0 15 })) ∧
    (∀ val : Word, ∀ who tee stream, SMap.wfFrom 0 0 s.s2root = true → ∃ t,
      exec (.registerWrite ⟨.pfBar0, who, 0x20000 + 8 * v, 8, val, tee, stream⟩) s = .next t ∧
      t = { s with s2root := t.s2root } ∧ SMap.get 0 v t.s2root = val ∧ ∀ u, u ≠ v → SMap.get 0 u t.s2root = SMap.get 0 u s.s2root) ∧
    (∀ w : RegWrite, w.space = .stretcher → 512 ≤ w.who → w.who < 516 →
      exec (.registerWrite w) s = .next (s.storeStretcher w.who (cellsAt w.off (leBytes (min 8 w.len) w.val.toNat)))) ∧
    (∀ val : Word, ∀ who tee stream, s.unfinished v = false →
      exec (.registerWrite ⟨.vfConfig v, who, Config.doeOffset + 16, 4, val, tee, stream⟩) s =
        .next (s.setMailbox (1 + v) { s.mailbox (1 + v) with writes := (s.mailbox (1 + v)).writes ++ [val.extractLsb' 0 32] })) ∧
    (∀ w : RegWrite, s.unfinished v = false → w.space = .vfBar2 v → w.tee = true → w.stream ≠ some (1 + v) →
      exec (.registerWrite w) s = .next { s with out := s.out ++ [.unsupported v] })

/-- A virtual function whose DOE mailbox takes a message: the Primer runs and holds none of it, and it is not being reset. -/
def Sys2Proof.Cert.TakesMessages (s : State) (v : Nat) : Prop :=
  v < 128 ∧ s.withPrimer v = false ∧ (s.vf v).resetting = false ∧ s.primerUp = true

/-- R51, R53, R55, R391, R392: the answer to each TDISP request, and what it does to the TDI. Codes: 1 INVALID_REQUEST, 4
INVALID_INTERFACE_STATE, 7 UNSUPPORTED_REQUEST, 0x102 INVALID_NONCE. -/
def Obligations.TdispRequests : Prop :=
  ∀ (s : State) (v : Nat), TakesMessages s v →
    exec (.getTdispVersion v) s = .next (s.respond v (tdispMsg v 0x01 [1, 0x10])) ∧
    exec (.getTdispCapabilities v) s = .next (s.respond v (tdispMsg v 0x02
      (List.replicate 4 0 ++ [0xFE] ++ List.replicate 15 0 ++ [1, 0, 0, 0, 0, 64, 1, 1]))) ∧
    exec (.getDeviceInterfaceState v) s = .next (s.respond v (tdispMsg v 0x05 [(s.vf v).tdi.setWidth 8])) ∧
    (∀ flags, (s.vf v).tdi ≠ 0 → exec (.lockInterfaceRequest v flags) s = .next (s.respond v (tdispError v 0x0004))) ∧
    (∀ flags, (s.vf v).tdi = 0 → s.tdichk v ≠ 0x3F ∨ flags &&& 0xFFFE ≠ 0 →
      exec (.lockInterfaceRequest v flags) s = .next (s.respond v (tdispError v 0x0001))) ∧
    (∀ flags, (s.vf v).tdi = 0 → s.tdichk v = 0x3F → flags &&& 0xFFFE = 0 → exec (.lockInterfaceRequest v flags) s =
      .next (let t := s.tdiLock v (flags.getLsbD 0); t.respond v (tdispMsg v 0x03 (leBytes 32 (t.vf v).nonce.toNat)))) ∧
    (∀ o n, (s.vf v).isLocked = false → exec (.getDeviceInterfaceReport v o n) s = .next (s.respond v (tdispError v 0x0004))) ∧
    (∀ o n : BitVec 16, (s.vf v).isLocked = true → o.toNat < (s.vf v).report.length →
      exec (.getDeviceInterfaceReport v o n) s = .next (s.respond v (tdispMsg v 0x04
        (leBytes 2 (min n.toNat ((s.vf v).report.length - o.toNat)) ++
          leBytes 2 ((s.vf v).report.length - o.toNat - min n.toNat ((s.vf v).report.length - o.toNat)) ++
          ((s.vf v).report.drop o.toNat).take (min n.toNat ((s.vf v).report.length - o.toNat)))))) ∧
    (∀ o n : BitVec 16, (s.vf v).isLocked = true → (s.vf v).report.length ≤ o.toNat →
      exec (.getDeviceInterfaceReport v o n) s = .next (s.respond v (tdispError v 0x0001))) ∧
    (∀ x, (s.vf v).tdi ≠ 1 → exec (.startInterfaceRequest v x) s = .next (s.respond v (tdispError v 0x0004))) ∧
    ((s.vf v).tdi = 1 → exec (.startInterfaceRequest v (s.vf v).nonce) s =
      .next ((s.onVf v fun f => { f with tdi := 2 }).respond v (tdispMsg v 0x06 []))) ∧
    (∀ x, (s.vf v).tdi = 1 → x ≠ (s.vf v).nonce → exec (.startInterfaceRequest v x) s =
      .next ((s.enterError v).respond v (tdispError v 0x0102))) ∧
    exec (.stopInterfaceRequest v) s =
      .next ((s.beginVfReset v).onVf v fun f => { f with stopRsp := some (tdispMsg v 0x07 []) }) ∧
    exec (.bindP2pStreamRequest v) s = .next (s.respond v (tdispError v 0x0007)) ∧
    exec (.unbindP2pStreamRequest v) s = .next (s.respond v (tdispError v 0x0007)) ∧
    exec (.setMmioAttributeRequest v) s = .next (s.respond v (tdispError v 0x0007)) ∧
    exec (.tdispVendorRequest v) s = .next (s.respond v (tdispError v 0x0007))

/-- The message that the Primer's task sends back on a message: the header of the request with another code, then a body (R391, R392). -/
def Sys2Proof.Cert.echoed (msg : List Byte) (code : Nat) (body : List Byte) : List Byte :=
  msg.take 1 ++ [BitVec.ofNat 8 code] ++ (msg.drop 2).take 14 ++ body

/-- The state in which a message stands in TDIRSP and the next arrival shows in TDIEVT (R388). -/
def Sys2Proof.Cert.answeredWith (bytes : List Byte) (t : State) : State :=
  { t with tdiRsp := t.tdiRsp.writeBytes 0 bytes, tdiEvt := t.tdiQueue.head?, tdiQueue := t.tdiQueue.drop 1 }

/-- R391, R392: the Primer's task on a TDISP message that TDIEVT shows, in one step (log 84, DESIGN CHOICE): VERSION_MISMATCH 0x41 for
another version, UNSUPPORTED_REQUEST 0x7 for a code outside 0x81-0x87, and the answers of version, state and stop. -/
def Sys2Proof.Cert.TaskAnswers (s : State) (v : Nat) (msg : List Byte) : Prop :=
  s.tdiEvt = some ⟨1, v, 0, msg.length, msg⟩ → 16 ≤ msg.length → (s.vf v).resetting = false → s.tdiRsp.wf = true →
    (fieldAt msg 0 1 ≠ 0x10 → let bytes := echoed msg 0x7F (leBytes 4 0x41 ++ leBytes 4 0)
      exec (.spdmRequest v true msg) s = .next ((answeredWith bytes s).respond v bytes)) ∧
    (fieldAt msg 0 1 = 0x10 → fieldAt msg 1 1 < 0x81 ∨ 0x87 < fieldAt msg 1 1 → let bytes := echoed msg 0x7F (leBytes 4 0x7 ++ leBytes 4 0)
      exec (.spdmRequest v true msg) s = .next ((answeredWith bytes s).respond v bytes)) ∧
    (fieldAt msg 0 1 = 0x10 → fieldAt msg 1 1 = 0x81 → let bytes := echoed msg 0x01 [1, 0x10]
      exec (.spdmRequest v true msg) s = .next ((answeredWith bytes s).respond v bytes)) ∧
    (fieldAt msg 0 1 = 0x10 → fieldAt msg 1 1 = 0x85 → let bytes := echoed msg 0x05 [(s.vf v).tdi.setWidth 8]
      exec (.spdmRequest v true msg) s = .next ((answeredWith bytes s).respond v bytes)) ∧
    (fieldAt msg 0 1 = 0x10 → fieldAt msg 1 1 = 0x87 → let bytes := echoed msg 0x07 []
      exec (.spdmRequest v true msg) s =
        .next ((answeredWith bytes (s.beginVfReset v)).onVf v fun f => { f with stopRsp := some bytes }))

/-- R40, R58-R60, R387-R389: the moves that the Primer makes with TDICTL, its responses through TDIDONE, and its other SPDM services: the
versions that it answers with, the error for another version (layouts: log 13, PRESUMED); signatures and the answer to IDE_KM are free
values (log 11, DESIGN CHOICE; log 13, PRESUMED). -/
def Obligations.PrimerServices : Prop :=
  ∀ (s : State) (v : Nat), v < 128 →
    (∀ val : Word, (val.extractLsb' 0 2 : BitVec 2) = 1 → (s.vf v).tdi = 0 →
      exec (.tdictlLock 515 v val) s = .next (s.tdiLock v (val.getLsbD 7))) ∧
    (∀ val : Word, (val.extractLsb' 0 2 : BitVec 2) = 2 → (s.vf v).tdi = 1 →
      exec (.tdictlRun 515 v val) s = .next (s.onVf v fun f => { f with tdi := 2 })) ∧
    (∀ val : Word, (val.extractLsb' 0 2 : BitVec 2) = 3 → (s.vf v).tdi = 1 →
      exec (.tdictlError 515 v val) s = .next (s.enterError v)) ∧
    (∀ val : Word, (val.extractLsb' 0 2 : BitVec 2) = 0 → exec (.tdictlUnlock 515 v val) s = .next (s.beginVfReset v)) ∧
    (∀ e, ∀ n : BitVec 16, s.tdiEvt = some e → e.kind = 1 → 16 ≤ n.toNat → n.toNat ≤ 2048 → (s.vf e.vf).resetting = false →
      exec (.tdidone 515 (n.setWidth 64)) s = .next (State.respond e.vf (s.tdiRsp.readBytes 0 n.toNat)
        { s with tdiEvt := s.tdiQueue.head?, tdiQueue := s.tdiQueue.drop 1 })) ∧
    (∀ e val, s.tdiEvt = some e → e.kind ≠ 1 → (val.extractLsb' 16 48 : BitVec 48) = 0 → exec (.tdidone 515 val) s =
      .next { s with tdiEvt := s.tdiQueue.head?, tdiQueue := s.tdiQueue.drop 1 }) ∧
    (∀ index, TakesMessages s v → exec (.getMeasurements v index) s =
      .next (State.respond v (s.measurements index true).1 (s.measurements index true).2)) ∧
    (∀ index, 1 ≤ index → index ≤ 6 → ∃ tail, tail.length = 130 ∧ (s.measurements index true).1 =
      [0x13, 0x60, 0, 0] ++ leBytes 1 1 ++ leBytes 3 (7 + (s.measurement index).length) ++ leBytes 1 index ++ [1] ++ leBytes 2 51 ++
        [if index = 4 then 2 else if index ≤ 3 then 1 else 3] ++ leBytes 2 48 ++ s.measurement index ++ tail) ∧
    (∀ msg, TakesMessages s v → 16 ≤ msg.length → msg.length ≤ 1024 → fieldAt msg 4 2 % 256 = 1 + v →
      exec (.spdmRequest v true msg) s = .next (s.tdiPush ⟨1, v, 0, msg.length, msg⟩)) ∧
    (∀ msg, TakesMessages s v → (msg.length < 16 ∨ 1024 < msg.length) →
      exec (.spdmRequest v true msg) s = .next (s.respond v (engineError v msg 0x0001))) ∧
    (∀ msg, TakesMessages s v → 16 ≤ msg.length → msg.length ≤ 1024 → fieldAt msg 4 2 % 256 ≠ 1 + v →
      exec (.spdmRequest v true msg) s = .next (s.respond v (engineError v msg 0x0101))) ∧
    (∀ msg, TaskAnswers s v msg) ∧
    (∀ msg, TakesMessages s v → exec (.spdmRequest v false msg) s =
      .next (State.respond v (s.spdmResponse msg).1 (s.spdmResponse msg).2)) ∧
    (∀ msg, (fieldAt msg 1 1 = 0x84 → s.spdmResponse msg = ([0x10, 0x04, 0, 0, 0, 1, 0, 0x13], s)) ∧
      (fieldAt msg 1 1 ≠ 0x84 → fieldAt msg 0 1 ≠ 0x13 → s.spdmResponse msg = ([0x13, 0x7F, 0x41, 0], s)) ∧
      (fieldAt msg 1 1 = 0xE0 → fieldAt msg 0 1 = 0x13 →
        s.spdmResponse msg = s.measurements (fieldAt msg 3 1) (fieldAt msg 2 1 % 2 == 1))) ∧
    (let random := leBytes 64 (Config.free s.fresh).toNat
      let t := { s with fresh := s.fresh + 1, drbg := s.drbg + 1 }
      s.primerUp = true → ∀ b,
        exec (.ideKm (v + 1) b) s = .next (State.send none (.spdm none random) random
          (if b then State.onVf v (fun f => { f with secure := true }) t else State.streamLost v t)) ∧
        exec (.ideKm 0 b) s = .next (State.send none (.spdm none random) random { t with pf := { s.pf with secure := b } }))

/-- R62, R66, R67: the end of a world's destruction, the frames of a rekeyed world, and the end of its former generation. -/
def Sys2Proof.Cert.InTransition (s : State) (w : Nat) (x : World) : Prop :=
    (x.destroying = true → (∀ f ∈ x.moved, s.owner f ≠ 0xFE) → ∃ t,
      exec (.worldDestroyDone w) s = .next t ∧ t.world w = none ∧ t.out = s.out ++ [.service ⟨none, true⟩ 3 0 []]) ∧
    (x.destroying = false ∨ (∃ f ∈ x.moved, s.owner f = 0xFE) → exec (.worldDestroyDone w) s = .next s) ∧
    (∀ g f, x.prev = some g → (s.owner f).toNat = w → f ∉ x.moved → s.inTraining (512 * f) = false → s.needsFrame w g f = false →
      (s.tasks.any fun k => s.usesGen w g k && (s.allExts k).pins f) = false → ∃ t,
        exec (.frameReencrypt w f) s = .next t ∧ t.world w = some { x with moved := x.moved ++ [f] } ∧
        (∀ l ∈ t.lines, frameOfLine l.index ≠ f)) ∧
    (∀ g, x.prev = some g → (∀ f ∈ s.framesOf w, f ∈ x.moved) → (s.tasks.any (s.usesGen w g)) = false → exec (.generationRetire w) s =
      .next ((s.onWorld w fun w => { w with prev := none, keys := SMap.put [] g [] w.keys, moved := [] }).answer ⟨none, true⟩ 2 0 []))

/-- R61-R72, R78: the Primer's requests on worlds and seals in a secured session, with what they check and install. An import unwraps the
world key under the generation that the event names and installs it as generation 1 (log 33, DESIGN CHOICE); a request on the other kind of
mailbox gets status 2 (log 6, DESIGN CHOICE); the layout of an export is the model's (log 80, DESIGN CHOICE). -/
def Obligations.WorldsAndSeals : Prop :=
  ∀ (s : State) (w : Nat), w < 64 → (∀ x, s.world w = some x → InTransition s w x) ∧ (s.serviceWaits ⟨none, true⟩ = false →
    (∀ policy parts, s.world w = none → policyOk policy = true → exec (.worldCreate ⟨none, true⟩ w policy parts) s =
      .next (((s.drawKey.2.addWorld w ⟨policy, 1, none, [(1, s.drawKey.1)], [], [], false⟩).givePartitions w parts).answer
        ⟨none, true⟩ 1 0 [])) ∧
    (∀ policy parts x, s.world w = some x → exec (.worldCreate ⟨none, true⟩ w policy parts) s =
      .next (s.answer ⟨none, true⟩ 1 1 [])) ∧
    (∀ policy parts, s.world w = none → policyOk policy = false → exec (.worldCreate ⟨none, true⟩ w policy parts) s =
      .next (s.answer ⟨none, true⟩ 1 2 [])) ∧
    (∀ x, s.world w = some x → x.prev = none → x.gen ≠ 0xFFFF → exec (.worldRekey ⟨none, true⟩ w) s =
      .next ((s.drawKey.2.onWorld w fun w => { w with
        gen := w.gen + 1, prev := some w.gen, keys := SMap.put [] (w.gen + 1) s.drawKey.1 w.keys, moved := [] }).answer ⟨none, true⟩ 2 0 [])) ∧
    (∀ x, s.world w = some x → x.prev = none → x.gen = 0xFFFF → exec (.worldRekey ⟨none, true⟩ w) s =
      .next (s.answer ⟨none, true⟩ 2 4 [])) ∧
    (∀ x g, s.world w = some x → x.prev = some g → exec (.worldRekey ⟨none, true⟩ w) s = .next (s.answer ⟨none, true⟩ 2 1 []) ∧
      exec (.worldExport ⟨none, true⟩ w) s = .next (s.answer ⟨none, true⟩ 4 1 [])) ∧
    (∀ x, s.world w = some x → (s.tasks.any fun k => k.world == w && k.dispatched) = false →
      (s.vfs.any fun p => p.2.bound && p.2.world.toNat == w) = false → ∃ t, exec (.worldDestroy ⟨none, true⟩ w) s = .next t ∧
        t.world w = some { x with
          policy := [], keys := [], seals := [], prev := none, moved := s.framesOf w, destroying := true } ∧
        t.fot = s.fot.filter (fun x => x.2.toNat != w) ∧ t.out = s.out) ∧
    (∀ x, s.world w = some x → ((s.tasks.any fun k => k.world == w && k.dispatched) = true ∨
      (s.vfs.any fun p => p.2.bound && p.2.world.toNat == w) = true) → exec (.worldDestroy ⟨none, true⟩ w) s =
        .next (s.answer ⟨none, true⟩ 3 1 [])) ∧
    (∀ x, s.world w = some x → x.prev = none → exec (.worldExport ⟨none, true⟩ w) s =
      .next (s.answer ⟨none, true⟩ 4 0 (keyWrap (s.kek w x.policy 0 x.gen) (SMap.get [] x.gen x.keys) ++
        x.seals.flatMap fun y => leBytes 1 y.1 ++ y.2.1 ++ keyWrap (s.kek w x.policy 1 y.1) (leBytes 64 y.2.2.toNat)))) ∧
    (∀ policy wrapped parts, s.world w = none → policyOk policy = true → exec (.worldImport ⟨none, true⟩ w policy wrapped parts) s = .next (
      let seals := wrapped.seals.map fun x =>
        (keyUnwrap (s.kek w policy 1 x.1) 8 x.2.2).map fun k => (x.1, x.2.1, BitVec.ofNat 512 (leNat k))
      match keyUnwrap (s.kek w policy 0 wrapped.gen) 4 wrapped.worldKey with
      | some key =>
        if none ∈ seals then s.answer ⟨none, true⟩ 5 3 []
        else ((s.addWorld w ⟨policy, 1, none, [(1, key)], sortBy (·.1) (seals.filterMap id), [], false⟩).givePartitions w parts).answer
          ⟨none, true⟩ 5 0 []
      | none => s.answer ⟨none, true⟩ 5 3 [])) ∧
    (∀ policy wrapped parts, (∃ x, s.world w = some x) → exec (.worldImport ⟨none, true⟩ w policy wrapped parts) s =
      .next (s.answer ⟨none, true⟩ 5 1 [])) ∧
    (∀ v x n policy key, s.serviceWaits ⟨some v, true⟩ = false → (s.vf v).bound = true → (s.vf v).world.toNat = w → s.world w = some x →
      (x.seals.any fun y => y.1 == n) = false → 1 ≤ n → n ≤ 8 → sealPolicyOk (policyComps x.policy) policy = true →
      exec (.sealInstall ⟨some v, true⟩ n policy key) s = .next ((s.onWorld w fun x => { x with
        seals := sortBy (·.1) (x.seals ++ [(n, policy, key)]) }).answer ⟨some v, true⟩ 6 0 [])) ∧
    (∀ v x n, s.serviceWaits ⟨some v, true⟩ = false → (s.vf v).bound = true → (s.vf v).world.toNat = w → s.world w = some x →
      (x.seals.any fun y => y.1 == n) = true →
      (s.tasks.any fun k => k.world == w && k.sealId == n && (k.dispatched || k.phase == .preempted)) = false →
      exec (.sealRemove ⟨some v, true⟩ n) s = .next ((s.onWorld w fun x => { x with
        seals := x.seals.filter fun y => y.1 != n }).answer ⟨some v, true⟩ 7 0 [])) ∧
    (∀ policy wrapped parts v n key, s.serviceWaits ⟨some v, true⟩ = false →
      exec (.worldCreate ⟨some v, true⟩ w policy parts) s = .next (s.answer ⟨some v, true⟩ 1 2 []) ∧
      exec (.worldRekey ⟨some v, true⟩ w) s = .next (s.answer ⟨some v, true⟩ 2 2 []) ∧
      exec (.worldDestroy ⟨some v, true⟩ w) s = .next (s.answer ⟨some v, true⟩ 3 2 []) ∧
      exec (.worldExport ⟨some v, true⟩ w) s = .next (s.answer ⟨some v, true⟩ 4 2 []) ∧
      exec (.worldImport ⟨some v, true⟩ w policy wrapped parts) s = .next (s.answer ⟨some v, true⟩ 5 2 []) ∧
      exec (.sealInstall ⟨none, true⟩ n policy key) s = .next (s.answer ⟨none, true⟩ 6 2 []) ∧
      exec (.sealRemove ⟨none, true⟩ n) s = .next (s.answer ⟨none, true⟩ 7 2 [])) ∧
    (∀ policy wrapped parts, s.serviceWaits ⟨none, false⟩ = false →
      exec (.worldCreate ⟨none, false⟩ w policy parts) s = .next (s.answer ⟨none, false⟩ 1 5 []) ∧
      exec (.worldRekey ⟨none, false⟩ w) s = .next (s.answer ⟨none, false⟩ 2 5 []) ∧
      exec (.worldDestroy ⟨none, false⟩ w) s = .next (s.answer ⟨none, false⟩ 3 5 []) ∧
      exec (.worldExport ⟨none, false⟩ w) s = .next (s.answer ⟨none, false⟩ 4 5 []) ∧
      exec (.worldImport ⟨none, false⟩ w policy wrapped parts) s = .next (s.answer ⟨none, false⟩ 5 5 [])))

/-! ## Rows without a word: launches, the Curator, memory -/

/-- R45-R48, R105-R126: fetching and starting a launch, its translation and invalidations, dispatch, start, pre-emption, resume and
end. -/
def Obligations.LaunchesAndDispatch : Prop :=
  ∀ (s : State) (task : Nat) (k : Task), s.task task = some k →
    (∀ f t, k.phase = .translating → (s.training = 0 ∨ fieldAt k.exttab 0 8 = 0) → s.translate k = (.error f, t) → exec (.translation task) s =
      .next (t.endTask task 7 f.1.code (BitVec.ofNat 64 f.2))) ∧
    (∀ xs pages gen t, k.phase = .translating → (s.training = 0 ∨ fieldAt k.exttab 0 8 = 0) →
      s.translate k = (.ok (xs, pages, gen), t) → t.awaitsMove k.world xs = false →
      exec (.translation task) s = .next (t.onTask task fun k =>
        { k with phase := .ready, exts := xs, pages := pages, gen := gen, built := k.built + 1 })) ∧
    (∀ x, s.s2inv = some x → s.retired x.waits = true → exec (.invalidationComplete true task) s = .next { s with s2inv := none }) ∧
    (∀ p, k.phase = .invalidating → s.failedPred k = some p → exec (.invalidationComplete false task) s =
      .next (s.endTask task 7 0x24 (BitVec.ofNat 64 p))) ∧
    (∀ x t, k.phase = .invalidating → s.failedPred k = none → s.openPreds k = [] → k.inval = none →
      s.invalidate false k.vf k.arg1 (bitsOf k.arg0 39 8) = (x, t) → exec (.invalidationComplete false task) s =
        .next (if (t.onTask task fun k => { k with inval := some x }).retired x.waits = true
          then (t.onTask task fun k => { k with inval := some x }).endTask task 6 0 0
          else t.onTask task fun k => { k with inval := some x })) ∧
    (∀ places anchor, k.phase = .ready → k.type ≠ 1 → anchor % 256 = 0 → s.time.gcy ≤ anchor → s.cur.paused = false →
      s.vfStopped k.vf = false → s.openTo k = true → (s.vf k.vf).world.toNat = k.world → s.builtNow k = true → s.placesFit k places = true →
      s.mayServe k (s.placePartition k places) = true → exec (.dispatchDecision task places anchor) s =
        .next ((s.onTask task fun k => { k with phase := .waiting, places := places, anchor := anchor }).noteServed
          (s.placePartition k places) k.tier k.vf)) ∧
    (∀ places anchor, k.phase = .ready → s.cur.paused = false → s.vfStopped k.vf = false → (s.vf k.vf).bound = true → s.openTo k = true →
      (s.vf k.vf).world.toNat = k.world → s.builtNow k = false → exec (.dispatchDecision task places anchor) s =
        .next (s.onTask task fun k => { k with phase := .translating, exts := [], pages := [] })) ∧
    (∀ places anchor, k.phase = .ready → s.cur.paused = false → s.vfStopped k.vf = false → (s.vf k.vf).bound = true → s.openTo k = true →
      (s.vf k.vf).world.toNat ≠ k.world →
      tableFault k.exttab (k.field 11 1) (k.type == 3) k.sealId (s.compartments (s.vf k.vf).world.toNat) = none →
        exec (.dispatchDecision task places anchor) s = .next (s.onTask k.id fun k => { k with
          world := (s.vf k.vf).world.toNat, phase := .translating, exts := [], pages := [] })) ∧
    (∀ places anchor x a, k.phase = .switching → s.cur.paused = false → s.vfStopped k.vf = false → (s.vf k.vf).bound = true →
      k.partner.bind s.task = some x → x.partner = some a → exec (.dispatchDecision task places anchor) s =
        .next (if s.placesAllowed x x.places = true then s.askPreempt a else s)) ∧
    (∀ places anchor x, k.phase = .ready → k.type = 1 → s.cur.paused = false → s.vfStopped k.vf = false → (s.vf k.vf).bound = true →
      s.openTo k = true → (s.vf k.vf).world.toNat = k.world → s.builtNow k = true → k.partner.bind s.task = some x →
      (x.phase ≠ .parked → exec (.dispatchDecision task places anchor) s = .next (s.askPreempt x.id)) ∧
      (x.phase = .parked → x.partner = none → anchor % 256 = 0 → s.time.gcy ≤ anchor → s.placesAllowed k x.places = true →
        exec (.dispatchDecision task places anchor) s =
          .next (s.onTask task fun k => { k with phase := .waiting, places := x.places, anchor := anchor }))) ∧
    (k.phase = .waiting → k.slipped = false → k.anchor + k.startOfs ≤ s.time.gcy → s.failedPred k = none → s.openPreds k = [] →
      exec (.taskStart task) s = .next (s.startTask k)) ∧
    (k.phase = .waiting → k.slipped = false → k.anchor + k.startOfs ≤ s.time.gcy → s.failedPred k = none → s.openPreds k ≠ [] →
      exec (.taskStart task) s = .next (s.onTask task fun k => { k with slipped := true })) ∧
    (k.phase = .waiting → k.slipped = true → s.openPreds k = [] → s.cur.paused = false → exec (.taskStart task) s = .next (s.reanchor k)) ∧
    (∀ p, k.phase = .waiting → k.slipped = false → k.anchor + k.startOfs ≤ s.time.gcy → s.failedPred k = some p →
      exec (.taskStart task) s = .next (s.endTask task 7 0x24 (BitVec.ofNat 64 p))) ∧
    (k.phase ≠ .parked → exec (.preemptRequest task) s = .next (s.askPreempt task)) ∧
    (k.phase = .parked → s.cur.paused = false → (∃ c ∈ k.cores, s.coreFits k c = false) →
      exec (.preemptRequest task) s = .next (s.unpin task)) ∧
    ((s.cores.any fun c => !c.isControl && c.task == task && c.run != .ended && c.preempt.isSome && decide (c.pbound < c.ccy - c.pbFrom)) = true →
      exec (.pboundKill task) s = .next (s.endTask task 8 0 0)) ∧
    (∀ other o, s.task other = some o → k.phase = .running → k.since + 85000 ≤ s.time.gcy → o.vf ≠ k.vf → o.tier = k.tier →
      (∃ c ∈ k.cores, ∃ p, s.partitionOf (clusterOf c) = some p ∧ ∃ x ∈ s.readyIn p, x.id = o.id) →
      exec (.quantumExpire task other) s = .next (s.askPreempt task)) ∧
    (s.mayUnpark k = true → ∀ places, exec (.taskResume task places) s = .next (s.unpark k)) ∧
    (∀ places xs pages gen t, k.phase = .preempted → k.partner.bind s.task = none → s.cur.paused = false → s.vfStopped k.vf = false →
      (s.vf k.vf).world.toNat = k.world → tableFault k.exttab (k.field 11 1) (k.type == 3) k.sealId (s.compartments k.world) = none →
      s.placesFit k places = true → s.mayServe k (s.placePartition k places) = true → s.translate k = (.ok (xs, pages, gen), t) →
      t.awaitsMove k.world xs = false → t.inClosedStack xs = false → exec (.taskResume task places) s = .next (
        let k' := { k with exts := xs, pages := pages, gen := gen, built := k.built + 1 }
        ((t.onTask task fun _ => k').resumeAt k' places).noteServed (s.placePartition k places) k.tier k.vf)) ∧
    (s.window + 1700000 ≤ s.time.gcy → exec .dispatchWindow s =
      .next { s with window := s.time.gcy / 1700000 * 1700000, served := [] }) ∧
    (∀ c, s.coreOf c.id = some c → c.isControl = false → s.cohortOver c = true → c.task = task → s.cur.holding = false →
      ∃ t k', exec (.cohortEnd c.id) s = .next t ∧ t.time = s.time ∧
        (∀ d ∈ t.cores, d.coh = c.coh → d.isControl = false → d.run = .ended) ∧
        t.task task = some k' ∧ k'.cohortsLeft = k.cohortsLeft - 1 ∧
        (k.cohortsLeft = 1 → k'.phase = .ended ∧ k'.fin = some ⟨6, 0, 0, s.time.gcy,
          BitVec.ofNat 64 (max k.haltGcy ((s.cohort c.coh).foldl (fun n d => max n d.haltedAt) 0))⟩)) ∧
    (∀ who v q, ∀ arg : BitVec 32, s.commandIs who 1 v q arg = true → arg.extractLsb' 16 16 = 0 → ((s.vf v).queue q).enable = true →
      s.vfStopped v = false → ((s.vf v).queue q).tail.toNat < 2 ^ ((s.vf v).queue q).log2.toNat → exec (.fetch who v q arg true) s =
        .next ((s.onQueue v q fun l => { l with record := some ((arg.extractLsb' 0 16 : BitVec 16).toNat,
          s.hostMem.readBytes (l.base.toNat + 128 * (arg.extractLsb' 0 16 : BitVec 16).toNat) 128) }).launchDone 0)) ∧
    (∀ who v q arg dmaOk, s.commandIs who 1 v q arg = true → s.vfStopped v = true → ∃ t,
      exec (.fetch who v q arg dmaOk) s = .next t ∧ t.tasks = s.tasks) ∧
    (∀ who v q arg dma, s.commandIs who 2 v q arg = true → (s.launchWord v arg).extractLsb' 0 4 = 0 →
      ((s.vf v).queue q).record = none → exec (.start who v q arg dma) s = .next (s.launchDone 3)) ∧
    (∀ who v q arg dma r, s.commandIs who 2 v q arg = true → (s.launchWord v arg).extractLsb' 0 4 = 0 →
      ((s.vf v).queue q).record = some r → exec (.start who v q arg dma) s =
        .next (((s.issueLaunch v q arg r.1 r.2).2.admitLaunch (s.issueLaunch v q arg r.1 r.2).1 dma).launchDone 0))

/-- R98-R103, R124-R126, R402, R405: the takeover, the journal registers, CURCTL, and the commands of the frame ownership table with the
scrub that follows a release. The owner that a command leaves for a frame number that names none is the model's (log 86, DESIGN CHOICE). -/
def Obligations.CuratorAndFrames : Prop :=
  ∀ (s : State) (frame : Nat), frame < fotFirst →
    (∀ a, s.coreOf 512 = some a → a.run = .faulted → exec .takeover s = .next (State.onCur
      (fun c => { c with takeover := true, holding := true, activeB := true, paused := true })
      ((s.onCore 512 fun c => { Core.control 512 .inReset with imem := c.imem, turn := c.turn, started := c.started }).onCore 513
        fun c => if c.run = .inReset then { c with run := .running } else c))) ∧
    (∀ val, exec (.jcommit s.activeCurator val) s = .next (s.onCur fun c => { c with
      commitSeq := val.extractLsb' 32 32, commitPos := val.extractLsb' 0 12 })) ∧
    (∀ who val, who ≠ s.activeCurator → exec (.jcommit who val) s = .next s) ∧
    (∀ who pos, 512 ≤ who → who < 516 → pos < 4096 → entryLen s.cur.journal0 pos ≤ 1008 → exec (.jcrcSeal who pos) s = .next (
      let n := entryLen s.cur.journal0 pos
      let crc := leBytes 4 (crc32c (ringBytes s.cur.journal0 (16 * pos) (8 + n))).toNat
      s.onCur fun c => { c with
        journal0 := ringWrite c.journal0 (16 * pos + 8 + n) crc, journal1 := ringWrite c.journal1 (16 * pos + 8 + n) crc })) ∧
    (∀ who pos, 512 ≤ who → who < 516 → pos < 4096 → 1008 < entryLen s.cur.journal0 pos → exec (.jcrcSeal who pos) s = .next s) ∧
    (∀ who pos, 512 ≤ who → who < 516 → pos < 4096 → exec (.jcrcCheck who pos) s = .next (s.onCur fun c => { c with
      v0 := entrySealed c.journal0 pos, v1 := entrySealed c.journal1 pos })) ∧
    (exec (.resume s.activeCurator) s = .next (s.onCur fun c => { c with paused := false })) ∧
    (s.cur.holding = true → s.cur.hold.length < 256 → exec (.curctlRelease s.activeCurator) s = .next (State.onCur
      (fun c => { c with holding := false })
      (s.cur.hold.foldl (fun t p => if t.vfStopped p.1 then t else t.deliver p.1 p.2) (s.onCur fun c => { c with hold := [] })))) ∧
    (∀ w, w < 64 → s.owner frame = 0xFF → ∃ t, exec (.assign s.activeCurator frame w) s = .next t ∧
      t.fot = SMap.put 0xFE frame (BitVec.ofNat 8 w) s.fot ∧ t.owner frame = BitVec.ofNat 8 w ∧
      t = { s with fot := t.fot, worlds := t.worlds, cur := { s.cur with fotResult := 0, fotOwner := BitVec.ofNat 8 w } } ∧
      ∀ x, x ≠ w → t.world x = s.world x) ∧
    (∀ w, w < 64 → s.owner frame = 0xFE → exec (.assign s.activeCurator frame w) s =
      .next (s.onCur fun c => { c with fotResult := 1, fotOwner := 0xFE })) ∧
    (∀ w, w < 64 → s.owner frame ≠ 0xFF → s.owner frame ≠ 0xFE → exec (.assign s.activeCurator frame w) s =
      .next (s.onCur fun c => { c with fotResult := 2, fotOwner := s.owner frame })) ∧
    (ownerValid (s.owner frame) = true → s.pinnedFrame frame = false → ∃ t, exec (.release s.activeCurator frame) s = .next t ∧
      t.fot = SMap.put 0xFE frame 0xFE s.fot ∧
      t = { s with fot := t.fot, cur := { s.cur with fotResult := 0, fotOwner := t.owner frame } }) ∧
    (ownerValid (s.owner frame) = true → s.pinnedFrame frame = true → exec (.release s.activeCurator frame) s =
      .next (s.onCur fun c => { c with fotResult := 3, fotOwner := s.owner frame })) ∧
    (ownerValid (s.owner frame) = false → exec (.release s.activeCurator frame) s =
      .next (s.onCur fun c => { c with fotResult := 2, fotOwner := s.owner frame })) ∧
    (exec (.read s.activeCurator frame) s = .next (s.onCur fun c => { c with fotResult := 0, fotOwner := s.owner frame })) ∧
    (∀ f, fotFirst ≤ f → exec (.read s.activeCurator f) s =
      .next (s.onCur fun c => { c with fotResult := 4, fotOwner := 0xFD })) ∧
    (exec (.fotNop s.activeCurator) s = .next (s.onCur fun c => { c with fotResult := 0, fotOwner := s.owner 0 })) ∧
    (s.owner frame = 0xFE → s.inTraining (512 * frame) = false → (s.fills.any fun f => frameOfLine f.index == frame) = false → ∃ t,
      exec (.scrubComplete frame) s = .next t ∧ t.owner frame = 0xFF ∧
      (∀ l ∈ t.lines, frameOfLine l.index ≠ frame) ∧
      (∀ a, a / 65536 = frame → t.hbm.read a = 0) ∧ (∀ a, a / 65536 ≠ frame → t.hbm.read a = s.hbm.read a) ∧
      t = { s with
        core := t.core, others := t.others, lines := t.lines, hbm := t.hbm, hbmTags := t.hbmTags, fot := SMap.put 0xFE frame 0xFF s.fot } ∧
      ∃ g : Core → Core, t.cores = s.cores.map g ∧ ∀ c, ∃ late parked, g c = { c with late := late, parkedLate := parked } ∧
        late.length = c.late.length ∧ parked.length = c.parkedLate.length)

/-- R85-R97, R104, R193, R194: fills, released effects, queued invalidations, column changes, retraining of a stack (its stages: log 71,
DESIGN CHOICE), and the data of a copy from a HOST extent. -/
def Obligations.MemoryEvents : Prop :=
  ∀ s : State,
    (∀ n f x, s.fills.find? (fun f => f.id == n) = some f → s.fillWaits f = false → s.badStack f.index = false →
      s.hit f.cluster f.index f.key = none → s.hbmRead f.index f.key = some x → s.hasRoom f.cluster f.index f.key f.ctx = true →
      exec (.fillInstall n .clean) s = .next (State.drainWb (
        State.deliverFill f x (State.install { s with fills := s.fills.filter fun g => g.id != n } f.cluster f.index f.key f.ctx x false)))) ∧
    (∀ n f l, s.fills.find? (fun f => f.id == n) = some f → s.fillWaits f = false → s.badStack f.index = false →
      s.hit f.cluster f.index f.key = some l → exec (.fillInstall n .clean) s = .next (State.drainWb (
        State.deliverFill f (s.lineData l) (State.touch { s with fills := s.fills.filter fun g => g.id != n } f.cluster f.index f.key)))) ∧
    (∀ n f, s.fills.find? (fun f => f.id == n) = some f → s.fillWaits f = false → s.badStack f.index = false →
      s.hit f.cluster f.index f.key = none → s.hbmRead f.index f.key = none → exec (.fillInstall n .clean) s = .next (State.drainWb (
        State.poisonFill f (State.reportUnit 11 f.index { s with fills := s.fills.filter fun g => g.id != n })))) ∧
    (∀ n f, s.fills.find? (fun f => f.id == n) = some f → s.fillWaits f = false → exec (.fillInstall n .uncorrectable) s = .next (
      State.drainWb (State.poisonFill f (State.reportUnit 2 f.index { s with fills := s.fills.filter fun g => g.id != n })))) ∧
    (∀ (l : Line) (t : State), l.dirty = true → t.inTraining l.index = true →
      t.writeback l = { t with heldWb := t.heldWb ++ [⟨l.index, l.data, l.tag, t.nextFill⟩] }) ∧
    (∀ t : State, (t.heldWb = [] → t.drainWb = t) ∧ ∀ w, t.heldWb = [w] → t.drainWb =
      if t.wbWaits w = true then t else State.hbmPut { t with heldWb := [] } w.index w.cipher w.tag) ∧
    (∀ g key bytes, s.nextEffect = some g → g.eff = .write .host key bytes → s.dmaStopped (g.strand / 1024) = false →
      exec .releasedEffectPerform s = .next (State.dropEffect g.id { s with hostMem := s.hostMem.writeCells bytes })) ∧
    (∀ g key bytes i, s.nextEffect = some g → s.released.find? (fun h => h.id == g.id) = some g →
      g.eff = .write .l2 key bytes → bytes ≠ [] → (∀ b ∈ bytes, b.1 / 128 = i) → (s.hit g.cluster i key).isSome = true →
      exec .releasedEffectPerform s = .next ((s.mergeLine g.cluster i key bytes).dropEffect g.id)) ∧
    (∀ g lines, s.nextEffect = some g → g.eff = .flush lines →
      exec .releasedEffectPerform s = .next ((s.flushLines g.cluster lines).dropEffect g.id)) ∧
    (∀ g key bytes, s.nextEffect = some g → g.eff = .write .stretcher key bytes →
      exec .releasedEffectPerform s = .next ((s.storeStretcher g.core bytes).dropEffect g.id)) ∧
    (∀ g lines, s.nextEffect = some g → g.eff = .inval lines → ∃ t, exec .cinvPerform s = .next t ∧
      (∀ l ∈ t.lines, l.cluster = g.cluster → l.index ∉ lines) ∧
      (∀ l ∈ s.lines, (l.cluster = g.cluster → l.index ∉ lines) → l ∈ t.lines) ∧
      t.released = s.released.filter (fun h => h.id != g.id)) ∧
    (∀ g c val, g < 64 → c < 4 → s.clusterBusy g = false → (s.col g).change = none →
      (val.extractLsb' 0 4 : BitVec 4) = (s.col g).off ^^^ ((1 : BitVec 4) <<< c) → (val.extractLsb' 0 2 : BitVec 2) ≠ 3 →
      (val.extractLsb' 2 2 : BitVec 2) ≠ 3 → exec (.l2col 514 g val) s = .next (s.setCol g { s.col g with
        err := (s.col g).err && !val.getLsbD 31, change := some (c, val.getLsbD c) })) ∧
    (∀ g val, g < 64 → s.clusterBusy g = true → exec (.l2col 514 g val) s =
      .next (s.setCol g { s.col g with err := true })) ∧
    (∀ g c off, g < 64 → (s.col g).change = some (c, off) → (s.released.any fun x => x.cluster == g) = false → ∃ t : State,
      exec (.columnChangeDone g) s = .next (t.setCol g { s.col g with
        off := (if off then (s.col g).off ||| ((1 : BitVec 4) <<< c) else (s.col g).off &&& ~~~((1 : BitVec 4) <<< c)), change := none }) ∧
      (∀ l ∈ t.lines, l.cluster = g → l.index % 4 = c → l.fold = off)) ∧
    (∀ n ok, n < 8 → s.training.getLsbD n = false → s.inStack n = [] → exec (.hbmRetrain n ok) s = .next { s with
      draining := s.draining &&& ~~~((1 : BitVec 8) <<< n), training := s.training ||| ((1 : BitVec 8) <<< n) }) ∧
    (∀ n ok, n < 8 → s.training.getLsbD n = false → s.inStack n ≠ [] → exec (.hbmRetrain n ok) s =
      .next ((s.inStack n).foldl (fun t k => t.unpin k.id) { s with draining := s.draining ||| ((1 : BitVec 8) <<< n) })) ∧
    (∀ n, n < 8 → s.training.getLsbD n = true →
      let t := State.drainWb { s with
        training := s.training &&& ~~~((1 : BitVec 8) <<< n)
        fills := s.fills.map fun f => if stackOfLine f.index = n then { f with held := true } else f }
      exec (.hbmRetrain n true) s = .next { t with stackBad := s.stackBad &&& ~~~((1 : BitVec 8) <<< n) } ∧
      exec (.hbmRetrain n false) s = .next (State.reportDomain { t with stackBad := s.stackBad ||| ((1 : BitVec 8) <<< n) } n)) ∧
    (∀ (c : Core) (u : Uncached), s.coreOf c.id = some c → c.uncached.find? (fun x => x.copy == u.copy) = some u →
      u.backing = .host → s.dmaStopped c.task = false → u.moves.length ≤ 16 → u.moves ≠ [] → u.dead.length ≤ 16 →
      exec (.uncachedCopySourceArrival c.id u.copy) s =
        .next (s.onCopy u.copy fun c =>
          let d := { c with uncached := c.uncached.filter fun x => x.copy != u.copy }
          Core.lateBytes u.copy (u.moves.map fun m => (m.2, s.hostMem.read m.1))
            (if u.dead = [] then d else d.copyDone u.copy (u.dead.map (·.2)) true false)))

/-! ## Rows without a word: strands and service life -/

/-- What a strand d is after a rollback to its checkpoint, with the faults on which its resumption acts (R187, R225): its architectural state, its
nest and its operations in flight are those of the checkpoint that stood before (with those of older copies), the rows of its undo log have the
bytes of the log again (the oldest entry of a row last), and the log, the accumulators, the B buffer and the gated effects are empty. -/
def Sys2Proof.Cert.RolledTo (s : State) (d after : Core) (faults : List TrapRec) : Prop :=
  after.late = (d.snap.late.filter fun l => s.inImage l.eff) ++ d.late.filter (fun l => d.outlives l.eff) ∧
  after.run = .rolledBack ∧ after.id = d.id ∧ after.snap = d.snap ∧ after.r = d.snap.regs ∧ after.pc = d.snap.pc ∧ after.loops = d.snap.loops ∧
  after.ccy = d.snap.ccy ∧ after.lock = d.snap.lock ∧ after.holds = d.snap.holds ∧ after.colls = d.snap.colls ∧ after.idle = d.snap.idle ∧
  after.eng.nest = d.snap.nest ∧ after.eng.step = d.snap.step ∧ after.eng.carry = d.snap.carry ∧ after.eng.acc = [] ∧ after.eng.bbuf = [] ∧
  after.gated = [] ∧ after.undo = [] ∧ after.lcl = d.undo.reverse.foldl (fun m u => m.writeBytes (128 * u.1) u.2) d.lcl ∧
  after.rbcnt = min 255 (d.rbcnt + 1) ∧ after.faults = faults

/-- R160, R183, R189, R190, R225-R229, R340, R373: holds, the end of a lock, nest steps, rollback and resumption, the passage of a ring
operation and its result, scrubs of roundel slots, and the status of a collective. A collective whose contributions differ ends once all have
come (log 45, DEDUCED). -/
def Obligations.StrandEvents : Prop :=
  ∀ (s : State) (c : Core), s.coreOf c.id = some c →
    (c.goes = true → c.isControl = false → c.inEffect ≠ [] → s.holdMarked c = false →
      ((s.holdGroup c).all fun d => d.inEffect.all fun h => h.met) = false → exec (.holdTakeEffect c.id) s =
        .next (s.mapCores fun d => if ((s.holdGroup c).map (·.id)).contains d.id then { d with inHold := true } else d)) ∧
    (c.goes = true → c.isControl = false → c.inEffect ≠ [] → s.holdMarked c = false →
      ((s.holdGroup c).all fun d => d.inEffect.all fun h => h.met) = true → exec (.holdTakeEffect c.id) s =
        .next (s.mapCores fun d => if ((s.holdGroup c).map (·.id)).contains d.id then d.endHold else d)) ∧
    (c.inHold = true → s.holdMarked c = false → ((s.holdGroup c).all fun d => d.inEffect.all fun h => h.met) = true →
      exec (.holdEnd c.id) s =
        .next (s.mapCores fun d => if ((s.holdGroup c).map (·.id)).contains d.id then d.endHold else d)) ∧
    (∀ pairs last, c.lock = some (pairs, last) → c.goes = true → last < c.ccy → exec (.lockExpire c.id) s =
      .next (s.onCore c.id fun c => { c with lock := none })) ∧
    (∀ n, c.eng.nest = some n → c.goes = true → c.eng.suspended = false → c.faults = [] → n.next = c.ccy → ∃ d,
      exec (.nestStep c.id) s = .next (s.onCore c.id fun _ => d) ∧
      (d.faults = [] → ∃ m, d.eng.nest = some m ∧ m.next = c.ccy + (c.r.fmtAt n.entry).cycles c.r.sp24 ∧ m.entry = n.entry ∧
        m.acc = n.acc ∧ m.fresh = false) ∧
      (∀ r, c.twin = none → n.fresh = true → (c.r.fmtAt n.entry).badReason = some r →
        d.faults = [⟨.mxFormat, some (BitVec.ofNat 64 (n.entry + 256 * r)), 8, n.mgoPc⟩])) ∧
    (c.run = .faulted → c.isControl = false → (∀ x ∈ s.verdictOn c.coh, x.2.2 ≠ 2 ∧ x.2.1.cause.neverEscalates = false) → ∃ t,
      ∃ back : Core → Core, exec (.rollback c.id) s = .next t ∧
        t = { s with core := t.core, others := t.others, released := t.released, fills := t.fills, pendLevel := t.pendLevel } ∧
        t.cores = s.cores.map (fun d => if d.coh = c.coh ∧ d.isControl = false then back d else d) ∧
        ∀ d, RolledTo s d (back d) (((s.verdictOn c.coh).filter fun x => x.2.2 == 1 && x.1.id == d.id).map (·.2.1))) ∧
    (∀ d f, c.run = .faulted → c.isControl = false → (s.verdictOn c.coh).find? (fun x => x.2.2 == 2) = some (d, f, 2) →
      exec (.rollback c.id) s = .next ((s.faultTval f).2.endTask d.task 7 f.cause.code (s.faultTval f).1)) ∧
    (c.run = .rolledBack → c.isControl = false → (∀ d ∈ s.cohort c.coh, d.waitFills = [] ∧ d.faults = []) →
      exec (.rollbackResume c.id) s = .next (s.mapCores fun d => if d.coh = c.coh ∧ !d.isControl then { d.applyDue d.ccy with
        faults := [], waitFills := [], run := (if d.snap.halted then .halted else .running) } else d)) ∧
    (∀ q e, q < 4 → s.performing c.id q = some e → c.ringEntry q = some e → ∃ t r, exec (.ringOpPerform c.id q) s = .next t ∧
      t.slots = SMap.put Slot.empty (slotNum e.canvas e.slot)
        (e.act (SMap.get Slot.empty (slotNum e.canvas e.slot) s.slots)).1 s.slots ∧
      (∀ d ∈ t.cores, d.id = c.id → d.ringEntry q ≠ some e) ∧
      (∃ d ∈ t.cores, d.id = c.id ∧ (d.r.q.getD q QReg.reset).result = some r) ∧
      r.val = (SMap.get Slot.empty (slotNum e.canvas e.slot) s.slots).payload ∧
      r.rev = (SMap.get Slot.empty (slotNum e.canvas e.slot) s.slots).rev ∧
      r.state = (SMap.get Slot.empty (slotNum e.canvas e.slot) s.slots).boarded ∧
      r.err = (e.act (SMap.get Slot.empty (slotNum e.canvas e.slot) s.slots)).2.1 ∧
      r.casOk = (e.act (SMap.get Slot.empty (slotNum e.canvas e.slot) s.slots)).2.2 ∧ r.arrives = s.time.gcy + 2) ∧
    (∀ q r, q < 4 → (c.r.q.getD q QReg.reset).result = some r → r.arrives ≤ s.time.gcy → r.img = c.r.act → c.run = .running → ∃ t d,
      exec (.ringResultArrive c.id q) s = .next t ∧ t.coreOf c.id = some d ∧
      (d.r.q.getD q QReg.reset) = { c.r.q.getD q QReg.reset with
        val := r.val, rev := r.rev, state := r.state, casOk := r.casOk, err := r.err, arrived := true, result := none }) ∧
    (∀ canvas slot, s.slotScrub.contains (canvas, slot) = true → (slot + s.time.gcy) % 256 = 1 → ∃ rev,
      exec (.roundelScrub canvas slot) s = .next { s with
        fresh := s.fresh + 1
        slots := SMap.put Slot.empty (slotNum canvas slot) ⟨false, rev, 0⟩ s.slots
        slotScrub := s.slotScrub.filter fun p => p != (canvas, slot) }) ∧
    (∀ group status remote, SMap.get [] group s.collWrites = [] →
      collSplit (s.contributions group) = none ∨ s.allContribute group = false → status ≠ 0 →
      exec (.collectiveStatusArrive group status remote) s = .next (s.endColls group 1 status)) ∧
    (∀ group status split remote, SMap.get [] group s.collWrites = [] → collSplit (s.contributions group) = some split →
      s.allContribute group = true → exec (.collectiveStatusArrive group status remote) s = .next (s.endColls group 1 split)) ∧
    (∀ group x xs remote, SMap.get [] group s.collWrites = [] → s.contributions group = x :: xs → collSplit (x :: xs) = none →
      s.allContribute group = true → (∀ r ∈ remote, r.length = x.desc.count * collSize x.desc.type) →
      exec (.collectiveStatusArrive group 0 remote) s = .next (s.reduceColl group x.desc remote (x :: xs)))

/-- A report of an error of a unit (R127, R128): of a unit inside a core, and from KIND 2 on it awaits its self-test. -/
def Sys2Proof.Cert.Reports (s : State) (e : UnitError) : Prop :=
  (unitValid e.unit = true → unitOutside e.unit = false → e.core < 512 → e.kind = 1 →
    s.reportError e = s.report e.core e.unit.toNat e.kind e.detail e.info) ∧
  (unitValid e.unit = true → unitOutside e.unit = false → e.core < 512 → e.kind ≠ 1 → ∃ l,
    s.reportError e = { s.report e.core e.unit.toNat e.kind e.detail e.info with suspects := l } ∧ (e.core, e.unit) ∈ l) ∧
  (unitOutside e.unit = true → s.reportError e = s.report 0xFFFF e.unit.toNat e.kind e.detail e.info) ∧
  (reportable e.unit = false → s.reportError e = s)

/-- A self-test that has ended, but for what its verdict makes of the unit. -/
def Sys2Proof.Cert.tested (s : State) (core : Nat) (unit : BitVec 16) (ok : Bool) : State :=
  { s.reportVerdict core unit (if ok then 6 else 7) 0 with
    selftest := none, consResult := if ok then 0 else 2, suspects := s.suspects.filter (· != (core, unit)) }

/-- R20, R53, R58, R80, R128-R136, R139-R142, R380, R424: error records, CORESTATE and timing tables, the Conservator's requests,
self-tests, the debug port, firmware images, the reset and the loss of power. A scan reads the B buffer from offset 0x80000 on (log 63,
DEDUCED); the verdict of a test comes with its event (log 51, DEDUCED), and a lasting fault of an overpaint condemns the unit behind it
(log 78, DESIGN CHOICE); a mismatch of twins strikes the next result (log 73, DEDUCED). -/
def Obligations.ServiceEvents : Prop :=
  ∀ s : State,
    (∀ e : UnitError, Reports s e) ∧
    (∀ (e : UnitError) index, e.place = .hbm index → exec (.unitErrorDetect e) s =
      .next (if e.kind = 1 ∨ e.kind = 2 then { s with walkEcc := SMap.put 0 index e.kind s.walkEcc } else s)) ∧
    (∀ e : UnitError, (∀ index, e.place ≠ .hbm index) → 1 ≤ e.kind → e.kind ≤ 5 → e.kind ≠ 2 → e.kind ≠ 5 →
      (e.kind = 3 → s.twinUnit e.core e.unit = false) →
      exec (.unitErrorDetect e) s = .next (s.reportError e)) ∧
    (∀ e : UnitError, (∀ index, e.place ≠ .hbm index) → e.kind = 2 ∨ e.kind = 5 →
      exec (.unitErrorDetect e) s = .next ((s.reportError e).strike e.core e.place)) ∧
    (∀ core w off, s.strike core (.register w off) = s.onCore core fun c =>
      if c.bad.contains (.register w off) then c else { c with bad := c.bad ++ [.register w off] }) ∧
    (∀ e : UnitError, (∀ index, e.place ≠ .hbm index) → e.kind = 3 → s.twinUnit e.core e.unit = true → exec (.unitErrorDetect e) s =
      .next ((s.reportError e).onCore e.core fun c => { c with twin := some e.unit })) ∧
    (∀ core unit kind detail info, (if kind = 1 then 64 else 0) < s.errFree → s.report core unit kind detail info = { s with
      errRing := SMap.put [] s.errTail.toNat (errorRecord s.time.gcy core unit kind detail info) s.errRing
      errTail := s.errTail + 1 }) ∧
    (∀ core unit kind detail info, s.errFree ≤ (if kind = 1 then 64 else 0) →
      let t := { s with
        errLost := if s.errLost = 0xFFFF then 0xFFFF else s.errLost + 1, errOverflow := s.errOverflow || decide (kind ≠ 1) }
      s.report core unit kind detail info = if core < 512 then t.setCs core { s.cs core with errsum := true } else t) ∧
    (∀ val : Word, (val.extractLsb' 0 9 - s.errHead).toNat ≤ (s.errTail - s.errHead).toNat →
      exec (.errhead 514 val) s = .next { s with errHead := val.extractLsb' 0 9 }) ∧
    (∀ val : Word, (s.errTail - s.errHead).toNat < (val.extractLsb' 0 9 - s.errHead).toNat →
      exec (.errhead 514 val) s = .next s) ∧
    (∀ n, ∀ val : Word, n < 512 → (s.cs n).state ≠ 5 → 1 ≤ (val.extractLsb' 0 3 : BitVec 3).toNat →
      (val.extractLsb' 0 3 : BitVec 3).toNat ≤ 4 → exec (.corestate 514 n val) s = .next (s.setCs n { s.cs n with
        errsum := (s.cs n).errsum && !val.getLsbD 15, state := val.extractLsb' 0 3 })) ∧
    (∀ n, ∀ val : Word, n < 512 → (s.cs n).state ≠ 5 → (val.extractLsb' 0 3 : BitVec 3) = 0 → ∃ m, exec (.corestate 514 n val) s =
      .next (State.setCs { s with measured := m } n { s.cs n with
        errsum := (s.cs n).errsum && !val.getLsbD 15, state := 0, tclass := tableClass (s.tableOf n) })) ∧
    (∀ n, ∀ val : Word, n < 512 → (val.extractLsb' 0 3 : BitVec 3) = 5 → exec (.corestate 514 n val) s = .next (s.setCs n { s.cs n with
      errsum := (s.cs n).errsum && !val.getLsbD 15, state := 5, tclass := 0xFFFFFFFF })) ∧
    (∀ n, ∀ val : Word, n < 512 → (s.cs n).state = 5 ∨ 6 ≤ (val.extractLsb' 0 3 : BitVec 3).toNat → (val.extractLsb' 0 3 : BitVec 3) ≠ 5 →
      exec (.corestate 514 n val) s = .next (s.setCs n { s.cs n with errsum := (s.cs n).errsum && !val.getLsbD 15 })) ∧
    (∀ n e val, n < 512 → e < 64 → (s.cs n).state = 3 → exec (.timingTableWrite 514 n e val) s =
      .next { s with tables := SMap.put (entryA0 e) (64 * n + e) (val &&& 0xFFF) s.tables }) ∧
    (∀ n e val, n < 512 → (s.cs n).state ≠ 3 → exec (.timingTableWrite 514 n e val) s = .next s) ∧
    (∀ core arg, core < 512 → arg < 2 ^ 23 → s.selftest = none →
      exec (.checkOverpaint 514 (BitVec.ofNat 64 (2 ^ 48 + 2 ^ 23 * core + arg))) s = .next (s.checkOverpaint core arg)) ∧
    (∀ core arg, ecdsaOk Config.firmwareKey ((s.flash.readBytes (32 * arg) 176).take 80)
        (((s.flash.readBytes (32 * arg) 176).drop 80).take 96) = false →
      s.checkOverpaint core arg = { s with consResult := 1 }) ∧
    (∀ core, ∀ unit : BitVec 16, core < 512 → s.selftest = none →
      exec (.selfTest 514 (BitVec.ofNat 64 (2 * 2 ^ 48 + 2 ^ 32 * unit.toNat + 2 ^ 23 * core))) s =
        .next { s with selftest := some (core, unit), testFrom := s.time.gcy }) ∧
    (∀ core unit bad, s.selftest = some (core, unit) → s.testPath core unit ≠ .absent → (core, unit) ∉ s.suspects →
      exec (.selfTestDone true bad) s = .next (tested s core unit true)) ∧
    (∀ core unit bad, s.selftest = some (core, unit) → s.testPath core unit ≠ .absent → (core, unit) ∈ s.suspects →
      exec (.selfTestDone true bad) s = .next ((tested s core unit true).transient core unit (s.testPath core unit))) ∧
    (∀ core unit bad, s.selftest = some (core, unit) → s.testPath core unit = .native →
      exec (.selfTestDone false bad) s = .next ((tested s core unit false).condemn core unit)) ∧
    (∀ core unit bad o, s.selftest = some (core, unit) → s.testPath core unit = .overpaint o →
      o.twin = true ∨ (core, unit) ∉ s.suspects →
        exec (.selfTestDone false bad) s = .next ((tested s core unit false).failPlots o bad)) ∧
    (∀ core unit bad o, s.selftest = some (core, unit) → s.testPath core unit = .overpaint o → o.twin = false → (core, unit) ∈ s.suspects →
      exec (.selfTestDone false bad) s = .next (((tested s core unit false).failPlots o bad).condemn core unit)) ∧
    (∀ core unit pass bad, s.selftest = some (core, unit) → s.testPath core unit = .absent →
      exec (.selfTestDone pass bad) s = .next (tested s core unit false)) ∧
    (∀ core, core < 512 → s.selftest = none → core ∉ s.detours →
      exec (.dropCore 514 (BitVec.ofNat 64 (3 * 2 ^ 48 + 2 ^ 23 * core))) s =
        .next { s with consResult := 0, detours := s.detours ++ [core] }) ∧
    (∀ core arg, ∀ unit : BitVec 16, core < 512 → arg < 256 → s.selftest = none →
      exec (.postLoadOutcome 514 (BitVec.ofNat 64 (4 * 2 ^ 48 + 2 ^ 32 * unit.toNat + 2 ^ 23 * core + arg))) s =
        .next { s.reportVerdict core unit 8 arg with consResult := 0 }) ∧
    (∀ core off c, s.coreOf core = some c → off < 0x80000 → c.sealedOff [off, off + 7] = none →
      exec (.debugPortScan core off) s = .next { s with out := s.out ++ [.scan core off (c.lcl.readBytes off 8)] }) ∧
    (∀ core off c o, s.coreOf core = some c → off < 0x80000 → c.sealedOff [off, off + 7] = some o → ∃ t,
      exec (.debugPortScan core off) s = .next { t with out := s.out ++ [.scan core off (List.replicate 8 0)] } ∧
      t = s.coreFault core .sealedDebug (some (BitVec.ofNat 64 (4096 * plateOf o)))) ∧
    (∀ core off c, s.coreOf core = some c → 0x80000 ≤ off → c.eng.bsealed = false →
      exec (.debugPortScan core off) s = .next { s with out := s.out ++ [.scan core off (c.eng.bbuf.readBytes (off - 0x80000) 8)] }) ∧
    (∀ image : BitVec 8, ∀ copies, 1 ≤ image.toNat → image.toNat ≤ 3 →
      (image.toNat ≤ 2 → (s.vfs.any fun x => x.2.isLocked && x.2.nfw) = false) →
      exec (.firmwareImageUpdate image copies) s = .next { s with firmware := SMap.put [] image.toNat (copies.take 2) s.firmware }) ∧
    (∀ image : BitVec 8, ∀ copies, image.toNat = 1 ∨ image.toNat = 2 → (s.vfs.any fun x => x.2.isLocked && x.2.nfw) = true →
      exec (.firmwareImageUpdate image copies) s = .next s) ∧
    (exec .drbgReseed s = .next { s with drbg := 0 }) ∧
    (∀ damaged failed flit, ∃ t, ∃ p a k : Bool, exec (.packageReset damaged failed flit) s = .next t ∧
      p = (s.verified damaged 1).isSome ∧ a = (p && (s.verified damaged 2).isSome) ∧ k = (p && (s.verified damaged 3).isSome) ∧
      t.stackBad = failed ∧ t.pf.flitMode = flit ∧ t.core.id = 512 ∧ t.core.run = (if a then .running else .inReset) ∧ t.core.pc = 0 ∧
      (t.others.map fun c => (c.id, c.run)) = [(513, .inReset), (514, if k then .running else .inReset),
        (515, if p then .running else .inReset)] ∧ t.spdmOnly = !(a && k) ∧ t.pf.fatal = !p ∧ t.time.gcy = 0 ∧ t.fot = [] ∧
      t.vfs = [] ∧ t.tasks = [] ∧ t.hbm = [] ∧ t.lines = [] ∧ t.flash = s.flash ∧ t.hostMem = s.hostMem ∧ t.power = true) ∧
    (∃ t, exec .modulePowerOff s = .next t ∧ t.power = false ∧ t.flash = s.flash ∧ t.hbm = [] ∧ t.tasks = [])

/-! ## Words, steps, writes, exceptions -/

/-- R248-R266: words written out bit by bit from the encoding tables, with the instructions they stand for. -/
def Obligations.WrittenWordsDecode : Prop :=
  decodeSlot 0 0x3C000000#32 = some .rswap ∧ decodeSlot 0 0x30000000#32 = some .tret ∧ decodeSlot 0 0x2C00BEEF#32 = some (.trap 0xBEEF) ∧
  decodeSlot 1 0x04410600#32 = some (.add 4 4 6) ∧ decodeSlot 1 0x30810002#32 = some (.gset 1 4 0 2) ∧
  decodeSlot 2 0x1C400C00#32 = some (.ldD 4 0 3 0) ∧ decodeSlot 2 0x2D400C01#32 = some (.stD 20 0 3 0 1) ∧
  decodeSlot 5 0x42C00000#32 = some (.tcfg 5 0x80) ∧ decodeSlot 5 0x50240000#32 = some (.tvrow 1 1 0 0) ∧
  decodeSlot 5 0x5707C000#32 = some (.tcolv 24 1 15 0) ∧ decodeSlot 5 0x5E800000#32 = some (.tzero 5) ∧
  decodeSlot 7 0x0C480000#32 = some (.mwait 9) ∧ decodeSlot 7 0x50C41400#32 = some (.kvcommit 3 4 5) ∧
  (∀ k, k < 8 → decodeSlot k 0 = some .nop) ∧ decodeSlot 0 0x00000001#32 = none ∧ decodeSlot 3 0xFC000000#32 = none

/-- R248-R266: every well-formed instruction that has a word is what the decoder reads from that word in its slot. -/
def Obligations.EncodingsRoundTrip : Prop :=
  ∀ i : Instr, slotOf i < 8 → wellFormed i = true → decodeSlot (slotOf i) (encode i) = some i

/-- R131, R239, R240, R242, R243: only the word of an instruction of the slot decodes; an instruction that may not issue raises the first
fault of R240 with its word in csr.tval, one of a condemned unit raises UNIT_CONDEMNED, and one that an error strikes its fault; none of them does
anything else. -/
def Obligations.IssueChecks : Prop :=
  (∀ k w i, decodeSlot k w = some i → encode i = w ∧ wellFormed i = true ∧ (slotOf i = k ∨ i = .nop)) ∧
  (∀ k w, (w.extractLsb' 26 6 : BitVec 6) = 0 → w ≠ 0 → decodeSlot k w = none) ∧
  (∀ (s : State) i cause, slotOf i < 8 → s.core.issueFault i = some cause → exec i s =
    .next (faulted s (slotOf i) cause (some (decodeTval (slotOf i) (encode i))))) ∧
  (∀ (s : State) i, slotOf i < 8 → s.core.issueFault i = none → (unitsOf i).any s.dead = true → exec i s =
    .next (faulted s (slotOf i) .unitCondemned none)) ∧
  (∀ (s : State) i f, slotOf i < 8 → s.core.issueFault i = none → (unitsOf i).any s.dead = false → s.core.strikes i = some f →
    ∃ twin, exec i s = .next (faulted (withCore s { s.core with twin := twin }) (slotOf i) f.1 f.2)) ∧
  (∀ (c : Core) i, c.isControl = true → notOnControl i = true → c.issueFault i = some .slotProfile) ∧
  (∀ c : Core, c.isControl = false → c.mode = .task →
    c.issueFault .tret = some .privilege ∧ c.issueFault .rswap = some .privilege ∧ c.issueFault .mabort = some .privilege ∧
    c.issueFault .mrest = some .privilege ∧ (∀ d w k, c.issueFault (.dbgrd d w k) = some .privilege) ∧
    (∀ e x y n, c.issueFault (.iload e x y n) = some .privilege) ∧ (∀ e x y, c.issueFault (.ovpload e x y) = some .privilege) ∧
    (∀ y, c.issueFault (.gcommit y) = some .privilege) ∧
    (c.r.tvec.getLsbD 63 = true → ∀ a, c.issueFault (.csrw a 1) = some .privilege)) ∧
  (∀ c : Core, c.isControl = false → c.mode = .service →
    c.issueFault .tret = none ∧ c.issueFault .rswap = none ∧ c.issueFault .mabort = none ∧ c.issueFault .mrest = none ∧
    ∀ a, c.issueFault (.csrw a 1) = none)

/-- A core whose next bundle issues on this clock. -/
def Sys2Proof.Cert.Ready (s : State) : Prop :=
  s.power = true ∧ s.core.started = false ∧ (s.boundary = true → s.nextInput [] s.inputs = none ∧ s.dueEvent = none) ∧
    s.core.run = .running ∧ s.core.inHold = false ∧ s.core.stall = 0 ∧ s.core.wait = [] ∧ s.core.faults = [] ∧
    s.core.retHandler = false ∧ s.core.idle = 0

/-- What a step makes of what the operation of a word answers: the core's turn goes on, or ends. -/
def Sys2Proof.Cert.afterWord (o : Host.Outcome State Fault Refusal) : Host.Outcome State Fault Refusal :=
  match o with
  | .next u => .next u.endOp
  | .fault f => .fault f
  | .refused r => .refused r

/-- R237-R241: one step is the meaning of the decoded instruction: of a bundle with one word; of each later word of a bundle that has
begun; of an event. A bundle with a word that fails a check raises the fault and issues nothing; without power the machine stops. -/
def Obligations.StepRunsTheDecodedInstruction : Prop :=
  ∀ s : State,
    (∀ k i, Ready s → k < 8 → s.core.fetchWords.getD k 0 ≠ 0 → (∀ j, j < 8 → j ≠ k → s.core.fetchWords.getD j 0 = 0) →
      decodeSlot k (s.core.fetchWords.getD k 0) = some i → s.core.wordFault k (s.core.fetchWords.getD k 0) = none →
      step s = afterWord (exec i (withCore s { s.core with bundle := s.core.fetchWords, started := true, turn := true, rest := [] }))) ∧
    (∀ k cause, Ready s → k < 8 → s.core.wordFault k (s.core.fetchWords.getD k 0) = some cause →
      (∀ j, j < k → s.core.wordFault j (s.core.fetchWords.getD j 0) = none) → step s = .next (State.endOp
        (faulted (withCore s { s.core with bundle := s.core.fetchWords, started := true, turn := true, rest := [] }) k cause
          (some (decodeTval k (s.core.fetchWords.getD k 0)))))) ∧
    (∀ k w t i, s.power = true → s.boundary = false → s.core.started = true → s.core.rest = (k, w) :: t → decodeSlot k w = some i →
      step s = afterWord (exec i (withCore s { s.core with rest := t }))) ∧
    (∀ i rest, s.power = true → s.boundary = true → s.nextInput [] s.inputs = some (i, rest) →
      step s = exec i { s with inputs := rest }) ∧
    (∀ i, s.power = true → s.boundary = true → s.nextInput [] s.inputs = none → s.dueEvent = some i → step s = exec i s) ∧
    (s.power = false → (∀ p ∈ s.inputs, isPackageReset p.2 = false) → step s = .fault .noPower)

/-- R144, R145, R149: a register write in flight is seen from its core cycle on and not before; of two that meet, that of the later
operation remains; s0 and g0 keep their constants. A store that performs changes the bytes that it stores and no others. -/
def Obligations.WritesTakeEffect : Prop :=
  ∀ (c : Core) (upTo : Nat),
    ((∀ l ∈ c.late, upTo < l.due) → c.applyDue upTo = c) ∧
    (∀ (l : Late) n x, c.late = [l] → l.eff = .sreg n x → l.due ≤ upTo → c.holds = [] →
      (∃ bad, c.applyDue upTo = { c with late := [], r := c.r.setS n x, bad := bad }) ∧ (c.applyDue upTo).sreg n = (if n = 0 then 0 else x) ∧
      ∀ m, m ≠ n → (c.applyDue upTo).sreg m = c.sreg m) ∧
    (∀ (l : Late) n x, c.late = [l] → l.eff = .vreg n x → l.due ≤ upTo → c.holds = [] →
      (∃ bad, c.applyDue upTo = { c with late := [], r := c.r.setV n x, bad := bad }) ∧ (c.applyDue upTo).vreg n = x ∧
      ∀ m, m ≠ n → (c.applyDue upTo).vreg m = c.vreg m) ∧
    (∀ (l : Late) n x, c.late = [l] → l.eff = .mreg n x → l.due ≤ upTo → c.holds = [] →
      (∃ bad, c.applyDue upTo = { c with late := [], r := c.r.setM n x, bad := bad }) ∧ (c.applyDue upTo).mreg n = x ∧
      ∀ m, m ≠ n → (c.applyDue upTo).mreg m = c.mreg m) ∧
    (∀ (l m : Late) n x y, c.late = [l, m] ∨ c.late = [m, l] → l.eff = .sreg n x → m.eff = .sreg n y → l.due ≤ upTo →
      m.due ≤ upTo → 16 * l.issued + l.slot < 16 * m.issued + m.slot → n ≠ 0 → (c.applyDue upTo).sreg n = y) ∧
    (∀ mask x : BitVec 8, ∀ g : BitVec 3, (c.applyEarly (.guards mask x)).greg g =
      (if g = 0 then true else if mask.getLsbD g.toNat then x.getLsbD g.toNat else c.greg g)) ∧
    (c.sreg 0 = 0 ∧ c.greg 0 = true ∧ c.guardOf 0 = true ∧ c.guardOf 8 = false) ∧
    (∀ bytes, (∀ a, a ∉ bytes.map (·.1) → (c.storeLcl bytes).lcl.read a = c.lcl.read a) ∧
      (c.lcl.wf = true → (c.storeLcl bytes).lcl.wf = true ∧
        ((bytes.map (·.1)).Nodup → ∀ b ∈ bytes, (c.storeLcl bytes).lcl.read b.1 = b.2)) ∧
      (c.storeLcl bytes).r = c.r ∧ (c.storeLcl bytes).pc = c.pc ∧ (c.storeLcl bytes).late = c.late) ∧
    (∀ (l : Late) bytes, l.eff = .store .S bytes → c.undoable = false → c.performOwn l = c.storeLcl bytes)

/-- R193, R217, R221: the release of what some cores hold: in the order of issue CCY, core and slot; their ring operations are armed; other
cores stay as they are. -/
def Sys2Proof.Cert.Releases (s : State) (ids : List Nat) : Prop :=
  (s.release ids).released = s.released ++ (sortBy (fun g : Gated => 65536 * g.issued + 16 * g.core + g.slot)
    ((s.cores.filter fun c => ids.contains c.id).flatMap (·.gated))).filter (fun g => !g.isRing) ∧
  (∀ d ∈ (s.release ids).cores, d.id ∈ ids → d.gated = [] ∧
    ∀ q e, q < 4 → (d.r.q.getD q QReg.reset).entry = some e → e.phase ≠ .gated) ∧
  (∀ d ∈ s.cores, d.id ∉ ids → d ∈ (s.release ids).cores)

/-- R217, R221: a checkpoint releases the effects of its whole cohort, and a bundle after which strands of a cohort stand halted releases those
of these, where no fault, call, exchange or marker is to be acted on. -/
def Sys2Proof.Cert.ReleasePoints (s : State) (coh : Nat) : Prop :=
  (∀ stamp p, (s.checkpoint coh stamp p).released = (s.release ((s.cohort coh).map (·.id))).released ∧
    ∀ d ∈ (s.checkpoint coh stamp p).cores, d.coh = coh → d.gated = []) ∧
  ((∀ d ∈ s.cohort coh, d.faults = [] ∧ d.swap = none ∧ d.call = none ∧ d.ckptWord = none ∧ d.rcolFault = d) →
    s.cohortVerdict coh = s.release (((s.cohort coh).filter fun d => d.run == .halted).map (·.id)))

/-- R146, R193, R217, R218, R221, R229, R230, R234, R236: the next PC and the loop stack; what a checkpoint records and releases; entry to a
handler and the return from it on a compute core and on a control core, and the restart of a control core. -/
def Obligations.ExceptionsAndCheckpoints : Prop :=
  ∀ (s : State) (c : Core) (f : TrapRec) (v : Word), s.coreOf c.id = some c → f.tval = some v →
    (∀ t, c.nextPc = some t → c.loopAct = none → c.nextPos = (t, c.loops)) ∧
    (c.nextPc = none → c.loopAct = none → c.loops = [] → c.nextPos = (c.pc + 32, [])) ∧
    (∀ e es, c.nextPc = none → c.loopAct = none → c.loops = e :: es → c.pc ≠ e.start + BitVec.ofNat 17 (32 * (e.len - 1)) →
      c.nextPos = (c.pc + 32, e :: es)) ∧
    (∀ e es, c.nextPc = none → c.loopAct = none → c.loops = e :: es → c.pc = e.start + BitVec.ofNat 17 (32 * (e.len - 1)) →
      c.nextPos = (if 1 < e.count.toNat then (e.start, { e with count := e.count - 1, index := e.index + 1 } :: es) else loopNext c.pc es)) ∧
    (c.takeSnap.snap.regs = c.r ∧ c.takeSnap.snap.ccy = c.ccy ∧ c.takeSnap.snap.pc = c.pc ∧ c.takeSnap.snap.loops = c.loops ∧
      c.takeSnap.undo = [] ∧ c.takeSnap.rbcnt = 0 ∧ c.takeSnap.lcl = c.lcl) ∧
    (∀ esc resume, c.isControl = false → c.inh = false → c.r.tvec.getLsbD 63 = true → ∃ t d,
      s.takeException c.id f esc resume = t ∧ t = s.onCore c.id (fun e => e.enterHandler f v esc resume) ∧ t.coreOf c.id = some d ∧
      d.tcause = BitVec.ofNat 17 (f.cause.code + 256 * f.slot + 65536 * esc.toNat) ∧ d.tval = v ∧ d.tbpc = f.pc ∧ d.tepc = resume ∧
      d.savedMode = c.mode ∧ d.mode = .service ∧ d.inh = true ∧ d.savedLoops = c.loops ∧ d.loops = [] ∧ d.eng.acc = [] ∧
      d.r = { c.r with claimed := 0 } ∧ d.pc = c.r.tvec.extractLsb' 0 17 &&& 0x1FFE0 ∧ d.lcl = c.lcl ∧ d.imem = c.imem) ∧
    (∀ esc resume, c.isControl = false → c.inh = true ∨ c.r.tvec.getLsbD 63 = false →
      s.takeException c.id f esc resume = s.endTask c.task 7 f.cause.code v) ∧
    (∀ resume, c.isControl = true → c.inh = false → c.r.tvec.getLsbD 63 = true → ∃ d,
      s.takeException c.id f false resume = s.onCore c.id (fun e => e.enterControl f v resume) ∧ d = c.enterControl f v resume ∧
      d.tcause = BitVec.ofNat 17 (f.cause.code + 256 * f.slot) ∧
      d.tval = v ∧ d.tepc = resume ∧ d.tbpc = f.pc ∧ d.savedLoops = c.loops ∧ d.loops = [] ∧ d.inh = true ∧ d.mode = c.mode ∧
      d.late = c.late ∧ d.pc = c.r.tvec.extractLsb' 0 17 &&& 0x1FFE0 ∧ d.r = c.r) ∧
    (∀ resume, c.isControl = true → (c.inh = true ∨ c.r.tvec.getLsbD 63 = false) →
      s.takeException c.id f false resume = s.onCore c.id Core.restart) ∧
    (c.restart.r = ArchRegs.reset ∧ c.restart.lcl = [] ∧ c.restart.plates = [] ∧ c.restart.loops = [] ∧ c.restart.late = [] ∧
      c.restart.imem = c.imem ∧ c.restart.exts = c.exts ∧ c.restart.pc = (if c.id = 513 then 32 else 0) ∧ c.restart.run = .running) ∧
    (c.leaveHandler.mode = c.savedMode ∧ c.leaveHandler.loops = c.savedLoops ∧ c.leaveHandler.inh = false ∧
      c.leaveHandler.pc = c.tepc ∧ c.leaveHandler.ccy = c.snap.ccy ∧ c.leaveHandler.late = c.parkedLate ∧ c.leaveHandler.undo = [] ∧
      c.leaveHandler.snap.regs = c.leaveHandler.r ∧ c.leaveHandler.eng.acc = [] ∧ c.leaveHandler.snap.late = c.snap.late) ∧
    (∀ ids, Releases s ids) ∧ (∀ coh, ReleasePoints s coh)

/-! ## The whole machine -/

/-- The memories outside the cores in their canonical form: HBM, host memory, the flash, the response buffer, the journal's two mirrors,
the shadow and the active configuration. -/
def Sys2Proof.Cert.MemoriesWf (s : State) : Prop :=
  s.hbm.wf = true ∧ s.hostMem.wf = true ∧ s.flash.wf = true ∧ s.tdiRsp.wf = true ∧ s.cur.journal0.wf = true ∧
    s.cur.journal1.wf = true ∧ s.shadow.wf = true ∧ s.active.wf = true

/-- Every step keeps the canonical form of the memories, from any state that has it. -/
def Obligations.StepKeepsTheMemories : Prop :=
  ∀ s t : State, MemoriesWf s → step s = .next t → MemoriesWf t

/-- R20, R31, R43, R103, R133, R140, R236, R401: what the spec states for reset; and the memories have their canonical form. -/
def Obligations.ResetState : Prop :=
  MemoriesWf State.reset ∧ State.reset.memWf = true ∧
  State.reset.time.gcy = 0 ∧
  (State.reset.cores.map fun c => (c.id, c.run, c.mode, c.pc)) =
    [(512, .running, .control, 0), (513, .inReset, .control, 32), (514, .running, .control, 0), (515, .running, .control, 0)] ∧
  (∀ c ∈ State.reset.cores, c.r.tvec = 0 ∧ c.loops = [] ∧ c.ccy = 0 ∧ c.late = [] ∧ ∀ p, (c.plate p).checked = true) ∧
  (∀ frame, frame < fotFirst → State.reset.owner frame = 0xFE) ∧
  (∀ frame, fotFirst ≤ frame → State.reset.owner frame = 0xFD) ∧
  (∀ n, State.reset.cs n = ⟨0xA00, false, 3⟩) ∧
  (∀ core, State.reset.tableEntry core 0 = 1 ∧ State.reset.tableEntry core 28 = 288 ∧ State.reset.tableEntry core 29 = 0) ∧
  (∀ n, n < 4 → (State.reset.reg n).cap = 650 ∧ (State.reset.reg n).slotmask = 0x40) ∧
  (∀ v, (State.reset.vf v).bound = false ∧ (State.reset.vf v).tdi = 0 ∧ (State.reset.vf v).phase = true ∧
    (State.reset.vf v).cqEnable = false) ∧
  State.reset.tasks = [] ∧ State.reset.power = true
end

