-- ==== Sys2Proof/Laws/State.lean ====
section
/-! SUPPORT. What the named updates of a state, of a core and of its registers leave in each field: one lemma per field. -/

namespace Sys2Proof.Machine

/-! ## Changing the focal core, every core, one core -/

@[simp] theorem State.upd_core (s : State) (f : Core → Core) : (s.upd f).core = f s.core := rfl
@[simp] theorem State.upd_power (s : State) (f : Core → Core) : (s.upd f).power = s.power := rfl
@[simp] theorem State.upd_others (s : State) (f : Core → Core) : (s.upd f).others = s.others := rfl
@[simp] theorem State.upd_toGo (s : State) (f : Core → Core) : (s.upd f).toGo = s.toGo := rfl
@[simp] theorem State.upd_inputs (s : State) (f : Core → Core) : (s.upd f).inputs = s.inputs := rfl
@[simp] theorem State.upd_fresh (s : State) (f : Core → Core) : (s.upd f).fresh = s.fresh := rfl
@[simp] theorem State.upd_time (s : State) (f : Core → Core) : (s.upd f).time = s.time := rfl
@[simp] theorem State.upd_links (s : State) (f : Core → Core) : (s.upd f).links = s.links := rfl
@[simp] theorem State.upd_pwrmap (s : State) (f : Core → Core) : (s.upd f).pwrmap = s.pwrmap := rfl
@[simp] theorem State.upd_regs (s : State) (f : Core → Core) : (s.upd f).regs = s.regs := rfl
@[simp] theorem State.upd_pendLevel (s : State) (f : Core → Core) : (s.upd f).pendLevel = s.pendLevel := rfl
@[simp] theorem State.upd_pf (s : State) (f : Core → Core) : (s.upd f).pf = s.pf := rfl
@[simp] theorem State.upd_vfs (s : State) (f : Core → Core) : (s.upd f).vfs = s.vfs := rfl
@[simp] theorem State.upd_doe (s : State) (f : Core → Core) : (s.upd f).doe = s.doe := rfl
@[simp] theorem State.upd_s2root (s : State) (f : Core → Core) : (s.upd f).s2root = s.s2root := rfl
@[simp] theorem State.upd_s2inv (s : State) (f : Core → Core) : (s.upd f).s2inv = s.s2inv := rfl
@[simp] theorem State.upd_walk (s : State) (f : Core → Core) : (s.upd f).walk = s.walk := rfl
@[simp] theorem State.upd_tdiEvt (s : State) (f : Core → Core) : (s.upd f).tdiEvt = s.tdiEvt := rfl
@[simp] theorem State.upd_tdiQueue (s : State) (f : Core → Core) : (s.upd f).tdiQueue = s.tdiQueue := rfl
@[simp] theorem State.upd_tdiRsp (s : State) (f : Core → Core) : (s.upd f).tdiRsp = s.tdiRsp := rfl
@[simp] theorem State.upd_worlds (s : State) (f : Core → Core) : (s.upd f).worlds = s.worlds := rfl
@[simp] theorem State.upd_partOf (s : State) (f : Core → Core) : (s.upd f).partOf = s.partOf := rfl
@[simp] theorem State.upd_partWorld (s : State) (f : Core → Core) : (s.upd f).partWorld = s.partWorld := rfl
@[simp] theorem State.upd_slotOwner (s : State) (f : Core → Core) : (s.upd f).slotOwner = s.slotOwner := rfl
@[simp] theorem State.upd_drbg (s : State) (f : Core → Core) : (s.upd f).drbg = s.drbg := rfl
@[simp] theorem State.upd_firmware (s : State) (f : Core → Core) : (s.upd f).firmware = s.firmware := rfl
@[simp] theorem State.upd_certChain (s : State) (f : Core → Core) : (s.upd f).certChain = s.certChain := rfl
@[simp] theorem State.upd_spdmOnly (s : State) (f : Core → Core) : (s.upd f).spdmOnly = s.spdmOnly := rfl
@[simp] theorem State.upd_meas (s : State) (f : Core → Core) : (s.upd f).meas = s.meas := rfl
@[simp] theorem State.upd_tasks (s : State) (f : Core → Core) : (s.upd f).tasks = s.tasks := rfl
@[simp] theorem State.upd_nextTask (s : State) (f : Core → Core) : (s.upd f).nextTask = s.nextTask := rfl
@[simp] theorem State.upd_served (s : State) (f : Core → Core) : (s.upd f).served = s.served := rfl
@[simp] theorem State.upd_lastVf (s : State) (f : Core → Core) : (s.upd f).lastVf = s.lastVf := rfl
@[simp] theorem State.upd_window (s : State) (f : Core → Core) : (s.upd f).window = s.window := rfl
@[simp] theorem State.upd_cur (s : State) (f : Core → Core) : (s.upd f).cur = s.cur := rfl
@[simp] theorem State.upd_slots (s : State) (f : Core → Core) : (s.upd f).slots = s.slots := rfl
@[simp] theorem State.upd_slotScrub (s : State) (f : Core → Core) : (s.upd f).slotScrub = s.slotScrub := rfl
@[simp] theorem State.upd_orphans (s : State) (f : Core → Core) : (s.upd f).orphans = s.orphans := rfl
@[simp] theorem State.upd_passed (s : State) (f : Core → Core) : (s.upd f).passed = s.passed := rfl
@[simp] theorem State.upd_colls (s : State) (f : Core → Core) : (s.upd f).colls = s.colls := rfl
@[simp] theorem State.upd_collEnds (s : State) (f : Core → Core) : (s.upd f).collEnds = s.collEnds := rfl
@[simp] theorem State.upd_collWrites (s : State) (f : Core → Core) : (s.upd f).collWrites = s.collWrites := rfl
@[simp] theorem State.upd_cutGroups (s : State) (f : Core → Core) : (s.upd f).cutGroups = s.cutGroups := rfl
@[simp] theorem State.upd_lines (s : State) (f : Core → Core) : (s.upd f).lines = s.lines := rfl
@[simp] theorem State.upd_l2tick (s : State) (f : Core → Core) : (s.upd f).l2tick = s.l2tick := rfl
@[simp] theorem State.upd_l2limit (s : State) (f : Core → Core) : (s.upd f).l2limit = s.l2limit := rfl
@[simp] theorem State.upd_l2col (s : State) (f : Core → Core) : (s.upd f).l2col = s.l2col := rfl
@[simp] theorem State.upd_fills (s : State) (f : Core → Core) : (s.upd f).fills = s.fills := rfl
@[simp] theorem State.upd_nextFill (s : State) (f : Core → Core) : (s.upd f).nextFill = s.nextFill := rfl
@[simp] theorem State.upd_released (s : State) (f : Core → Core) : (s.upd f).released = s.released := rfl
@[simp] theorem State.upd_ckptFaults (s : State) (f : Core → Core) : (s.upd f).ckptFaults = s.ckptFaults := rfl
@[simp] theorem State.upd_draining (s : State) (f : Core → Core) : (s.upd f).draining = s.draining := rfl
@[simp] theorem State.upd_training (s : State) (f : Core → Core) : (s.upd f).training = s.training := rfl
@[simp] theorem State.upd_heldWb (s : State) (f : Core → Core) : (s.upd f).heldWb = s.heldWb := rfl
@[simp] theorem State.upd_walkEcc (s : State) (f : Core → Core) : (s.upd f).walkEcc = s.walkEcc := rfl
@[simp] theorem State.upd_hbm (s : State) (f : Core → Core) : (s.upd f).hbm = s.hbm := rfl
@[simp] theorem State.upd_hbmTags (s : State) (f : Core → Core) : (s.upd f).hbmTags = s.hbmTags := rfl
@[simp] theorem State.upd_curatorKey (s : State) (f : Core → Core) : (s.upd f).curatorKey = s.curatorKey := rfl
@[simp] theorem State.upd_fot (s : State) (f : Core → Core) : (s.upd f).fot = s.fot := rfl
@[simp] theorem State.upd_stackBad (s : State) (f : Core → Core) : (s.upd f).stackBad = s.stackBad := rfl
@[simp] theorem State.upd_hostMem (s : State) (f : Core → Core) : (s.upd f).hostMem = s.hostMem := rfl
@[simp] theorem State.upd_flash (s : State) (f : Core → Core) : (s.upd f).flash = s.flash := rfl
@[simp] theorem State.upd_errRing (s : State) (f : Core → Core) : (s.upd f).errRing = s.errRing := rfl
@[simp] theorem State.upd_errHead (s : State) (f : Core → Core) : (s.upd f).errHead = s.errHead := rfl
@[simp] theorem State.upd_errTail (s : State) (f : Core → Core) : (s.upd f).errTail = s.errTail := rfl
@[simp] theorem State.upd_errOverflow (s : State) (f : Core → Core) : (s.upd f).errOverflow = s.errOverflow := rfl
@[simp] theorem State.upd_errLost (s : State) (f : Core → Core) : (s.upd f).errLost = s.errLost := rfl
@[simp] theorem State.upd_cstate (s : State) (f : Core → Core) : (s.upd f).cstate = s.cstate := rfl
@[simp] theorem State.upd_plotmap (s : State) (f : Core → Core) : (s.upd f).plotmap = s.plotmap := rfl
@[simp] theorem State.upd_measured (s : State) (f : Core → Core) : (s.upd f).measured = s.measured := rfl
@[simp] theorem State.upd_tables (s : State) (f : Core → Core) : (s.upd f).tables = s.tables := rfl
@[simp] theorem State.upd_shadow (s : State) (f : Core → Core) : (s.upd f).shadow = s.shadow := rfl
@[simp] theorem State.upd_active (s : State) (f : Core → Core) : (s.upd f).active = s.active := rfl
@[simp] theorem State.upd_shifted (s : State) (f : Core → Core) : (s.upd f).shifted = s.shifted := rfl
@[simp] theorem State.upd_headers (s : State) (f : Core → Core) : (s.upd f).headers = s.headers := rfl
@[simp] theorem State.upd_overpaints (s : State) (f : Core → Core) : (s.upd f).overpaints = s.overpaints := rfl
@[simp] theorem State.upd_condemned (s : State) (f : Core → Core) : (s.upd f).condemned = s.condemned := rfl
@[simp] theorem State.upd_suspects (s : State) (f : Core → Core) : (s.upd f).suspects = s.suspects := rfl
@[simp] theorem State.upd_transients (s : State) (f : Core → Core) : (s.upd f).transients = s.transients := rfl
@[simp] theorem State.upd_consResult (s : State) (f : Core → Core) : (s.upd f).consResult = s.consResult := rfl
@[simp] theorem State.upd_selftest (s : State) (f : Core → Core) : (s.upd f).selftest = s.selftest := rfl
@[simp] theorem State.upd_testFrom (s : State) (f : Core → Core) : (s.upd f).testFrom = s.testFrom := rfl
@[simp] theorem State.upd_detours (s : State) (f : Core → Core) : (s.upd f).detours = s.detours := rfl
@[simp] theorem State.upd_out (s : State) (f : Core → Core) : (s.upd f).out = s.out := rfl
@[simp] theorem State.mapCores_core (s : State) (f : Core → Core) : (s.mapCores f).core = f s.core := rfl
@[simp] theorem State.mapCores_others (s : State) (f : Core → Core) : (s.mapCores f).others = s.others.map f := rfl
@[simp] theorem State.mapCores_power (s : State) (f : Core → Core) : (s.mapCores f).power = s.power := rfl
@[simp] theorem State.mapCores_toGo (s : State) (f : Core → Core) : (s.mapCores f).toGo = s.toGo := rfl
@[simp] theorem State.mapCores_inputs (s : State) (f : Core → Core) : (s.mapCores f).inputs = s.inputs := rfl
@[simp] theorem State.mapCores_fresh (s : State) (f : Core → Core) : (s.mapCores f).fresh = s.fresh := rfl
@[simp] theorem State.mapCores_time (s : State) (f : Core → Core) : (s.mapCores f).time = s.time := rfl
@[simp] theorem State.mapCores_links (s : State) (f : Core → Core) : (s.mapCores f).links = s.links := rfl
@[simp] theorem State.mapCores_pwrmap (s : State) (f : Core → Core) : (s.mapCores f).pwrmap = s.pwrmap := rfl
@[simp] theorem State.mapCores_regs (s : State) (f : Core → Core) : (s.mapCores f).regs = s.regs := rfl
@[simp] theorem State.mapCores_pendLevel (s : State) (f : Core → Core) : (s.mapCores f).pendLevel = s.pendLevel := rfl
@[simp] theorem State.mapCores_pf (s : State) (f : Core → Core) : (s.mapCores f).pf = s.pf := rfl
@[simp] theorem State.mapCores_vfs (s : State) (f : Core → Core) : (s.mapCores f).vfs = s.vfs := rfl
@[simp] theorem State.mapCores_doe (s : State) (f : Core → Core) : (s.mapCores f).doe = s.doe := rfl
@[simp] theorem State.mapCores_s2root (s : State) (f : Core → Core) : (s.mapCores f).s2root = s.s2root := rfl
@[simp] theorem State.mapCores_s2inv (s : State) (f : Core → Core) : (s.mapCores f).s2inv = s.s2inv := rfl
@[simp] theorem State.mapCores_walk (s : State) (f : Core → Core) : (s.mapCores f).walk = s.walk := rfl
@[simp] theorem State.mapCores_tdiEvt (s : State) (f : Core → Core) : (s.mapCores f).tdiEvt = s.tdiEvt := rfl
@[simp] theorem State.mapCores_tdiQueue (s : State) (f : Core → Core) : (s.mapCores f).tdiQueue = s.tdiQueue := rfl
@[simp] theorem State.mapCores_tdiRsp (s : State) (f : Core → Core) : (s.mapCores f).tdiRsp = s.tdiRsp := rfl
@[simp] theorem State.mapCores_worlds (s : State) (f : Core → Core) : (s.mapCores f).worlds = s.worlds := rfl
@[simp] theorem State.mapCores_partOf (s : State) (f : Core → Core) : (s.mapCores f).partOf = s.partOf := rfl
@[simp] theorem State.mapCores_partWorld (s : State) (f : Core → Core) : (s.mapCores f).partWorld = s.partWorld := rfl
@[simp] theorem State.mapCores_slotOwner (s : State) (f : Core → Core) : (s.mapCores f).slotOwner = s.slotOwner := rfl
@[simp] theorem State.mapCores_drbg (s : State) (f : Core → Core) : (s.mapCores f).drbg = s.drbg := rfl
@[simp] theorem State.mapCores_firmware (s : State) (f : Core → Core) : (s.mapCores f).firmware = s.firmware := rfl
@[simp] theorem State.mapCores_certChain (s : State) (f : Core → Core) : (s.mapCores f).certChain = s.certChain := rfl
@[simp] theorem State.mapCores_spdmOnly (s : State) (f : Core → Core) : (s.mapCores f).spdmOnly = s.spdmOnly := rfl
@[simp] theorem State.mapCores_meas (s : State) (f : Core → Core) : (s.mapCores f).meas = s.meas := rfl
@[simp] theorem State.mapCores_tasks (s : State) (f : Core → Core) : (s.mapCores f).tasks = s.tasks := rfl
@[simp] theorem State.mapCores_nextTask (s : State) (f : Core → Core) : (s.mapCores f).nextTask = s.nextTask := rfl
@[simp] theorem State.mapCores_served (s : State) (f : Core → Core) : (s.mapCores f).served = s.served := rfl
@[simp] theorem State.mapCores_lastVf (s : State) (f : Core → Core) : (s.mapCores f).lastVf = s.lastVf := rfl
@[simp] theorem State.mapCores_window (s : State) (f : Core → Core) : (s.mapCores f).window = s.window := rfl
@[simp] theorem State.mapCores_cur (s : State) (f : Core → Core) : (s.mapCores f).cur = s.cur := rfl
@[simp] theorem State.mapCores_slots (s : State) (f : Core → Core) : (s.mapCores f).slots = s.slots := rfl
@[simp] theorem State.mapCores_slotScrub (s : State) (f : Core → Core) : (s.mapCores f).slotScrub = s.slotScrub := rfl
@[simp] theorem State.mapCores_orphans (s : State) (f : Core → Core) : (s.mapCores f).orphans = s.orphans := rfl
@[simp] theorem State.mapCores_passed (s : State) (f : Core → Core) : (s.mapCores f).passed = s.passed := rfl
@[simp] theorem State.mapCores_colls (s : State) (f : Core → Core) : (s.mapCores f).colls = s.colls := rfl
@[simp] theorem State.mapCores_collEnds (s : State) (f : Core → Core) : (s.mapCores f).collEnds = s.collEnds := rfl
@[simp] theorem State.mapCores_collWrites (s : State) (f : Core → Core) : (s.mapCores f).collWrites = s.collWrites := rfl
@[simp] theorem State.mapCores_cutGroups (s : State) (f : Core → Core) : (s.mapCores f).cutGroups = s.cutGroups := rfl
@[simp] theorem State.mapCores_lines (s : State) (f : Core → Core) : (s.mapCores f).lines = s.lines := rfl
@[simp] theorem State.mapCores_l2tick (s : State) (f : Core → Core) : (s.mapCores f).l2tick = s.l2tick := rfl
@[simp] theorem State.mapCores_l2limit (s : State) (f : Core → Core) : (s.mapCores f).l2limit = s.l2limit := rfl
@[simp] theorem State.mapCores_l2col (s : State) (f : Core → Core) : (s.mapCores f).l2col = s.l2col := rfl
@[simp] theorem State.mapCores_fills (s : State) (f : Core → Core) : (s.mapCores f).fills = s.fills := rfl
@[simp] theorem State.mapCores_nextFill (s : State) (f : Core → Core) : (s.mapCores f).nextFill = s.nextFill := rfl
@[simp] theorem State.mapCores_released (s : State) (f : Core → Core) : (s.mapCores f).released = s.released := rfl
@[simp] theorem State.mapCores_ckptFaults (s : State) (f : Core → Core) : (s.mapCores f).ckptFaults = s.ckptFaults := rfl
@[simp] theorem State.mapCores_draining (s : State) (f : Core → Core) : (s.mapCores f).draining = s.draining := rfl
@[simp] theorem State.mapCores_training (s : State) (f : Core → Core) : (s.mapCores f).training = s.training := rfl
@[simp] theorem State.mapCores_heldWb (s : State) (f : Core → Core) : (s.mapCores f).heldWb = s.heldWb := rfl
@[simp] theorem State.mapCores_walkEcc (s : State) (f : Core → Core) : (s.mapCores f).walkEcc = s.walkEcc := rfl
@[simp] theorem State.mapCores_hbm (s : State) (f : Core → Core) : (s.mapCores f).hbm = s.hbm := rfl
@[simp] theorem State.mapCores_hbmTags (s : State) (f : Core → Core) : (s.mapCores f).hbmTags = s.hbmTags := rfl
@[simp] theorem State.mapCores_curatorKey (s : State) (f : Core → Core) : (s.mapCores f).curatorKey = s.curatorKey := rfl
@[simp] theorem State.mapCores_fot (s : State) (f : Core → Core) : (s.mapCores f).fot = s.fot := rfl
@[simp] theorem State.mapCores_stackBad (s : State) (f : Core → Core) : (s.mapCores f).stackBad = s.stackBad := rfl
@[simp] theorem State.mapCores_hostMem (s : State) (f : Core → Core) : (s.mapCores f).hostMem = s.hostMem := rfl
@[simp] theorem State.mapCores_flash (s : State) (f : Core → Core) : (s.mapCores f).flash = s.flash := rfl
@[simp] theorem State.mapCores_errRing (s : State) (f : Core → Core) : (s.mapCores f).errRing = s.errRing := rfl
@[simp] theorem State.mapCores_errHead (s : State) (f : Core → Core) : (s.mapCores f).errHead = s.errHead := rfl
@[simp] theorem State.mapCores_errTail (s : State) (f : Core → Core) : (s.mapCores f).errTail = s.errTail := rfl
@[simp] theorem State.mapCores_errOverflow (s : State) (f : Core → Core) : (s.mapCores f).errOverflow = s.errOverflow := rfl
@[simp] theorem State.mapCores_errLost (s : State) (f : Core → Core) : (s.mapCores f).errLost = s.errLost := rfl
@[simp] theorem State.mapCores_cstate (s : State) (f : Core → Core) : (s.mapCores f).cstate = s.cstate := rfl
@[simp] theorem State.mapCores_plotmap (s : State) (f : Core → Core) : (s.mapCores f).plotmap = s.plotmap := rfl
@[simp] theorem State.mapCores_measured (s : State) (f : Core → Core) : (s.mapCores f).measured = s.measured := rfl
@[simp] theorem State.mapCores_tables (s : State) (f : Core → Core) : (s.mapCores f).tables = s.tables := rfl
@[simp] theorem State.mapCores_shadow (s : State) (f : Core → Core) : (s.mapCores f).shadow = s.shadow := rfl
@[simp] theorem State.mapCores_active (s : State) (f : Core → Core) : (s.mapCores f).active = s.active := rfl
@[simp] theorem State.mapCores_shifted (s : State) (f : Core → Core) : (s.mapCores f).shifted = s.shifted := rfl
@[simp] theorem State.mapCores_headers (s : State) (f : Core → Core) : (s.mapCores f).headers = s.headers := rfl
@[simp] theorem State.mapCores_overpaints (s : State) (f : Core → Core) : (s.mapCores f).overpaints = s.overpaints := rfl
@[simp] theorem State.mapCores_condemned (s : State) (f : Core → Core) : (s.mapCores f).condemned = s.condemned := rfl
@[simp] theorem State.mapCores_suspects (s : State) (f : Core → Core) : (s.mapCores f).suspects = s.suspects := rfl
@[simp] theorem State.mapCores_transients (s : State) (f : Core → Core) : (s.mapCores f).transients = s.transients := rfl
@[simp] theorem State.mapCores_consResult (s : State) (f : Core → Core) : (s.mapCores f).consResult = s.consResult := rfl
@[simp] theorem State.mapCores_selftest (s : State) (f : Core → Core) : (s.mapCores f).selftest = s.selftest := rfl
@[simp] theorem State.mapCores_testFrom (s : State) (f : Core → Core) : (s.mapCores f).testFrom = s.testFrom := rfl
@[simp] theorem State.mapCores_detours (s : State) (f : Core → Core) : (s.mapCores f).detours = s.detours := rfl
@[simp] theorem State.mapCores_out (s : State) (f : Core → Core) : (s.mapCores f).out = s.out := rfl
@[simp] theorem State.onCore_power (s : State) (k : Nat) (f : Core → Core) : (s.onCore k f).power = s.power := rfl
@[simp] theorem State.onCore_toGo (s : State) (k : Nat) (f : Core → Core) : (s.onCore k f).toGo = s.toGo := rfl
@[simp] theorem State.onCore_inputs (s : State) (k : Nat) (f : Core → Core) : (s.onCore k f).inputs = s.inputs := rfl
@[simp] theorem State.onCore_fresh (s : State) (k : Nat) (f : Core → Core) : (s.onCore k f).fresh = s.fresh := rfl
@[simp] theorem State.onCore_time (s : State) (k : Nat) (f : Core → Core) : (s.onCore k f).time = s.time := rfl
@[simp] theorem State.onCore_links (s : State) (k : Nat) (f : Core → Core) : (s.onCore k f).links = s.links := rfl
@[simp] theorem State.onCore_pwrmap (s : State) (k : Nat) (f : Core → Core) : (s.onCore k f).pwrmap = s.pwrmap := rfl
@[simp] theorem State.onCore_regs (s : State) (k : Nat) (f : Core → Core) : (s.onCore k f).regs = s.regs := rfl
@[simp] theorem State.onCore_pendLevel (s : State) (k : Nat) (f : Core → Core) : (s.onCore k f).pendLevel = s.pendLevel := rfl
@[simp] theorem State.onCore_pf (s : State) (k : Nat) (f : Core → Core) : (s.onCore k f).pf = s.pf := rfl
@[simp] theorem State.onCore_vfs (s : State) (k : Nat) (f : Core → Core) : (s.onCore k f).vfs = s.vfs := rfl
@[simp] theorem State.onCore_doe (s : State) (k : Nat) (f : Core → Core) : (s.onCore k f).doe = s.doe := rfl
@[simp] theorem State.onCore_s2root (s : State) (k : Nat) (f : Core → Core) : (s.onCore k f).s2root = s.s2root := rfl
@[simp] theorem State.onCore_s2inv (s : State) (k : Nat) (f : Core → Core) : (s.onCore k f).s2inv = s.s2inv := rfl
@[simp] theorem State.onCore_walk (s : State) (k : Nat) (f : Core → Core) : (s.onCore k f).walk = s.walk := rfl
@[simp] theorem State.onCore_tdiEvt (s : State) (k : Nat) (f : Core → Core) : (s.onCore k f).tdiEvt = s.tdiEvt := rfl
@[simp] theorem State.onCore_tdiQueue (s : State) (k : Nat) (f : Core → Core) : (s.onCore k f).tdiQueue = s.tdiQueue := rfl
@[simp] theorem State.onCore_tdiRsp (s : State) (k : Nat) (f : Core → Core) : (s.onCore k f).tdiRsp = s.tdiRsp := rfl
@[simp] theorem State.onCore_worlds (s : State) (k : Nat) (f : Core → Core) : (s.onCore k f).worlds = s.worlds := rfl
@[simp] theorem State.onCore_partOf (s : State) (k : Nat) (f : Core → Core) : (s.onCore k f).partOf = s.partOf := rfl
@[simp] theorem State.onCore_partWorld (s : State) (k : Nat) (f : Core → Core) : (s.onCore k f).partWorld = s.partWorld := rfl
@[simp] theorem State.onCore_slotOwner (s : State) (k : Nat) (f : Core → Core) : (s.onCore k f).slotOwner = s.slotOwner := rfl
@[simp] theorem State.onCore_drbg (s : State) (k : Nat) (f : Core → Core) : (s.onCore k f).drbg = s.drbg := rfl
@[simp] theorem State.onCore_firmware (s : State) (k : Nat) (f : Core → Core) : (s.onCore k f).firmware = s.firmware := rfl
@[simp] theorem State.onCore_certChain (s : State) (k : Nat) (f : Core → Core) : (s.onCore k f).certChain = s.certChain := rfl
@[simp] theorem State.onCore_spdmOnly (s : State) (k : Nat) (f : Core → Core) : (s.onCore k f).spdmOnly = s.spdmOnly := rfl
@[simp] theorem State.onCore_meas (s : State) (k : Nat) (f : Core → Core) : (s.onCore k f).meas = s.meas := rfl
@[simp] theorem State.onCore_tasks (s : State) (k : Nat) (f : Core → Core) : (s.onCore k f).tasks = s.tasks := rfl
@[simp] theorem State.onCore_nextTask (s : State) (k : Nat) (f : Core → Core) : (s.onCore k f).nextTask = s.nextTask := rfl
@[simp] theorem State.onCore_served (s : State) (k : Nat) (f : Core → Core) : (s.onCore k f).served = s.served := rfl
@[simp] theorem State.onCore_lastVf (s : State) (k : Nat) (f : Core → Core) : (s.onCore k f).lastVf = s.lastVf := rfl
@[simp] theorem State.onCore_window (s : State) (k : Nat) (f : Core → Core) : (s.onCore k f).window = s.window := rfl
@[simp] theorem State.onCore_cur (s : State) (k : Nat) (f : Core → Core) : (s.onCore k f).cur = s.cur := rfl
@[simp] theorem State.onCore_slots (s : State) (k : Nat) (f : Core → Core) : (s.onCore k f).slots = s.slots := rfl
@[simp] theorem State.onCore_slotScrub (s : State) (k : Nat) (f : Core → Core) : (s.onCore k f).slotScrub = s.slotScrub := rfl
@[simp] theorem State.onCore_orphans (s : State) (k : Nat) (f : Core → Core) : (s.onCore k f).orphans = s.orphans := rfl
@[simp] theorem State.onCore_passed (s : State) (k : Nat) (f : Core → Core) : (s.onCore k f).passed = s.passed := rfl
@[simp] theorem State.onCore_colls (s : State) (k : Nat) (f : Core → Core) : (s.onCore k f).colls = s.colls := rfl
@[simp] theorem State.onCore_collEnds (s : State) (k : Nat) (f : Core → Core) : (s.onCore k f).collEnds = s.collEnds := rfl
@[simp] theorem State.onCore_collWrites (s : State) (k : Nat) (f : Core → Core) : (s.onCore k f).collWrites = s.collWrites := rfl
@[simp] theorem State.onCore_cutGroups (s : State) (k : Nat) (f : Core → Core) : (s.onCore k f).cutGroups = s.cutGroups := rfl
@[simp] theorem State.onCore_lines (s : State) (k : Nat) (f : Core → Core) : (s.onCore k f).lines = s.lines := rfl
@[simp] theorem State.onCore_l2tick (s : State) (k : Nat) (f : Core → Core) : (s.onCore k f).l2tick = s.l2tick := rfl
@[simp] theorem State.onCore_l2limit (s : State) (k : Nat) (f : Core → Core) : (s.onCore k f).l2limit = s.l2limit := rfl
@[simp] theorem State.onCore_l2col (s : State) (k : Nat) (f : Core → Core) : (s.onCore k f).l2col = s.l2col := rfl
@[simp] theorem State.onCore_fills (s : State) (k : Nat) (f : Core → Core) : (s.onCore k f).fills = s.fills := rfl
@[simp] theorem State.onCore_nextFill (s : State) (k : Nat) (f : Core → Core) : (s.onCore k f).nextFill = s.nextFill := rfl
@[simp] theorem State.onCore_released (s : State) (k : Nat) (f : Core → Core) : (s.onCore k f).released = s.released := rfl
@[simp] theorem State.onCore_ckptFaults (s : State) (k : Nat) (f : Core → Core) : (s.onCore k f).ckptFaults = s.ckptFaults := rfl
@[simp] theorem State.onCore_draining (s : State) (k : Nat) (f : Core → Core) : (s.onCore k f).draining = s.draining := rfl
@[simp] theorem State.onCore_training (s : State) (k : Nat) (f : Core → Core) : (s.onCore k f).training = s.training := rfl
@[simp] theorem State.onCore_heldWb (s : State) (k : Nat) (f : Core → Core) : (s.onCore k f).heldWb = s.heldWb := rfl
@[simp] theorem State.onCore_walkEcc (s : State) (k : Nat) (f : Core → Core) : (s.onCore k f).walkEcc = s.walkEcc := rfl
@[simp] theorem State.onCore_hbm (s : State) (k : Nat) (f : Core → Core) : (s.onCore k f).hbm = s.hbm := rfl
@[simp] theorem State.onCore_hbmTags (s : State) (k : Nat) (f : Core → Core) : (s.onCore k f).hbmTags = s.hbmTags := rfl
@[simp] theorem State.onCore_curatorKey (s : State) (k : Nat) (f : Core → Core) : (s.onCore k f).curatorKey = s.curatorKey := rfl
@[simp] theorem State.onCore_fot (s : State) (k : Nat) (f : Core → Core) : (s.onCore k f).fot = s.fot := rfl
@[simp] theorem State.onCore_stackBad (s : State) (k : Nat) (f : Core → Core) : (s.onCore k f).stackBad = s.stackBad := rfl
@[simp] theorem State.onCore_hostMem (s : State) (k : Nat) (f : Core → Core) : (s.onCore k f).hostMem = s.hostMem := rfl
@[simp] theorem State.onCore_flash (s : State) (k : Nat) (f : Core → Core) : (s.onCore k f).flash = s.flash := rfl
@[simp] theorem State.onCore_errRing (s : State) (k : Nat) (f : Core → Core) : (s.onCore k f).errRing = s.errRing := rfl
@[simp] theorem State.onCore_errHead (s : State) (k : Nat) (f : Core → Core) : (s.onCore k f).errHead = s.errHead := rfl
@[simp] theorem State.onCore_errTail (s : State) (k : Nat) (f : Core → Core) : (s.onCore k f).errTail = s.errTail := rfl
@[simp] theorem State.onCore_errOverflow (s : State) (k : Nat) (f : Core → Core) : (s.onCore k f).errOverflow = s.errOverflow := rfl
@[simp] theorem State.onCore_errLost (s : State) (k : Nat) (f : Core → Core) : (s.onCore k f).errLost = s.errLost := rfl
@[simp] theorem State.onCore_cstate (s : State) (k : Nat) (f : Core → Core) : (s.onCore k f).cstate = s.cstate := rfl
@[simp] theorem State.onCore_plotmap (s : State) (k : Nat) (f : Core → Core) : (s.onCore k f).plotmap = s.plotmap := rfl
@[simp] theorem State.onCore_measured (s : State) (k : Nat) (f : Core → Core) : (s.onCore k f).measured = s.measured := rfl
@[simp] theorem State.onCore_tables (s : State) (k : Nat) (f : Core → Core) : (s.onCore k f).tables = s.tables := rfl
@[simp] theorem State.onCore_shadow (s : State) (k : Nat) (f : Core → Core) : (s.onCore k f).shadow = s.shadow := rfl
@[simp] theorem State.onCore_active (s : State) (k : Nat) (f : Core → Core) : (s.onCore k f).active = s.active := rfl
@[simp] theorem State.onCore_shifted (s : State) (k : Nat) (f : Core → Core) : (s.onCore k f).shifted = s.shifted := rfl
@[simp] theorem State.onCore_headers (s : State) (k : Nat) (f : Core → Core) : (s.onCore k f).headers = s.headers := rfl
@[simp] theorem State.onCore_overpaints (s : State) (k : Nat) (f : Core → Core) : (s.onCore k f).overpaints = s.overpaints := rfl
@[simp] theorem State.onCore_condemned (s : State) (k : Nat) (f : Core → Core) : (s.onCore k f).condemned = s.condemned := rfl
@[simp] theorem State.onCore_suspects (s : State) (k : Nat) (f : Core → Core) : (s.onCore k f).suspects = s.suspects := rfl
@[simp] theorem State.onCore_transients (s : State) (k : Nat) (f : Core → Core) : (s.onCore k f).transients = s.transients := rfl
@[simp] theorem State.onCore_consResult (s : State) (k : Nat) (f : Core → Core) : (s.onCore k f).consResult = s.consResult := rfl
@[simp] theorem State.onCore_selftest (s : State) (k : Nat) (f : Core → Core) : (s.onCore k f).selftest = s.selftest := rfl
@[simp] theorem State.onCore_testFrom (s : State) (k : Nat) (f : Core → Core) : (s.onCore k f).testFrom = s.testFrom := rfl
@[simp] theorem State.onCore_detours (s : State) (k : Nat) (f : Core → Core) : (s.onCore k f).detours = s.detours := rfl
@[simp] theorem State.onCore_out (s : State) (k : Nat) (f : Core → Core) : (s.onCore k f).out = s.out := rfl

/-! ## Drawing a free value; the Curator's registers; a link -/

@[simp] theorem State.draw_power (s : State) : s.draw.2.power = s.power := rfl
@[simp] theorem State.draw_core (s : State) : s.draw.2.core = s.core := rfl
@[simp] theorem State.draw_others (s : State) : s.draw.2.others = s.others := rfl
@[simp] theorem State.draw_toGo (s : State) : s.draw.2.toGo = s.toGo := rfl
@[simp] theorem State.draw_inputs (s : State) : s.draw.2.inputs = s.inputs := rfl
@[simp] theorem State.draw_time (s : State) : s.draw.2.time = s.time := rfl
@[simp] theorem State.draw_links (s : State) : s.draw.2.links = s.links := rfl
@[simp] theorem State.draw_pwrmap (s : State) : s.draw.2.pwrmap = s.pwrmap := rfl
@[simp] theorem State.draw_regs (s : State) : s.draw.2.regs = s.regs := rfl
@[simp] theorem State.draw_pendLevel (s : State) : s.draw.2.pendLevel = s.pendLevel := rfl
@[simp] theorem State.draw_pf (s : State) : s.draw.2.pf = s.pf := rfl
@[simp] theorem State.draw_vfs (s : State) : s.draw.2.vfs = s.vfs := rfl
@[simp] theorem State.draw_doe (s : State) : s.draw.2.doe = s.doe := rfl
@[simp] theorem State.draw_s2root (s : State) : s.draw.2.s2root = s.s2root := rfl
@[simp] theorem State.draw_s2inv (s : State) : s.draw.2.s2inv = s.s2inv := rfl
@[simp] theorem State.draw_walk (s : State) : s.draw.2.walk = s.walk := rfl
@[simp] theorem State.draw_tdiEvt (s : State) : s.draw.2.tdiEvt = s.tdiEvt := rfl
@[simp] theorem State.draw_tdiQueue (s : State) : s.draw.2.tdiQueue = s.tdiQueue := rfl
@[simp] theorem State.draw_tdiRsp (s : State) : s.draw.2.tdiRsp = s.tdiRsp := rfl
@[simp] theorem State.draw_worlds (s : State) : s.draw.2.worlds = s.worlds := rfl
@[simp] theorem State.draw_partOf (s : State) : s.draw.2.partOf = s.partOf := rfl
@[simp] theorem State.draw_partWorld (s : State) : s.draw.2.partWorld = s.partWorld := rfl
@[simp] theorem State.draw_slotOwner (s : State) : s.draw.2.slotOwner = s.slotOwner := rfl
@[simp] theorem State.draw_drbg (s : State) : s.draw.2.drbg = s.drbg := rfl
@[simp] theorem State.draw_firmware (s : State) : s.draw.2.firmware = s.firmware := rfl
@[simp] theorem State.draw_certChain (s : State) : s.draw.2.certChain = s.certChain := rfl
@[simp] theorem State.draw_spdmOnly (s : State) : s.draw.2.spdmOnly = s.spdmOnly := rfl
@[simp] theorem State.draw_meas (s : State) : s.draw.2.meas = s.meas := rfl
@[simp] theorem State.draw_tasks (s : State) : s.draw.2.tasks = s.tasks := rfl
@[simp] theorem State.draw_nextTask (s : State) : s.draw.2.nextTask = s.nextTask := rfl
@[simp] theorem State.draw_served (s : State) : s.draw.2.served = s.served := rfl
@[simp] theorem State.draw_lastVf (s : State) : s.draw.2.lastVf = s.lastVf := rfl
@[simp] theorem State.draw_window (s : State) : s.draw.2.window = s.window := rfl
@[simp] theorem State.draw_cur (s : State) : s.draw.2.cur = s.cur := rfl
@[simp] theorem State.draw_slots (s : State) : s.draw.2.slots = s.slots := rfl
@[simp] theorem State.draw_slotScrub (s : State) : s.draw.2.slotScrub = s.slotScrub := rfl
@[simp] theorem State.draw_orphans (s : State) : s.draw.2.orphans = s.orphans := rfl
@[simp] theorem State.draw_passed (s : State) : s.draw.2.passed = s.passed := rfl
@[simp] theorem State.draw_colls (s : State) : s.draw.2.colls = s.colls := rfl
@[simp] theorem State.draw_collEnds (s : State) : s.draw.2.collEnds = s.collEnds := rfl
@[simp] theorem State.draw_collWrites (s : State) : s.draw.2.collWrites = s.collWrites := rfl
@[simp] theorem State.draw_cutGroups (s : State) : s.draw.2.cutGroups = s.cutGroups := rfl
@[simp] theorem State.draw_lines (s : State) : s.draw.2.lines = s.lines := rfl
@[simp] theorem State.draw_l2tick (s : State) : s.draw.2.l2tick = s.l2tick := rfl
@[simp] theorem State.draw_l2limit (s : State) : s.draw.2.l2limit = s.l2limit := rfl
@[simp] theorem State.draw_l2col (s : State) : s.draw.2.l2col = s.l2col := rfl
@[simp] theorem State.draw_fills (s : State) : s.draw.2.fills = s.fills := rfl
@[simp] theorem State.draw_nextFill (s : State) : s.draw.2.nextFill = s.nextFill := rfl
@[simp] theorem State.draw_released (s : State) : s.draw.2.released = s.released := rfl
@[simp] theorem State.draw_ckptFaults (s : State) : s.draw.2.ckptFaults = s.ckptFaults := rfl
@[simp] theorem State.draw_draining (s : State) : s.draw.2.draining = s.draining := rfl
@[simp] theorem State.draw_training (s : State) : s.draw.2.training = s.training := rfl
@[simp] theorem State.draw_heldWb (s : State) : s.draw.2.heldWb = s.heldWb := rfl
@[simp] theorem State.draw_walkEcc (s : State) : s.draw.2.walkEcc = s.walkEcc := rfl
@[simp] theorem State.draw_hbm (s : State) : s.draw.2.hbm = s.hbm := rfl
@[simp] theorem State.draw_hbmTags (s : State) : s.draw.2.hbmTags = s.hbmTags := rfl
@[simp] theorem State.draw_curatorKey (s : State) : s.draw.2.curatorKey = s.curatorKey := rfl
@[simp] theorem State.draw_fot (s : State) : s.draw.2.fot = s.fot := rfl
@[simp] theorem State.draw_stackBad (s : State) : s.draw.2.stackBad = s.stackBad := rfl
@[simp] theorem State.draw_hostMem (s : State) : s.draw.2.hostMem = s.hostMem := rfl
@[simp] theorem State.draw_flash (s : State) : s.draw.2.flash = s.flash := rfl
@[simp] theorem State.draw_errRing (s : State) : s.draw.2.errRing = s.errRing := rfl
@[simp] theorem State.draw_errHead (s : State) : s.draw.2.errHead = s.errHead := rfl
@[simp] theorem State.draw_errTail (s : State) : s.draw.2.errTail = s.errTail := rfl
@[simp] theorem State.draw_errOverflow (s : State) : s.draw.2.errOverflow = s.errOverflow := rfl
@[simp] theorem State.draw_errLost (s : State) : s.draw.2.errLost = s.errLost := rfl
@[simp] theorem State.draw_cstate (s : State) : s.draw.2.cstate = s.cstate := rfl
@[simp] theorem State.draw_plotmap (s : State) : s.draw.2.plotmap = s.plotmap := rfl
@[simp] theorem State.draw_measured (s : State) : s.draw.2.measured = s.measured := rfl
@[simp] theorem State.draw_tables (s : State) : s.draw.2.tables = s.tables := rfl
@[simp] theorem State.draw_shadow (s : State) : s.draw.2.shadow = s.shadow := rfl
@[simp] theorem State.draw_active (s : State) : s.draw.2.active = s.active := rfl
@[simp] theorem State.draw_shifted (s : State) : s.draw.2.shifted = s.shifted := rfl
@[simp] theorem State.draw_headers (s : State) : s.draw.2.headers = s.headers := rfl
@[simp] theorem State.draw_overpaints (s : State) : s.draw.2.overpaints = s.overpaints := rfl
@[simp] theorem State.draw_condemned (s : State) : s.draw.2.condemned = s.condemned := rfl
@[simp] theorem State.draw_suspects (s : State) : s.draw.2.suspects = s.suspects := rfl
@[simp] theorem State.draw_transients (s : State) : s.draw.2.transients = s.transients := rfl
@[simp] theorem State.draw_consResult (s : State) : s.draw.2.consResult = s.consResult := rfl
@[simp] theorem State.draw_selftest (s : State) : s.draw.2.selftest = s.selftest := rfl
@[simp] theorem State.draw_testFrom (s : State) : s.draw.2.testFrom = s.testFrom := rfl
@[simp] theorem State.draw_detours (s : State) : s.draw.2.detours = s.detours := rfl
@[simp] theorem State.draw_out (s : State) : s.draw.2.out = s.out := rfl
@[simp] theorem State.draw_fresh (s : State) : s.draw.2.fresh = s.fresh + 1 := rfl
@[simp] theorem State.onCur_power (s : State) (f : Curator → Curator) : (s.onCur f).power = s.power := rfl
@[simp] theorem State.onCur_core (s : State) (f : Curator → Curator) : (s.onCur f).core = s.core := rfl
@[simp] theorem State.onCur_others (s : State) (f : Curator → Curator) : (s.onCur f).others = s.others := rfl
@[simp] theorem State.onCur_toGo (s : State) (f : Curator → Curator) : (s.onCur f).toGo = s.toGo := rfl
@[simp] theorem State.onCur_inputs (s : State) (f : Curator → Curator) : (s.onCur f).inputs = s.inputs := rfl
@[simp] theorem State.onCur_fresh (s : State) (f : Curator → Curator) : (s.onCur f).fresh = s.fresh := rfl
@[simp] theorem State.onCur_time (s : State) (f : Curator → Curator) : (s.onCur f).time = s.time := rfl
@[simp] theorem State.onCur_links (s : State) (f : Curator → Curator) : (s.onCur f).links = s.links := rfl
@[simp] theorem State.onCur_pwrmap (s : State) (f : Curator → Curator) : (s.onCur f).pwrmap = s.pwrmap := rfl
@[simp] theorem State.onCur_regs (s : State) (f : Curator → Curator) : (s.onCur f).regs = s.regs := rfl
@[simp] theorem State.onCur_pendLevel (s : State) (f : Curator → Curator) : (s.onCur f).pendLevel = s.pendLevel := rfl
@[simp] theorem State.onCur_pf (s : State) (f : Curator → Curator) : (s.onCur f).pf = s.pf := rfl
@[simp] theorem State.onCur_vfs (s : State) (f : Curator → Curator) : (s.onCur f).vfs = s.vfs := rfl
@[simp] theorem State.onCur_doe (s : State) (f : Curator → Curator) : (s.onCur f).doe = s.doe := rfl
@[simp] theorem State.onCur_s2root (s : State) (f : Curator → Curator) : (s.onCur f).s2root = s.s2root := rfl
@[simp] theorem State.onCur_s2inv (s : State) (f : Curator → Curator) : (s.onCur f).s2inv = s.s2inv := rfl
@[simp] theorem State.onCur_walk (s : State) (f : Curator → Curator) : (s.onCur f).walk = s.walk := rfl
@[simp] theorem State.onCur_tdiEvt (s : State) (f : Curator → Curator) : (s.onCur f).tdiEvt = s.tdiEvt := rfl
@[simp] theorem State.onCur_tdiQueue (s : State) (f : Curator → Curator) : (s.onCur f).tdiQueue = s.tdiQueue := rfl
@[simp] theorem State.onCur_tdiRsp (s : State) (f : Curator → Curator) : (s.onCur f).tdiRsp = s.tdiRsp := rfl
@[simp] theorem State.onCur_worlds (s : State) (f : Curator → Curator) : (s.onCur f).worlds = s.worlds := rfl
@[simp] theorem State.onCur_partOf (s : State) (f : Curator → Curator) : (s.onCur f).partOf = s.partOf := rfl
@[simp] theorem State.onCur_partWorld (s : State) (f : Curator → Curator) : (s.onCur f).partWorld = s.partWorld := rfl
@[simp] theorem State.onCur_slotOwner (s : State) (f : Curator → Curator) : (s.onCur f).slotOwner = s.slotOwner := rfl
@[simp] theorem State.onCur_drbg (s : State) (f : Curator → Curator) : (s.onCur f).drbg = s.drbg := rfl
@[simp] theorem State.onCur_firmware (s : State) (f : Curator → Curator) : (s.onCur f).firmware = s.firmware := rfl
@[simp] theorem State.onCur_certChain (s : State) (f : Curator → Curator) : (s.onCur f).certChain = s.certChain := rfl
@[simp] theorem State.onCur_spdmOnly (s : State) (f : Curator → Curator) : (s.onCur f).spdmOnly = s.spdmOnly := rfl
@[simp] theorem State.onCur_meas (s : State) (f : Curator → Curator) : (s.onCur f).meas = s.meas := rfl
@[simp] theorem State.onCur_tasks (s : State) (f : Curator → Curator) : (s.onCur f).tasks = s.tasks := rfl
@[simp] theorem State.onCur_nextTask (s : State) (f : Curator → Curator) : (s.onCur f).nextTask = s.nextTask := rfl
@[simp] theorem State.onCur_served (s : State) (f : Curator → Curator) : (s.onCur f).served = s.served := rfl
@[simp] theorem State.onCur_lastVf (s : State) (f : Curator → Curator) : (s.onCur f).lastVf = s.lastVf := rfl
@[simp] theorem State.onCur_window (s : State) (f : Curator → Curator) : (s.onCur f).window = s.window := rfl
@[simp] theorem State.onCur_slots (s : State) (f : Curator → Curator) : (s.onCur f).slots = s.slots := rfl
@[simp] theorem State.onCur_slotScrub (s : State) (f : Curator → Curator) : (s.onCur f).slotScrub = s.slotScrub := rfl
@[simp] theorem State.onCur_orphans (s : State) (f : Curator → Curator) : (s.onCur f).orphans = s.orphans := rfl
@[simp] theorem State.onCur_passed (s : State) (f : Curator → Curator) : (s.onCur f).passed = s.passed := rfl
@[simp] theorem State.onCur_colls (s : State) (f : Curator → Curator) : (s.onCur f).colls = s.colls := rfl
@[simp] theorem State.onCur_collEnds (s : State) (f : Curator → Curator) : (s.onCur f).collEnds = s.collEnds := rfl
@[simp] theorem State.onCur_collWrites (s : State) (f : Curator → Curator) : (s.onCur f).collWrites = s.collWrites := rfl
@[simp] theorem State.onCur_cutGroups (s : State) (f : Curator → Curator) : (s.onCur f).cutGroups = s.cutGroups := rfl
@[simp] theorem State.onCur_lines (s : State) (f : Curator → Curator) : (s.onCur f).lines = s.lines := rfl
@[simp] theorem State.onCur_l2tick (s : State) (f : Curator → Curator) : (s.onCur f).l2tick = s.l2tick := rfl
@[simp] theorem State.onCur_l2limit (s : State) (f : Curator → Curator) : (s.onCur f).l2limit = s.l2limit := rfl
@[simp] theorem State.onCur_l2col (s : State) (f : Curator → Curator) : (s.onCur f).l2col = s.l2col := rfl
@[simp] theorem State.onCur_fills (s : State) (f : Curator → Curator) : (s.onCur f).fills = s.fills := rfl
@[simp] theorem State.onCur_nextFill (s : State) (f : Curator → Curator) : (s.onCur f).nextFill = s.nextFill := rfl
@[simp] theorem State.onCur_released (s : State) (f : Curator → Curator) : (s.onCur f).released = s.released := rfl
@[simp] theorem State.onCur_ckptFaults (s : State) (f : Curator → Curator) : (s.onCur f).ckptFaults = s.ckptFaults := rfl
@[simp] theorem State.onCur_draining (s : State) (f : Curator → Curator) : (s.onCur f).draining = s.draining := rfl
@[simp] theorem State.onCur_training (s : State) (f : Curator → Curator) : (s.onCur f).training = s.training := rfl
@[simp] theorem State.onCur_heldWb (s : State) (f : Curator → Curator) : (s.onCur f).heldWb = s.heldWb := rfl
@[simp] theorem State.onCur_walkEcc (s : State) (f : Curator → Curator) : (s.onCur f).walkEcc = s.walkEcc := rfl
@[simp] theorem State.onCur_hbm (s : State) (f : Curator → Curator) : (s.onCur f).hbm = s.hbm := rfl
@[simp] theorem State.onCur_hbmTags (s : State) (f : Curator → Curator) : (s.onCur f).hbmTags = s.hbmTags := rfl
@[simp] theorem State.onCur_curatorKey (s : State) (f : Curator → Curator) : (s.onCur f).curatorKey = s.curatorKey := rfl
@[simp] theorem State.onCur_fot (s : State) (f : Curator → Curator) : (s.onCur f).fot = s.fot := rfl
@[simp] theorem State.onCur_stackBad (s : State) (f : Curator → Curator) : (s.onCur f).stackBad = s.stackBad := rfl
@[simp] theorem State.onCur_hostMem (s : State) (f : Curator → Curator) : (s.onCur f).hostMem = s.hostMem := rfl
@[simp] theorem State.onCur_flash (s : State) (f : Curator → Curator) : (s.onCur f).flash = s.flash := rfl
@[simp] theorem State.onCur_errRing (s : State) (f : Curator → Curator) : (s.onCur f).errRing = s.errRing := rfl
@[simp] theorem State.onCur_errHead (s : State) (f : Curator → Curator) : (s.onCur f).errHead = s.errHead := rfl
@[simp] theorem State.onCur_errTail (s : State) (f : Curator → Curator) : (s.onCur f).errTail = s.errTail := rfl
@[simp] theorem State.onCur_errOverflow (s : State) (f : Curator → Curator) : (s.onCur f).errOverflow = s.errOverflow := rfl
@[simp] theorem State.onCur_errLost (s : State) (f : Curator → Curator) : (s.onCur f).errLost = s.errLost := rfl
@[simp] theorem State.onCur_cstate (s : State) (f : Curator → Curator) : (s.onCur f).cstate = s.cstate := rfl
@[simp] theorem State.onCur_plotmap (s : State) (f : Curator → Curator) : (s.onCur f).plotmap = s.plotmap := rfl
@[simp] theorem State.onCur_measured (s : State) (f : Curator → Curator) : (s.onCur f).measured = s.measured := rfl
@[simp] theorem State.onCur_tables (s : State) (f : Curator → Curator) : (s.onCur f).tables = s.tables := rfl
@[simp] theorem State.onCur_shadow (s : State) (f : Curator → Curator) : (s.onCur f).shadow = s.shadow := rfl
@[simp] theorem State.onCur_active (s : State) (f : Curator → Curator) : (s.onCur f).active = s.active := rfl
@[simp] theorem State.onCur_shifted (s : State) (f : Curator → Curator) : (s.onCur f).shifted = s.shifted := rfl
@[simp] theorem State.onCur_headers (s : State) (f : Curator → Curator) : (s.onCur f).headers = s.headers := rfl
@[simp] theorem State.onCur_overpaints (s : State) (f : Curator → Curator) : (s.onCur f).overpaints = s.overpaints := rfl
@[simp] theorem State.onCur_condemned (s : State) (f : Curator → Curator) : (s.onCur f).condemned = s.condemned := rfl
@[simp] theorem State.onCur_suspects (s : State) (f : Curator → Curator) : (s.onCur f).suspects = s.suspects := rfl
@[simp] theorem State.onCur_transients (s : State) (f : Curator → Curator) : (s.onCur f).transients = s.transients := rfl
@[simp] theorem State.onCur_consResult (s : State) (f : Curator → Curator) : (s.onCur f).consResult = s.consResult := rfl
@[simp] theorem State.onCur_selftest (s : State) (f : Curator → Curator) : (s.onCur f).selftest = s.selftest := rfl
@[simp] theorem State.onCur_testFrom (s : State) (f : Curator → Curator) : (s.onCur f).testFrom = s.testFrom := rfl
@[simp] theorem State.onCur_detours (s : State) (f : Curator → Curator) : (s.onCur f).detours = s.detours := rfl
@[simp] theorem State.onCur_out (s : State) (f : Curator → Curator) : (s.onCur f).out = s.out := rfl
@[simp] theorem State.onCur_cur (s : State) (f : Curator → Curator) : (s.onCur f).cur = f s.cur := rfl
@[simp] theorem State.onLink_power (s : State) (n : Nat) (f : Link → Link) : (s.onLink n f).power = s.power := by
  unfold State.onLink; split <;> rfl
@[simp] theorem State.onLink_core (s : State) (n : Nat) (f : Link → Link) : (s.onLink n f).core = s.core := by
  unfold State.onLink; split <;> rfl
@[simp] theorem State.onLink_others (s : State) (n : Nat) (f : Link → Link) : (s.onLink n f).others = s.others := by
  unfold State.onLink; split <;> rfl
@[simp] theorem State.onLink_toGo (s : State) (n : Nat) (f : Link → Link) : (s.onLink n f).toGo = s.toGo := by
  unfold State.onLink; split <;> rfl
@[simp] theorem State.onLink_inputs (s : State) (n : Nat) (f : Link → Link) : (s.onLink n f).inputs = s.inputs := by
  unfold State.onLink; split <;> rfl
@[simp] theorem State.onLink_fresh (s : State) (n : Nat) (f : Link → Link) : (s.onLink n f).fresh = s.fresh := by
  unfold State.onLink; split <;> rfl
@[simp] theorem State.onLink_time (s : State) (n : Nat) (f : Link → Link) : (s.onLink n f).time = s.time := by
  unfold State.onLink; split <;> rfl
@[simp] theorem State.onLink_pwrmap (s : State) (n : Nat) (f : Link → Link) : (s.onLink n f).pwrmap = s.pwrmap := by
  unfold State.onLink; split <;> rfl
@[simp] theorem State.onLink_regs (s : State) (n : Nat) (f : Link → Link) : (s.onLink n f).regs = s.regs := by
  unfold State.onLink; split <;> rfl
@[simp] theorem State.onLink_pendLevel (s : State) (n : Nat) (f : Link → Link) : (s.onLink n f).pendLevel = s.pendLevel := by
  unfold State.onLink; split <;> rfl
@[simp] theorem State.onLink_pf (s : State) (n : Nat) (f : Link → Link) : (s.onLink n f).pf = s.pf := by
  unfold State.onLink; split <;> rfl
@[simp] theorem State.onLink_vfs (s : State) (n : Nat) (f : Link → Link) : (s.onLink n f).vfs = s.vfs := by
  unfold State.onLink; split <;> rfl
@[simp] theorem State.onLink_doe (s : State) (n : Nat) (f : Link → Link) : (s.onLink n f).doe = s.doe := by
  unfold State.onLink; split <;> rfl
@[simp] theorem State.onLink_s2root (s : State) (n : Nat) (f : Link → Link) : (s.onLink n f).s2root = s.s2root := by
  unfold State.onLink; split <;> rfl
@[simp] theorem State.onLink_s2inv (s : State) (n : Nat) (f : Link → Link) : (s.onLink n f).s2inv = s.s2inv := by
  unfold State.onLink; split <;> rfl
@[simp] theorem State.onLink_walk (s : State) (n : Nat) (f : Link → Link) : (s.onLink n f).walk = s.walk := by
  unfold State.onLink; split <;> rfl
@[simp] theorem State.onLink_tdiEvt (s : State) (n : Nat) (f : Link → Link) : (s.onLink n f).tdiEvt = s.tdiEvt := by
  unfold State.onLink; split <;> rfl
@[simp] theorem State.onLink_tdiQueue (s : State) (n : Nat) (f : Link → Link) : (s.onLink n f).tdiQueue = s.tdiQueue := by
  unfold State.onLink; split <;> rfl
@[simp] theorem State.onLink_tdiRsp (s : State) (n : Nat) (f : Link → Link) : (s.onLink n f).tdiRsp = s.tdiRsp := by
  unfold State.onLink; split <;> rfl
@[simp] theorem State.onLink_worlds (s : State) (n : Nat) (f : Link → Link) : (s.onLink n f).worlds = s.worlds := by
  unfold State.onLink; split <;> rfl
@[simp] theorem State.onLink_partOf (s : State) (n : Nat) (f : Link → Link) : (s.onLink n f).partOf = s.partOf := by
  unfold State.onLink; split <;> rfl
@[simp] theorem State.onLink_partWorld (s : State) (n : Nat) (f : Link → Link) : (s.onLink n f).partWorld = s.partWorld := by
  unfold State.onLink; split <;> rfl
@[simp] theorem State.onLink_slotOwner (s : State) (n : Nat) (f : Link → Link) : (s.onLink n f).slotOwner = s.slotOwner := by
  unfold State.onLink; split <;> rfl
@[simp] theorem State.onLink_drbg (s : State) (n : Nat) (f : Link → Link) : (s.onLink n f).drbg = s.drbg := by
  unfold State.onLink; split <;> rfl
@[simp] theorem State.onLink_firmware (s : State) (n : Nat) (f : Link → Link) : (s.onLink n f).firmware = s.firmware := by
  unfold State.onLink; split <;> rfl
@[simp] theorem State.onLink_certChain (s : State) (n : Nat) (f : Link → Link) : (s.onLink n f).certChain = s.certChain := by
  unfold State.onLink; split <;> rfl
@[simp] theorem State.onLink_spdmOnly (s : State) (n : Nat) (f : Link → Link) : (s.onLink n f).spdmOnly = s.spdmOnly := by
  unfold State.onLink; split <;> rfl
@[simp] theorem State.onLink_meas (s : State) (n : Nat) (f : Link → Link) : (s.onLink n f).meas = s.meas := by
  unfold State.onLink; split <;> rfl
@[simp] theorem State.onLink_tasks (s : State) (n : Nat) (f : Link → Link) : (s.onLink n f).tasks = s.tasks := by
  unfold State.onLink; split <;> rfl
@[simp] theorem State.onLink_nextTask (s : State) (n : Nat) (f : Link → Link) : (s.onLink n f).nextTask = s.nextTask := by
  unfold State.onLink; split <;> rfl
@[simp] theorem State.onLink_served (s : State) (n : Nat) (f : Link → Link) : (s.onLink n f).served = s.served := by
  unfold State.onLink; split <;> rfl
@[simp] theorem State.onLink_lastVf (s : State) (n : Nat) (f : Link → Link) : (s.onLink n f).lastVf = s.lastVf := by
  unfold State.onLink; split <;> rfl
@[simp] theorem State.onLink_window (s : State) (n : Nat) (f : Link → Link) : (s.onLink n f).window = s.window := by
  unfold State.onLink; split <;> rfl
@[simp] theorem State.onLink_cur (s : State) (n : Nat) (f : Link → Link) : (s.onLink n f).cur = s.cur := by
  unfold State.onLink; split <;> rfl
@[simp] theorem State.onLink_slots (s : State) (n : Nat) (f : Link → Link) : (s.onLink n f).slots = s.slots := by
  unfold State.onLink; split <;> rfl
@[simp] theorem State.onLink_slotScrub (s : State) (n : Nat) (f : Link → Link) : (s.onLink n f).slotScrub = s.slotScrub := by
  unfold State.onLink; split <;> rfl
@[simp] theorem State.onLink_orphans (s : State) (n : Nat) (f : Link → Link) : (s.onLink n f).orphans = s.orphans := by
  unfold State.onLink; split <;> rfl
@[simp] theorem State.onLink_passed (s : State) (n : Nat) (f : Link → Link) : (s.onLink n f).passed = s.passed := by
  unfold State.onLink; split <;> rfl
@[simp] theorem State.onLink_colls (s : State) (n : Nat) (f : Link → Link) : (s.onLink n f).colls = s.colls := by
  unfold State.onLink; split <;> rfl
@[simp] theorem State.onLink_collEnds (s : State) (n : Nat) (f : Link → Link) : (s.onLink n f).collEnds = s.collEnds := by
  unfold State.onLink; split <;> rfl
@[simp] theorem State.onLink_collWrites (s : State) (n : Nat) (f : Link → Link) : (s.onLink n f).collWrites = s.collWrites := by
  unfold State.onLink; split <;> rfl
@[simp] theorem State.onLink_cutGroups (s : State) (n : Nat) (f : Link → Link) : (s.onLink n f).cutGroups = s.cutGroups := by
  unfold State.onLink; split <;> rfl
@[simp] theorem State.onLink_lines (s : State) (n : Nat) (f : Link → Link) : (s.onLink n f).lines = s.lines := by
  unfold State.onLink; split <;> rfl
@[simp] theorem State.onLink_l2tick (s : State) (n : Nat) (f : Link → Link) : (s.onLink n f).l2tick = s.l2tick := by
  unfold State.onLink; split <;> rfl
@[simp] theorem State.onLink_l2limit (s : State) (n : Nat) (f : Link → Link) : (s.onLink n f).l2limit = s.l2limit := by
  unfold State.onLink; split <;> rfl
@[simp] theorem State.onLink_l2col (s : State) (n : Nat) (f : Link → Link) : (s.onLink n f).l2col = s.l2col := by
  unfold State.onLink; split <;> rfl
@[simp] theorem State.onLink_fills (s : State) (n : Nat) (f : Link → Link) : (s.onLink n f).fills = s.fills := by
  unfold State.onLink; split <;> rfl
@[simp] theorem State.onLink_nextFill (s : State) (n : Nat) (f : Link → Link) : (s.onLink n f).nextFill = s.nextFill := by
  unfold State.onLink; split <;> rfl
@[simp] theorem State.onLink_released (s : State) (n : Nat) (f : Link → Link) : (s.onLink n f).released = s.released := by
  unfold State.onLink; split <;> rfl
@[simp] theorem State.onLink_ckptFaults (s : State) (n : Nat) (f : Link → Link) : (s.onLink n f).ckptFaults = s.ckptFaults := by
  unfold State.onLink; split <;> rfl
@[simp] theorem State.onLink_draining (s : State) (n : Nat) (f : Link → Link) : (s.onLink n f).draining = s.draining := by
  unfold State.onLink; split <;> rfl
@[simp] theorem State.onLink_training (s : State) (n : Nat) (f : Link → Link) : (s.onLink n f).training = s.training := by
  unfold State.onLink; split <;> rfl
@[simp] theorem State.onLink_heldWb (s : State) (n : Nat) (f : Link → Link) : (s.onLink n f).heldWb = s.heldWb := by
  unfold State.onLink; split <;> rfl
@[simp] theorem State.onLink_walkEcc (s : State) (n : Nat) (f : Link → Link) : (s.onLink n f).walkEcc = s.walkEcc := by
  unfold State.onLink; split <;> rfl
@[simp] theorem State.onLink_hbm (s : State) (n : Nat) (f : Link → Link) : (s.onLink n f).hbm = s.hbm := by
  unfold State.onLink; split <;> rfl
@[simp] theorem State.onLink_hbmTags (s : State) (n : Nat) (f : Link → Link) : (s.onLink n f).hbmTags = s.hbmTags := by
  unfold State.onLink; split <;> rfl
@[simp] theorem State.onLink_curatorKey (s : State) (n : Nat) (f : Link → Link) : (s.onLink n f).curatorKey = s.curatorKey := by
  unfold State.onLink; split <;> rfl
@[simp] theorem State.onLink_fot (s : State) (n : Nat) (f : Link → Link) : (s.onLink n f).fot = s.fot := by
  unfold State.onLink; split <;> rfl
@[simp] theorem State.onLink_stackBad (s : State) (n : Nat) (f : Link → Link) : (s.onLink n f).stackBad = s.stackBad := by
  unfold State.onLink; split <;> rfl
@[simp] theorem State.onLink_hostMem (s : State) (n : Nat) (f : Link → Link) : (s.onLink n f).hostMem = s.hostMem := by
  unfold State.onLink; split <;> rfl
@[simp] theorem State.onLink_flash (s : State) (n : Nat) (f : Link → Link) : (s.onLink n f).flash = s.flash := by
  unfold State.onLink; split <;> rfl
@[simp] theorem State.onLink_errRing (s : State) (n : Nat) (f : Link → Link) : (s.onLink n f).errRing = s.errRing := by
  unfold State.onLink; split <;> rfl
@[simp] theorem State.onLink_errHead (s : State) (n : Nat) (f : Link → Link) : (s.onLink n f).errHead = s.errHead := by
  unfold State.onLink; split <;> rfl
@[simp] theorem State.onLink_errTail (s : State) (n : Nat) (f : Link → Link) : (s.onLink n f).errTail = s.errTail := by
  unfold State.onLink; split <;> rfl
@[simp] theorem State.onLink_errOverflow (s : State) (n : Nat) (f : Link → Link) : (s.onLink n f).errOverflow = s.errOverflow := by
  unfold State.onLink; split <;> rfl
@[simp] theorem State.onLink_errLost (s : State) (n : Nat) (f : Link → Link) : (s.onLink n f).errLost = s.errLost := by
  unfold State.onLink; split <;> rfl
@[simp] theorem State.onLink_cstate (s : State) (n : Nat) (f : Link → Link) : (s.onLink n f).cstate = s.cstate := by
  unfold State.onLink; split <;> rfl
@[simp] theorem State.onLink_plotmap (s : State) (n : Nat) (f : Link → Link) : (s.onLink n f).plotmap = s.plotmap := by
  unfold State.onLink; split <;> rfl
@[simp] theorem State.onLink_measured (s : State) (n : Nat) (f : Link → Link) : (s.onLink n f).measured = s.measured := by
  unfold State.onLink; split <;> rfl
@[simp] theorem State.onLink_tables (s : State) (n : Nat) (f : Link → Link) : (s.onLink n f).tables = s.tables := by
  unfold State.onLink; split <;> rfl
@[simp] theorem State.onLink_shadow (s : State) (n : Nat) (f : Link → Link) : (s.onLink n f).shadow = s.shadow := by
  unfold State.onLink; split <;> rfl
@[simp] theorem State.onLink_active (s : State) (n : Nat) (f : Link → Link) : (s.onLink n f).active = s.active := by
  unfold State.onLink; split <;> rfl
@[simp] theorem State.onLink_shifted (s : State) (n : Nat) (f : Link → Link) : (s.onLink n f).shifted = s.shifted := by
  unfold State.onLink; split <;> rfl
@[simp] theorem State.onLink_headers (s : State) (n : Nat) (f : Link → Link) : (s.onLink n f).headers = s.headers := by
  unfold State.onLink; split <;> rfl
@[simp] theorem State.onLink_overpaints (s : State) (n : Nat) (f : Link → Link) : (s.onLink n f).overpaints = s.overpaints := by
  unfold State.onLink; split <;> rfl
@[simp] theorem State.onLink_condemned (s : State) (n : Nat) (f : Link → Link) : (s.onLink n f).condemned = s.condemned := by
  unfold State.onLink; split <;> rfl
@[simp] theorem State.onLink_suspects (s : State) (n : Nat) (f : Link → Link) : (s.onLink n f).suspects = s.suspects := by
  unfold State.onLink; split <;> rfl
@[simp] theorem State.onLink_transients (s : State) (n : Nat) (f : Link → Link) : (s.onLink n f).transients = s.transients := by
  unfold State.onLink; split <;> rfl
@[simp] theorem State.onLink_consResult (s : State) (n : Nat) (f : Link → Link) : (s.onLink n f).consResult = s.consResult := by
  unfold State.onLink; split <;> rfl
@[simp] theorem State.onLink_selftest (s : State) (n : Nat) (f : Link → Link) : (s.onLink n f).selftest = s.selftest := by
  unfold State.onLink; split <;> rfl
@[simp] theorem State.onLink_testFrom (s : State) (n : Nat) (f : Link → Link) : (s.onLink n f).testFrom = s.testFrom := by
  unfold State.onLink; split <;> rfl
@[simp] theorem State.onLink_detours (s : State) (n : Nat) (f : Link → Link) : (s.onLink n f).detours = s.detours := by
  unfold State.onLink; split <;> rfl
@[simp] theorem State.onLink_out (s : State) (n : Nat) (f : Link → Link) : (s.onLink n f).out = s.out := by
  unfold State.onLink; split <;> rfl
@[simp] theorem State.onVf_power (s : State) (v : Nat) (f : Vf → Vf) : (s.onVf v f).power = s.power := by
  unfold State.onVf; split <;> rfl
@[simp] theorem State.onVf_core (s : State) (v : Nat) (f : Vf → Vf) : (s.onVf v f).core = s.core := by
  unfold State.onVf; split <;> rfl
@[simp] theorem State.onVf_others (s : State) (v : Nat) (f : Vf → Vf) : (s.onVf v f).others = s.others := by
  unfold State.onVf; split <;> rfl
@[simp] theorem State.onVf_toGo (s : State) (v : Nat) (f : Vf → Vf) : (s.onVf v f).toGo = s.toGo := by
  unfold State.onVf; split <;> rfl
@[simp] theorem State.onVf_inputs (s : State) (v : Nat) (f : Vf → Vf) : (s.onVf v f).inputs = s.inputs := by
  unfold State.onVf; split <;> rfl
@[simp] theorem State.onVf_fresh (s : State) (v : Nat) (f : Vf → Vf) : (s.onVf v f).fresh = s.fresh := by
  unfold State.onVf; split <;> rfl
@[simp] theorem State.onVf_time (s : State) (v : Nat) (f : Vf → Vf) : (s.onVf v f).time = s.time := by
  unfold State.onVf; split <;> rfl
@[simp] theorem State.onVf_links (s : State) (v : Nat) (f : Vf → Vf) : (s.onVf v f).links = s.links := by
  unfold State.onVf; split <;> rfl
@[simp] theorem State.onVf_pwrmap (s : State) (v : Nat) (f : Vf → Vf) : (s.onVf v f).pwrmap = s.pwrmap := by
  unfold State.onVf; split <;> rfl
@[simp] theorem State.onVf_regs (s : State) (v : Nat) (f : Vf → Vf) : (s.onVf v f).regs = s.regs := by
  unfold State.onVf; split <;> rfl
@[simp] theorem State.onVf_pendLevel (s : State) (v : Nat) (f : Vf → Vf) : (s.onVf v f).pendLevel = s.pendLevel := by
  unfold State.onVf; split <;> rfl
@[simp] theorem State.onVf_pf (s : State) (v : Nat) (f : Vf → Vf) : (s.onVf v f).pf = s.pf := by
  unfold State.onVf; split <;> rfl
@[simp] theorem State.onVf_doe (s : State) (v : Nat) (f : Vf → Vf) : (s.onVf v f).doe = s.doe := by
  unfold State.onVf; split <;> rfl
@[simp] theorem State.onVf_s2root (s : State) (v : Nat) (f : Vf → Vf) : (s.onVf v f).s2root = s.s2root := by
  unfold State.onVf; split <;> rfl
@[simp] theorem State.onVf_s2inv (s : State) (v : Nat) (f : Vf → Vf) : (s.onVf v f).s2inv = s.s2inv := by
  unfold State.onVf; split <;> rfl
@[simp] theorem State.onVf_walk (s : State) (v : Nat) (f : Vf → Vf) : (s.onVf v f).walk = s.walk := by
  unfold State.onVf; split <;> rfl
@[simp] theorem State.onVf_tdiEvt (s : State) (v : Nat) (f : Vf → Vf) : (s.onVf v f).tdiEvt = s.tdiEvt := by
  unfold State.onVf; split <;> rfl
@[simp] theorem State.onVf_tdiQueue (s : State) (v : Nat) (f : Vf → Vf) : (s.onVf v f).tdiQueue = s.tdiQueue := by
  unfold State.onVf; split <;> rfl
@[simp] theorem State.onVf_tdiRsp (s : State) (v : Nat) (f : Vf → Vf) : (s.onVf v f).tdiRsp = s.tdiRsp := by
  unfold State.onVf; split <;> rfl
@[simp] theorem State.onVf_worlds (s : State) (v : Nat) (f : Vf → Vf) : (s.onVf v f).worlds = s.worlds := by
  unfold State.onVf; split <;> rfl
@[simp] theorem State.onVf_partOf (s : State) (v : Nat) (f : Vf → Vf) : (s.onVf v f).partOf = s.partOf := by
  unfold State.onVf; split <;> rfl
@[simp] theorem State.onVf_partWorld (s : State) (v : Nat) (f : Vf → Vf) : (s.onVf v f).partWorld = s.partWorld := by
  unfold State.onVf; split <;> rfl
@[simp] theorem State.onVf_slotOwner (s : State) (v : Nat) (f : Vf → Vf) : (s.onVf v f).slotOwner = s.slotOwner := by
  unfold State.onVf; split <;> rfl
@[simp] theorem State.onVf_drbg (s : State) (v : Nat) (f : Vf → Vf) : (s.onVf v f).drbg = s.drbg := by
  unfold State.onVf; split <;> rfl
@[simp] theorem State.onVf_firmware (s : State) (v : Nat) (f : Vf → Vf) : (s.onVf v f).firmware = s.firmware := by
  unfold State.onVf; split <;> rfl
@[simp] theorem State.onVf_certChain (s : State) (v : Nat) (f : Vf → Vf) : (s.onVf v f).certChain = s.certChain := by
  unfold State.onVf; split <;> rfl
@[simp] theorem State.onVf_spdmOnly (s : State) (v : Nat) (f : Vf → Vf) : (s.onVf v f).spdmOnly = s.spdmOnly := by
  unfold State.onVf; split <;> rfl
@[simp] theorem State.onVf_meas (s : State) (v : Nat) (f : Vf → Vf) : (s.onVf v f).meas = s.meas := by
  unfold State.onVf; split <;> rfl
@[simp] theorem State.onVf_tasks (s : State) (v : Nat) (f : Vf → Vf) : (s.onVf v f).tasks = s.tasks := by
  unfold State.onVf; split <;> rfl
@[simp] theorem State.onVf_nextTask (s : State) (v : Nat) (f : Vf → Vf) : (s.onVf v f).nextTask = s.nextTask := by
  unfold State.onVf; split <;> rfl
@[simp] theorem State.onVf_served (s : State) (v : Nat) (f : Vf → Vf) : (s.onVf v f).served = s.served := by
  unfold State.onVf; split <;> rfl
@[simp] theorem State.onVf_lastVf (s : State) (v : Nat) (f : Vf → Vf) : (s.onVf v f).lastVf = s.lastVf := by
  unfold State.onVf; split <;> rfl
@[simp] theorem State.onVf_window (s : State) (v : Nat) (f : Vf → Vf) : (s.onVf v f).window = s.window := by
  unfold State.onVf; split <;> rfl
@[simp] theorem State.onVf_cur (s : State) (v : Nat) (f : Vf → Vf) : (s.onVf v f).cur = s.cur := by
  unfold State.onVf; split <;> rfl
@[simp] theorem State.onVf_slots (s : State) (v : Nat) (f : Vf → Vf) : (s.onVf v f).slots = s.slots := by
  unfold State.onVf; split <;> rfl
@[simp] theorem State.onVf_slotScrub (s : State) (v : Nat) (f : Vf → Vf) : (s.onVf v f).slotScrub = s.slotScrub := by
  unfold State.onVf; split <;> rfl
@[simp] theorem State.onVf_orphans (s : State) (v : Nat) (f : Vf → Vf) : (s.onVf v f).orphans = s.orphans := by
  unfold State.onVf; split <;> rfl
@[simp] theorem State.onVf_passed (s : State) (v : Nat) (f : Vf → Vf) : (s.onVf v f).passed = s.passed := by
  unfold State.onVf; split <;> rfl
@[simp] theorem State.onVf_colls (s : State) (v : Nat) (f : Vf → Vf) : (s.onVf v f).colls = s.colls := by
  unfold State.onVf; split <;> rfl
@[simp] theorem State.onVf_collEnds (s : State) (v : Nat) (f : Vf → Vf) : (s.onVf v f).collEnds = s.collEnds := by
  unfold State.onVf; split <;> rfl
@[simp] theorem State.onVf_collWrites (s : State) (v : Nat) (f : Vf → Vf) : (s.onVf v f).collWrites = s.collWrites := by
  unfold State.onVf; split <;> rfl
@[simp] theorem State.onVf_cutGroups (s : State) (v : Nat) (f : Vf → Vf) : (s.onVf v f).cutGroups = s.cutGroups := by
  unfold State.onVf; split <;> rfl
@[simp] theorem State.onVf_lines (s : State) (v : Nat) (f : Vf → Vf) : (s.onVf v f).lines = s.lines := by
  unfold State.onVf; split <;> rfl
@[simp] theorem State.onVf_l2tick (s : State) (v : Nat) (f : Vf → Vf) : (s.onVf v f).l2tick = s.l2tick := by
  unfold State.onVf; split <;> rfl
@[simp] theorem State.onVf_l2limit (s : State) (v : Nat) (f : Vf → Vf) : (s.onVf v f).l2limit = s.l2limit := by
  unfold State.onVf; split <;> rfl
@[simp] theorem State.onVf_l2col (s : State) (v : Nat) (f : Vf → Vf) : (s.onVf v f).l2col = s.l2col := by
  unfold State.onVf; split <;> rfl
@[simp] theorem State.onVf_fills (s : State) (v : Nat) (f : Vf → Vf) : (s.onVf v f).fills = s.fills := by
  unfold State.onVf; split <;> rfl
@[simp] theorem State.onVf_nextFill (s : State) (v : Nat) (f : Vf → Vf) : (s.onVf v f).nextFill = s.nextFill := by
  unfold State.onVf; split <;> rfl
@[simp] theorem State.onVf_released (s : State) (v : Nat) (f : Vf → Vf) : (s.onVf v f).released = s.released := by
  unfold State.onVf; split <;> rfl
@[simp] theorem State.onVf_ckptFaults (s : State) (v : Nat) (f : Vf → Vf) : (s.onVf v f).ckptFaults = s.ckptFaults := by
  unfold State.onVf; split <;> rfl
@[simp] theorem State.onVf_draining (s : State) (v : Nat) (f : Vf → Vf) : (s.onVf v f).draining = s.draining := by
  unfold State.onVf; split <;> rfl
@[simp] theorem State.onVf_training (s : State) (v : Nat) (f : Vf → Vf) : (s.onVf v f).training = s.training := by
  unfold State.onVf; split <;> rfl
@[simp] theorem State.onVf_heldWb (s : State) (v : Nat) (f : Vf → Vf) : (s.onVf v f).heldWb = s.heldWb := by
  unfold State.onVf; split <;> rfl
@[simp] theorem State.onVf_walkEcc (s : State) (v : Nat) (f : Vf → Vf) : (s.onVf v f).walkEcc = s.walkEcc := by
  unfold State.onVf; split <;> rfl
@[simp] theorem State.onVf_hbm (s : State) (v : Nat) (f : Vf → Vf) : (s.onVf v f).hbm = s.hbm := by
  unfold State.onVf; split <;> rfl
@[simp] theorem State.onVf_hbmTags (s : State) (v : Nat) (f : Vf → Vf) : (s.onVf v f).hbmTags = s.hbmTags := by
  unfold State.onVf; split <;> rfl
@[simp] theorem State.onVf_curatorKey (s : State) (v : Nat) (f : Vf → Vf) : (s.onVf v f).curatorKey = s.curatorKey := by
  unfold State.onVf; split <;> rfl
@[simp] theorem State.onVf_fot (s : State) (v : Nat) (f : Vf → Vf) : (s.onVf v f).fot = s.fot := by
  unfold State.onVf; split <;> rfl
@[simp] theorem State.onVf_stackBad (s : State) (v : Nat) (f : Vf → Vf) : (s.onVf v f).stackBad = s.stackBad := by
  unfold State.onVf; split <;> rfl
@[simp] theorem State.onVf_hostMem (s : State) (v : Nat) (f : Vf → Vf) : (s.onVf v f).hostMem = s.hostMem := by
  unfold State.onVf; split <;> rfl
@[simp] theorem State.onVf_flash (s : State) (v : Nat) (f : Vf → Vf) : (s.onVf v f).flash = s.flash := by
  unfold State.onVf; split <;> rfl
@[simp] theorem State.onVf_errRing (s : State) (v : Nat) (f : Vf → Vf) : (s.onVf v f).errRing = s.errRing := by
  unfold State.onVf; split <;> rfl
@[simp] theorem State.onVf_errHead (s : State) (v : Nat) (f : Vf → Vf) : (s.onVf v f).errHead = s.errHead := by
  unfold State.onVf; split <;> rfl
@[simp] theorem State.onVf_errTail (s : State) (v : Nat) (f : Vf → Vf) : (s.onVf v f).errTail = s.errTail := by
  unfold State.onVf; split <;> rfl
@[simp] theorem State.onVf_errOverflow (s : State) (v : Nat) (f : Vf → Vf) : (s.onVf v f).errOverflow = s.errOverflow := by
  unfold State.onVf; split <;> rfl
@[simp] theorem State.onVf_errLost (s : State) (v : Nat) (f : Vf → Vf) : (s.onVf v f).errLost = s.errLost := by
  unfold State.onVf; split <;> rfl
@[simp] theorem State.onVf_cstate (s : State) (v : Nat) (f : Vf → Vf) : (s.onVf v f).cstate = s.cstate := by
  unfold State.onVf; split <;> rfl
@[simp] theorem State.onVf_plotmap (s : State) (v : Nat) (f : Vf → Vf) : (s.onVf v f).plotmap = s.plotmap := by
  unfold State.onVf; split <;> rfl
@[simp] theorem State.onVf_measured (s : State) (v : Nat) (f : Vf → Vf) : (s.onVf v f).measured = s.measured := by
  unfold State.onVf; split <;> rfl
@[simp] theorem State.onVf_tables (s : State) (v : Nat) (f : Vf → Vf) : (s.onVf v f).tables = s.tables := by
  unfold State.onVf; split <;> rfl
@[simp] theorem State.onVf_shadow (s : State) (v : Nat) (f : Vf → Vf) : (s.onVf v f).shadow = s.shadow := by
  unfold State.onVf; split <;> rfl
@[simp] theorem State.onVf_active (s : State) (v : Nat) (f : Vf → Vf) : (s.onVf v f).active = s.active := by
  unfold State.onVf; split <;> rfl
@[simp] theorem State.onVf_shifted (s : State) (v : Nat) (f : Vf → Vf) : (s.onVf v f).shifted = s.shifted := by
  unfold State.onVf; split <;> rfl
@[simp] theorem State.onVf_headers (s : State) (v : Nat) (f : Vf → Vf) : (s.onVf v f).headers = s.headers := by
  unfold State.onVf; split <;> rfl
@[simp] theorem State.onVf_overpaints (s : State) (v : Nat) (f : Vf → Vf) : (s.onVf v f).overpaints = s.overpaints := by
  unfold State.onVf; split <;> rfl
@[simp] theorem State.onVf_condemned (s : State) (v : Nat) (f : Vf → Vf) : (s.onVf v f).condemned = s.condemned := by
  unfold State.onVf; split <;> rfl
@[simp] theorem State.onVf_suspects (s : State) (v : Nat) (f : Vf → Vf) : (s.onVf v f).suspects = s.suspects := by
  unfold State.onVf; split <;> rfl
@[simp] theorem State.onVf_transients (s : State) (v : Nat) (f : Vf → Vf) : (s.onVf v f).transients = s.transients := by
  unfold State.onVf; split <;> rfl
@[simp] theorem State.onVf_consResult (s : State) (v : Nat) (f : Vf → Vf) : (s.onVf v f).consResult = s.consResult := by
  unfold State.onVf; split <;> rfl
@[simp] theorem State.onVf_selftest (s : State) (v : Nat) (f : Vf → Vf) : (s.onVf v f).selftest = s.selftest := by
  unfold State.onVf; split <;> rfl
@[simp] theorem State.onVf_testFrom (s : State) (v : Nat) (f : Vf → Vf) : (s.onVf v f).testFrom = s.testFrom := by
  unfold State.onVf; split <;> rfl
@[simp] theorem State.onVf_detours (s : State) (v : Nat) (f : Vf → Vf) : (s.onVf v f).detours = s.detours := by
  unfold State.onVf; split <;> rfl
@[simp] theorem State.onVf_out (s : State) (v : Nat) (f : Vf → Vf) : (s.onVf v f).out = s.out := by
  unfold State.onVf; split <;> rfl
@[simp] theorem State.onTask_power (s : State) (k : Nat) (f : Task → Task) : (s.onTask k f).power = s.power := rfl
@[simp] theorem State.onTask_core (s : State) (k : Nat) (f : Task → Task) : (s.onTask k f).core = s.core := rfl
@[simp] theorem State.onTask_others (s : State) (k : Nat) (f : Task → Task) : (s.onTask k f).others = s.others := rfl
@[simp] theorem State.onTask_toGo (s : State) (k : Nat) (f : Task → Task) : (s.onTask k f).toGo = s.toGo := rfl
@[simp] theorem State.onTask_inputs (s : State) (k : Nat) (f : Task → Task) : (s.onTask k f).inputs = s.inputs := rfl
@[simp] theorem State.onTask_fresh (s : State) (k : Nat) (f : Task → Task) : (s.onTask k f).fresh = s.fresh := rfl
@[simp] theorem State.onTask_time (s : State) (k : Nat) (f : Task → Task) : (s.onTask k f).time = s.time := rfl
@[simp] theorem State.onTask_links (s : State) (k : Nat) (f : Task → Task) : (s.onTask k f).links = s.links := rfl
@[simp] theorem State.onTask_pwrmap (s : State) (k : Nat) (f : Task → Task) : (s.onTask k f).pwrmap = s.pwrmap := rfl
@[simp] theorem State.onTask_regs (s : State) (k : Nat) (f : Task → Task) : (s.onTask k f).regs = s.regs := rfl
@[simp] theorem State.onTask_pendLevel (s : State) (k : Nat) (f : Task → Task) : (s.onTask k f).pendLevel = s.pendLevel := rfl
@[simp] theorem State.onTask_pf (s : State) (k : Nat) (f : Task → Task) : (s.onTask k f).pf = s.pf := rfl
@[simp] theorem State.onTask_vfs (s : State) (k : Nat) (f : Task → Task) : (s.onTask k f).vfs = s.vfs := rfl
@[simp] theorem State.onTask_doe (s : State) (k : Nat) (f : Task → Task) : (s.onTask k f).doe = s.doe := rfl
@[simp] theorem State.onTask_s2root (s : State) (k : Nat) (f : Task → Task) : (s.onTask k f).s2root = s.s2root := rfl
@[simp] theorem State.onTask_s2inv (s : State) (k : Nat) (f : Task → Task) : (s.onTask k f).s2inv = s.s2inv := rfl
@[simp] theorem State.onTask_walk (s : State) (k : Nat) (f : Task → Task) : (s.onTask k f).walk = s.walk := rfl
@[simp] theorem State.onTask_tdiEvt (s : State) (k : Nat) (f : Task → Task) : (s.onTask k f).tdiEvt = s.tdiEvt := rfl
@[simp] theorem State.onTask_tdiQueue (s : State) (k : Nat) (f : Task → Task) : (s.onTask k f).tdiQueue = s.tdiQueue := rfl
@[simp] theorem State.onTask_tdiRsp (s : State) (k : Nat) (f : Task → Task) : (s.onTask k f).tdiRsp = s.tdiRsp := rfl
@[simp] theorem State.onTask_worlds (s : State) (k : Nat) (f : Task → Task) : (s.onTask k f).worlds = s.worlds := rfl
@[simp] theorem State.onTask_partOf (s : State) (k : Nat) (f : Task → Task) : (s.onTask k f).partOf = s.partOf := rfl
@[simp] theorem State.onTask_partWorld (s : State) (k : Nat) (f : Task → Task) : (s.onTask k f).partWorld = s.partWorld := rfl
@[simp] theorem State.onTask_slotOwner (s : State) (k : Nat) (f : Task → Task) : (s.onTask k f).slotOwner = s.slotOwner := rfl
@[simp] theorem State.onTask_drbg (s : State) (k : Nat) (f : Task → Task) : (s.onTask k f).drbg = s.drbg := rfl
@[simp] theorem State.onTask_firmware (s : State) (k : Nat) (f : Task → Task) : (s.onTask k f).firmware = s.firmware := rfl
@[simp] theorem State.onTask_certChain (s : State) (k : Nat) (f : Task → Task) : (s.onTask k f).certChain = s.certChain := rfl
@[simp] theorem State.onTask_spdmOnly (s : State) (k : Nat) (f : Task → Task) : (s.onTask k f).spdmOnly = s.spdmOnly := rfl
@[simp] theorem State.onTask_meas (s : State) (k : Nat) (f : Task → Task) : (s.onTask k f).meas = s.meas := rfl
@[simp] theorem State.onTask_nextTask (s : State) (k : Nat) (f : Task → Task) : (s.onTask k f).nextTask = s.nextTask := rfl
@[simp] theorem State.onTask_served (s : State) (k : Nat) (f : Task → Task) : (s.onTask k f).served = s.served := rfl
@[simp] theorem State.onTask_lastVf (s : State) (k : Nat) (f : Task → Task) : (s.onTask k f).lastVf = s.lastVf := rfl
@[simp] theorem State.onTask_window (s : State) (k : Nat) (f : Task → Task) : (s.onTask k f).window = s.window := rfl
@[simp] theorem State.onTask_cur (s : State) (k : Nat) (f : Task → Task) : (s.onTask k f).cur = s.cur := rfl
@[simp] theorem State.onTask_slots (s : State) (k : Nat) (f : Task → Task) : (s.onTask k f).slots = s.slots := rfl
@[simp] theorem State.onTask_slotScrub (s : State) (k : Nat) (f : Task → Task) : (s.onTask k f).slotScrub = s.slotScrub := rfl
@[simp] theorem State.onTask_orphans (s : State) (k : Nat) (f : Task → Task) : (s.onTask k f).orphans = s.orphans := rfl
@[simp] theorem State.onTask_passed (s : State) (k : Nat) (f : Task → Task) : (s.onTask k f).passed = s.passed := rfl
@[simp] theorem State.onTask_colls (s : State) (k : Nat) (f : Task → Task) : (s.onTask k f).colls = s.colls := rfl
@[simp] theorem State.onTask_collEnds (s : State) (k : Nat) (f : Task → Task) : (s.onTask k f).collEnds = s.collEnds := rfl
@[simp] theorem State.onTask_collWrites (s : State) (k : Nat) (f : Task → Task) : (s.onTask k f).collWrites = s.collWrites := rfl
@[simp] theorem State.onTask_cutGroups (s : State) (k : Nat) (f : Task → Task) : (s.onTask k f).cutGroups = s.cutGroups := rfl
@[simp] theorem State.onTask_lines (s : State) (k : Nat) (f : Task → Task) : (s.onTask k f).lines = s.lines := rfl
@[simp] theorem State.onTask_l2tick (s : State) (k : Nat) (f : Task → Task) : (s.onTask k f).l2tick = s.l2tick := rfl
@[simp] theorem State.onTask_l2limit (s : State) (k : Nat) (f : Task → Task) : (s.onTask k f).l2limit = s.l2limit := rfl
@[simp] theorem State.onTask_l2col (s : State) (k : Nat) (f : Task → Task) : (s.onTask k f).l2col = s.l2col := rfl
@[simp] theorem State.onTask_fills (s : State) (k : Nat) (f : Task → Task) : (s.onTask k f).fills = s.fills := rfl
@[simp] theorem State.onTask_nextFill (s : State) (k : Nat) (f : Task → Task) : (s.onTask k f).nextFill = s.nextFill := rfl
@[simp] theorem State.onTask_released (s : State) (k : Nat) (f : Task → Task) : (s.onTask k f).released = s.released := rfl
@[simp] theorem State.onTask_ckptFaults (s : State) (k : Nat) (f : Task → Task) : (s.onTask k f).ckptFaults = s.ckptFaults := rfl
@[simp] theorem State.onTask_draining (s : State) (k : Nat) (f : Task → Task) : (s.onTask k f).draining = s.draining := rfl
@[simp] theorem State.onTask_training (s : State) (k : Nat) (f : Task → Task) : (s.onTask k f).training = s.training := rfl
@[simp] theorem State.onTask_heldWb (s : State) (k : Nat) (f : Task → Task) : (s.onTask k f).heldWb = s.heldWb := rfl
@[simp] theorem State.onTask_walkEcc (s : State) (k : Nat) (f : Task → Task) : (s.onTask k f).walkEcc = s.walkEcc := rfl
@[simp] theorem State.onTask_hbm (s : State) (k : Nat) (f : Task → Task) : (s.onTask k f).hbm = s.hbm := rfl
@[simp] theorem State.onTask_hbmTags (s : State) (k : Nat) (f : Task → Task) : (s.onTask k f).hbmTags = s.hbmTags := rfl
@[simp] theorem State.onTask_curatorKey (s : State) (k : Nat) (f : Task → Task) : (s.onTask k f).curatorKey = s.curatorKey := rfl
@[simp] theorem State.onTask_fot (s : State) (k : Nat) (f : Task → Task) : (s.onTask k f).fot = s.fot := rfl
@[simp] theorem State.onTask_stackBad (s : State) (k : Nat) (f : Task → Task) : (s.onTask k f).stackBad = s.stackBad := rfl
@[simp] theorem State.onTask_hostMem (s : State) (k : Nat) (f : Task → Task) : (s.onTask k f).hostMem = s.hostMem := rfl
@[simp] theorem State.onTask_flash (s : State) (k : Nat) (f : Task → Task) : (s.onTask k f).flash = s.flash := rfl
@[simp] theorem State.onTask_errRing (s : State) (k : Nat) (f : Task → Task) : (s.onTask k f).errRing = s.errRing := rfl
@[simp] theorem State.onTask_errHead (s : State) (k : Nat) (f : Task → Task) : (s.onTask k f).errHead = s.errHead := rfl
@[simp] theorem State.onTask_errTail (s : State) (k : Nat) (f : Task → Task) : (s.onTask k f).errTail = s.errTail := rfl
@[simp] theorem State.onTask_errOverflow (s : State) (k : Nat) (f : Task → Task) : (s.onTask k f).errOverflow = s.errOverflow := rfl
@[simp] theorem State.onTask_errLost (s : State) (k : Nat) (f : Task → Task) : (s.onTask k f).errLost = s.errLost := rfl
@[simp] theorem State.onTask_cstate (s : State) (k : Nat) (f : Task → Task) : (s.onTask k f).cstate = s.cstate := rfl
@[simp] theorem State.onTask_plotmap (s : State) (k : Nat) (f : Task → Task) : (s.onTask k f).plotmap = s.plotmap := rfl
@[simp] theorem State.onTask_measured (s : State) (k : Nat) (f : Task → Task) : (s.onTask k f).measured = s.measured := rfl
@[simp] theorem State.onTask_tables (s : State) (k : Nat) (f : Task → Task) : (s.onTask k f).tables = s.tables := rfl
@[simp] theorem State.onTask_shadow (s : State) (k : Nat) (f : Task → Task) : (s.onTask k f).shadow = s.shadow := rfl
@[simp] theorem State.onTask_active (s : State) (k : Nat) (f : Task → Task) : (s.onTask k f).active = s.active := rfl
@[simp] theorem State.onTask_shifted (s : State) (k : Nat) (f : Task → Task) : (s.onTask k f).shifted = s.shifted := rfl
@[simp] theorem State.onTask_headers (s : State) (k : Nat) (f : Task → Task) : (s.onTask k f).headers = s.headers := rfl
@[simp] theorem State.onTask_overpaints (s : State) (k : Nat) (f : Task → Task) : (s.onTask k f).overpaints = s.overpaints := rfl
@[simp] theorem State.onTask_condemned (s : State) (k : Nat) (f : Task → Task) : (s.onTask k f).condemned = s.condemned := rfl
@[simp] theorem State.onTask_suspects (s : State) (k : Nat) (f : Task → Task) : (s.onTask k f).suspects = s.suspects := rfl
@[simp] theorem State.onTask_transients (s : State) (k : Nat) (f : Task → Task) : (s.onTask k f).transients = s.transients := rfl
@[simp] theorem State.onTask_consResult (s : State) (k : Nat) (f : Task → Task) : (s.onTask k f).consResult = s.consResult := rfl
@[simp] theorem State.onTask_selftest (s : State) (k : Nat) (f : Task → Task) : (s.onTask k f).selftest = s.selftest := rfl
@[simp] theorem State.onTask_testFrom (s : State) (k : Nat) (f : Task → Task) : (s.onTask k f).testFrom = s.testFrom := rfl
@[simp] theorem State.onTask_detours (s : State) (k : Nat) (f : Task → Task) : (s.onTask k f).detours = s.detours := rfl
@[simp] theorem State.onTask_out (s : State) (k : Nat) (f : Task → Task) : (s.onTask k f).out = s.out := rfl

/-! ## A fault raised, an operation scheduled -/

@[simp] theorem Core.raise_faults (c : Core) (k : Nat) (x : Cause) (v : Option Word) :
    (c.raise k x v).faults = c.faults ++ [⟨x, v, k, c.pc⟩] := rfl
@[simp] theorem Core.raise_id (c : Core) (k : Nat) (x : Cause) (v : Option Word) : (c.raise k x v).id = c.id := rfl
@[simp] theorem Core.raise_run (c : Core) (k : Nat) (x : Cause) (v : Option Word) : (c.raise k x v).run = c.run := rfl
@[simp] theorem Core.raise_haltedAt (c : Core) (k : Nat) (x : Cause) (v : Option Word) : (c.raise k x v).haltedAt = c.haltedAt := rfl
@[simp] theorem Core.raise_mode (c : Core) (k : Nat) (x : Cause) (v : Option Word) : (c.raise k x v).mode = c.mode := rfl
@[simp] theorem Core.raise_inh (c : Core) (k : Nat) (x : Cause) (v : Option Word) : (c.raise k x v).inh = c.inh := rfl
@[simp] theorem Core.raise_pc (c : Core) (k : Nat) (x : Cause) (v : Option Word) : (c.raise k x v).pc = c.pc := rfl
@[simp] theorem Core.raise_lastPc (c : Core) (k : Nat) (x : Cause) (v : Option Word) : (c.raise k x v).lastPc = c.lastPc := rfl
@[simp] theorem Core.raise_loops (c : Core) (k : Nat) (x : Cause) (v : Option Word) : (c.raise k x v).loops = c.loops := rfl
@[simp] theorem Core.raise_savedMode (c : Core) (k : Nat) (x : Cause) (v : Option Word) : (c.raise k x v).savedMode = c.savedMode := rfl
@[simp] theorem Core.raise_savedLoops (c : Core) (k : Nat) (x : Cause) (v : Option Word) : (c.raise k x v).savedLoops = c.savedLoops := rfl
@[simp] theorem Core.raise_r (c : Core) (k : Nat) (x : Cause) (v : Option Word) : (c.raise k x v).r = c.r := rfl
@[simp] theorem Core.raise_tcause (c : Core) (k : Nat) (x : Cause) (v : Option Word) : (c.raise k x v).tcause = c.tcause := rfl
@[simp] theorem Core.raise_tval (c : Core) (k : Nat) (x : Cause) (v : Option Word) : (c.raise k x v).tval = c.tval := rfl
@[simp] theorem Core.raise_tepc (c : Core) (k : Nat) (x : Cause) (v : Option Word) : (c.raise k x v).tepc = c.tepc := rfl
@[simp] theorem Core.raise_tbpc (c : Core) (k : Nat) (x : Cause) (v : Option Word) : (c.raise k x v).tbpc = c.tbpc := rfl
@[simp] theorem Core.raise_stamp (c : Core) (k : Nat) (x : Cause) (v : Option Word) : (c.raise k x v).stamp = c.stamp := rfl
@[simp] theorem Core.raise_pckpt (c : Core) (k : Nat) (x : Cause) (v : Option Word) : (c.raise k x v).pckpt = c.pckpt := rfl
@[simp] theorem Core.raise_rbcnt (c : Core) (k : Nat) (x : Cause) (v : Option Word) : (c.raise k x v).rbcnt = c.rbcnt := rfl
@[simp] theorem Core.raise_ccy (c : Core) (k : Nat) (x : Cause) (v : Option Word) : (c.raise k x v).ccy = c.ccy := rfl
@[simp] theorem Core.raise_imem (c : Core) (k : Nat) (x : Cause) (v : Option Word) : (c.raise k x v).imem = c.imem := rfl
@[simp] theorem Core.raise_lcl (c : Core) (k : Nat) (x : Cause) (v : Option Word) : (c.raise k x v).lcl = c.lcl := rfl
@[simp] theorem Core.raise_plates (c : Core) (k : Nat) (x : Cause) (v : Option Word) : (c.raise k x v).plates = c.plates := rfl
@[simp] theorem Core.raise_checkedNow (c : Core) (k : Nat) (x : Cause) (v : Option Word) : (c.raise k x v).checkedNow = c.checkedNow := rfl
@[simp] theorem Core.raise_late (c : Core) (k : Nat) (x : Cause) (v : Option Word) : (c.raise k x v).late = c.late := rfl
@[simp] theorem Core.raise_parkedLate (c : Core) (k : Nat) (x : Cause) (v : Option Word) : (c.raise k x v).parkedLate = c.parkedLate := rfl
@[simp] theorem Core.raise_seen (c : Core) (k : Nat) (x : Cause) (v : Option Word) : (c.raise k x v).seen = c.seen := rfl
@[simp] theorem Core.raise_uses (c : Core) (k : Nat) (x : Cause) (v : Option Word) : (c.raise k x v).uses = c.uses := rfl
@[simp] theorem Core.raise_windows (c : Core) (k : Nat) (x : Cause) (v : Option Word) : (c.raise k x v).windows = c.windows := rfl
@[simp] theorem Core.raise_claims (c : Core) (k : Nat) (x : Cause) (v : Option Word) : (c.raise k x v).claims = c.claims := rfl
@[simp] theorem Core.raise_lock (c : Core) (k : Nat) (x : Cause) (v : Option Word) : (c.raise k x v).lock = c.lock := rfl
@[simp] theorem Core.raise_wbuf (c : Core) (k : Nat) (x : Cause) (v : Option Word) : (c.raise k x v).wbuf = c.wbuf := rfl
@[simp] theorem Core.raise_copies (c : Core) (k : Nat) (x : Cause) (v : Option Word) : (c.raise k x v).copies = c.copies := rfl
@[simp] theorem Core.raise_uncached (c : Core) (k : Nat) (x : Cause) (v : Option Word) : (c.raise k x v).uncached = c.uncached := rfl
@[simp] theorem Core.raise_gated (c : Core) (k : Nat) (x : Cause) (v : Option Word) : (c.raise k x v).gated = c.gated := rfl
@[simp] theorem Core.raise_undo (c : Core) (k : Nat) (x : Cause) (v : Option Word) : (c.raise k x v).undo = c.undo := rfl
@[simp] theorem Core.raise_reserved (c : Core) (k : Nat) (x : Cause) (v : Option Word) : (c.raise k x v).reserved = c.reserved := rfl
@[simp] theorem Core.raise_waitFills (c : Core) (k : Nat) (x : Cause) (v : Option Word) : (c.raise k x v).waitFills = c.waitFills := rfl
@[simp] theorem Core.raise_snap (c : Core) (k : Nat) (x : Cause) (v : Option Word) : (c.raise k x v).snap = c.snap := rfl
@[simp] theorem Core.raise_holds (c : Core) (k : Nat) (x : Cause) (v : Option Word) : (c.raise k x v).holds = c.holds := rfl
@[simp] theorem Core.raise_inHold (c : Core) (k : Nat) (x : Cause) (v : Option Word) : (c.raise k x v).inHold = c.inHold := rfl
@[simp] theorem Core.raise_wait (c : Core) (k : Nat) (x : Cause) (v : Option Word) : (c.raise k x v).wait = c.wait := rfl
@[simp] theorem Core.raise_stall (c : Core) (k : Nat) (x : Cause) (v : Option Word) : (c.raise k x v).stall = c.stall := rfl
@[simp] theorem Core.raise_idle (c : Core) (k : Nat) (x : Cause) (v : Option Word) : (c.raise k x v).idle = c.idle := rfl
@[simp] theorem Core.raise_rest (c : Core) (k : Nat) (x : Cause) (v : Option Word) : (c.raise k x v).rest = c.rest := rfl
@[simp] theorem Core.raise_bundle (c : Core) (k : Nat) (x : Cause) (v : Option Word) : (c.raise k x v).bundle = c.bundle := rfl
@[simp] theorem Core.raise_started (c : Core) (k : Nat) (x : Cause) (v : Option Word) : (c.raise k x v).started = c.started := rfl
@[simp] theorem Core.raise_nextPc (c : Core) (k : Nat) (x : Cause) (v : Option Word) : (c.raise k x v).nextPc = c.nextPc := rfl
@[simp] theorem Core.raise_loopAct (c : Core) (k : Nat) (x : Cause) (v : Option Word) : (c.raise k x v).loopAct = c.loopAct := rfl
@[simp] theorem Core.raise_turn (c : Core) (k : Nat) (x : Cause) (v : Option Word) : (c.raise k x v).turn = c.turn := rfl
@[simp] theorem Core.raise_ckptWord (c : Core) (k : Nat) (x : Cause) (v : Option Word) : (c.raise k x v).ckptWord = c.ckptWord := rfl
@[simp] theorem Core.raise_swap (c : Core) (k : Nat) (x : Cause) (v : Option Word) : (c.raise k x v).swap = c.swap := rfl
@[simp] theorem Core.raise_call (c : Core) (k : Nat) (x : Cause) (v : Option Word) : (c.raise k x v).call = c.call := rfl
@[simp] theorem Core.raise_retHandler (c : Core) (k : Nat) (x : Cause) (v : Option Word) : (c.raise k x v).retHandler = c.retHandler := rfl
@[simp] theorem Core.raise_exts (c : Core) (k : Nat) (x : Cause) (v : Option Word) : (c.raise k x v).exts = c.exts := rfl
@[simp] theorem Core.raise_sealSlots (c : Core) (k : Nat) (x : Cause) (v : Option Word) : (c.raise k x v).sealSlots = c.sealSlots := rfl
@[simp] theorem Core.raise_sealImage (c : Core) (k : Nat) (x : Cause) (v : Option Word) : (c.raise k x v).sealImage = c.sealImage := rfl
@[simp] theorem Core.raise_imgBase (c : Core) (k : Nat) (x : Cause) (v : Option Word) : (c.raise k x v).imgBase = c.imgBase := rfl
@[simp] theorem Core.raise_was (c : Core) (k : Nat) (x : Cause) (v : Option Word) : (c.raise k x v).was = c.was := rfl
@[simp] theorem Core.raise_task (c : Core) (k : Nat) (x : Cause) (v : Option Word) : (c.raise k x v).task = c.task := rfl
@[simp] theorem Core.raise_coh (c : Core) (k : Nat) (x : Cause) (v : Option Word) : (c.raise k x v).coh = c.coh := rfl
@[simp] theorem Core.raise_tstrand (c : Core) (k : Nat) (x : Cause) (v : Option Word) : (c.raise k x v).tstrand = c.tstrand := rfl
@[simp] theorem Core.raise_tcount (c : Core) (k : Nat) (x : Cause) (v : Option Word) : (c.raise k x v).tcount = c.tcount := rfl
@[simp] theorem Core.raise_cohsize (c : Core) (k : Nat) (x : Cause) (v : Option Word) : (c.raise k x v).cohsize = c.cohsize := rfl
@[simp] theorem Core.raise_tier (c : Core) (k : Nat) (x : Cause) (v : Option Word) : (c.raise k x v).tier = c.tier := rfl
@[simp] theorem Core.raise_level (c : Core) (k : Nat) (x : Cause) (v : Option Word) : (c.raise k x v).level = c.level := rfl
@[simp] theorem Core.raise_colls (c : Core) (k : Nat) (x : Cause) (v : Option Word) : (c.raise k x v).colls = c.colls := rfl
@[simp] theorem Core.raise_collNum (c : Core) (k : Nat) (x : Cause) (v : Option Word) : (c.raise k x v).collNum = c.collNum := rfl
@[simp] theorem Core.raise_collgrp (c : Core) (k : Nat) (x : Cause) (v : Option Word) : (c.raise k x v).collgrp = c.collgrp := rfl
@[simp] theorem Core.raise_preempt (c : Core) (k : Nat) (x : Cause) (v : Option Word) : (c.raise k x v).preempt = c.preempt := rfl
@[simp] theorem Core.raise_pbound (c : Core) (k : Nat) (x : Cause) (v : Option Word) : (c.raise k x v).pbound = c.pbound := rfl
@[simp] theorem Core.raise_pbFrom (c : Core) (k : Nat) (x : Cause) (v : Option Word) : (c.raise k x v).pbFrom = c.pbFrom := rfl
@[simp] theorem Core.raise_eng (c : Core) (k : Nat) (x : Cause) (v : Option Word) : (c.raise k x v).eng = c.eng := rfl
@[simp] theorem Core.raise_save (c : Core) (k : Nat) (x : Cause) (v : Option Word) : (c.raise k x v).save = c.save := rfl
@[simp] theorem Core.raise_bundleCount (c : Core) (k : Nat) (x : Cause) (v : Option Word) : (c.raise k x v).bundleCount = c.bundleCount := rfl
@[simp] theorem Core.raise_opCount (c : Core) (k : Nat) (x : Cause) (v : Option Word) : (c.raise k x v).opCount = c.opCount := rfl
@[simp] theorem Core.raise_bad (c : Core) (k : Nat) (x : Cause) (v : Option Word) : (c.raise k x v).bad = c.bad := rfl
@[simp] theorem Core.raise_twin (c : Core) (k : Nat) (x : Cause) (v : Option Word) : (c.raise k x v).twin = c.twin := rfl
@[simp] theorem Core.at'_late (c : Core) (k n : Nat) (e : Effect) : (c.at' k n e).late = c.late ++ [⟨n, c.ccy, k, c.pc, e⟩] := rfl
@[simp] theorem Core.at'_id (c : Core) (k n : Nat) (e : Effect) : (c.at' k n e).id = c.id := rfl
@[simp] theorem Core.at'_run (c : Core) (k n : Nat) (e : Effect) : (c.at' k n e).run = c.run := rfl
@[simp] theorem Core.at'_haltedAt (c : Core) (k n : Nat) (e : Effect) : (c.at' k n e).haltedAt = c.haltedAt := rfl
@[simp] theorem Core.at'_mode (c : Core) (k n : Nat) (e : Effect) : (c.at' k n e).mode = c.mode := rfl
@[simp] theorem Core.at'_inh (c : Core) (k n : Nat) (e : Effect) : (c.at' k n e).inh = c.inh := rfl
@[simp] theorem Core.at'_pc (c : Core) (k n : Nat) (e : Effect) : (c.at' k n e).pc = c.pc := rfl
@[simp] theorem Core.at'_lastPc (c : Core) (k n : Nat) (e : Effect) : (c.at' k n e).lastPc = c.lastPc := rfl
@[simp] theorem Core.at'_loops (c : Core) (k n : Nat) (e : Effect) : (c.at' k n e).loops = c.loops := rfl
@[simp] theorem Core.at'_savedMode (c : Core) (k n : Nat) (e : Effect) : (c.at' k n e).savedMode = c.savedMode := rfl
@[simp] theorem Core.at'_savedLoops (c : Core) (k n : Nat) (e : Effect) : (c.at' k n e).savedLoops = c.savedLoops := rfl
@[simp] theorem Core.at'_r (c : Core) (k n : Nat) (e : Effect) : (c.at' k n e).r = c.r := rfl
@[simp] theorem Core.at'_tcause (c : Core) (k n : Nat) (e : Effect) : (c.at' k n e).tcause = c.tcause := rfl
@[simp] theorem Core.at'_tval (c : Core) (k n : Nat) (e : Effect) : (c.at' k n e).tval = c.tval := rfl
@[simp] theorem Core.at'_tepc (c : Core) (k n : Nat) (e : Effect) : (c.at' k n e).tepc = c.tepc := rfl
@[simp] theorem Core.at'_tbpc (c : Core) (k n : Nat) (e : Effect) : (c.at' k n e).tbpc = c.tbpc := rfl
@[simp] theorem Core.at'_stamp (c : Core) (k n : Nat) (e : Effect) : (c.at' k n e).stamp = c.stamp := rfl
@[simp] theorem Core.at'_pckpt (c : Core) (k n : Nat) (e : Effect) : (c.at' k n e).pckpt = c.pckpt := rfl
@[simp] theorem Core.at'_rbcnt (c : Core) (k n : Nat) (e : Effect) : (c.at' k n e).rbcnt = c.rbcnt := rfl
@[simp] theorem Core.at'_ccy (c : Core) (k n : Nat) (e : Effect) : (c.at' k n e).ccy = c.ccy := rfl
@[simp] theorem Core.at'_imem (c : Core) (k n : Nat) (e : Effect) : (c.at' k n e).imem = c.imem := rfl
@[simp] theorem Core.at'_lcl (c : Core) (k n : Nat) (e : Effect) : (c.at' k n e).lcl = c.lcl := rfl
@[simp] theorem Core.at'_plates (c : Core) (k n : Nat) (e : Effect) : (c.at' k n e).plates = c.plates := rfl
@[simp] theorem Core.at'_checkedNow (c : Core) (k n : Nat) (e : Effect) : (c.at' k n e).checkedNow = c.checkedNow := rfl
@[simp] theorem Core.at'_parkedLate (c : Core) (k n : Nat) (e : Effect) : (c.at' k n e).parkedLate = c.parkedLate := rfl
@[simp] theorem Core.at'_seen (c : Core) (k n : Nat) (e : Effect) : (c.at' k n e).seen = c.seen := rfl
@[simp] theorem Core.at'_uses (c : Core) (k n : Nat) (e : Effect) : (c.at' k n e).uses = c.uses := rfl
@[simp] theorem Core.at'_windows (c : Core) (k n : Nat) (e : Effect) : (c.at' k n e).windows = c.windows := rfl
@[simp] theorem Core.at'_claims (c : Core) (k n : Nat) (e : Effect) : (c.at' k n e).claims = c.claims := rfl
@[simp] theorem Core.at'_lock (c : Core) (k n : Nat) (e : Effect) : (c.at' k n e).lock = c.lock := rfl
@[simp] theorem Core.at'_wbuf (c : Core) (k n : Nat) (e : Effect) : (c.at' k n e).wbuf = c.wbuf := rfl
@[simp] theorem Core.at'_copies (c : Core) (k n : Nat) (e : Effect) : (c.at' k n e).copies = c.copies := rfl
@[simp] theorem Core.at'_uncached (c : Core) (k n : Nat) (e : Effect) : (c.at' k n e).uncached = c.uncached := rfl
@[simp] theorem Core.at'_gated (c : Core) (k n : Nat) (e : Effect) : (c.at' k n e).gated = c.gated := rfl
@[simp] theorem Core.at'_undo (c : Core) (k n : Nat) (e : Effect) : (c.at' k n e).undo = c.undo := rfl
@[simp] theorem Core.at'_reserved (c : Core) (k n : Nat) (e : Effect) : (c.at' k n e).reserved = c.reserved := rfl
@[simp] theorem Core.at'_waitFills (c : Core) (k n : Nat) (e : Effect) : (c.at' k n e).waitFills = c.waitFills := rfl
@[simp] theorem Core.at'_snap (c : Core) (k n : Nat) (e : Effect) : (c.at' k n e).snap = c.snap := rfl
@[simp] theorem Core.at'_holds (c : Core) (k n : Nat) (e : Effect) : (c.at' k n e).holds = c.holds := rfl
@[simp] theorem Core.at'_inHold (c : Core) (k n : Nat) (e : Effect) : (c.at' k n e).inHold = c.inHold := rfl
@[simp] theorem Core.at'_wait (c : Core) (k n : Nat) (e : Effect) : (c.at' k n e).wait = c.wait := rfl
@[simp] theorem Core.at'_stall (c : Core) (k n : Nat) (e : Effect) : (c.at' k n e).stall = c.stall := rfl
@[simp] theorem Core.at'_idle (c : Core) (k n : Nat) (e : Effect) : (c.at' k n e).idle = c.idle := rfl
@[simp] theorem Core.at'_rest (c : Core) (k n : Nat) (e : Effect) : (c.at' k n e).rest = c.rest := rfl
@[simp] theorem Core.at'_bundle (c : Core) (k n : Nat) (e : Effect) : (c.at' k n e).bundle = c.bundle := rfl
@[simp] theorem Core.at'_started (c : Core) (k n : Nat) (e : Effect) : (c.at' k n e).started = c.started := rfl
@[simp] theorem Core.at'_nextPc (c : Core) (k n : Nat) (e : Effect) : (c.at' k n e).nextPc = c.nextPc := rfl
@[simp] theorem Core.at'_loopAct (c : Core) (k n : Nat) (e : Effect) : (c.at' k n e).loopAct = c.loopAct := rfl
@[simp] theorem Core.at'_turn (c : Core) (k n : Nat) (e : Effect) : (c.at' k n e).turn = c.turn := rfl
@[simp] theorem Core.at'_ckptWord (c : Core) (k n : Nat) (e : Effect) : (c.at' k n e).ckptWord = c.ckptWord := rfl
@[simp] theorem Core.at'_swap (c : Core) (k n : Nat) (e : Effect) : (c.at' k n e).swap = c.swap := rfl
@[simp] theorem Core.at'_call (c : Core) (k n : Nat) (e : Effect) : (c.at' k n e).call = c.call := rfl
@[simp] theorem Core.at'_retHandler (c : Core) (k n : Nat) (e : Effect) : (c.at' k n e).retHandler = c.retHandler := rfl
@[simp] theorem Core.at'_faults (c : Core) (k n : Nat) (e : Effect) : (c.at' k n e).faults = c.faults := rfl
@[simp] theorem Core.at'_exts (c : Core) (k n : Nat) (e : Effect) : (c.at' k n e).exts = c.exts := rfl
@[simp] theorem Core.at'_sealSlots (c : Core) (k n : Nat) (e : Effect) : (c.at' k n e).sealSlots = c.sealSlots := rfl
@[simp] theorem Core.at'_sealImage (c : Core) (k n : Nat) (e : Effect) : (c.at' k n e).sealImage = c.sealImage := rfl
@[simp] theorem Core.at'_imgBase (c : Core) (k n : Nat) (e : Effect) : (c.at' k n e).imgBase = c.imgBase := rfl
@[simp] theorem Core.at'_was (c : Core) (k n : Nat) (e : Effect) : (c.at' k n e).was = c.was := rfl
@[simp] theorem Core.at'_task (c : Core) (k n : Nat) (e : Effect) : (c.at' k n e).task = c.task := rfl
@[simp] theorem Core.at'_coh (c : Core) (k n : Nat) (e : Effect) : (c.at' k n e).coh = c.coh := rfl
@[simp] theorem Core.at'_tstrand (c : Core) (k n : Nat) (e : Effect) : (c.at' k n e).tstrand = c.tstrand := rfl
@[simp] theorem Core.at'_tcount (c : Core) (k n : Nat) (e : Effect) : (c.at' k n e).tcount = c.tcount := rfl
@[simp] theorem Core.at'_cohsize (c : Core) (k n : Nat) (e : Effect) : (c.at' k n e).cohsize = c.cohsize := rfl
@[simp] theorem Core.at'_tier (c : Core) (k n : Nat) (e : Effect) : (c.at' k n e).tier = c.tier := rfl
@[simp] theorem Core.at'_level (c : Core) (k n : Nat) (e : Effect) : (c.at' k n e).level = c.level := rfl
@[simp] theorem Core.at'_colls (c : Core) (k n : Nat) (e : Effect) : (c.at' k n e).colls = c.colls := rfl
@[simp] theorem Core.at'_collNum (c : Core) (k n : Nat) (e : Effect) : (c.at' k n e).collNum = c.collNum := rfl
@[simp] theorem Core.at'_collgrp (c : Core) (k n : Nat) (e : Effect) : (c.at' k n e).collgrp = c.collgrp := rfl
@[simp] theorem Core.at'_preempt (c : Core) (k n : Nat) (e : Effect) : (c.at' k n e).preempt = c.preempt := rfl
@[simp] theorem Core.at'_pbound (c : Core) (k n : Nat) (e : Effect) : (c.at' k n e).pbound = c.pbound := rfl
@[simp] theorem Core.at'_pbFrom (c : Core) (k n : Nat) (e : Effect) : (c.at' k n e).pbFrom = c.pbFrom := rfl
@[simp] theorem Core.at'_eng (c : Core) (k n : Nat) (e : Effect) : (c.at' k n e).eng = c.eng := rfl
@[simp] theorem Core.at'_save (c : Core) (k n : Nat) (e : Effect) : (c.at' k n e).save = c.save := rfl
@[simp] theorem Core.at'_bundleCount (c : Core) (k n : Nat) (e : Effect) : (c.at' k n e).bundleCount = c.bundleCount := rfl
@[simp] theorem Core.at'_opCount (c : Core) (k n : Nat) (e : Effect) : (c.at' k n e).opCount = c.opCount := rfl
@[simp] theorem Core.at'_bad (c : Core) (k n : Nat) (e : Effect) : (c.at' k n e).bad = c.bad := rfl
@[simp] theorem Core.at'_twin (c : Core) (k n : Nat) (e : Effect) : (c.at' k n e).twin = c.twin := rfl
@[simp] theorem Core.after_late (c : Core) (k n : Nat) (e : Effect) :
    (c.after k n e).late = c.late ++ [⟨c.ccy + n, c.ccy, k, c.pc, e⟩] := rfl
@[simp] theorem Core.after_id (c : Core) (k n : Nat) (e : Effect) : (c.after k n e).id = c.id := rfl
@[simp] theorem Core.after_run (c : Core) (k n : Nat) (e : Effect) : (c.after k n e).run = c.run := rfl
@[simp] theorem Core.after_haltedAt (c : Core) (k n : Nat) (e : Effect) : (c.after k n e).haltedAt = c.haltedAt := rfl
@[simp] theorem Core.after_mode (c : Core) (k n : Nat) (e : Effect) : (c.after k n e).mode = c.mode := rfl
@[simp] theorem Core.after_inh (c : Core) (k n : Nat) (e : Effect) : (c.after k n e).inh = c.inh := rfl
@[simp] theorem Core.after_pc (c : Core) (k n : Nat) (e : Effect) : (c.after k n e).pc = c.pc := rfl
@[simp] theorem Core.after_lastPc (c : Core) (k n : Nat) (e : Effect) : (c.after k n e).lastPc = c.lastPc := rfl
@[simp] theorem Core.after_loops (c : Core) (k n : Nat) (e : Effect) : (c.after k n e).loops = c.loops := rfl
@[simp] theorem Core.after_savedMode (c : Core) (k n : Nat) (e : Effect) : (c.after k n e).savedMode = c.savedMode := rfl
@[simp] theorem Core.after_savedLoops (c : Core) (k n : Nat) (e : Effect) : (c.after k n e).savedLoops = c.savedLoops := rfl
@[simp] theorem Core.after_r (c : Core) (k n : Nat) (e : Effect) : (c.after k n e).r = c.r := rfl
@[simp] theorem Core.after_tcause (c : Core) (k n : Nat) (e : Effect) : (c.after k n e).tcause = c.tcause := rfl
@[simp] theorem Core.after_tval (c : Core) (k n : Nat) (e : Effect) : (c.after k n e).tval = c.tval := rfl
@[simp] theorem Core.after_tepc (c : Core) (k n : Nat) (e : Effect) : (c.after k n e).tepc = c.tepc := rfl
@[simp] theorem Core.after_tbpc (c : Core) (k n : Nat) (e : Effect) : (c.after k n e).tbpc = c.tbpc := rfl
@[simp] theorem Core.after_stamp (c : Core) (k n : Nat) (e : Effect) : (c.after k n e).stamp = c.stamp := rfl
@[simp] theorem Core.after_pckpt (c : Core) (k n : Nat) (e : Effect) : (c.after k n e).pckpt = c.pckpt := rfl
@[simp] theorem Core.after_rbcnt (c : Core) (k n : Nat) (e : Effect) : (c.after k n e).rbcnt = c.rbcnt := rfl
@[simp] theorem Core.after_ccy (c : Core) (k n : Nat) (e : Effect) : (c.after k n e).ccy = c.ccy := rfl
@[simp] theorem Core.after_imem (c : Core) (k n : Nat) (e : Effect) : (c.after k n e).imem = c.imem := rfl
@[simp] theorem Core.after_lcl (c : Core) (k n : Nat) (e : Effect) : (c.after k n e).lcl = c.lcl := rfl
@[simp] theorem Core.after_plates (c : Core) (k n : Nat) (e : Effect) : (c.after k n e).plates = c.plates := rfl
@[simp] theorem Core.after_checkedNow (c : Core) (k n : Nat) (e : Effect) : (c.after k n e).checkedNow = c.checkedNow := rfl
@[simp] theorem Core.after_parkedLate (c : Core) (k n : Nat) (e : Effect) : (c.after k n e).parkedLate = c.parkedLate := rfl
@[simp] theorem Core.after_seen (c : Core) (k n : Nat) (e : Effect) : (c.after k n e).seen = c.seen := rfl
@[simp] theorem Core.after_uses (c : Core) (k n : Nat) (e : Effect) : (c.after k n e).uses = c.uses := rfl
@[simp] theorem Core.after_windows (c : Core) (k n : Nat) (e : Effect) : (c.after k n e).windows = c.windows := rfl
@[simp] theorem Core.after_claims (c : Core) (k n : Nat) (e : Effect) : (c.after k n e).claims = c.claims := rfl
@[simp] theorem Core.after_lock (c : Core) (k n : Nat) (e : Effect) : (c.after k n e).lock = c.lock := rfl
@[simp] theorem Core.after_wbuf (c : Core) (k n : Nat) (e : Effect) : (c.after k n e).wbuf = c.wbuf := rfl
@[simp] theorem Core.after_copies (c : Core) (k n : Nat) (e : Effect) : (c.after k n e).copies = c.copies := rfl
@[simp] theorem Core.after_uncached (c : Core) (k n : Nat) (e : Effect) : (c.after k n e).uncached = c.uncached := rfl
@[simp] theorem Core.after_gated (c : Core) (k n : Nat) (e : Effect) : (c.after k n e).gated = c.gated := rfl
@[simp] theorem Core.after_undo (c : Core) (k n : Nat) (e : Effect) : (c.after k n e).undo = c.undo := rfl
@[simp] theorem Core.after_reserved (c : Core) (k n : Nat) (e : Effect) : (c.after k n e).reserved = c.reserved := rfl
@[simp] theorem Core.after_waitFills (c : Core) (k n : Nat) (e : Effect) : (c.after k n e).waitFills = c.waitFills := rfl
@[simp] theorem Core.after_snap (c : Core) (k n : Nat) (e : Effect) : (c.after k n e).snap = c.snap := rfl
@[simp] theorem Core.after_holds (c : Core) (k n : Nat) (e : Effect) : (c.after k n e).holds = c.holds := rfl
@[simp] theorem Core.after_inHold (c : Core) (k n : Nat) (e : Effect) : (c.after k n e).inHold = c.inHold := rfl
@[simp] theorem Core.after_wait (c : Core) (k n : Nat) (e : Effect) : (c.after k n e).wait = c.wait := rfl
@[simp] theorem Core.after_stall (c : Core) (k n : Nat) (e : Effect) : (c.after k n e).stall = c.stall := rfl
@[simp] theorem Core.after_idle (c : Core) (k n : Nat) (e : Effect) : (c.after k n e).idle = c.idle := rfl
@[simp] theorem Core.after_rest (c : Core) (k n : Nat) (e : Effect) : (c.after k n e).rest = c.rest := rfl
@[simp] theorem Core.after_bundle (c : Core) (k n : Nat) (e : Effect) : (c.after k n e).bundle = c.bundle := rfl
@[simp] theorem Core.after_started (c : Core) (k n : Nat) (e : Effect) : (c.after k n e).started = c.started := rfl
@[simp] theorem Core.after_nextPc (c : Core) (k n : Nat) (e : Effect) : (c.after k n e).nextPc = c.nextPc := rfl
@[simp] theorem Core.after_loopAct (c : Core) (k n : Nat) (e : Effect) : (c.after k n e).loopAct = c.loopAct := rfl
@[simp] theorem Core.after_turn (c : Core) (k n : Nat) (e : Effect) : (c.after k n e).turn = c.turn := rfl
@[simp] theorem Core.after_ckptWord (c : Core) (k n : Nat) (e : Effect) : (c.after k n e).ckptWord = c.ckptWord := rfl
@[simp] theorem Core.after_swap (c : Core) (k n : Nat) (e : Effect) : (c.after k n e).swap = c.swap := rfl
@[simp] theorem Core.after_call (c : Core) (k n : Nat) (e : Effect) : (c.after k n e).call = c.call := rfl
@[simp] theorem Core.after_retHandler (c : Core) (k n : Nat) (e : Effect) : (c.after k n e).retHandler = c.retHandler := rfl
@[simp] theorem Core.after_faults (c : Core) (k n : Nat) (e : Effect) : (c.after k n e).faults = c.faults := rfl
@[simp] theorem Core.after_exts (c : Core) (k n : Nat) (e : Effect) : (c.after k n e).exts = c.exts := rfl
@[simp] theorem Core.after_sealSlots (c : Core) (k n : Nat) (e : Effect) : (c.after k n e).sealSlots = c.sealSlots := rfl
@[simp] theorem Core.after_sealImage (c : Core) (k n : Nat) (e : Effect) : (c.after k n e).sealImage = c.sealImage := rfl
@[simp] theorem Core.after_imgBase (c : Core) (k n : Nat) (e : Effect) : (c.after k n e).imgBase = c.imgBase := rfl
@[simp] theorem Core.after_was (c : Core) (k n : Nat) (e : Effect) : (c.after k n e).was = c.was := rfl
@[simp] theorem Core.after_task (c : Core) (k n : Nat) (e : Effect) : (c.after k n e).task = c.task := rfl
@[simp] theorem Core.after_coh (c : Core) (k n : Nat) (e : Effect) : (c.after k n e).coh = c.coh := rfl
@[simp] theorem Core.after_tstrand (c : Core) (k n : Nat) (e : Effect) : (c.after k n e).tstrand = c.tstrand := rfl
@[simp] theorem Core.after_tcount (c : Core) (k n : Nat) (e : Effect) : (c.after k n e).tcount = c.tcount := rfl
@[simp] theorem Core.after_cohsize (c : Core) (k n : Nat) (e : Effect) : (c.after k n e).cohsize = c.cohsize := rfl
@[simp] theorem Core.after_tier (c : Core) (k n : Nat) (e : Effect) : (c.after k n e).tier = c.tier := rfl
@[simp] theorem Core.after_level (c : Core) (k n : Nat) (e : Effect) : (c.after k n e).level = c.level := rfl
@[simp] theorem Core.after_colls (c : Core) (k n : Nat) (e : Effect) : (c.after k n e).colls = c.colls := rfl
@[simp] theorem Core.after_collNum (c : Core) (k n : Nat) (e : Effect) : (c.after k n e).collNum = c.collNum := rfl
@[simp] theorem Core.after_collgrp (c : Core) (k n : Nat) (e : Effect) : (c.after k n e).collgrp = c.collgrp := rfl
@[simp] theorem Core.after_preempt (c : Core) (k n : Nat) (e : Effect) : (c.after k n e).preempt = c.preempt := rfl
@[simp] theorem Core.after_pbound (c : Core) (k n : Nat) (e : Effect) : (c.after k n e).pbound = c.pbound := rfl
@[simp] theorem Core.after_pbFrom (c : Core) (k n : Nat) (e : Effect) : (c.after k n e).pbFrom = c.pbFrom := rfl
@[simp] theorem Core.after_eng (c : Core) (k n : Nat) (e : Effect) : (c.after k n e).eng = c.eng := rfl
@[simp] theorem Core.after_save (c : Core) (k n : Nat) (e : Effect) : (c.after k n e).save = c.save := rfl
@[simp] theorem Core.after_bundleCount (c : Core) (k n : Nat) (e : Effect) : (c.after k n e).bundleCount = c.bundleCount := rfl
@[simp] theorem Core.after_opCount (c : Core) (k n : Nat) (e : Effect) : (c.after k n e).opCount = c.opCount := rfl
@[simp] theorem Core.after_bad (c : Core) (k n : Nat) (e : Effect) : (c.after k n e).bad = c.bad := rfl
@[simp] theorem Core.after_twin (c : Core) (k n : Nat) (e : Effect) : (c.after k n e).twin = c.twin := rfl

/-! ## Register writes -/

@[simp] theorem ArchRegs.setV_s (r : ArchRegs) (n : BitVec 5) (x : Vec) : (r.setV n x).s = r.s := rfl
@[simp] theorem ArchRegs.setV_m (r : ArchRegs) (n : BitVec 5) (x : Vec) : (r.setV n x).m = r.m := rfl
@[simp] theorem ArchRegs.setV_g (r : ArchRegs) (n : BitVec 5) (x : Vec) : (r.setV n x).g = r.g := rfl
@[simp] theorem ArchRegs.setV_q (r : ArchRegs) (n : BitVec 5) (x : Vec) : (r.setV n x).q = r.q := rfl
@[simp] theorem ArchRegs.setV_l (r : ArchRegs) (n : BitVec 5) (x : Vec) : (r.setV n x).l = r.l := rfl
@[simp] theorem ArchRegs.setV_tiles (r : ArchRegs) (n : BitVec 5) (x : Vec) : (r.setV n x).tiles = r.tiles := rfl
@[simp] theorem ArchRegs.setV_tshape (r : ArchRegs) (n : BitVec 5) (x : Vec) : (r.setV n x).tshape = r.tshape := rfl
@[simp] theorem ArchRegs.setV_claimed (r : ArchRegs) (n : BitVec 5) (x : Vec) : (r.setV n x).claimed = r.claimed := rfl
@[simp] theorem ArchRegs.setV_owner (r : ArchRegs) (n : BitVec 5) (x : Vec) : (r.setV n x).owner = r.owner := rfl
@[simp] theorem ArchRegs.setV_valid (r : ArchRegs) (n : BitVec 5) (x : Vec) : (r.setV n x).valid = r.valid := rfl
@[simp] theorem ArchRegs.setV_dirty (r : ArchRegs) (n : BitVec 5) (x : Vec) : (r.setV n x).dirty = r.dirty := rfl
@[simp] theorem ArchRegs.setV_act (r : ArchRegs) (n : BitVec 5) (x : Vec) : (r.setV n x).act = r.act := rfl
@[simp] theorem ArchRegs.setV_fflags (r : ArchRegs) (n : BitVec 5) (x : Vec) : (r.setV n x).fflags = r.fflags := rfl
@[simp] theorem ArchRegs.setV_mxc (r : ArchRegs) (n : BitVec 5) (x : Vec) : (r.setV n x).mxc = r.mxc := rfl
@[simp] theorem ArchRegs.setV_rsb (r : ArchRegs) (n : BitVec 5) (x : Vec) : (r.setV n x).rsb = r.rsb := rfl
@[simp] theorem ArchRegs.setV_rsbalt (r : ArchRegs) (n : BitVec 5) (x : Vec) : (r.setV n x).rsbalt = r.rsbalt := rfl
@[simp] theorem ArchRegs.setV_tvec (r : ArchRegs) (n : BitVec 5) (x : Vec) : (r.setV n x).tvec = r.tvec := rfl
@[simp] theorem ArchRegs.setV_nests (r : ArchRegs) (n : BitVec 5) (x : Vec) : (r.setV n x).nests = r.nests := rfl
@[simp] theorem ArchRegs.setV_fmt (r : ArchRegs) (n : BitVec 5) (x : Vec) : (r.setV n x).fmt = r.fmt := rfl
@[simp] theorem ArchRegs.setV_coarse (r : ArchRegs) (n : BitVec 5) (x : Vec) : (r.setV n x).coarse = r.coarse := rfl
@[simp] theorem ArchRegs.setV_sp24 (r : ArchRegs) (n : BitVec 5) (x : Vec) : (r.setV n x).sp24 = r.sp24 := rfl
@[simp] theorem ArchRegs.setV_tree (r : ArchRegs) (n : BitVec 5) (x : Vec) : (r.setV n x).tree = r.tree := rfl
@[simp] theorem ArchRegs.setV_src (r : ArchRegs) (n : BitVec 5) (x : Vec) : (r.setV n x).src = r.src := rfl
@[simp] theorem ArchRegs.setM_s (r : ArchRegs) (n : BitVec 3) (x : Mask) : (r.setM n x).s = r.s := rfl
@[simp] theorem ArchRegs.setM_v (r : ArchRegs) (n : BitVec 3) (x : Mask) : (r.setM n x).v = r.v := rfl
@[simp] theorem ArchRegs.setM_g (r : ArchRegs) (n : BitVec 3) (x : Mask) : (r.setM n x).g = r.g := rfl
@[simp] theorem ArchRegs.setM_q (r : ArchRegs) (n : BitVec 3) (x : Mask) : (r.setM n x).q = r.q := rfl
@[simp] theorem ArchRegs.setM_l (r : ArchRegs) (n : BitVec 3) (x : Mask) : (r.setM n x).l = r.l := rfl
@[simp] theorem ArchRegs.setM_tiles (r : ArchRegs) (n : BitVec 3) (x : Mask) : (r.setM n x).tiles = r.tiles := rfl
@[simp] theorem ArchRegs.setM_tshape (r : ArchRegs) (n : BitVec 3) (x : Mask) : (r.setM n x).tshape = r.tshape := rfl
@[simp] theorem ArchRegs.setM_claimed (r : ArchRegs) (n : BitVec 3) (x : Mask) : (r.setM n x).claimed = r.claimed := rfl
@[simp] theorem ArchRegs.setM_owner (r : ArchRegs) (n : BitVec 3) (x : Mask) : (r.setM n x).owner = r.owner := rfl
@[simp] theorem ArchRegs.setM_valid (r : ArchRegs) (n : BitVec 3) (x : Mask) : (r.setM n x).valid = r.valid := rfl
@[simp] theorem ArchRegs.setM_dirty (r : ArchRegs) (n : BitVec 3) (x : Mask) : (r.setM n x).dirty = r.dirty := rfl
@[simp] theorem ArchRegs.setM_act (r : ArchRegs) (n : BitVec 3) (x : Mask) : (r.setM n x).act = r.act := rfl
@[simp] theorem ArchRegs.setM_fflags (r : ArchRegs) (n : BitVec 3) (x : Mask) : (r.setM n x).fflags = r.fflags := rfl
@[simp] theorem ArchRegs.setM_mxc (r : ArchRegs) (n : BitVec 3) (x : Mask) : (r.setM n x).mxc = r.mxc := rfl
@[simp] theorem ArchRegs.setM_rsb (r : ArchRegs) (n : BitVec 3) (x : Mask) : (r.setM n x).rsb = r.rsb := rfl
@[simp] theorem ArchRegs.setM_rsbalt (r : ArchRegs) (n : BitVec 3) (x : Mask) : (r.setM n x).rsbalt = r.rsbalt := rfl
@[simp] theorem ArchRegs.setM_tvec (r : ArchRegs) (n : BitVec 3) (x : Mask) : (r.setM n x).tvec = r.tvec := rfl
@[simp] theorem ArchRegs.setM_nests (r : ArchRegs) (n : BitVec 3) (x : Mask) : (r.setM n x).nests = r.nests := rfl
@[simp] theorem ArchRegs.setM_fmt (r : ArchRegs) (n : BitVec 3) (x : Mask) : (r.setM n x).fmt = r.fmt := rfl
@[simp] theorem ArchRegs.setM_coarse (r : ArchRegs) (n : BitVec 3) (x : Mask) : (r.setM n x).coarse = r.coarse := rfl
@[simp] theorem ArchRegs.setM_sp24 (r : ArchRegs) (n : BitVec 3) (x : Mask) : (r.setM n x).sp24 = r.sp24 := rfl
@[simp] theorem ArchRegs.setM_tree (r : ArchRegs) (n : BitVec 3) (x : Mask) : (r.setM n x).tree = r.tree := rfl
@[simp] theorem ArchRegs.setM_src (r : ArchRegs) (n : BitVec 3) (x : Mask) : (r.setM n x).src = r.src := rfl
@[simp] theorem ArchRegs.setQ_s (r : ArchRegs) (n : BitVec 2) (x : QReg) : (r.setQ n x).s = r.s := rfl
@[simp] theorem ArchRegs.setQ_v (r : ArchRegs) (n : BitVec 2) (x : QReg) : (r.setQ n x).v = r.v := rfl
@[simp] theorem ArchRegs.setQ_m (r : ArchRegs) (n : BitVec 2) (x : QReg) : (r.setQ n x).m = r.m := rfl
@[simp] theorem ArchRegs.setQ_g (r : ArchRegs) (n : BitVec 2) (x : QReg) : (r.setQ n x).g = r.g := rfl
@[simp] theorem ArchRegs.setQ_l (r : ArchRegs) (n : BitVec 2) (x : QReg) : (r.setQ n x).l = r.l := rfl
@[simp] theorem ArchRegs.setQ_tiles (r : ArchRegs) (n : BitVec 2) (x : QReg) : (r.setQ n x).tiles = r.tiles := rfl
@[simp] theorem ArchRegs.setQ_tshape (r : ArchRegs) (n : BitVec 2) (x : QReg) : (r.setQ n x).tshape = r.tshape := rfl
@[simp] theorem ArchRegs.setQ_claimed (r : ArchRegs) (n : BitVec 2) (x : QReg) : (r.setQ n x).claimed = r.claimed := rfl
@[simp] theorem ArchRegs.setQ_owner (r : ArchRegs) (n : BitVec 2) (x : QReg) : (r.setQ n x).owner = r.owner := rfl
@[simp] theorem ArchRegs.setQ_valid (r : ArchRegs) (n : BitVec 2) (x : QReg) : (r.setQ n x).valid = r.valid := rfl
@[simp] theorem ArchRegs.setQ_dirty (r : ArchRegs) (n : BitVec 2) (x : QReg) : (r.setQ n x).dirty = r.dirty := rfl
@[simp] theorem ArchRegs.setQ_act (r : ArchRegs) (n : BitVec 2) (x : QReg) : (r.setQ n x).act = r.act := rfl
@[simp] theorem ArchRegs.setQ_fflags (r : ArchRegs) (n : BitVec 2) (x : QReg) : (r.setQ n x).fflags = r.fflags := rfl
@[simp] theorem ArchRegs.setQ_mxc (r : ArchRegs) (n : BitVec 2) (x : QReg) : (r.setQ n x).mxc = r.mxc := rfl
@[simp] theorem ArchRegs.setQ_rsb (r : ArchRegs) (n : BitVec 2) (x : QReg) : (r.setQ n x).rsb = r.rsb := rfl
@[simp] theorem ArchRegs.setQ_rsbalt (r : ArchRegs) (n : BitVec 2) (x : QReg) : (r.setQ n x).rsbalt = r.rsbalt := rfl
@[simp] theorem ArchRegs.setQ_tvec (r : ArchRegs) (n : BitVec 2) (x : QReg) : (r.setQ n x).tvec = r.tvec := rfl
@[simp] theorem ArchRegs.setQ_nests (r : ArchRegs) (n : BitVec 2) (x : QReg) : (r.setQ n x).nests = r.nests := rfl
@[simp] theorem ArchRegs.setQ_fmt (r : ArchRegs) (n : BitVec 2) (x : QReg) : (r.setQ n x).fmt = r.fmt := rfl
@[simp] theorem ArchRegs.setQ_coarse (r : ArchRegs) (n : BitVec 2) (x : QReg) : (r.setQ n x).coarse = r.coarse := rfl
@[simp] theorem ArchRegs.setQ_sp24 (r : ArchRegs) (n : BitVec 2) (x : QReg) : (r.setQ n x).sp24 = r.sp24 := rfl
@[simp] theorem ArchRegs.setQ_tree (r : ArchRegs) (n : BitVec 2) (x : QReg) : (r.setQ n x).tree = r.tree := rfl
@[simp] theorem ArchRegs.setQ_src (r : ArchRegs) (n : BitVec 2) (x : QReg) : (r.setQ n x).src = r.src := rfl
@[simp] theorem ArchRegs.setL_s (r : ArchRegs) (n : BitVec 2) (x : Landing) : (r.setL n x).s = r.s := rfl
@[simp] theorem ArchRegs.setL_v (r : ArchRegs) (n : BitVec 2) (x : Landing) : (r.setL n x).v = r.v := rfl
@[simp] theorem ArchRegs.setL_m (r : ArchRegs) (n : BitVec 2) (x : Landing) : (r.setL n x).m = r.m := rfl
@[simp] theorem ArchRegs.setL_g (r : ArchRegs) (n : BitVec 2) (x : Landing) : (r.setL n x).g = r.g := rfl
@[simp] theorem ArchRegs.setL_q (r : ArchRegs) (n : BitVec 2) (x : Landing) : (r.setL n x).q = r.q := rfl
@[simp] theorem ArchRegs.setL_tiles (r : ArchRegs) (n : BitVec 2) (x : Landing) : (r.setL n x).tiles = r.tiles := rfl
@[simp] theorem ArchRegs.setL_tshape (r : ArchRegs) (n : BitVec 2) (x : Landing) : (r.setL n x).tshape = r.tshape := rfl
@[simp] theorem ArchRegs.setL_claimed (r : ArchRegs) (n : BitVec 2) (x : Landing) : (r.setL n x).claimed = r.claimed := rfl
@[simp] theorem ArchRegs.setL_owner (r : ArchRegs) (n : BitVec 2) (x : Landing) : (r.setL n x).owner = r.owner := rfl
@[simp] theorem ArchRegs.setL_valid (r : ArchRegs) (n : BitVec 2) (x : Landing) : (r.setL n x).valid = r.valid := rfl
@[simp] theorem ArchRegs.setL_dirty (r : ArchRegs) (n : BitVec 2) (x : Landing) : (r.setL n x).dirty = r.dirty := rfl
@[simp] theorem ArchRegs.setL_act (r : ArchRegs) (n : BitVec 2) (x : Landing) : (r.setL n x).act = r.act := rfl
@[simp] theorem ArchRegs.setL_fflags (r : ArchRegs) (n : BitVec 2) (x : Landing) : (r.setL n x).fflags = r.fflags := rfl
@[simp] theorem ArchRegs.setL_mxc (r : ArchRegs) (n : BitVec 2) (x : Landing) : (r.setL n x).mxc = r.mxc := rfl
@[simp] theorem ArchRegs.setL_rsb (r : ArchRegs) (n : BitVec 2) (x : Landing) : (r.setL n x).rsb = r.rsb := rfl
@[simp] theorem ArchRegs.setL_rsbalt (r : ArchRegs) (n : BitVec 2) (x : Landing) : (r.setL n x).rsbalt = r.rsbalt := rfl
@[simp] theorem ArchRegs.setL_tvec (r : ArchRegs) (n : BitVec 2) (x : Landing) : (r.setL n x).tvec = r.tvec := rfl
@[simp] theorem ArchRegs.setL_nests (r : ArchRegs) (n : BitVec 2) (x : Landing) : (r.setL n x).nests = r.nests := rfl
@[simp] theorem ArchRegs.setL_fmt (r : ArchRegs) (n : BitVec 2) (x : Landing) : (r.setL n x).fmt = r.fmt := rfl
@[simp] theorem ArchRegs.setL_coarse (r : ArchRegs) (n : BitVec 2) (x : Landing) : (r.setL n x).coarse = r.coarse := rfl
@[simp] theorem ArchRegs.setL_sp24 (r : ArchRegs) (n : BitVec 2) (x : Landing) : (r.setL n x).sp24 = r.sp24 := rfl
@[simp] theorem ArchRegs.setL_tree (r : ArchRegs) (n : BitVec 2) (x : Landing) : (r.setL n x).tree = r.tree := rfl
@[simp] theorem ArchRegs.setL_src (r : ArchRegs) (n : BitVec 2) (x : Landing) : (r.setL n x).src = r.src := rfl
@[simp] theorem ArchRegs.setTile_s (r : ArchRegs) (n : BitVec 3) (x : TileBits) : (r.setTile n x).s = r.s := rfl
@[simp] theorem ArchRegs.setTile_v (r : ArchRegs) (n : BitVec 3) (x : TileBits) : (r.setTile n x).v = r.v := rfl
@[simp] theorem ArchRegs.setTile_m (r : ArchRegs) (n : BitVec 3) (x : TileBits) : (r.setTile n x).m = r.m := rfl
@[simp] theorem ArchRegs.setTile_g (r : ArchRegs) (n : BitVec 3) (x : TileBits) : (r.setTile n x).g = r.g := rfl
@[simp] theorem ArchRegs.setTile_q (r : ArchRegs) (n : BitVec 3) (x : TileBits) : (r.setTile n x).q = r.q := rfl
@[simp] theorem ArchRegs.setTile_l (r : ArchRegs) (n : BitVec 3) (x : TileBits) : (r.setTile n x).l = r.l := rfl
@[simp] theorem ArchRegs.setTile_tshape (r : ArchRegs) (n : BitVec 3) (x : TileBits) : (r.setTile n x).tshape = r.tshape := rfl
@[simp] theorem ArchRegs.setTile_claimed (r : ArchRegs) (n : BitVec 3) (x : TileBits) : (r.setTile n x).claimed = r.claimed := rfl
@[simp] theorem ArchRegs.setTile_owner (r : ArchRegs) (n : BitVec 3) (x : TileBits) : (r.setTile n x).owner = r.owner := rfl
@[simp] theorem ArchRegs.setTile_valid (r : ArchRegs) (n : BitVec 3) (x : TileBits) : (r.setTile n x).valid = r.valid := rfl
@[simp] theorem ArchRegs.setTile_dirty (r : ArchRegs) (n : BitVec 3) (x : TileBits) : (r.setTile n x).dirty = r.dirty := rfl
@[simp] theorem ArchRegs.setTile_act (r : ArchRegs) (n : BitVec 3) (x : TileBits) : (r.setTile n x).act = r.act := rfl
@[simp] theorem ArchRegs.setTile_fflags (r : ArchRegs) (n : BitVec 3) (x : TileBits) : (r.setTile n x).fflags = r.fflags := rfl
@[simp] theorem ArchRegs.setTile_mxc (r : ArchRegs) (n : BitVec 3) (x : TileBits) : (r.setTile n x).mxc = r.mxc := rfl
@[simp] theorem ArchRegs.setTile_rsb (r : ArchRegs) (n : BitVec 3) (x : TileBits) : (r.setTile n x).rsb = r.rsb := rfl
@[simp] theorem ArchRegs.setTile_rsbalt (r : ArchRegs) (n : BitVec 3) (x : TileBits) : (r.setTile n x).rsbalt = r.rsbalt := rfl
@[simp] theorem ArchRegs.setTile_tvec (r : ArchRegs) (n : BitVec 3) (x : TileBits) : (r.setTile n x).tvec = r.tvec := rfl
@[simp] theorem ArchRegs.setTile_nests (r : ArchRegs) (n : BitVec 3) (x : TileBits) : (r.setTile n x).nests = r.nests := rfl
@[simp] theorem ArchRegs.setTile_fmt (r : ArchRegs) (n : BitVec 3) (x : TileBits) : (r.setTile n x).fmt = r.fmt := rfl
@[simp] theorem ArchRegs.setTile_coarse (r : ArchRegs) (n : BitVec 3) (x : TileBits) : (r.setTile n x).coarse = r.coarse := rfl
@[simp] theorem ArchRegs.setTile_sp24 (r : ArchRegs) (n : BitVec 3) (x : TileBits) : (r.setTile n x).sp24 = r.sp24 := rfl
@[simp] theorem ArchRegs.setTile_tree (r : ArchRegs) (n : BitVec 3) (x : TileBits) : (r.setTile n x).tree = r.tree := rfl
@[simp] theorem ArchRegs.setTile_src (r : ArchRegs) (n : BitVec 3) (x : TileBits) : (r.setTile n x).src = r.src := rfl
@[simp] theorem ArchRegs.setTile_lines (r : ArchRegs) (n : BitVec 3) (x : TileBits) : (r.setTile n x).lines = r.lines := rfl
@[simp] theorem ArchRegs.emptyL_s (r : ArchRegs) (n : BitVec 2) : (r.emptyL n).s = r.s := rfl
@[simp] theorem ArchRegs.emptyL_v (r : ArchRegs) (n : BitVec 2) : (r.emptyL n).v = r.v := rfl
@[simp] theorem ArchRegs.emptyL_m (r : ArchRegs) (n : BitVec 2) : (r.emptyL n).m = r.m := rfl
@[simp] theorem ArchRegs.emptyL_g (r : ArchRegs) (n : BitVec 2) : (r.emptyL n).g = r.g := rfl
@[simp] theorem ArchRegs.emptyL_q (r : ArchRegs) (n : BitVec 2) : (r.emptyL n).q = r.q := rfl
@[simp] theorem ArchRegs.emptyL_tiles (r : ArchRegs) (n : BitVec 2) : (r.emptyL n).tiles = r.tiles := rfl
@[simp] theorem ArchRegs.emptyL_tshape (r : ArchRegs) (n : BitVec 2) : (r.emptyL n).tshape = r.tshape := rfl
@[simp] theorem ArchRegs.emptyL_claimed (r : ArchRegs) (n : BitVec 2) : (r.emptyL n).claimed = r.claimed := rfl
@[simp] theorem ArchRegs.emptyL_owner (r : ArchRegs) (n : BitVec 2) : (r.emptyL n).owner = r.owner := rfl
@[simp] theorem ArchRegs.emptyL_valid (r : ArchRegs) (n : BitVec 2) : (r.emptyL n).valid = r.valid := rfl
@[simp] theorem ArchRegs.emptyL_dirty (r : ArchRegs) (n : BitVec 2) : (r.emptyL n).dirty = r.dirty := rfl
@[simp] theorem ArchRegs.emptyL_act (r : ArchRegs) (n : BitVec 2) : (r.emptyL n).act = r.act := rfl
@[simp] theorem ArchRegs.emptyL_fflags (r : ArchRegs) (n : BitVec 2) : (r.emptyL n).fflags = r.fflags := rfl
@[simp] theorem ArchRegs.emptyL_mxc (r : ArchRegs) (n : BitVec 2) : (r.emptyL n).mxc = r.mxc := rfl
@[simp] theorem ArchRegs.emptyL_rsb (r : ArchRegs) (n : BitVec 2) : (r.emptyL n).rsb = r.rsb := rfl
@[simp] theorem ArchRegs.emptyL_rsbalt (r : ArchRegs) (n : BitVec 2) : (r.emptyL n).rsbalt = r.rsbalt := rfl
@[simp] theorem ArchRegs.emptyL_tvec (r : ArchRegs) (n : BitVec 2) : (r.emptyL n).tvec = r.tvec := rfl
@[simp] theorem ArchRegs.emptyL_nests (r : ArchRegs) (n : BitVec 2) : (r.emptyL n).nests = r.nests := rfl
@[simp] theorem ArchRegs.emptyL_fmt (r : ArchRegs) (n : BitVec 2) : (r.emptyL n).fmt = r.fmt := rfl
@[simp] theorem ArchRegs.emptyL_coarse (r : ArchRegs) (n : BitVec 2) : (r.emptyL n).coarse = r.coarse := rfl
@[simp] theorem ArchRegs.emptyL_sp24 (r : ArchRegs) (n : BitVec 2) : (r.emptyL n).sp24 = r.sp24 := rfl
@[simp] theorem ArchRegs.emptyL_tree (r : ArchRegs) (n : BitVec 2) : (r.emptyL n).tree = r.tree := rfl
@[simp] theorem ArchRegs.emptyL_src (r : ArchRegs) (n : BitVec 2) : (r.emptyL n).src = r.src := rfl
@[simp] theorem ArchRegs.setG_s (r : ArchRegs) (n x : BitVec 8) : (r.setG n x).s = r.s := rfl
@[simp] theorem ArchRegs.setG_v (r : ArchRegs) (n x : BitVec 8) : (r.setG n x).v = r.v := rfl
@[simp] theorem ArchRegs.setG_m (r : ArchRegs) (n x : BitVec 8) : (r.setG n x).m = r.m := rfl
@[simp] theorem ArchRegs.setG_q (r : ArchRegs) (n x : BitVec 8) : (r.setG n x).q = r.q := rfl
@[simp] theorem ArchRegs.setG_l (r : ArchRegs) (n x : BitVec 8) : (r.setG n x).l = r.l := rfl
@[simp] theorem ArchRegs.setG_tiles (r : ArchRegs) (n x : BitVec 8) : (r.setG n x).tiles = r.tiles := rfl
@[simp] theorem ArchRegs.setG_tshape (r : ArchRegs) (n x : BitVec 8) : (r.setG n x).tshape = r.tshape := rfl
@[simp] theorem ArchRegs.setG_claimed (r : ArchRegs) (n x : BitVec 8) : (r.setG n x).claimed = r.claimed := rfl
@[simp] theorem ArchRegs.setG_owner (r : ArchRegs) (n x : BitVec 8) : (r.setG n x).owner = r.owner := rfl
@[simp] theorem ArchRegs.setG_valid (r : ArchRegs) (n x : BitVec 8) : (r.setG n x).valid = r.valid := rfl
@[simp] theorem ArchRegs.setG_dirty (r : ArchRegs) (n x : BitVec 8) : (r.setG n x).dirty = r.dirty := rfl
@[simp] theorem ArchRegs.setG_act (r : ArchRegs) (n x : BitVec 8) : (r.setG n x).act = r.act := rfl
@[simp] theorem ArchRegs.setG_fflags (r : ArchRegs) (n x : BitVec 8) : (r.setG n x).fflags = r.fflags := rfl
@[simp] theorem ArchRegs.setG_mxc (r : ArchRegs) (n x : BitVec 8) : (r.setG n x).mxc = r.mxc := rfl
@[simp] theorem ArchRegs.setG_rsb (r : ArchRegs) (n x : BitVec 8) : (r.setG n x).rsb = r.rsb := rfl
@[simp] theorem ArchRegs.setG_rsbalt (r : ArchRegs) (n x : BitVec 8) : (r.setG n x).rsbalt = r.rsbalt := rfl
@[simp] theorem ArchRegs.setG_tvec (r : ArchRegs) (n x : BitVec 8) : (r.setG n x).tvec = r.tvec := rfl
@[simp] theorem ArchRegs.setG_nests (r : ArchRegs) (n x : BitVec 8) : (r.setG n x).nests = r.nests := rfl
@[simp] theorem ArchRegs.setG_fmt (r : ArchRegs) (n x : BitVec 8) : (r.setG n x).fmt = r.fmt := rfl
@[simp] theorem ArchRegs.setG_coarse (r : ArchRegs) (n x : BitVec 8) : (r.setG n x).coarse = r.coarse := rfl
@[simp] theorem ArchRegs.setG_sp24 (r : ArchRegs) (n x : BitVec 8) : (r.setG n x).sp24 = r.sp24 := rfl
@[simp] theorem ArchRegs.setG_tree (r : ArchRegs) (n x : BitVec 8) : (r.setG n x).tree = r.tree := rfl
@[simp] theorem ArchRegs.setG_src (r : ArchRegs) (n x : BitVec 8) : (r.setG n x).src = r.src := rfl
@[simp] theorem ArchRegs.setS_v (r : ArchRegs) (n : BitVec 6) (x : Word) : (r.setS n x).v = r.v := by
  unfold ArchRegs.setS; split <;> rfl
@[simp] theorem ArchRegs.setS_m (r : ArchRegs) (n : BitVec 6) (x : Word) : (r.setS n x).m = r.m := by
  unfold ArchRegs.setS; split <;> rfl
@[simp] theorem ArchRegs.setS_g (r : ArchRegs) (n : BitVec 6) (x : Word) : (r.setS n x).g = r.g := by
  unfold ArchRegs.setS; split <;> rfl
@[simp] theorem ArchRegs.setS_q (r : ArchRegs) (n : BitVec 6) (x : Word) : (r.setS n x).q = r.q := by
  unfold ArchRegs.setS; split <;> rfl
@[simp] theorem ArchRegs.setS_l (r : ArchRegs) (n : BitVec 6) (x : Word) : (r.setS n x).l = r.l := by
  unfold ArchRegs.setS; split <;> rfl
@[simp] theorem ArchRegs.setS_tiles (r : ArchRegs) (n : BitVec 6) (x : Word) : (r.setS n x).tiles = r.tiles := by
  unfold ArchRegs.setS; split <;> rfl
@[simp] theorem ArchRegs.setS_tshape (r : ArchRegs) (n : BitVec 6) (x : Word) : (r.setS n x).tshape = r.tshape := by
  unfold ArchRegs.setS; split <;> rfl
@[simp] theorem ArchRegs.setS_claimed (r : ArchRegs) (n : BitVec 6) (x : Word) : (r.setS n x).claimed = r.claimed := by
  unfold ArchRegs.setS; split <;> rfl
@[simp] theorem ArchRegs.setS_owner (r : ArchRegs) (n : BitVec 6) (x : Word) : (r.setS n x).owner = r.owner := by
  unfold ArchRegs.setS; split <;> rfl
@[simp] theorem ArchRegs.setS_valid (r : ArchRegs) (n : BitVec 6) (x : Word) : (r.setS n x).valid = r.valid := by
  unfold ArchRegs.setS; split <;> rfl
@[simp] theorem ArchRegs.setS_dirty (r : ArchRegs) (n : BitVec 6) (x : Word) : (r.setS n x).dirty = r.dirty := by
  unfold ArchRegs.setS; split <;> rfl
@[simp] theorem ArchRegs.setS_act (r : ArchRegs) (n : BitVec 6) (x : Word) : (r.setS n x).act = r.act := by
  unfold ArchRegs.setS; split <;> rfl
@[simp] theorem ArchRegs.setS_fflags (r : ArchRegs) (n : BitVec 6) (x : Word) : (r.setS n x).fflags = r.fflags := by
  unfold ArchRegs.setS; split <;> rfl
@[simp] theorem ArchRegs.setS_mxc (r : ArchRegs) (n : BitVec 6) (x : Word) : (r.setS n x).mxc = r.mxc := by
  unfold ArchRegs.setS; split <;> rfl
@[simp] theorem ArchRegs.setS_rsb (r : ArchRegs) (n : BitVec 6) (x : Word) : (r.setS n x).rsb = r.rsb := by
  unfold ArchRegs.setS; split <;> rfl
@[simp] theorem ArchRegs.setS_rsbalt (r : ArchRegs) (n : BitVec 6) (x : Word) : (r.setS n x).rsbalt = r.rsbalt := by
  unfold ArchRegs.setS; split <;> rfl
@[simp] theorem ArchRegs.setS_tvec (r : ArchRegs) (n : BitVec 6) (x : Word) : (r.setS n x).tvec = r.tvec := by
  unfold ArchRegs.setS; split <;> rfl
@[simp] theorem ArchRegs.setS_nests (r : ArchRegs) (n : BitVec 6) (x : Word) : (r.setS n x).nests = r.nests := by
  unfold ArchRegs.setS; split <;> rfl
@[simp] theorem ArchRegs.setS_fmt (r : ArchRegs) (n : BitVec 6) (x : Word) : (r.setS n x).fmt = r.fmt := by
  unfold ArchRegs.setS; split <;> rfl
@[simp] theorem ArchRegs.setS_coarse (r : ArchRegs) (n : BitVec 6) (x : Word) : (r.setS n x).coarse = r.coarse := by
  unfold ArchRegs.setS; split <;> rfl
@[simp] theorem ArchRegs.setS_sp24 (r : ArchRegs) (n : BitVec 6) (x : Word) : (r.setS n x).sp24 = r.sp24 := by
  unfold ArchRegs.setS; split <;> rfl
@[simp] theorem ArchRegs.setS_tree (r : ArchRegs) (n : BitVec 6) (x : Word) : (r.setS n x).tree = r.tree := by
  unfold ArchRegs.setS; split <;> rfl
@[simp] theorem ArchRegs.setS_src (r : ArchRegs) (n : BitVec 6) (x : Word) : (r.setS n x).src = r.src := by
  unfold ArchRegs.setS; split <;> rfl

/-- A write of s0 is discarded. -/
@[simp] theorem ArchRegs.setS_zero (r : ArchRegs) (x : Word) : r.setS 0 x = r := rfl

/-! ## Reading registers after a write -/

@[simp] theorem Core.sreg_zero (c : Core) : c.sreg 0 = 0 := rfl
@[simp] theorem Core.greg_zero (c : Core) : c.greg 0 = true := rfl

theorem Core.sreg_setS_same (c : Core) (n : BitVec 6) (x : Word) (h : n ≠ 0) :
    Core.sreg { c with r := c.r.setS n x } n = x := by
  unfold Core.sreg ArchRegs.setS
  rw [if_neg h, if_neg h]
  exact Vector.getElem_set_self _

theorem Core.sreg_setS_other (c : Core) (n m : BitVec 6) (x : Word) (h : m ≠ n) :
    Core.sreg { c with r := c.r.setS n x } m = c.sreg m := by
  have k : n.toNat ≠ m.toNat := fun e => h (BitVec.eq_of_toNat_eq e).symm
  unfold Core.sreg ArchRegs.setS
  split
  · rfl
  · split
    · rfl
    · exact Vector.getElem_set_ne n.isLt m.isLt k

@[simp] theorem Core.vreg_setV_same (c : Core) (n : BitVec 5) (x : Vec) : Core.vreg { c with r := c.r.setV n x } n = x :=
  Vector.getElem_set_self _

theorem Core.vreg_setV_other (c : Core) (n m : BitVec 5) (x : Vec) (h : m ≠ n) :
    Core.vreg { c with r := c.r.setV n x } m = c.vreg m :=
  Vector.getElem_set_ne n.isLt m.isLt fun e => h (BitVec.eq_of_toNat_eq e).symm

@[simp] theorem Core.mreg_setM_same (c : Core) (n : BitVec 3) (x : Mask) : Core.mreg { c with r := c.r.setM n x } n = x :=
  Vector.getElem_set_self _

theorem Core.mreg_setM_other (c : Core) (n m : BitVec 3) (x : Mask) (h : m ≠ n) :
    Core.mreg { c with r := c.r.setM n x } m = c.mreg m :=
  Vector.getElem_set_ne n.isLt m.isLt fun e => h (BitVec.eq_of_toNat_eq e).symm

end Sys2Proof.Machine
end

