-- ==== Sys2Proof/Laws/Issue.lean ====
section
/-! SUPPORT. What the shared operations do: issuing, holding and releasing effects, taking an exception, one step. -/

namespace Sys2Proof.Machine

/-! ## Issuing (R131, R240) -/

/-- An instruction that fails a check of R240 raises that fault, with its word in csr.tval, and does nothing else. -/
theorem State.run_of_fault {i : Instr} {s : State} {cause : Cause} (h : s.core.issueFault i = some cause) (f : State → State) :
    s.run i f = s.upd fun c => c.raise (slotOf i) cause (some (decodeTval (slotOf i) (encode i))) := by
  unfold State.run; rw [h]

/-- One of which a unit is condemned without a bypass raises UNIT_CONDEMNED and does nothing else. -/
theorem State.run_of_dead {i : Instr} {s : State} (h : s.core.issueFault i = none) (d : (unitsOf i).any s.dead = true)
    (f : State → State) : s.run i f = s.upd fun c => c.raise (slotOf i) .unitCondemned none := by
  unfold State.run; rw [h]; dsimp only [State.issue]; rw [if_pos d]

/-- One that an error strikes takes its fault and does nothing else. -/
theorem State.run_of_struck {i : Instr} {s : State} {x : Cause × Option Word} (h : s.core.issueFault i = none)
    (d : (unitsOf i).any s.dead = false) (k : s.core.strikes i = some x) (f : State → State) :
    s.run i f = s.upd fun c => c.struck (slotOf i) x := by
  unfold State.run; rw [h]; dsimp only [State.issue]; rw [if_neg (by rw [d]; decide), k]

/-- Every other one has its own effect. -/
theorem State.run_of_issues {i : Instr} {s : State} (h : s.core.issueFault i = none) (k : s.core.strikes i = none)
    (d : (unitsOf i).any s.dead = false) (f : State → State) : s.run i f = f s := by
  unfold State.run; rw [h]; dsimp only [State.issue]; rw [if_neg (by rw [d]; decide), k]

/-- Every instruction that has a word of its own goes through these checks. -/
theorem exec_runs (i : Instr) (h : slotOf i < 8) (s : State) : ∃ f : State → State, exec i s = .next (s.run i f) := by
  cases i <;> first
    | exact absurd h (Nat.lt_irrefl 8)
    | exact ⟨_, rfl⟩

/-! ## Reports (R128, R129) -/

/-- A report changes the error ring with its registers and CORESTATE, and nothing else. -/
theorem State.report_frame (s : State) (core unit kind detail : Nat) (info : Word) : ∃ ring tail lost full cs,
    s.report core unit kind detail info =
      { s with errRing := ring, errTail := tail, errLost := lost, errOverflow := full, cstate := cs } := by
  simp only [State.report, State.setCs]
  repeat' split
  all_goals exact ⟨_, _, _, _, _, rfl⟩

/-- A record about a package unit also draws its INFO. -/
theorem State.reportDomain_frame (s : State) (n : Nat) : ∃ ring tail lost full cs,
    s.reportDomain n =
      { s with errRing := ring, errTail := tail, errLost := lost, errOverflow := full, cstate := cs, fresh := s.fresh + 1 } := by
  obtain ⟨r, t, l, o, c, h⟩ := State.report_frame s.draw.2 0xFFFF (0xF000 + n) 9 0 (s.draw.1.extractLsb' 0 64)
  exact ⟨r, t, l, o, c, h⟩

/-- The training of HBM at a start leaves which stacks failed, and their reports. -/
theorem State.trained_frame (s : State) (failed : BitVec 8) : ∃ ring tail lost full cs fresh,
    s.trained failed = { s with
      stackBad := failed, errRing := ring, errTail := tail, errLost := lost, errOverflow := full, cstate := cs, fresh := fresh } := by
  suffices ∀ (l : List Nat) (u : State), (∃ ring tail lost full cs fresh, u = { s with
      stackBad := failed, errRing := ring, errTail := tail, errLost := lost, errOverflow := full, cstate := cs, fresh := fresh }) →
      ∃ ring tail lost full cs fresh, l.foldl (fun t n => t.reportDomain n) u = { s with
        stackBad := failed, errRing := ring, errTail := tail, errLost := lost, errOverflow := full, cstate := cs, fresh := fresh } from
    this _ _ ⟨_, _, _, _, _, _, rfl⟩
  intro l
  induction l with
  | nil => exact fun u h => h
  | cons n l ih =>
    rintro u ⟨r, t, o, v, c, f, rfl⟩
    refine ih _ ?_
    obtain ⟨r', t', o', v', c', h⟩ := State.reportDomain_frame { s with
      stackBad := failed, errRing := r, errTail := t, errLost := o, errOverflow := v, cstate := c, fresh := f } n
    exact ⟨r', t', o', v', c', _, h⟩

/-! ## Effects held and released (R193, R221, R360) -/

/-- On a control core an effect leaves at issue. -/
theorem State.gate_control (s : State) (slot cls reserved reads : Nat) (e : OutEffect) (h : s.core.isControl = true) :
    s.gate slot cls reserved reads e = { s with
      released := s.released ++ [⟨s.nextFill, s.core.id, clusterOf s.core.id, s.core.strand, s.core.ccy, slot, cls, reads, reserved, e⟩]
      nextFill := s.nextFill + 1 } := by
  unfold State.gate; rw [if_pos h]

/-- On a compute core it is held. -/
theorem State.gate_held (s : State) (slot cls reserved reads : Nat) (e : OutEffect) (h : s.core.isControl = false)
    (n : s.core.gated.length < 64) :
    s.gate slot cls reserved reads e = { s with
      core := { s.core with gated := s.core.gated ++ [⟨s.nextFill, s.core.id, clusterOf s.core.id, s.core.strand, s.core.ccy, slot, cls,
        reads, reserved, e⟩] }
      nextFill := s.nextFill + 1 } := by
  unfold State.gate; rw [if_neg (by rw [h]; decide), if_neg (by omega)]

/-- The 65th effect held raises GATE_BUFFER_FULL. -/
theorem State.gate_full (s : State) (slot cls reserved reads : Nat) (e : OutEffect) (h : s.core.isControl = false)
    (n : 64 ≤ s.core.gated.length) :
    s.gate slot cls reserved reads e = s.upd fun c => c.raise slot .gateBufferFull none := by
  unfold State.gate; rw [if_neg (by rw [h]; decide), if_pos n]

/-- A release touches no memory. -/
theorem State.release_memories (s : State) (ids : List Nat) :
    (s.release ids).hbm = s.hbm ∧ (s.release ids).hostMem = s.hostMem ∧ (s.release ids).flash = s.flash := ⟨rfl, rfl, rfl⟩

/-! ## Exceptions (R229, R236) -/

theorem State.takeException_enter {s : State} {id : Nat} {c : Core} {f : TrapRec} {v : Word} (esc : Bool) (resume : BitVec 17)
    (hs : s.coreOf id = some c) (hv : f.tval = some v) (hc : c.isControl = false) (hi : c.inh = false)
    (ht : c.r.tvec.getLsbD 63 = true) :
    s.takeException id f esc resume = s.onCore id fun c => c.enterHandler f v esc resume := by
  simp [State.takeException, hs, State.faultTval, hv, hc, hi, ht]

theorem State.takeException_fatal {s : State} {id : Nat} {c : Core} {f : TrapRec} {v : Word} (esc : Bool) (resume : BitVec 17)
    (hs : s.coreOf id = some c) (hv : f.tval = some v) (hc : c.isControl = false)
    (h : c.inh = true ∨ c.r.tvec.getLsbD 63 = false) :
    s.takeException id f esc resume = s.endTask c.task 7 f.cause.code v := by
  have h' : (c.inh || !c.r.tvec.getLsbD 63) = true := by rcases h with h | h <;> rw [h] <;> simp
  simp only [State.takeException, hs, State.faultTval, hv, hc, h']; rfl

theorem State.takeException_control {s : State} {id : Nat} {c : Core} {f : TrapRec} {v : Word} (esc : Bool) (resume : BitVec 17)
    (hs : s.coreOf id = some c) (hv : f.tval = some v) (hc : c.isControl = true) (hi : c.inh = false)
    (ht : c.r.tvec.getLsbD 63 = true) :
    s.takeException id f esc resume = s.onCore id fun c => c.enterControl f v resume := by
  simp [State.takeException, hs, State.faultTval, hv, hc, hi, ht]

theorem State.takeException_restart {s : State} {id : Nat} {c : Core} {f : TrapRec} {v : Word} (esc : Bool) (resume : BitVec 17)
    (hs : s.coreOf id = some c) (hv : f.tval = some v) (hc : c.isControl = true)
    (h : c.inh = true ∨ c.r.tvec.getLsbD 63 = false) :
    s.takeException id f esc resume = s.onCore id Core.restart := by
  have h' : (c.inh || !c.r.tvec.getLsbD 63) = true := by rcases h with h | h <;> rw [h] <;> simp
  simp only [State.takeException, hs, State.faultTval, hv, hc, h']; rfl

/-! ## One step -/

theorem step_of_stop {s : State} (h : s.nextAction = .stop) : step s = .fault .noPower := by unfold step; rw [h]

theorem step_of_event {s t : State} {i : Instr} (h : s.nextAction = .event i t) : step s = exec i t := by unfold step; rw [h]

theorem step_of_word {s t : State} {i : Instr} (h : s.nextAction = .word i t) :
    step s = match exec i t with
      | .next u => .next u.endOp
      | .fault f => .fault f
      | .refused r => .refused r := by
  (unfold step; rw [h]) <;> rfl

end Sys2Proof.Machine
end

