-- ==== Sys2Proof/Laws/Memory.lean ====
section
/-! SUPPORT. Sparse tables and memories: reading after a write, and that every memory operation keeps the canonical form. -/

namespace Sys2Proof.Machine

/-! ## Sparse tables -/

theorem SMap.get_put_other [DecidableEq α] (d : α) (k j : Nat) (x : α) (m : SMap α) (h : j ≠ k) :
    SMap.get d j (SMap.put d k x m) = SMap.get d j m := by
  induction m with
  | nil => unfold SMap.put; split <;> simp [SMap.get, Ne.symm h]
  | cons p t ih =>
    obtain ⟨i, y⟩ := p
    unfold SMap.put
    split
    · split <;> simp [SMap.get, Ne.symm h]
    · split
      · next e => subst e; split <;> simp [SMap.get, Ne.symm h]
      · simp [SMap.get, ih]

/-- A value other than the default reads back from any table. -/
theorem SMap.get_put_same_of_ne [DecidableEq α] (d : α) (k : Nat) (x : α) (m : SMap α) (h : x ≠ d) :
    SMap.get d k (SMap.put d k x m) = x := by
  induction m with
  | nil => simp [SMap.put, h, SMap.get]
  | cons p t ih =>
    obtain ⟨i, y⟩ := p
    unfold SMap.put
    split
    · simp [SMap.get]
    · split
      · simp [SMap.get]
      · next e => simp [SMap.get, Ne.symm e, ih]

/-- Below its first possible key a table holds nothing. -/
theorem SMap.get_of_wfFrom [DecidableEq α] (d : α) (lo k : Nat) (m : SMap α) (h : SMap.wfFrom d lo m = true) (hk : k < lo) :
    SMap.get d k m = d := by
  induction m generalizing lo with
  | nil => rfl
  | cons p t ih =>
    obtain ⟨i, y⟩ := p
    simp only [SMap.wfFrom, Bool.and_eq_true, decide_eq_true_eq] at h
    have : i ≠ k := by omega
    simp [SMap.get, this, ih (i + 1) h.2 (by omega)]

theorem SMap.get_put_same [DecidableEq α] (d : α) (lo k : Nat) (x : α) (m : SMap α) (h : SMap.wfFrom d lo m = true) :
    SMap.get d k (SMap.put d k x m) = x := by
  induction m generalizing lo with
  | nil => unfold SMap.put; split <;> simp_all [SMap.get]
  | cons p t ih =>
    obtain ⟨i, y⟩ := p
    simp only [SMap.wfFrom, Bool.and_eq_true, decide_eq_true_eq] at h
    unfold SMap.put
    split
    · split
      · next h1 h2 =>
        have h3 : i ≠ k := by omega
        simp [SMap.get, h3, SMap.get_of_wfFrom d (i + 1) k t h.2 (by omega), h2]
      · simp [SMap.get]
    · split
      · next h1 h2 =>
        split
        · next h3 => rw [SMap.get_of_wfFrom d (i + 1) k t h.2 (by omega), h3]
        · simp [SMap.get]
      · next e => simp [SMap.get, Ne.symm e, ih (i + 1) h.2]

theorem SMap.wfFrom_mono [DecidableEq α] (d : α) (lo lo' : Nat) (m : SMap α) (h : SMap.wfFrom d lo m = true) (hl : lo' ≤ lo) :
    SMap.wfFrom d lo' m = true := by
  cases m with
  | nil => rfl
  | cons p t =>
    simp only [SMap.wfFrom, Bool.and_eq_true, decide_eq_true_eq] at h ⊢
    exact ⟨⟨by omega, h.1.2⟩, h.2⟩

theorem SMap.put_wfFrom [DecidableEq α] (d : α) (lo k : Nat) (x : α) (m : SMap α) (h : SMap.wfFrom d lo m = true) (hk : lo ≤ k) :
    SMap.wfFrom d lo (SMap.put d k x m) = true := by
  induction m generalizing lo with
  | nil => unfold SMap.put; split <;> simp_all [SMap.wfFrom]
  | cons p t ih =>
    obtain ⟨i, y⟩ := p
    have h' := h
    simp only [SMap.wfFrom, Bool.and_eq_true, decide_eq_true_eq] at h
    unfold SMap.put
    split
    · split
      · exact h'
      · next h1 h2 =>
        simp only [SMap.wfFrom, Bool.and_eq_true, decide_eq_true_eq]
        exact ⟨⟨hk, h2⟩, ⟨by omega, h.1.2⟩, h.2⟩
    · split
      · next h1 h2 =>
        subst h2
        split
        · exact SMap.wfFrom_mono d (k + 1) lo t h.2 (by omega)
        · next h3 =>
          simp only [SMap.wfFrom, Bool.and_eq_true, decide_eq_true_eq]
          exact ⟨⟨hk, h3⟩, h.2⟩
      · next h1 h2 =>
        simp only [SMap.wfFrom, Bool.and_eq_true, decide_eq_true_eq]
        exact ⟨h.1, ih (i + 1) h.2 (by omega)⟩

theorem SMap.filter_wfFrom [DecidableEq α] (d : α) (lo : Nat) (p : Nat × α → Bool) (m : SMap α) (h : SMap.wfFrom d lo m = true) :
    SMap.wfFrom d lo (m.filter p) = true := by
  induction m generalizing lo with
  | nil => rfl
  | cons q t ih =>
    simp only [SMap.wfFrom, Bool.and_eq_true, decide_eq_true_eq] at h
    rw [List.filter_cons]
    split
    · simp only [SMap.wfFrom, Bool.and_eq_true, decide_eq_true_eq]
      exact ⟨h.1, ih (q.1 + 1) h.2⟩
    · exact SMap.wfFrom_mono d (q.1 + 1) lo _ (ih (q.1 + 1) h.2) (by omega)

theorem SMap.get_filter_keep (d : α) (k : Nat) (p : Nat × α → Bool) (m : SMap α) (h : ∀ x, p (k, x) = true) :
    SMap.get d k (m.filter p) = SMap.get d k m := by
  induction m with
  | nil => rfl
  | cons q t ih =>
    obtain ⟨i, y⟩ := q
    rw [List.filter_cons]
    by_cases e : i = k
    · subst e; simp [h, SMap.get]
    · split <;> simp [SMap.get, e, ih]

theorem SMap.get_filter_drop (d : α) (k : Nat) (p : Nat × α → Bool) (m : SMap α) (h : ∀ x, p (k, x) = false) :
    SMap.get d k (m.filter p) = d := by
  induction m with
  | nil => rfl
  | cons q t ih =>
    obtain ⟨i, y⟩ := q
    rw [List.filter_cons]
    split
    · next e =>
      have : i ≠ k := by intro e2; subst e2; simp [h] at e
      simp [SMap.get, this, ih]
    · exact ih

/-! ## Memories -/

theorem Memory.read_write_same (m : Memory) (a : Nat) (b : Byte) (h : m.wf = true) : (m.write a b).read a = b :=
  SMap.get_put_same _ 0 _ _ _ h

theorem Memory.read_write_other (m : Memory) (a c : Nat) (b : Byte) (h : c ≠ a) : (m.write a b).read c = m.read c :=
  SMap.get_put_other _ _ _ _ _ h

theorem Memory.write_wf (m : Memory) (a : Nat) (b : Byte) (h : m.wf = true) : (m.write a b).wf = true :=
  SMap.put_wfFrom _ 0 _ _ _ h (Nat.zero_le _)

theorem Memory.writeCells_wf (cs : List (Nat × Byte)) (m : Memory) (h : m.wf = true) : (m.writeCells cs).wf = true := by
  induction cs generalizing m with
  | nil => exact h
  | cons c t ih => exact ih _ (Memory.write_wf m c.1 c.2 h)

theorem Memory.read_writeCells_other (cs : List (Nat × Byte)) (m : Memory) (a : Nat) (h : a ∉ cs.map (·.1)) :
    (m.writeCells cs).read a = m.read a := by
  induction cs generalizing m with
  | nil => rfl
  | cons c t ih =>
    simp only [List.map_cons, List.mem_cons, not_or] at h
    exact (ih _ h.2).trans (Memory.read_write_other m c.1 a c.2 h.1)

/-- Of cells with different addresses, each reads back. -/
theorem Memory.read_writeCells_same (cs : List (Nat × Byte)) (m : Memory) (h : m.wf = true) (hn : (cs.map (·.1)).Nodup)
    (c : Nat × Byte) (hc : c ∈ cs) : (m.writeCells cs).read c.1 = c.2 := by
  induction cs generalizing m with
  | nil => cases hc
  | cons e t ih =>
    rw [List.map_cons, List.nodup_cons] at hn
    rcases List.mem_cons.mp hc with rfl | hc
    · exact (Memory.read_writeCells_other t _ _ hn.1).trans (Memory.read_write_same m c.1 c.2 h)
    · exact ih _ (Memory.write_wf m e.1 e.2 h) hn.2 hc

theorem Memory.writeBytes_wf (m : Memory) (a : Nat) (bs : List Byte) (h : m.wf = true) : (m.writeBytes a bs).wf = true :=
  Memory.writeCells_wf _ m h

theorem Memory.clear_wf (m : Memory) (a n : Nat) (h : m.wf = true) : (m.clear a n).wf = true := SMap.filter_wfFrom _ 0 _ m h

theorem Memory.read_clear_inside (m : Memory) (a n k : Nat) (h : a ≤ k ∧ k < a + n) : (m.clear a n).read k = Memory.blank :=
  SMap.get_filter_drop _ k _ m fun _ => by simp only [Bool.or_eq_false_iff, decide_eq_false_iff_not]; omega

theorem Memory.read_clear_outside (m : Memory) (a n k : Nat) (h : k < a ∨ a + n ≤ k) : (m.clear a n).read k = m.read k :=
  SMap.get_filter_keep _ k _ m fun _ => by simp only [Bool.or_eq_true, decide_eq_true_eq]; omega

theorem Memory.copyRange_wf (src dst : Memory) (a n b : Nat) (h : dst.wf = true) : (Memory.copyRange src a n b dst).wf = true :=
  Memory.writeCells_wf _ _ (Memory.clear_wf dst b n h)

theorem ringWrite_wf (m : Memory) (a : Nat) (bs : List Byte) (h : m.wf = true) : (ringWrite m a bs).wf = true :=
  Memory.writeCells_wf _ m h

/-! ## The memories of the part -/

/-- What every state of a run begins from. -/
theorem State.reset_memWf : State.reset.memWf = true := by decide

theorem State.hbmPut_wf (s : State) (i : Nat) (x : Vec) (w : Word) (h : s.hbm.wf = true) : (s.hbmPut i x w).hbm.wf = true := by
  unfold State.hbmPut
  generalize xorBytes (lineBytes x) (blankLine i) = bs
  exact Memory.writeBytes_wf s.hbm (128 * i) bs h

theorem State.hbmWrite_wf (s : State) (i : Nat) (k : MemKey) (x : Vec) (h : s.hbm.wf = true) : (s.hbmWrite i k x).hbm.wf = true := by
  unfold State.hbmWrite
  generalize s.encrypted k i x = e
  exact State.hbmPut_wf s i e.1 e.2 h

theorem State.writeback_wf (s : State) (l : Line) (h : s.hbm.wf = true) : (s.writeback l).hbm.wf = true := by
  unfold State.writeback
  cases l.dirty with
  | false => exact h
  | true =>
    rw [if_neg (by decide : ¬(!true) = true)]
    dsimp only
    split
    · exact h
    · exact State.hbmPut_wf s _ _ _ h

theorem State.blankFrame_wf (s : State) (f : Nat) (h : s.hbm.wf = true) : (s.blankFrame f).hbm.wf = true :=
  Memory.clear_wf _ _ _ h

/-- A fold of an operation that keeps a property keeps it. -/
theorem foldl_keeps {σ α : Type} (P : σ → Prop) (f : σ → α → σ) (h : ∀ s a, P s → P (f s a)) (l : List α) (s : σ) (hs : P s) :
    P (l.foldl f s) := by
  induction l generalizing s with
  | nil => exact hs
  | cons a t ih => exact ih _ (h s a hs)

theorem State.drainWb_wf (s : State) (h : s.hbm.wf = true) : s.drainWb.hbm.wf = true :=
  foldl_keeps (fun t : State => t.hbm.wf = true) _ (fun t w ht => by
    cases s.wbWaits w with
    | true => exact ht
    | false => exact State.hbmPut_wf t _ _ _ ht) _ _ h

theorem State.hbmStore_wf (s : State) (k : MemKey) (bs : List (Nat × Byte)) (h : s.hbm.wf = true) : (s.hbmStore k bs).hbm.wf = true :=
  foldl_keeps (fun t : State => t.hbm.wf = true) _ (fun t i ht => State.hbmWrite_wf t i k _ ht) _ s h

theorem State.dropLines_hbm (s : State) (p : Line → Bool) : (s.dropLines p).hbm = s.hbm := by
  unfold State.dropLines
  dsimp only
  split <;> rfl

theorem State.evictLines_wf (s : State) (p : Line → Bool) (h : s.hbm.wf = true) : (s.evictLines p).hbm.wf = true := by
  unfold State.evictLines
  rw [State.dropLines_hbm]
  exact foldl_keeps (fun t : State => t.hbm.wf = true) State.writeback (fun t l ht => State.writeback_wf t l ht) _ s h

theorem State.install_wf (s : State) (c i : Nat) (k : MemKey) (x : Nat) (v : Vec) (d : Bool) (h : s.hbm.wf = true) :
    (s.install c i k x v d).hbm.wf = true := by
  unfold State.install
  generalize s.encrypted k i v = e
  dsimp only
  split
  · exact h
  · split
    · exact h
    · next way victim _ =>
      cases victim with
      | none => exact h
      | some l => exact State.writeback_wf s l h

theorem State.commitRegion_wf (s : State) (core : Nat) (h : s.active.wf = true) : (s.commitRegion core).active.wf = true :=
  Memory.copyRange_wf _ _ _ _ _ h

/-! ## A core's scratchpad -/

theorem Core.recordRow_lcl (c : Core) (row : Nat) : (c.recordRow row).lcl = c.lcl := by
  unfold Core.recordRow; split <;> rfl

theorem Core.recordRows_lcl (rows : List Nat) (c : Core) : (rows.foldl Core.recordRow c).lcl = c.lcl :=
  foldl_keeps (fun d : Core => d.lcl = c.lcl) _ (fun d r hd => (d.recordRow_lcl r).trans hd) rows c rfl

/-- Words that are bad no more: all else of the core stays. -/
theorem Core.mend_eq (c : Core) (p : ErrorPlace → Bool) : ∃ bad, c.mend p = { c with bad := bad } := by
  unfold Core.mend; split
  · exact ⟨c.bad, rfl⟩
  · exact ⟨_, rfl⟩

@[simp] theorem Core.mendBytes_lcl (c : Core) (bs : List (Nat × Byte)) : (c.mendBytes bs).lcl = c.lcl := by
  unfold Core.mendBytes; obtain ⟨bad, h⟩ := c.mend_eq _; rw [h]

@[simp] theorem Core.mendReg_lcl (c : Core) (p : RegWord → Bool) : (c.mendReg p).lcl = c.lcl := by
  unfold Core.mendReg; obtain ⟨bad, h⟩ := c.mend_eq _; rw [h]

theorem Core.storeLcl_lcl (c : Core) (bs : List (Nat × Byte)) : (c.storeLcl bs).lcl = c.lcl.writeCells bs := by
  unfold Core.storeLcl
  exact (Core.mendBytes_lcl _ bs).trans (congrArg (Memory.writeCells · bs) (Core.recordRows_lcl _ c))

theorem Core.storeLcl_wf (c : Core) (bs : List (Nat × Byte)) (h : c.lcl.wf = true) : (c.storeLcl bs).lcl.wf = true := by
  rw [Core.storeLcl_lcl]; exact Memory.writeCells_wf bs _ h

theorem Core.storeOlder_wf (c : Core) (bs : List (Nat × Byte)) (h : c.lcl.wf = true) : (c.storeOlder bs).lcl.wf = true := by
  unfold Core.storeOlder; rw [Core.mendBytes_lcl]; exact Memory.writeCells_wf bs _ h

/-- A store changes no byte outside those that it stores. -/
theorem Core.storeLcl_frame (c : Core) (bs : List (Nat × Byte)) (a : Nat) (h : a ∉ bs.map (·.1)) :
    (c.storeLcl bs).lcl.read a = c.lcl.read a := by
  rw [Core.storeLcl_lcl]; exact Memory.read_writeCells_other bs _ a h

end Sys2Proof.Machine
end

