-- ==== Sys2Proof/Laws/PerInstr.lean ====
section
/-! SUPPORT. For every instruction of the table: the word that `encode` gives is the one that its slot's opcode map reads back, field by
field. -/

open Sys2Proof

/-- Appending two fields, as numbers. -/
theorem Sys2Proof.Laws.toNat_append {m n : Nat} (x : BitVec m) (y : BitVec n) :
    (x ++ y).toNat = x.toNat * 2 ^ n + y.toNat := by
  rw [BitVec.toNat_append, ← Nat.shiftLeft_add_eq_or_of_lt y.isLt, Nat.shiftLeft_eq]

/-- A field of a word, from the numbers of both. -/
theorem Sys2Proof.Laws.field_eq {w o k : Nat} (b : BitVec w) (v : BitVec k) (h : b.toNat / 2 ^ o % 2 ^ k = v.toNat) :
    b.extractLsb' o k = v :=
  BitVec.eq_of_toNat_eq (by rw [BitVec.extractLsb'_toNat, Nat.shiftRight_eq_div_pow, h])

/-- The opcode map of the instruction's slot reads the instruction back from its word. -/
def Sys2Proof.Laws.Encoding.Statement (i : Instr) : Prop :=
  slotOf i < 8 → candidate (slotOf i) (encode i) = some i

/-! ## The fields of the encoding formats, at their places -/

theorem Sys2Proof.Laws.fields1 (p0 : BitVec 6) (p1 : BitVec 4) (p2 : BitVec 10) (p3 : BitVec 12) :
    (p0 ++ p1 ++ p2 ++ p3).extractLsb' 26 6 = p0 ∧
    (p0 ++ p1 ++ p2 ++ p3).extractLsb' 22 4 = p1 ∧
    (p0 ++ p1 ++ p2 ++ p3).extractLsb' 0 12 = p3 := by
  have h : (p0 ++ p1 ++ p2 ++ p3).toNat = (((p0.toNat) * 2 ^ 4 + p1.toNat) * 2 ^ 10 + p2.toNat) * 2 ^ 12 + p3.toNat := by simp only [Sys2Proof.Laws.toNat_append]
  generalize p0 ++ p1 ++ p2 ++ p3 = w at h ⊢
  have := p0.isLt; have := p1.isLt; have := p2.isLt; have := p3.isLt
  refine ⟨?_, ?_, ?_⟩ <;> apply Sys2Proof.Laws.field_eq <;>
    omega

theorem Sys2Proof.Laws.fields2 (p0 : BitVec 6) (p1 : BitVec 14) (p2 : BitVec 12) :
    (p0 ++ p1 ++ p2).extractLsb' 26 6 = p0 ∧
    (p0 ++ p1 ++ p2).extractLsb' 0 12 = p2 := by
  have h : (p0 ++ p1 ++ p2).toNat = ((p0.toNat) * 2 ^ 14 + p1.toNat) * 2 ^ 12 + p2.toNat := by simp only [Sys2Proof.Laws.toNat_append]
  generalize p0 ++ p1 ++ p2 = w at h ⊢
  have := p0.isLt; have := p1.isLt; have := p2.isLt
  refine ⟨?_, ?_⟩ <;> apply Sys2Proof.Laws.field_eq <;>
    omega

theorem Sys2Proof.Laws.fields3 (p0 : BitVec 6) (p1 : BitVec 6) (p2 : BitVec 20) :
    (p0 ++ p1 ++ p2).extractLsb' 26 6 = p0 ∧
    (p0 ++ p1 ++ p2).extractLsb' 20 6 = p1 := by
  have h : (p0 ++ p1 ++ p2).toNat = ((p0.toNat) * 2 ^ 6 + p1.toNat) * 2 ^ 20 + p2.toNat := by simp only [Sys2Proof.Laws.toNat_append]
  generalize p0 ++ p1 ++ p2 = w at h ⊢
  have := p0.isLt; have := p1.isLt; have := p2.isLt
  refine ⟨?_, ?_⟩ <;> apply Sys2Proof.Laws.field_eq <;>
    omega

theorem Sys2Proof.Laws.fields4 (p0 : BitVec 6) (p1 : BitVec 12) (p2 : BitVec 2) (p3 : BitVec 12) :
    (p0 ++ p1 ++ p2 ++ p3).extractLsb' 26 6 = p0 ∧
    (p0 ++ p1 ++ p2 ++ p3).extractLsb' 14 12 = p1 ∧
    (p0 ++ p1 ++ p2 ++ p3).extractLsb' 0 12 = p3 := by
  have h : (p0 ++ p1 ++ p2 ++ p3).toNat = (((p0.toNat) * 2 ^ 12 + p1.toNat) * 2 ^ 2 + p2.toNat) * 2 ^ 12 + p3.toNat := by simp only [Sys2Proof.Laws.toNat_append]
  generalize p0 ++ p1 ++ p2 ++ p3 = w at h ⊢
  have := p0.isLt; have := p1.isLt; have := p2.isLt; have := p3.isLt
  refine ⟨?_, ?_, ?_⟩ <;> apply Sys2Proof.Laws.field_eq <;>
    omega

theorem Sys2Proof.Laws.fields5 (p0 : BitVec 6) (p1 : BitVec 6) (p2 : BitVec 8) (p3 : BitVec 12) :
    (p0 ++ p1 ++ p2 ++ p3).extractLsb' 26 6 = p0 ∧
    (p0 ++ p1 ++ p2 ++ p3).extractLsb' 20 6 = p1 ∧
    (p0 ++ p1 ++ p2 ++ p3).extractLsb' 0 12 = p3 := by
  have h : (p0 ++ p1 ++ p2 ++ p3).toNat = (((p0.toNat) * 2 ^ 6 + p1.toNat) * 2 ^ 8 + p2.toNat) * 2 ^ 12 + p3.toNat := by simp only [Sys2Proof.Laws.toNat_append]
  generalize p0 ++ p1 ++ p2 ++ p3 = w at h ⊢
  have := p0.isLt; have := p1.isLt; have := p2.isLt; have := p3.isLt
  refine ⟨?_, ?_, ?_⟩ <;> apply Sys2Proof.Laws.field_eq <;>
    omega

theorem Sys2Proof.Laws.fields6 (p0 : BitVec 6) (p1 : BitVec 4) (p2 : BitVec 22) :
    (p0 ++ p1 ++ p2).extractLsb' 26 6 = p0 ∧
    (p0 ++ p1 ++ p2).extractLsb' 22 4 = p1 := by
  have h : (p0 ++ p1 ++ p2).toNat = ((p0.toNat) * 2 ^ 4 + p1.toNat) * 2 ^ 22 + p2.toNat := by simp only [Sys2Proof.Laws.toNat_append]
  generalize p0 ++ p1 ++ p2 = w at h ⊢
  have := p0.isLt; have := p1.isLt; have := p2.isLt
  refine ⟨?_, ?_⟩ <;> apply Sys2Proof.Laws.field_eq <;>
    omega

theorem Sys2Proof.Laws.fields7 (p0 : BitVec 6) (p1 : BitVec 14) (p2 : BitVec 12) :
    (p0 ++ p1 ++ p2).extractLsb' 26 6 = p0 ∧
    (p0 ++ p1 ++ p2).extractLsb' 25 1 = p1.extractLsb' 13 1 ∧
    (p0 ++ p1 ++ p2).extractLsb' 0 12 = p2 := by
  have h : (p0 ++ p1 ++ p2).toNat = ((p0.toNat) * 2 ^ 14 + p1.toNat) * 2 ^ 12 + p2.toNat := by simp only [Sys2Proof.Laws.toNat_append]
  generalize p0 ++ p1 ++ p2 = w at h ⊢
  have := p0.isLt; have := p1.isLt; have := p2.isLt
  refine ⟨?_, ?_, ?_⟩ <;> apply Sys2Proof.Laws.field_eq <;>
    (try simp only [BitVec.extractLsb'_toNat, Nat.shiftRight_eq_div_pow]) <;> omega

theorem Sys2Proof.Laws.fields8 (p0 : BitVec 6) (p1 : BitVec 10) (p2 : BitVec 16) :
    (p0 ++ p1 ++ p2).extractLsb' 26 6 = p0 ∧
    (p0 ++ p1 ++ p2).extractLsb' 0 16 = p2 := by
  have h : (p0 ++ p1 ++ p2).toNat = ((p0.toNat) * 2 ^ 10 + p1.toNat) * 2 ^ 16 + p2.toNat := by simp only [Sys2Proof.Laws.toNat_append]
  generalize p0 ++ p1 ++ p2 = w at h ⊢
  have := p0.isLt; have := p1.isLt; have := p2.isLt
  refine ⟨?_, ?_⟩ <;> apply Sys2Proof.Laws.field_eq <;>
    omega

theorem Sys2Proof.Laws.fields9 (p0 : BitVec 6) (p1 : BitVec 6) (p2 : BitVec 6) (p3 : BitVec 6) (p4 : BitVec 8) :
    (p0 ++ p1 ++ p2 ++ p3 ++ p4).extractLsb' 26 6 = p0 ∧
    (p0 ++ p1 ++ p2 ++ p3 ++ p4).extractLsb' 0 5 = p4.extractLsb' 0 5 ∧
    (p0 ++ p1 ++ p2 ++ p3 ++ p4).extractLsb' 20 6 = p1 ∧
    (p0 ++ p1 ++ p2 ++ p3 ++ p4).extractLsb' 14 6 = p2 ∧
    (p0 ++ p1 ++ p2 ++ p3 ++ p4).extractLsb' 8 6 = p3 := by
  have h : (p0 ++ p1 ++ p2 ++ p3 ++ p4).toNat = ((((p0.toNat) * 2 ^ 6 + p1.toNat) * 2 ^ 6 + p2.toNat) * 2 ^ 6 + p3.toNat) * 2 ^ 8 + p4.toNat := by simp only [Sys2Proof.Laws.toNat_append]
  generalize p0 ++ p1 ++ p2 ++ p3 ++ p4 = w at h ⊢
  have := p0.isLt; have := p1.isLt; have := p2.isLt; have := p3.isLt; have := p4.isLt
  refine ⟨?_, ?_, ?_, ?_, ?_⟩ <;> apply Sys2Proof.Laws.field_eq <;>
    (try simp only [BitVec.extractLsb'_toNat, Nat.shiftRight_eq_div_pow]) <;> omega

theorem Sys2Proof.Laws.fields10 (p0 : BitVec 6) (p1 : BitVec 6) (p2 : BitVec 6) (p3 : BitVec 14) :
    (p0 ++ p1 ++ p2 ++ p3).extractLsb' 26 6 = p0 ∧
    (p0 ++ p1 ++ p2 ++ p3).extractLsb' 0 5 = p3.extractLsb' 0 5 ∧
    (p0 ++ p1 ++ p2 ++ p3).extractLsb' 20 6 = p1 ∧
    (p0 ++ p1 ++ p2 ++ p3).extractLsb' 14 6 = p2 := by
  have h : (p0 ++ p1 ++ p2 ++ p3).toNat = (((p0.toNat) * 2 ^ 6 + p1.toNat) * 2 ^ 6 + p2.toNat) * 2 ^ 14 + p3.toNat := by simp only [Sys2Proof.Laws.toNat_append]
  generalize p0 ++ p1 ++ p2 ++ p3 = w at h ⊢
  have := p0.isLt; have := p1.isLt; have := p2.isLt; have := p3.isLt
  refine ⟨?_, ?_, ?_, ?_⟩ <;> apply Sys2Proof.Laws.field_eq <;>
    (try simp only [BitVec.extractLsb'_toNat, Nat.shiftRight_eq_div_pow]) <;> omega

theorem Sys2Proof.Laws.fields11 (p0 : BitVec 6) (p1 : BitVec 6) (p2 : BitVec 6) (p3 : BitVec 14) :
    (p0 ++ p1 ++ p2 ++ p3).extractLsb' 26 6 = p0 ∧
    (p0 ++ p1 ++ p2 ++ p3).extractLsb' 20 6 = p1 ∧
    (p0 ++ p1 ++ p2 ++ p3).extractLsb' 14 6 = p2 ∧
    (p0 ++ p1 ++ p2 ++ p3).extractLsb' 0 14 = p3 := by
  have h : (p0 ++ p1 ++ p2 ++ p3).toNat = (((p0.toNat) * 2 ^ 6 + p1.toNat) * 2 ^ 6 + p2.toNat) * 2 ^ 14 + p3.toNat := by simp only [Sys2Proof.Laws.toNat_append]
  generalize p0 ++ p1 ++ p2 ++ p3 = w at h ⊢
  have := p0.isLt; have := p1.isLt; have := p2.isLt; have := p3.isLt
  refine ⟨?_, ?_, ?_, ?_⟩ <;> apply Sys2Proof.Laws.field_eq <;>
    omega

theorem Sys2Proof.Laws.fields12 (p0 : BitVec 6) (p1 : BitVec 6) (p2 : BitVec 6) (p3 : BitVec 8) (p4 : BitVec 6) :
    (p0 ++ p1 ++ p2 ++ p3 ++ p4).extractLsb' 26 6 = p0 ∧
    (p0 ++ p1 ++ p2 ++ p3 ++ p4).extractLsb' 20 6 = p1 ∧
    (p0 ++ p1 ++ p2 ++ p3 ++ p4).extractLsb' 14 6 = p2 ∧
    (p0 ++ p1 ++ p2 ++ p3 ++ p4).extractLsb' 0 6 = p4 := by
  have h : (p0 ++ p1 ++ p2 ++ p3 ++ p4).toNat = ((((p0.toNat) * 2 ^ 6 + p1.toNat) * 2 ^ 6 + p2.toNat) * 2 ^ 8 + p3.toNat) * 2 ^ 6 + p4.toNat := by simp only [Sys2Proof.Laws.toNat_append]
  generalize p0 ++ p1 ++ p2 ++ p3 ++ p4 = w at h ⊢
  have := p0.isLt; have := p1.isLt; have := p2.isLt; have := p3.isLt; have := p4.isLt
  refine ⟨?_, ?_, ?_, ?_⟩ <;> apply Sys2Proof.Laws.field_eq <;>
    omega

theorem Sys2Proof.Laws.fields13 (p0 : BitVec 6) (p1 : BitVec 6) (p2 : BitVec 20) :
    (p0 ++ p1 ++ p2).extractLsb' 26 6 = p0 ∧
    (p0 ++ p1 ++ p2).extractLsb' 20 6 = p1 ∧
    (p0 ++ p1 ++ p2).extractLsb' 0 20 = p2 := by
  have h : (p0 ++ p1 ++ p2).toNat = ((p0.toNat) * 2 ^ 6 + p1.toNat) * 2 ^ 20 + p2.toNat := by simp only [Sys2Proof.Laws.toNat_append]
  generalize p0 ++ p1 ++ p2 = w at h ⊢
  have := p0.isLt; have := p1.isLt; have := p2.isLt
  refine ⟨?_, ?_, ?_⟩ <;> apply Sys2Proof.Laws.field_eq <;>
    omega

theorem Sys2Proof.Laws.fields14 (p0 : BitVec 6) (p1 : BitVec 6) (p2 : BitVec 6) (p3 : BitVec 6) (p4 : BitVec 4) (p5 : BitVec 4) :
    (p0 ++ p1 ++ p2 ++ p3 ++ p4 ++ p5).extractLsb' 26 6 = p0 ∧
    (p0 ++ p1 ++ p2 ++ p3 ++ p4 ++ p5).extractLsb' 20 6 = p1 ∧
    (p0 ++ p1 ++ p2 ++ p3 ++ p4 ++ p5).extractLsb' 14 6 = p2 ∧
    (p0 ++ p1 ++ p2 ++ p3 ++ p4 ++ p5).extractLsb' 8 6 = p3 ∧
    (p0 ++ p1 ++ p2 ++ p3 ++ p4 ++ p5).extractLsb' 0 4 = p5 := by
  have h : (p0 ++ p1 ++ p2 ++ p3 ++ p4 ++ p5).toNat = (((((p0.toNat) * 2 ^ 6 + p1.toNat) * 2 ^ 6 + p2.toNat) * 2 ^ 6 + p3.toNat) * 2 ^ 4 + p4.toNat) * 2 ^ 4 + p5.toNat := by simp only [Sys2Proof.Laws.toNat_append]
  generalize p0 ++ p1 ++ p2 ++ p3 ++ p4 ++ p5 = w at h ⊢
  have := p0.isLt; have := p1.isLt; have := p2.isLt; have := p3.isLt; have := p4.isLt; have := p5.isLt
  refine ⟨?_, ?_, ?_, ?_, ?_⟩ <;> apply Sys2Proof.Laws.field_eq <;>
    omega

theorem Sys2Proof.Laws.fields15 (p0 : BitVec 6) (p1 : BitVec 3) (p2 : BitVec 3) (p3 : BitVec 6) (p4 : BitVec 6) (p5 : BitVec 5) (p6 : BitVec 3) :
    (p0 ++ p1 ++ p2 ++ p3 ++ p4 ++ p5 ++ p6).extractLsb' 26 6 = p0 ∧
    (p0 ++ p1 ++ p2 ++ p3 ++ p4 ++ p5 ++ p6).extractLsb' 23 3 = p1 ∧
    (p0 ++ p1 ++ p2 ++ p3 ++ p4 ++ p5 ++ p6).extractLsb' 14 6 = p3 ∧
    (p0 ++ p1 ++ p2 ++ p3 ++ p4 ++ p5 ++ p6).extractLsb' 8 6 = p4 ∧
    (p0 ++ p1 ++ p2 ++ p3 ++ p4 ++ p5 ++ p6).extractLsb' 0 3 = p6 := by
  have h : (p0 ++ p1 ++ p2 ++ p3 ++ p4 ++ p5 ++ p6).toNat = ((((((p0.toNat) * 2 ^ 3 + p1.toNat) * 2 ^ 3 + p2.toNat) * 2 ^ 6 + p3.toNat) * 2 ^ 6 + p4.toNat) * 2 ^ 5 + p5.toNat) * 2 ^ 3 + p6.toNat := by simp only [Sys2Proof.Laws.toNat_append]
  generalize p0 ++ p1 ++ p2 ++ p3 ++ p4 ++ p5 ++ p6 = w at h ⊢
  have := p0.isLt; have := p1.isLt; have := p2.isLt; have := p3.isLt; have := p4.isLt; have := p5.isLt; have := p6.isLt
  refine ⟨?_, ?_, ?_, ?_, ?_⟩ <;> apply Sys2Proof.Laws.field_eq <;>
    omega

theorem Sys2Proof.Laws.fields16 (p0 : BitVec 6) (p1 : BitVec 3) (p2 : BitVec 4) (p3 : BitVec 4) (p4 : BitVec 2) (p5 : BitVec 13) :
    (p0 ++ p1 ++ p2 ++ p3 ++ p4 ++ p5).extractLsb' 26 6 = p0 ∧
    (p0 ++ p1 ++ p2 ++ p3 ++ p4 ++ p5).extractLsb' 23 3 = p1 ∧
    (p0 ++ p1 ++ p2 ++ p3 ++ p4 ++ p5).extractLsb' 19 4 = p2 ∧
    (p0 ++ p1 ++ p2 ++ p3 ++ p4 ++ p5).extractLsb' 15 4 = p3 ∧
    (p0 ++ p1 ++ p2 ++ p3 ++ p4 ++ p5).extractLsb' 13 2 = p4 := by
  have h : (p0 ++ p1 ++ p2 ++ p3 ++ p4 ++ p5).toNat = (((((p0.toNat) * 2 ^ 3 + p1.toNat) * 2 ^ 4 + p2.toNat) * 2 ^ 4 + p3.toNat) * 2 ^ 2 + p4.toNat) * 2 ^ 13 + p5.toNat := by simp only [Sys2Proof.Laws.toNat_append]
  generalize p0 ++ p1 ++ p2 ++ p3 ++ p4 ++ p5 = w at h ⊢
  have := p0.isLt; have := p1.isLt; have := p2.isLt; have := p3.isLt; have := p4.isLt; have := p5.isLt
  refine ⟨?_, ?_, ?_, ?_, ?_⟩ <;> apply Sys2Proof.Laws.field_eq <;>
    omega

theorem Sys2Proof.Laws.fields17 (p0 : BitVec 6) (p1 : BitVec 1) (p2 : BitVec 6) (p3 : BitVec 19) :
    (p0 ++ p1 ++ p2 ++ p3).extractLsb' 26 6 = p0 ∧
    (p0 ++ p1 ++ p2 ++ p3).extractLsb' 25 1 = p1 ∧
    (p0 ++ p1 ++ p2 ++ p3).extractLsb' 19 6 = p2 := by
  have h : (p0 ++ p1 ++ p2 ++ p3).toNat = (((p0.toNat) * 2 ^ 1 + p1.toNat) * 2 ^ 6 + p2.toNat) * 2 ^ 19 + p3.toNat := by simp only [Sys2Proof.Laws.toNat_append]
  generalize p0 ++ p1 ++ p2 ++ p3 = w at h ⊢
  have := p0.isLt; have := p1.isLt; have := p2.isLt; have := p3.isLt
  refine ⟨?_, ?_, ?_⟩ <;> apply Sys2Proof.Laws.field_eq <;>
    omega

theorem Sys2Proof.Laws.fields18 (p0 : BitVec 6) (p1 : BitVec 6) (p2 : BitVec 14) (p3 : BitVec 6) :
    (p0 ++ p1 ++ p2 ++ p3).extractLsb' 26 6 = p0 ∧
    (p0 ++ p1 ++ p2 ++ p3).extractLsb' 20 6 = p1 ∧
    (p0 ++ p1 ++ p2 ++ p3).extractLsb' 0 6 = p3 := by
  have h : (p0 ++ p1 ++ p2 ++ p3).toNat = (((p0.toNat) * 2 ^ 6 + p1.toNat) * 2 ^ 14 + p2.toNat) * 2 ^ 6 + p3.toNat := by simp only [Sys2Proof.Laws.toNat_append]
  generalize p0 ++ p1 ++ p2 ++ p3 = w at h ⊢
  have := p0.isLt; have := p1.isLt; have := p2.isLt; have := p3.isLt
  refine ⟨?_, ?_, ?_⟩ <;> apply Sys2Proof.Laws.field_eq <;>
    omega

theorem Sys2Proof.Laws.fields19 (p0 : BitVec 6) (p1 : BitVec 6) (p2 : BitVec 6) (p3 : BitVec 6) (p4 : BitVec 1) (p5 : BitVec 7) :
    (p0 ++ p1 ++ p2 ++ p3 ++ p4 ++ p5).extractLsb' 26 6 = p0 ∧
    (p0 ++ p1 ++ p2 ++ p3 ++ p4 ++ p5).extractLsb' 0 4 = p5.extractLsb' 0 4 ∧
    (p0 ++ p1 ++ p2 ++ p3 ++ p4 ++ p5).extractLsb' 20 6 = p1 ∧
    (p0 ++ p1 ++ p2 ++ p3 ++ p4 ++ p5).extractLsb' 14 6 = p2 ∧
    (p0 ++ p1 ++ p2 ++ p3 ++ p4 ++ p5).extractLsb' 8 6 = p3 ∧
    (p0 ++ p1 ++ p2 ++ p3 ++ p4 ++ p5).extractLsb' 7 1 = p4 := by
  have h : (p0 ++ p1 ++ p2 ++ p3 ++ p4 ++ p5).toNat = (((((p0.toNat) * 2 ^ 6 + p1.toNat) * 2 ^ 6 + p2.toNat) * 2 ^ 6 + p3.toNat) * 2 ^ 1 + p4.toNat) * 2 ^ 7 + p5.toNat := by simp only [Sys2Proof.Laws.toNat_append]
  generalize p0 ++ p1 ++ p2 ++ p3 ++ p4 ++ p5 = w at h ⊢
  have := p0.isLt; have := p1.isLt; have := p2.isLt; have := p3.isLt; have := p4.isLt; have := p5.isLt
  refine ⟨?_, ?_, ?_, ?_, ?_, ?_⟩ <;> apply Sys2Proof.Laws.field_eq <;>
    (try simp only [BitVec.extractLsb'_toNat, Nat.shiftRight_eq_div_pow]) <;> omega

theorem Sys2Proof.Laws.fields20 (p0 : BitVec 6) (p1 : BitVec 6) (p2 : BitVec 6) (p3 : BitVec 6) (p4 : BitVec 1) (p5 : BitVec 7) :
    (p0 ++ p1 ++ p2 ++ p3 ++ p4 ++ p5).extractLsb' 26 6 = p0 ∧
    (p0 ++ p1 ++ p2 ++ p3 ++ p4 ++ p5).extractLsb' 0 4 = p5.extractLsb' 0 4 ∧
    (p0 ++ p1 ++ p2 ++ p3 ++ p4 ++ p5).extractLsb' 20 6 = p1 ∧
    (p0 ++ p1 ++ p2 ++ p3 ++ p4 ++ p5).extractLsb' 14 6 = p2 ∧
    (p0 ++ p1 ++ p2 ++ p3 ++ p4 ++ p5).extractLsb' 7 1 = p4 := by
  have h : (p0 ++ p1 ++ p2 ++ p3 ++ p4 ++ p5).toNat = (((((p0.toNat) * 2 ^ 6 + p1.toNat) * 2 ^ 6 + p2.toNat) * 2 ^ 6 + p3.toNat) * 2 ^ 1 + p4.toNat) * 2 ^ 7 + p5.toNat := by simp only [Sys2Proof.Laws.toNat_append]
  generalize p0 ++ p1 ++ p2 ++ p3 ++ p4 ++ p5 = w at h ⊢
  have := p0.isLt; have := p1.isLt; have := p2.isLt; have := p3.isLt; have := p4.isLt; have := p5.isLt
  refine ⟨?_, ?_, ?_, ?_, ?_⟩ <;> apply Sys2Proof.Laws.field_eq <;>
    (try simp only [BitVec.extractLsb'_toNat, Nat.shiftRight_eq_div_pow]) <;> omega

theorem Sys2Proof.Laws.fields21 (p0 : BitVec 6) (p1 : BitVec 6) (p2 : BitVec 6) (p3 : BitVec 6) (p4 : BitVec 1) (p5 : BitVec 3) (p6 : BitVec 4) :
    (p0 ++ p1 ++ p2 ++ p3 ++ p4 ++ p5 ++ p6).extractLsb' 26 6 = p0 ∧
    (p0 ++ p1 ++ p2 ++ p3 ++ p4 ++ p5 ++ p6).extractLsb' 0 4 = p6 ∧
    (p0 ++ p1 ++ p2 ++ p3 ++ p4 ++ p5 ++ p6).extractLsb' 20 6 = p1 ∧
    (p0 ++ p1 ++ p2 ++ p3 ++ p4 ++ p5 ++ p6).extractLsb' 14 6 = p2 ∧
    (p0 ++ p1 ++ p2 ++ p3 ++ p4 ++ p5 ++ p6).extractLsb' 8 6 = p3 ∧
    (p0 ++ p1 ++ p2 ++ p3 ++ p4 ++ p5 ++ p6).extractLsb' 7 1 = p4 ∧
    (p0 ++ p1 ++ p2 ++ p3 ++ p4 ++ p5 ++ p6).extractLsb' 4 3 = p5 := by
  have h : (p0 ++ p1 ++ p2 ++ p3 ++ p4 ++ p5 ++ p6).toNat = ((((((p0.toNat) * 2 ^ 6 + p1.toNat) * 2 ^ 6 + p2.toNat) * 2 ^ 6 + p3.toNat) * 2 ^ 1 + p4.toNat) * 2 ^ 3 + p5.toNat) * 2 ^ 4 + p6.toNat := by simp only [Sys2Proof.Laws.toNat_append]
  generalize p0 ++ p1 ++ p2 ++ p3 ++ p4 ++ p5 ++ p6 = w at h ⊢
  have := p0.isLt; have := p1.isLt; have := p2.isLt; have := p3.isLt; have := p4.isLt; have := p5.isLt; have := p6.isLt
  refine ⟨?_, ?_, ?_, ?_, ?_, ?_, ?_⟩ <;> apply Sys2Proof.Laws.field_eq <;>
    omega

theorem Sys2Proof.Laws.fields22 (p0 : BitVec 6) (p1 : BitVec 6) (p2 : BitVec 6) (p3 : BitVec 6) (p4 : BitVec 1) (p5 : BitVec 3) (p6 : BitVec 4) :
    (p0 ++ p1 ++ p2 ++ p3 ++ p4 ++ p5 ++ p6).extractLsb' 26 6 = p0 ∧
    (p0 ++ p1 ++ p2 ++ p3 ++ p4 ++ p5 ++ p6).extractLsb' 0 4 = p6 ∧
    (p0 ++ p1 ++ p2 ++ p3 ++ p4 ++ p5 ++ p6).extractLsb' 20 6 = p1 ∧
    (p0 ++ p1 ++ p2 ++ p3 ++ p4 ++ p5 ++ p6).extractLsb' 14 6 = p2 ∧
    (p0 ++ p1 ++ p2 ++ p3 ++ p4 ++ p5 ++ p6).extractLsb' 7 1 = p4 ∧
    (p0 ++ p1 ++ p2 ++ p3 ++ p4 ++ p5 ++ p6).extractLsb' 4 3 = p5 := by
  have h : (p0 ++ p1 ++ p2 ++ p3 ++ p4 ++ p5 ++ p6).toNat = ((((((p0.toNat) * 2 ^ 6 + p1.toNat) * 2 ^ 6 + p2.toNat) * 2 ^ 6 + p3.toNat) * 2 ^ 1 + p4.toNat) * 2 ^ 3 + p5.toNat) * 2 ^ 4 + p6.toNat := by simp only [Sys2Proof.Laws.toNat_append]
  generalize p0 ++ p1 ++ p2 ++ p3 ++ p4 ++ p5 ++ p6 = w at h ⊢
  have := p0.isLt; have := p1.isLt; have := p2.isLt; have := p3.isLt; have := p4.isLt; have := p5.isLt; have := p6.isLt
  refine ⟨?_, ?_, ?_, ?_, ?_, ?_⟩ <;> apply Sys2Proof.Laws.field_eq <;>
    omega

theorem Sys2Proof.Laws.fields23 (p0 : BitVec 6) (p1 : BitVec 6) (p2 : BitVec 6) (p3 : BitVec 6) (p4 : BitVec 6) (p5 : BitVec 1) (p6 : BitVec 1) :
    (p0 ++ p1 ++ p2 ++ p3 ++ p4 ++ p5 ++ p6).extractLsb' 26 6 = p0 ∧
    (p0 ++ p1 ++ p2 ++ p3 ++ p4 ++ p5 ++ p6).extractLsb' 20 6 = p1 ∧
    (p0 ++ p1 ++ p2 ++ p3 ++ p4 ++ p5 ++ p6).extractLsb' 14 6 = p2 ∧
    (p0 ++ p1 ++ p2 ++ p3 ++ p4 ++ p5 ++ p6).extractLsb' 8 6 = p3 ∧
    (p0 ++ p1 ++ p2 ++ p3 ++ p4 ++ p5 ++ p6).extractLsb' 2 6 = p4 ∧
    (p0 ++ p1 ++ p2 ++ p3 ++ p4 ++ p5 ++ p6).extractLsb' 1 1 = p5 := by
  have h : (p0 ++ p1 ++ p2 ++ p3 ++ p4 ++ p5 ++ p6).toNat = ((((((p0.toNat) * 2 ^ 6 + p1.toNat) * 2 ^ 6 + p2.toNat) * 2 ^ 6 + p3.toNat) * 2 ^ 6 + p4.toNat) * 2 ^ 1 + p5.toNat) * 2 ^ 1 + p6.toNat := by simp only [Sys2Proof.Laws.toNat_append]
  generalize p0 ++ p1 ++ p2 ++ p3 ++ p4 ++ p5 ++ p6 = w at h ⊢
  have := p0.isLt; have := p1.isLt; have := p2.isLt; have := p3.isLt; have := p4.isLt; have := p5.isLt; have := p6.isLt
  refine ⟨?_, ?_, ?_, ?_, ?_, ?_⟩ <;> apply Sys2Proof.Laws.field_eq <;>
    omega

theorem Sys2Proof.Laws.fields24 (p0 : BitVec 6) (p1 : BitVec 6) (p2 : BitVec 4) (p3 : BitVec 6) (p4 : BitVec 10) :
    (p0 ++ p1 ++ p2 ++ p3 ++ p4).extractLsb' 26 6 = p0 ∧
    (p0 ++ p1 ++ p2 ++ p3 ++ p4).extractLsb' 20 6 = p1 ∧
    (p0 ++ p1 ++ p2 ++ p3 ++ p4).extractLsb' 16 4 = p2 ∧
    (p0 ++ p1 ++ p2 ++ p3 ++ p4).extractLsb' 10 6 = p3 ∧
    (p0 ++ p1 ++ p2 ++ p3 ++ p4).extractLsb' 0 10 = p4 := by
  have h : (p0 ++ p1 ++ p2 ++ p3 ++ p4).toNat = ((((p0.toNat) * 2 ^ 6 + p1.toNat) * 2 ^ 4 + p2.toNat) * 2 ^ 6 + p3.toNat) * 2 ^ 10 + p4.toNat := by simp only [Sys2Proof.Laws.toNat_append]
  generalize p0 ++ p1 ++ p2 ++ p3 ++ p4 = w at h ⊢
  have := p0.isLt; have := p1.isLt; have := p2.isLt; have := p3.isLt; have := p4.isLt
  refine ⟨?_, ?_, ?_, ?_, ?_⟩ <;> apply Sys2Proof.Laws.field_eq <;>
    omega

theorem Sys2Proof.Laws.fields25 (p0 : BitVec 6) (p1 : BitVec 6) (p2 : BitVec 4) (p3 : BitVec 6) (p4 : BitVec 4) (p5 : BitVec 6) :
    (p0 ++ p1 ++ p2 ++ p3 ++ p4 ++ p5).extractLsb' 26 6 = p0 ∧
    (p0 ++ p1 ++ p2 ++ p3 ++ p4 ++ p5).extractLsb' 20 6 = p1 ∧
    (p0 ++ p1 ++ p2 ++ p3 ++ p4 ++ p5).extractLsb' 16 4 = p2 ∧
    (p0 ++ p1 ++ p2 ++ p3 ++ p4 ++ p5).extractLsb' 10 6 = p3 ∧
    (p0 ++ p1 ++ p2 ++ p3 ++ p4 ++ p5).extractLsb' 6 4 = p4 ∧
    (p0 ++ p1 ++ p2 ++ p3 ++ p4 ++ p5).extractLsb' 0 6 = p5 := by
  have h : (p0 ++ p1 ++ p2 ++ p3 ++ p4 ++ p5).toNat = (((((p0.toNat) * 2 ^ 6 + p1.toNat) * 2 ^ 4 + p2.toNat) * 2 ^ 6 + p3.toNat) * 2 ^ 4 + p4.toNat) * 2 ^ 6 + p5.toNat := by simp only [Sys2Proof.Laws.toNat_append]
  generalize p0 ++ p1 ++ p2 ++ p3 ++ p4 ++ p5 = w at h ⊢
  have := p0.isLt; have := p1.isLt; have := p2.isLt; have := p3.isLt; have := p4.isLt; have := p5.isLt
  refine ⟨?_, ?_, ?_, ?_, ?_, ?_⟩ <;> apply Sys2Proof.Laws.field_eq <;>
    omega

theorem Sys2Proof.Laws.fields26 (p0 : BitVec 6) (p1 : BitVec 6) (p2 : BitVec 6) (p3 : BitVec 6) (p4 : BitVec 4) (p5 : BitVec 4) :
    (p0 ++ p1 ++ p2 ++ p3 ++ p4 ++ p5).extractLsb' 26 6 = p0 ∧
    (p0 ++ p1 ++ p2 ++ p3 ++ p4 ++ p5).extractLsb' 0 4 = p5 ∧
    (p0 ++ p1 ++ p2 ++ p3 ++ p4 ++ p5).extractLsb' 20 6 = p1 ∧
    (p0 ++ p1 ++ p2 ++ p3 ++ p4 ++ p5).extractLsb' 14 6 = p2 ∧
    (p0 ++ p1 ++ p2 ++ p3 ++ p4 ++ p5).extractLsb' 8 6 = p3 ∧
    (p0 ++ p1 ++ p2 ++ p3 ++ p4 ++ p5).extractLsb' 4 4 = p4 := by
  have h : (p0 ++ p1 ++ p2 ++ p3 ++ p4 ++ p5).toNat = (((((p0.toNat) * 2 ^ 6 + p1.toNat) * 2 ^ 6 + p2.toNat) * 2 ^ 6 + p3.toNat) * 2 ^ 4 + p4.toNat) * 2 ^ 4 + p5.toNat := by simp only [Sys2Proof.Laws.toNat_append]
  generalize p0 ++ p1 ++ p2 ++ p3 ++ p4 ++ p5 = w at h ⊢
  have := p0.isLt; have := p1.isLt; have := p2.isLt; have := p3.isLt; have := p4.isLt; have := p5.isLt
  refine ⟨?_, ?_, ?_, ?_, ?_, ?_⟩ <;> apply Sys2Proof.Laws.field_eq <;>
    omega

theorem Sys2Proof.Laws.fields27 (p0 : BitVec 6) (p1 : BitVec 6) (p2 : BitVec 6) (p3 : BitVec 6) (p4 : BitVec 4) (p5 : BitVec 4) :
    (p0 ++ p1 ++ p2 ++ p3 ++ p4 ++ p5).extractLsb' 26 6 = p0 ∧
    (p0 ++ p1 ++ p2 ++ p3 ++ p4 ++ p5).extractLsb' 20 6 = p1 ∧
    (p0 ++ p1 ++ p2 ++ p3 ++ p4 ++ p5).extractLsb' 14 6 = p2 ∧
    (p0 ++ p1 ++ p2 ++ p3 ++ p4 ++ p5).extractLsb' 8 6 = p3 ∧
    (p0 ++ p1 ++ p2 ++ p3 ++ p4 ++ p5).extractLsb' 4 4 = p4 := by
  have h : (p0 ++ p1 ++ p2 ++ p3 ++ p4 ++ p5).toNat = (((((p0.toNat) * 2 ^ 6 + p1.toNat) * 2 ^ 6 + p2.toNat) * 2 ^ 6 + p3.toNat) * 2 ^ 4 + p4.toNat) * 2 ^ 4 + p5.toNat := by simp only [Sys2Proof.Laws.toNat_append]
  generalize p0 ++ p1 ++ p2 ++ p3 ++ p4 ++ p5 = w at h ⊢
  have := p0.isLt; have := p1.isLt; have := p2.isLt; have := p3.isLt; have := p4.isLt; have := p5.isLt
  refine ⟨?_, ?_, ?_, ?_, ?_⟩ <;> apply Sys2Proof.Laws.field_eq <;>
    omega

theorem Sys2Proof.Laws.fields28 (p0 : BitVec 6) (p1 : BitVec 16) (p2 : BitVec 6) (p3 : BitVec 4) :
    (p0 ++ p1 ++ p2 ++ p3).extractLsb' 26 6 = p0 ∧
    (p0 ++ p1 ++ p2 ++ p3).extractLsb' 10 16 = p1 ∧
    (p0 ++ p1 ++ p2 ++ p3).extractLsb' 0 4 = p3 := by
  have h : (p0 ++ p1 ++ p2 ++ p3).toNat = (((p0.toNat) * 2 ^ 16 + p1.toNat) * 2 ^ 6 + p2.toNat) * 2 ^ 4 + p3.toNat := by simp only [Sys2Proof.Laws.toNat_append]
  generalize p0 ++ p1 ++ p2 ++ p3 = w at h ⊢
  have := p0.isLt; have := p1.isLt; have := p2.isLt; have := p3.isLt
  refine ⟨?_, ?_, ?_⟩ <;> apply Sys2Proof.Laws.field_eq <;>
    omega

theorem Sys2Proof.Laws.fields29 (p0 : BitVec 6) (p1 : BitVec 8) (p2 : BitVec 8) (p3 : BitVec 3) (p4 : BitVec 7) :
    (p0 ++ p1 ++ p2 ++ p3 ++ p4).extractLsb' 26 6 = p0 ∧
    (p0 ++ p1 ++ p2 ++ p3 ++ p4).extractLsb' 18 8 = p1 ∧
    (p0 ++ p1 ++ p2 ++ p3 ++ p4).extractLsb' 10 8 = p2 ∧
    (p0 ++ p1 ++ p2 ++ p3 ++ p4).extractLsb' 7 3 = p3 := by
  have h : (p0 ++ p1 ++ p2 ++ p3 ++ p4).toNat = ((((p0.toNat) * 2 ^ 8 + p1.toNat) * 2 ^ 8 + p2.toNat) * 2 ^ 3 + p3.toNat) * 2 ^ 7 + p4.toNat := by simp only [Sys2Proof.Laws.toNat_append]
  generalize p0 ++ p1 ++ p2 ++ p3 ++ p4 = w at h ⊢
  have := p0.isLt; have := p1.isLt; have := p2.isLt; have := p3.isLt; have := p4.isLt
  refine ⟨?_, ?_, ?_, ?_⟩ <;> apply Sys2Proof.Laws.field_eq <;>
    omega

theorem Sys2Proof.Laws.fields30 (p0 : BitVec 6) (p1 : BitVec 6) (p2 : BitVec 16) (p3 : BitVec 4) :
    (p0 ++ p1 ++ p2 ++ p3).extractLsb' 26 6 = p0 ∧
    (p0 ++ p1 ++ p2 ++ p3).extractLsb' 20 6 = p1 ∧
    (p0 ++ p1 ++ p2 ++ p3).extractLsb' 0 4 = p3 := by
  have h : (p0 ++ p1 ++ p2 ++ p3).toNat = (((p0.toNat) * 2 ^ 6 + p1.toNat) * 2 ^ 16 + p2.toNat) * 2 ^ 4 + p3.toNat := by simp only [Sys2Proof.Laws.toNat_append]
  generalize p0 ++ p1 ++ p2 ++ p3 = w at h ⊢
  have := p0.isLt; have := p1.isLt; have := p2.isLt; have := p3.isLt
  refine ⟨?_, ?_, ?_⟩ <;> apply Sys2Proof.Laws.field_eq <;>
    omega

theorem Sys2Proof.Laws.fields31 (p0 : BitVec 6) (p1 : BitVec 5) (p2 : BitVec 5) (p3 : BitVec 5) (p4 : BitVec 3) (p5 : BitVec 8) :
    (p0 ++ p1 ++ p2 ++ p3 ++ p4 ++ p5).extractLsb' 26 6 = p0 ∧
    (p0 ++ p1 ++ p2 ++ p3 ++ p4 ++ p5).extractLsb' 21 5 = p1 ∧
    (p0 ++ p1 ++ p2 ++ p3 ++ p4 ++ p5).extractLsb' 16 5 = p2 ∧
    (p0 ++ p1 ++ p2 ++ p3 ++ p4 ++ p5).extractLsb' 11 5 = p3 ∧
    (p0 ++ p1 ++ p2 ++ p3 ++ p4 ++ p5).extractLsb' 8 3 = p4 := by
  have h : (p0 ++ p1 ++ p2 ++ p3 ++ p4 ++ p5).toNat = (((((p0.toNat) * 2 ^ 5 + p1.toNat) * 2 ^ 5 + p2.toNat) * 2 ^ 5 + p3.toNat) * 2 ^ 3 + p4.toNat) * 2 ^ 8 + p5.toNat := by simp only [Sys2Proof.Laws.toNat_append]
  generalize p0 ++ p1 ++ p2 ++ p3 ++ p4 ++ p5 = w at h ⊢
  have := p0.isLt; have := p1.isLt; have := p2.isLt; have := p3.isLt; have := p4.isLt; have := p5.isLt
  refine ⟨?_, ?_, ?_, ?_, ?_⟩ <;> apply Sys2Proof.Laws.field_eq <;>
    omega

theorem Sys2Proof.Laws.fields32 (p0 : BitVec 6) (p1 : BitVec 5) (p2 : BitVec 5) (p3 : BitVec 5) (p4 : BitVec 3) (p5 : BitVec 5) (p6 : BitVec 3) :
    (p0 ++ p1 ++ p2 ++ p3 ++ p4 ++ p5 ++ p6).extractLsb' 26 6 = p0 ∧
    (p0 ++ p1 ++ p2 ++ p3 ++ p4 ++ p5 ++ p6).extractLsb' 21 5 = p1 ∧
    (p0 ++ p1 ++ p2 ++ p3 ++ p4 ++ p5 ++ p6).extractLsb' 16 5 = p2 ∧
    (p0 ++ p1 ++ p2 ++ p3 ++ p4 ++ p5 ++ p6).extractLsb' 11 5 = p3 ∧
    (p0 ++ p1 ++ p2 ++ p3 ++ p4 ++ p5 ++ p6).extractLsb' 8 3 = p4 ∧
    (p0 ++ p1 ++ p2 ++ p3 ++ p4 ++ p5 ++ p6).extractLsb' 3 5 = p5 := by
  have h : (p0 ++ p1 ++ p2 ++ p3 ++ p4 ++ p5 ++ p6).toNat = ((((((p0.toNat) * 2 ^ 5 + p1.toNat) * 2 ^ 5 + p2.toNat) * 2 ^ 5 + p3.toNat) * 2 ^ 3 + p4.toNat) * 2 ^ 5 + p5.toNat) * 2 ^ 3 + p6.toNat := by simp only [Sys2Proof.Laws.toNat_append]
  generalize p0 ++ p1 ++ p2 ++ p3 ++ p4 ++ p5 ++ p6 = w at h ⊢
  have := p0.isLt; have := p1.isLt; have := p2.isLt; have := p3.isLt; have := p4.isLt; have := p5.isLt; have := p6.isLt
  refine ⟨?_, ?_, ?_, ?_, ?_, ?_⟩ <;> apply Sys2Proof.Laws.field_eq <;>
    omega

theorem Sys2Proof.Laws.fields33 (p0 : BitVec 6) (p1 : BitVec 5) (p2 : BitVec 5) (p3 : BitVec 5) (p4 : BitVec 3) (p5 : BitVec 8) :
    (p0 ++ p1 ++ p2 ++ p3 ++ p4 ++ p5).extractLsb' 26 6 = p0 ∧
    (p0 ++ p1 ++ p2 ++ p3 ++ p4 ++ p5).extractLsb' 21 5 = p1 ∧
    (p0 ++ p1 ++ p2 ++ p3 ++ p4 ++ p5).extractLsb' 16 5 = p2 ∧
    (p0 ++ p1 ++ p2 ++ p3 ++ p4 ++ p5).extractLsb' 8 3 = p4 := by
  have h : (p0 ++ p1 ++ p2 ++ p3 ++ p4 ++ p5).toNat = (((((p0.toNat) * 2 ^ 5 + p1.toNat) * 2 ^ 5 + p2.toNat) * 2 ^ 5 + p3.toNat) * 2 ^ 3 + p4.toNat) * 2 ^ 8 + p5.toNat := by simp only [Sys2Proof.Laws.toNat_append]
  generalize p0 ++ p1 ++ p2 ++ p3 ++ p4 ++ p5 = w at h ⊢
  have := p0.isLt; have := p1.isLt; have := p2.isLt; have := p3.isLt; have := p4.isLt; have := p5.isLt
  refine ⟨?_, ?_, ?_, ?_⟩ <;> apply Sys2Proof.Laws.field_eq <;>
    omega

theorem Sys2Proof.Laws.fields34 (p0 : BitVec 6) (p1 : BitVec 3) (p2 : BitVec 2) (p3 : BitVec 5) (p4 : BitVec 5) (p5 : BitVec 3) (p6 : BitVec 8) :
    (p0 ++ p1 ++ p2 ++ p3 ++ p4 ++ p5 ++ p6).extractLsb' 26 6 = p0 ∧
    (p0 ++ p1 ++ p2 ++ p3 ++ p4 ++ p5 ++ p6).extractLsb' 23 3 = p1 ∧
    (p0 ++ p1 ++ p2 ++ p3 ++ p4 ++ p5 ++ p6).extractLsb' 16 5 = p3 ∧
    (p0 ++ p1 ++ p2 ++ p3 ++ p4 ++ p5 ++ p6).extractLsb' 11 5 = p4 ∧
    (p0 ++ p1 ++ p2 ++ p3 ++ p4 ++ p5 ++ p6).extractLsb' 8 3 = p5 := by
  have h : (p0 ++ p1 ++ p2 ++ p3 ++ p4 ++ p5 ++ p6).toNat = ((((((p0.toNat) * 2 ^ 3 + p1.toNat) * 2 ^ 2 + p2.toNat) * 2 ^ 5 + p3.toNat) * 2 ^ 5 + p4.toNat) * 2 ^ 3 + p5.toNat) * 2 ^ 8 + p6.toNat := by simp only [Sys2Proof.Laws.toNat_append]
  generalize p0 ++ p1 ++ p2 ++ p3 ++ p4 ++ p5 ++ p6 = w at h ⊢
  have := p0.isLt; have := p1.isLt; have := p2.isLt; have := p3.isLt; have := p4.isLt; have := p5.isLt; have := p6.isLt
  refine ⟨?_, ?_, ?_, ?_, ?_⟩ <;> apply Sys2Proof.Laws.field_eq <;>
    omega

theorem Sys2Proof.Laws.fields35 (p0 : BitVec 6) (p1 : BitVec 5) (p2 : BitVec 5) (p3 : BitVec 5) (p4 : BitVec 3) (p5 : BitVec 5) (p6 : BitVec 3) :
    (p0 ++ p1 ++ p2 ++ p3 ++ p4 ++ p5 ++ p6).extractLsb' 26 6 = p0 ∧
    (p0 ++ p1 ++ p2 ++ p3 ++ p4 ++ p5 ++ p6).extractLsb' 21 5 = p1 ∧
    (p0 ++ p1 ++ p2 ++ p3 ++ p4 ++ p5 ++ p6).extractLsb' 16 5 = p2 ∧
    (p0 ++ p1 ++ p2 ++ p3 ++ p4 ++ p5 ++ p6).extractLsb' 11 5 = p3 ∧
    (p0 ++ p1 ++ p2 ++ p3 ++ p4 ++ p5 ++ p6).extractLsb' 8 3 = p4 ∧
    (p0 ++ p1 ++ p2 ++ p3 ++ p4 ++ p5 ++ p6).extractLsb' 0 3 = p6 := by
  have h : (p0 ++ p1 ++ p2 ++ p3 ++ p4 ++ p5 ++ p6).toNat = ((((((p0.toNat) * 2 ^ 5 + p1.toNat) * 2 ^ 5 + p2.toNat) * 2 ^ 5 + p3.toNat) * 2 ^ 3 + p4.toNat) * 2 ^ 5 + p5.toNat) * 2 ^ 3 + p6.toNat := by simp only [Sys2Proof.Laws.toNat_append]
  generalize p0 ++ p1 ++ p2 ++ p3 ++ p4 ++ p5 ++ p6 = w at h ⊢
  have := p0.isLt; have := p1.isLt; have := p2.isLt; have := p3.isLt; have := p4.isLt; have := p5.isLt; have := p6.isLt
  refine ⟨?_, ?_, ?_, ?_, ?_, ?_⟩ <;> apply Sys2Proof.Laws.field_eq <;>
    omega

theorem Sys2Proof.Laws.fields36 (p0 : BitVec 6) (p1 : BitVec 5) (p2 : BitVec 5) (p3 : BitVec 16) :
    (p0 ++ p1 ++ p2 ++ p3).extractLsb' 26 6 = p0 ∧
    (p0 ++ p1 ++ p2 ++ p3).extractLsb' 21 5 = p1 ∧
    (p0 ++ p1 ++ p2 ++ p3).extractLsb' 16 5 = p2 := by
  have h : (p0 ++ p1 ++ p2 ++ p3).toNat = (((p0.toNat) * 2 ^ 5 + p1.toNat) * 2 ^ 5 + p2.toNat) * 2 ^ 16 + p3.toNat := by simp only [Sys2Proof.Laws.toNat_append]
  generalize p0 ++ p1 ++ p2 ++ p3 = w at h ⊢
  have := p0.isLt; have := p1.isLt; have := p2.isLt; have := p3.isLt
  refine ⟨?_, ?_, ?_⟩ <;> apply Sys2Proof.Laws.field_eq <;>
    omega

theorem Sys2Proof.Laws.fields37 (p0 : BitVec 6) (p1 : BitVec 5) (p2 : BitVec 3) (p3 : BitVec 16) (p4 : BitVec 2) :
    (p0 ++ p1 ++ p2 ++ p3 ++ p4).extractLsb' 26 6 = p0 ∧
    (p0 ++ p1 ++ p2 ++ p3 ++ p4).extractLsb' 21 5 = p1 ∧
    (p0 ++ p1 ++ p2 ++ p3 ++ p4).extractLsb' 18 3 = p2 ∧
    (p0 ++ p1 ++ p2 ++ p3 ++ p4).extractLsb' 2 16 = p3 := by
  have h : (p0 ++ p1 ++ p2 ++ p3 ++ p4).toNat = ((((p0.toNat) * 2 ^ 5 + p1.toNat) * 2 ^ 3 + p2.toNat) * 2 ^ 16 + p3.toNat) * 2 ^ 2 + p4.toNat := by simp only [Sys2Proof.Laws.toNat_append]
  generalize p0 ++ p1 ++ p2 ++ p3 ++ p4 = w at h ⊢
  have := p0.isLt; have := p1.isLt; have := p2.isLt; have := p3.isLt; have := p4.isLt
  refine ⟨?_, ?_, ?_, ?_⟩ <;> apply Sys2Proof.Laws.field_eq <;>
    omega

theorem Sys2Proof.Laws.fields38 (p0 : BitVec 6) (p1 : BitVec 5) (p2 : BitVec 5) (p3 : BitVec 5) (p4 : BitVec 3) (p5 : BitVec 7) (p6 : BitVec 1) :
    (p0 ++ p1 ++ p2 ++ p3 ++ p4 ++ p5 ++ p6).extractLsb' 26 6 = p0 ∧
    (p0 ++ p1 ++ p2 ++ p3 ++ p4 ++ p5 ++ p6).extractLsb' 21 5 = p1 ∧
    (p0 ++ p1 ++ p2 ++ p3 ++ p4 ++ p5 ++ p6).extractLsb' 16 5 = p2 ∧
    (p0 ++ p1 ++ p2 ++ p3 ++ p4 ++ p5 ++ p6).extractLsb' 8 3 = p4 ∧
    (p0 ++ p1 ++ p2 ++ p3 ++ p4 ++ p5 ++ p6).extractLsb' 1 7 = p5 := by
  have h : (p0 ++ p1 ++ p2 ++ p3 ++ p4 ++ p5 ++ p6).toNat = ((((((p0.toNat) * 2 ^ 5 + p1.toNat) * 2 ^ 5 + p2.toNat) * 2 ^ 5 + p3.toNat) * 2 ^ 3 + p4.toNat) * 2 ^ 7 + p5.toNat) * 2 ^ 1 + p6.toNat := by simp only [Sys2Proof.Laws.toNat_append]
  generalize p0 ++ p1 ++ p2 ++ p3 ++ p4 ++ p5 ++ p6 = w at h ⊢
  have := p0.isLt; have := p1.isLt; have := p2.isLt; have := p3.isLt; have := p4.isLt; have := p5.isLt; have := p6.isLt
  refine ⟨?_, ?_, ?_, ?_, ?_⟩ <;> apply Sys2Proof.Laws.field_eq <;>
    omega

theorem Sys2Proof.Laws.fields39 (p0 : BitVec 6) (p1 : BitVec 5) (p2 : BitVec 5) (p3 : BitVec 5) (p4 : BitVec 3) (p5 : BitVec 3) (p6 : BitVec 5) :
    (p0 ++ p1 ++ p2 ++ p3 ++ p4 ++ p5 ++ p6).extractLsb' 26 6 = p0 ∧
    (p0 ++ p1 ++ p2 ++ p3 ++ p4 ++ p5 ++ p6).extractLsb' 21 5 = p1 ∧
    (p0 ++ p1 ++ p2 ++ p3 ++ p4 ++ p5 ++ p6).extractLsb' 16 5 = p2 ∧
    (p0 ++ p1 ++ p2 ++ p3 ++ p4 ++ p5 ++ p6).extractLsb' 8 3 = p4 ∧
    (p0 ++ p1 ++ p2 ++ p3 ++ p4 ++ p5 ++ p6).extractLsb' 5 3 = p5 := by
  have h : (p0 ++ p1 ++ p2 ++ p3 ++ p4 ++ p5 ++ p6).toNat = ((((((p0.toNat) * 2 ^ 5 + p1.toNat) * 2 ^ 5 + p2.toNat) * 2 ^ 5 + p3.toNat) * 2 ^ 3 + p4.toNat) * 2 ^ 3 + p5.toNat) * 2 ^ 5 + p6.toNat := by simp only [Sys2Proof.Laws.toNat_append]
  generalize p0 ++ p1 ++ p2 ++ p3 ++ p4 ++ p5 ++ p6 = w at h ⊢
  have := p0.isLt; have := p1.isLt; have := p2.isLt; have := p3.isLt; have := p4.isLt; have := p5.isLt; have := p6.isLt
  refine ⟨?_, ?_, ?_, ?_, ?_⟩ <;> apply Sys2Proof.Laws.field_eq <;>
    omega

theorem Sys2Proof.Laws.fields40 (p0 : BitVec 6) (p1 : BitVec 5) (p2 : BitVec 10) (p3 : BitVec 3) (p4 : BitVec 8) :
    (p0 ++ p1 ++ p2 ++ p3 ++ p4).extractLsb' 26 6 = p0 ∧
    (p0 ++ p1 ++ p2 ++ p3 ++ p4).extractLsb' 21 5 = p1 ∧
    (p0 ++ p1 ++ p2 ++ p3 ++ p4).extractLsb' 8 3 = p3 := by
  have h : (p0 ++ p1 ++ p2 ++ p3 ++ p4).toNat = ((((p0.toNat) * 2 ^ 5 + p1.toNat) * 2 ^ 10 + p2.toNat) * 2 ^ 3 + p3.toNat) * 2 ^ 8 + p4.toNat := by simp only [Sys2Proof.Laws.toNat_append]
  generalize p0 ++ p1 ++ p2 ++ p3 ++ p4 = w at h ⊢
  have := p0.isLt; have := p1.isLt; have := p2.isLt; have := p3.isLt; have := p4.isLt
  refine ⟨?_, ?_, ?_⟩ <;> apply Sys2Proof.Laws.field_eq <;>
    omega

theorem Sys2Proof.Laws.fields41 (p0 : BitVec 6) (p1 : BitVec 3) (p2 : BitVec 3) (p3 : BitVec 3) (p4 : BitVec 17) :
    (p0 ++ p1 ++ p2 ++ p3 ++ p4).extractLsb' 26 6 = p0 ∧
    (p0 ++ p1 ++ p2 ++ p3 ++ p4).extractLsb' 23 3 = p1 ∧
    (p0 ++ p1 ++ p2 ++ p3 ++ p4).extractLsb' 20 3 = p2 ∧
    (p0 ++ p1 ++ p2 ++ p3 ++ p4).extractLsb' 17 3 = p3 := by
  have h : (p0 ++ p1 ++ p2 ++ p3 ++ p4).toNat = ((((p0.toNat) * 2 ^ 3 + p1.toNat) * 2 ^ 3 + p2.toNat) * 2 ^ 3 + p3.toNat) * 2 ^ 17 + p4.toNat := by simp only [Sys2Proof.Laws.toNat_append]
  generalize p0 ++ p1 ++ p2 ++ p3 ++ p4 = w at h ⊢
  have := p0.isLt; have := p1.isLt; have := p2.isLt; have := p3.isLt; have := p4.isLt
  refine ⟨?_, ?_, ?_, ?_⟩ <;> apply Sys2Proof.Laws.field_eq <;>
    omega

theorem Sys2Proof.Laws.fields42 (p0 : BitVec 6) (p1 : BitVec 3) (p2 : BitVec 3) (p3 : BitVec 20) :
    (p0 ++ p1 ++ p2 ++ p3).extractLsb' 26 6 = p0 ∧
    (p0 ++ p1 ++ p2 ++ p3).extractLsb' 23 3 = p1 ∧
    (p0 ++ p1 ++ p2 ++ p3).extractLsb' 20 3 = p2 := by
  have h : (p0 ++ p1 ++ p2 ++ p3).toNat = (((p0.toNat) * 2 ^ 3 + p1.toNat) * 2 ^ 3 + p2.toNat) * 2 ^ 20 + p3.toNat := by simp only [Sys2Proof.Laws.toNat_append]
  generalize p0 ++ p1 ++ p2 ++ p3 = w at h ⊢
  have := p0.isLt; have := p1.isLt; have := p2.isLt; have := p3.isLt
  refine ⟨?_, ?_, ?_⟩ <;> apply Sys2Proof.Laws.field_eq <;>
    omega

theorem Sys2Proof.Laws.fields43 (p0 : BitVec 6) (p1 : BitVec 3) (p2 : BitVec 3) (p3 : BitVec 3) (p4 : BitVec 5) (p5 : BitVec 12) :
    (p0 ++ p1 ++ p2 ++ p3 ++ p4 ++ p5).extractLsb' 26 6 = p0 ∧
    (p0 ++ p1 ++ p2 ++ p3 ++ p4 ++ p5).extractLsb' 20 3 = p2 ∧
    (p0 ++ p1 ++ p2 ++ p3 ++ p4 ++ p5).extractLsb' 12 5 = p4 := by
  have h : (p0 ++ p1 ++ p2 ++ p3 ++ p4 ++ p5).toNat = (((((p0.toNat) * 2 ^ 3 + p1.toNat) * 2 ^ 3 + p2.toNat) * 2 ^ 3 + p3.toNat) * 2 ^ 5 + p4.toNat) * 2 ^ 12 + p5.toNat := by simp only [Sys2Proof.Laws.toNat_append]
  generalize p0 ++ p1 ++ p2 ++ p3 ++ p4 ++ p5 = w at h ⊢
  have := p0.isLt; have := p1.isLt; have := p2.isLt; have := p3.isLt; have := p4.isLt; have := p5.isLt
  refine ⟨?_, ?_, ?_⟩ <;> apply Sys2Proof.Laws.field_eq <;>
    omega

theorem Sys2Proof.Laws.fields44 (p0 : BitVec 6) (p1 : BitVec 5) (p2 : BitVec 5) (p3 : BitVec 5) (p4 : BitVec 3) (p5 : BitVec 5) (p6 : BitVec 3) :
    (p0 ++ p1 ++ p2 ++ p3 ++ p4 ++ p5 ++ p6).extractLsb' 26 6 = p0 ∧
    (p0 ++ p1 ++ p2 ++ p3 ++ p4 ++ p5 ++ p6).extractLsb' 21 5 = p1 ∧
    (p0 ++ p1 ++ p2 ++ p3 ++ p4 ++ p5 ++ p6).extractLsb' 16 5 = p2 ∧
    (p0 ++ p1 ++ p2 ++ p3 ++ p4 ++ p5 ++ p6).extractLsb' 8 3 = p4 ∧
    (p0 ++ p1 ++ p2 ++ p3 ++ p4 ++ p5 ++ p6).extractLsb' 3 5 = p5 := by
  have h : (p0 ++ p1 ++ p2 ++ p3 ++ p4 ++ p5 ++ p6).toNat = ((((((p0.toNat) * 2 ^ 5 + p1.toNat) * 2 ^ 5 + p2.toNat) * 2 ^ 5 + p3.toNat) * 2 ^ 3 + p4.toNat) * 2 ^ 5 + p5.toNat) * 2 ^ 3 + p6.toNat := by simp only [Sys2Proof.Laws.toNat_append]
  generalize p0 ++ p1 ++ p2 ++ p3 ++ p4 ++ p5 ++ p6 = w at h ⊢
  have := p0.isLt; have := p1.isLt; have := p2.isLt; have := p3.isLt; have := p4.isLt; have := p5.isLt; have := p6.isLt
  refine ⟨?_, ?_, ?_, ?_, ?_⟩ <;> apply Sys2Proof.Laws.field_eq <;>
    omega

theorem Sys2Proof.Laws.fields45 (p0 : BitVec 6) (p1 : BitVec 5) (p2 : BitVec 5) (p3 : BitVec 5) (p4 : BitVec 3) (p5 : BitVec 3) (p6 : BitVec 1) (p7 : BitVec 1) (p8 : BitVec 3) :
    (p0 ++ p1 ++ p2 ++ p3 ++ p4 ++ p5 ++ p6 ++ p7 ++ p8).extractLsb' 26 6 = p0 ∧
    (p0 ++ p1 ++ p2 ++ p3 ++ p4 ++ p5 ++ p6 ++ p7 ++ p8).extractLsb' 21 5 = p1 ∧
    (p0 ++ p1 ++ p2 ++ p3 ++ p4 ++ p5 ++ p6 ++ p7 ++ p8).extractLsb' 16 5 = p2 ∧
    (p0 ++ p1 ++ p2 ++ p3 ++ p4 ++ p5 ++ p6 ++ p7 ++ p8).extractLsb' 11 5 = p3 ∧
    (p0 ++ p1 ++ p2 ++ p3 ++ p4 ++ p5 ++ p6 ++ p7 ++ p8).extractLsb' 8 3 = p4 ∧
    (p0 ++ p1 ++ p2 ++ p3 ++ p4 ++ p5 ++ p6 ++ p7 ++ p8).extractLsb' 5 3 = p5 ∧
    (p0 ++ p1 ++ p2 ++ p3 ++ p4 ++ p5 ++ p6 ++ p7 ++ p8).extractLsb' 3 1 = p7 := by
  have h : (p0 ++ p1 ++ p2 ++ p3 ++ p4 ++ p5 ++ p6 ++ p7 ++ p8).toNat = ((((((((p0.toNat) * 2 ^ 5 + p1.toNat) * 2 ^ 5 + p2.toNat) * 2 ^ 5 + p3.toNat) * 2 ^ 3 + p4.toNat) * 2 ^ 3 + p5.toNat) * 2 ^ 1 + p6.toNat) * 2 ^ 1 + p7.toNat) * 2 ^ 3 + p8.toNat := by simp only [Sys2Proof.Laws.toNat_append]
  generalize p0 ++ p1 ++ p2 ++ p3 ++ p4 ++ p5 ++ p6 ++ p7 ++ p8 = w at h ⊢
  have := p0.isLt; have := p1.isLt; have := p2.isLt; have := p3.isLt; have := p4.isLt; have := p5.isLt; have := p6.isLt; have := p7.isLt; have := p8.isLt
  refine ⟨?_, ?_, ?_, ?_, ?_, ?_, ?_⟩ <;> apply Sys2Proof.Laws.field_eq <;>
    omega

theorem Sys2Proof.Laws.fields46 (p0 : BitVec 6) (p1 : BitVec 5) (p2 : BitVec 5) (p3 : BitVec 5) (p4 : BitVec 3) (p5 : BitVec 3) (p6 : BitVec 1) (p7 : BitVec 1) (p8 : BitVec 3) :
    (p0 ++ p1 ++ p2 ++ p3 ++ p4 ++ p5 ++ p6 ++ p7 ++ p8).extractLsb' 26 6 = p0 ∧
    (p0 ++ p1 ++ p2 ++ p3 ++ p4 ++ p5 ++ p6 ++ p7 ++ p8).extractLsb' 21 5 = p1 ∧
    (p0 ++ p1 ++ p2 ++ p3 ++ p4 ++ p5 ++ p6 ++ p7 ++ p8).extractLsb' 16 5 = p2 ∧
    (p0 ++ p1 ++ p2 ++ p3 ++ p4 ++ p5 ++ p6 ++ p7 ++ p8).extractLsb' 8 3 = p4 ∧
    (p0 ++ p1 ++ p2 ++ p3 ++ p4 ++ p5 ++ p6 ++ p7 ++ p8).extractLsb' 5 3 = p5 ∧
    (p0 ++ p1 ++ p2 ++ p3 ++ p4 ++ p5 ++ p6 ++ p7 ++ p8).extractLsb' 4 1 = p6 ∧
    (p0 ++ p1 ++ p2 ++ p3 ++ p4 ++ p5 ++ p6 ++ p7 ++ p8).extractLsb' 3 1 = p7 := by
  have h : (p0 ++ p1 ++ p2 ++ p3 ++ p4 ++ p5 ++ p6 ++ p7 ++ p8).toNat = ((((((((p0.toNat) * 2 ^ 5 + p1.toNat) * 2 ^ 5 + p2.toNat) * 2 ^ 5 + p3.toNat) * 2 ^ 3 + p4.toNat) * 2 ^ 3 + p5.toNat) * 2 ^ 1 + p6.toNat) * 2 ^ 1 + p7.toNat) * 2 ^ 3 + p8.toNat := by simp only [Sys2Proof.Laws.toNat_append]
  generalize p0 ++ p1 ++ p2 ++ p3 ++ p4 ++ p5 ++ p6 ++ p7 ++ p8 = w at h ⊢
  have := p0.isLt; have := p1.isLt; have := p2.isLt; have := p3.isLt; have := p4.isLt; have := p5.isLt; have := p6.isLt; have := p7.isLt; have := p8.isLt
  refine ⟨?_, ?_, ?_, ?_, ?_, ?_, ?_⟩ <;> apply Sys2Proof.Laws.field_eq <;>
    omega

theorem Sys2Proof.Laws.fields47 (p0 : BitVec 6) (p1 : BitVec 5) (p2 : BitVec 4) (p3 : BitVec 6) (p4 : BitVec 2) (p5 : BitVec 4) (p6 : BitVec 5) :
    (p0 ++ p1 ++ p2 ++ p3 ++ p4 ++ p5 ++ p6).extractLsb' 26 6 = p0 ∧
    (p0 ++ p1 ++ p2 ++ p3 ++ p4 ++ p5 ++ p6).extractLsb' 21 5 = p1 ∧
    (p0 ++ p1 ++ p2 ++ p3 ++ p4 ++ p5 ++ p6).extractLsb' 17 4 = p2 ∧
    (p0 ++ p1 ++ p2 ++ p3 ++ p4 ++ p5 ++ p6).extractLsb' 11 6 = p3 ∧
    (p0 ++ p1 ++ p2 ++ p3 ++ p4 ++ p5 ++ p6).extractLsb' 9 2 = p4 ∧
    (p0 ++ p1 ++ p2 ++ p3 ++ p4 ++ p5 ++ p6).extractLsb' 0 5 = p6 := by
  have h : (p0 ++ p1 ++ p2 ++ p3 ++ p4 ++ p5 ++ p6).toNat = ((((((p0.toNat) * 2 ^ 5 + p1.toNat) * 2 ^ 4 + p2.toNat) * 2 ^ 6 + p3.toNat) * 2 ^ 2 + p4.toNat) * 2 ^ 4 + p5.toNat) * 2 ^ 5 + p6.toNat := by simp only [Sys2Proof.Laws.toNat_append]
  generalize p0 ++ p1 ++ p2 ++ p3 ++ p4 ++ p5 ++ p6 = w at h ⊢
  have := p0.isLt; have := p1.isLt; have := p2.isLt; have := p3.isLt; have := p4.isLt; have := p5.isLt; have := p6.isLt
  refine ⟨?_, ?_, ?_, ?_, ?_, ?_⟩ <;> apply Sys2Proof.Laws.field_eq <;>
    omega

theorem Sys2Proof.Laws.fields48 (p0 : BitVec 6) (p1 : BitVec 5) (p2 : BitVec 4) (p3 : BitVec 6) (p4 : BitVec 2) (p5 : BitVec 1) (p6 : BitVec 3) (p7 : BitVec 5) :
    (p0 ++ p1 ++ p2 ++ p3 ++ p4 ++ p5 ++ p6 ++ p7).extractLsb' 26 6 = p0 ∧
    (p0 ++ p1 ++ p2 ++ p3 ++ p4 ++ p5 ++ p6 ++ p7).extractLsb' 21 5 = p1 ∧
    (p0 ++ p1 ++ p2 ++ p3 ++ p4 ++ p5 ++ p6 ++ p7).extractLsb' 17 4 = p2 ∧
    (p0 ++ p1 ++ p2 ++ p3 ++ p4 ++ p5 ++ p6 ++ p7).extractLsb' 11 6 = p3 ∧
    (p0 ++ p1 ++ p2 ++ p3 ++ p4 ++ p5 ++ p6 ++ p7).extractLsb' 9 2 = p4 ∧
    (p0 ++ p1 ++ p2 ++ p3 ++ p4 ++ p5 ++ p6 ++ p7).extractLsb' 8 1 = p5 ∧
    (p0 ++ p1 ++ p2 ++ p3 ++ p4 ++ p5 ++ p6 ++ p7).extractLsb' 5 3 = p6 ∧
    (p0 ++ p1 ++ p2 ++ p3 ++ p4 ++ p5 ++ p6 ++ p7).extractLsb' 0 5 = p7 := by
  have h : (p0 ++ p1 ++ p2 ++ p3 ++ p4 ++ p5 ++ p6 ++ p7).toNat = (((((((p0.toNat) * 2 ^ 5 + p1.toNat) * 2 ^ 4 + p2.toNat) * 2 ^ 6 + p3.toNat) * 2 ^ 2 + p4.toNat) * 2 ^ 1 + p5.toNat) * 2 ^ 3 + p6.toNat) * 2 ^ 5 + p7.toNat := by simp only [Sys2Proof.Laws.toNat_append]
  generalize p0 ++ p1 ++ p2 ++ p3 ++ p4 ++ p5 ++ p6 ++ p7 = w at h ⊢
  have := p0.isLt; have := p1.isLt; have := p2.isLt; have := p3.isLt; have := p4.isLt; have := p5.isLt; have := p6.isLt; have := p7.isLt
  refine ⟨?_, ?_, ?_, ?_, ?_, ?_, ?_, ?_⟩ <;> apply Sys2Proof.Laws.field_eq <;>
    omega

theorem Sys2Proof.Laws.fields49 (p0 : BitVec 6) (p1 : BitVec 5) (p2 : BitVec 4) (p3 : BitVec 6) (p4 : BitVec 2) (p5 : BitVec 4) (p6 : BitVec 2) (p7 : BitVec 3) :
    (p0 ++ p1 ++ p2 ++ p3 ++ p4 ++ p5 ++ p6 ++ p7).extractLsb' 26 6 = p0 ∧
    (p0 ++ p1 ++ p2 ++ p3 ++ p4 ++ p5 ++ p6 ++ p7).extractLsb' 21 5 = p1 ∧
    (p0 ++ p1 ++ p2 ++ p3 ++ p4 ++ p5 ++ p6 ++ p7).extractLsb' 17 4 = p2 ∧
    (p0 ++ p1 ++ p2 ++ p3 ++ p4 ++ p5 ++ p6 ++ p7).extractLsb' 11 6 = p3 ∧
    (p0 ++ p1 ++ p2 ++ p3 ++ p4 ++ p5 ++ p6 ++ p7).extractLsb' 9 2 = p4 ∧
    (p0 ++ p1 ++ p2 ++ p3 ++ p4 ++ p5 ++ p6 ++ p7).extractLsb' 3 2 = p6 := by
  have h : (p0 ++ p1 ++ p2 ++ p3 ++ p4 ++ p5 ++ p6 ++ p7).toNat = (((((((p0.toNat) * 2 ^ 5 + p1.toNat) * 2 ^ 4 + p2.toNat) * 2 ^ 6 + p3.toNat) * 2 ^ 2 + p4.toNat) * 2 ^ 4 + p5.toNat) * 2 ^ 2 + p6.toNat) * 2 ^ 3 + p7.toNat := by simp only [Sys2Proof.Laws.toNat_append]
  generalize p0 ++ p1 ++ p2 ++ p3 ++ p4 ++ p5 ++ p6 ++ p7 = w at h ⊢
  have := p0.isLt; have := p1.isLt; have := p2.isLt; have := p3.isLt; have := p4.isLt; have := p5.isLt; have := p6.isLt; have := p7.isLt
  refine ⟨?_, ?_, ?_, ?_, ?_, ?_⟩ <;> apply Sys2Proof.Laws.field_eq <;>
    omega

theorem Sys2Proof.Laws.fields50 (p0 : BitVec 6) (p1 : BitVec 5) (p2 : BitVec 4) (p3 : BitVec 6) (p4 : BitVec 2) (p5 : BitVec 1) (p6 : BitVec 3) (p7 : BitVec 2) (p8 : BitVec 3) :
    (p0 ++ p1 ++ p2 ++ p3 ++ p4 ++ p5 ++ p6 ++ p7 ++ p8).extractLsb' 26 6 = p0 ∧
    (p0 ++ p1 ++ p2 ++ p3 ++ p4 ++ p5 ++ p6 ++ p7 ++ p8).extractLsb' 21 5 = p1 ∧
    (p0 ++ p1 ++ p2 ++ p3 ++ p4 ++ p5 ++ p6 ++ p7 ++ p8).extractLsb' 17 4 = p2 ∧
    (p0 ++ p1 ++ p2 ++ p3 ++ p4 ++ p5 ++ p6 ++ p7 ++ p8).extractLsb' 11 6 = p3 ∧
    (p0 ++ p1 ++ p2 ++ p3 ++ p4 ++ p5 ++ p6 ++ p7 ++ p8).extractLsb' 9 2 = p4 ∧
    (p0 ++ p1 ++ p2 ++ p3 ++ p4 ++ p5 ++ p6 ++ p7 ++ p8).extractLsb' 8 1 = p5 ∧
    (p0 ++ p1 ++ p2 ++ p3 ++ p4 ++ p5 ++ p6 ++ p7 ++ p8).extractLsb' 5 3 = p6 ∧
    (p0 ++ p1 ++ p2 ++ p3 ++ p4 ++ p5 ++ p6 ++ p7 ++ p8).extractLsb' 3 2 = p7 := by
  have h : (p0 ++ p1 ++ p2 ++ p3 ++ p4 ++ p5 ++ p6 ++ p7 ++ p8).toNat = ((((((((p0.toNat) * 2 ^ 5 + p1.toNat) * 2 ^ 4 + p2.toNat) * 2 ^ 6 + p3.toNat) * 2 ^ 2 + p4.toNat) * 2 ^ 1 + p5.toNat) * 2 ^ 3 + p6.toNat) * 2 ^ 2 + p7.toNat) * 2 ^ 3 + p8.toNat := by simp only [Sys2Proof.Laws.toNat_append]
  generalize p0 ++ p1 ++ p2 ++ p3 ++ p4 ++ p5 ++ p6 ++ p7 ++ p8 = w at h ⊢
  have := p0.isLt; have := p1.isLt; have := p2.isLt; have := p3.isLt; have := p4.isLt; have := p5.isLt; have := p6.isLt; have := p7.isLt; have := p8.isLt
  refine ⟨?_, ?_, ?_, ?_, ?_, ?_, ?_, ?_⟩ <;> apply Sys2Proof.Laws.field_eq <;>
    omega

theorem Sys2Proof.Laws.fields51 (p0 : BitVec 6) (p1 : BitVec 5) (p2 : BitVec 4) (p3 : BitVec 6) (p4 : BitVec 2) (p5 : BitVec 2) (p6 : BitVec 7) :
    (p0 ++ p1 ++ p2 ++ p3 ++ p4 ++ p5 ++ p6).extractLsb' 26 6 = p0 ∧
    (p0 ++ p1 ++ p2 ++ p3 ++ p4 ++ p5 ++ p6).extractLsb' 21 5 = p1 ∧
    (p0 ++ p1 ++ p2 ++ p3 ++ p4 ++ p5 ++ p6).extractLsb' 17 4 = p2 ∧
    (p0 ++ p1 ++ p2 ++ p3 ++ p4 ++ p5 ++ p6).extractLsb' 11 6 = p3 ∧
    (p0 ++ p1 ++ p2 ++ p3 ++ p4 ++ p5 ++ p6).extractLsb' 9 2 = p4 ∧
    (p0 ++ p1 ++ p2 ++ p3 ++ p4 ++ p5 ++ p6).extractLsb' 7 2 = p5 ∧
    (p0 ++ p1 ++ p2 ++ p3 ++ p4 ++ p5 ++ p6).extractLsb' 0 7 = p6 := by
  have h : (p0 ++ p1 ++ p2 ++ p3 ++ p4 ++ p5 ++ p6).toNat = ((((((p0.toNat) * 2 ^ 5 + p1.toNat) * 2 ^ 4 + p2.toNat) * 2 ^ 6 + p3.toNat) * 2 ^ 2 + p4.toNat) * 2 ^ 2 + p5.toNat) * 2 ^ 7 + p6.toNat := by simp only [Sys2Proof.Laws.toNat_append]
  generalize p0 ++ p1 ++ p2 ++ p3 ++ p4 ++ p5 ++ p6 = w at h ⊢
  have := p0.isLt; have := p1.isLt; have := p2.isLt; have := p3.isLt; have := p4.isLt; have := p5.isLt; have := p6.isLt
  refine ⟨?_, ?_, ?_, ?_, ?_, ?_, ?_⟩ <;> apply Sys2Proof.Laws.field_eq <;>
    omega

theorem Sys2Proof.Laws.fields52 (p0 : BitVec 6) (p1 : BitVec 3) (p2 : BitVec 8) (p3 : BitVec 15) :
    (p0 ++ p1 ++ p2 ++ p3).extractLsb' 26 6 = p0 ∧
    (p0 ++ p1 ++ p2 ++ p3).extractLsb' 23 3 = p1 ∧
    (p0 ++ p1 ++ p2 ++ p3).extractLsb' 15 8 = p2 := by
  have h : (p0 ++ p1 ++ p2 ++ p3).toNat = (((p0.toNat) * 2 ^ 3 + p1.toNat) * 2 ^ 8 + p2.toNat) * 2 ^ 15 + p3.toNat := by simp only [Sys2Proof.Laws.toNat_append]
  generalize p0 ++ p1 ++ p2 ++ p3 = w at h ⊢
  have := p0.isLt; have := p1.isLt; have := p2.isLt; have := p3.isLt
  refine ⟨?_, ?_, ?_⟩ <;> apply Sys2Proof.Laws.field_eq <;>
    omega

theorem Sys2Proof.Laws.fields53 (p0 : BitVec 6) (p1 : BitVec 3) (p2 : BitVec 4) (p3 : BitVec 6) (p4 : BitVec 2) (p5 : BitVec 11) :
    (p0 ++ p1 ++ p2 ++ p3 ++ p4 ++ p5).extractLsb' 26 6 = p0 ∧
    (p0 ++ p1 ++ p2 ++ p3 ++ p4 ++ p5).extractLsb' 23 3 = p1 ∧
    (p0 ++ p1 ++ p2 ++ p3 ++ p4 ++ p5).extractLsb' 19 4 = p2 ∧
    (p0 ++ p1 ++ p2 ++ p3 ++ p4 ++ p5).extractLsb' 13 6 = p3 ∧
    (p0 ++ p1 ++ p2 ++ p3 ++ p4 ++ p5).extractLsb' 11 2 = p4 := by
  have h : (p0 ++ p1 ++ p2 ++ p3 ++ p4 ++ p5).toNat = (((((p0.toNat) * 2 ^ 3 + p1.toNat) * 2 ^ 4 + p2.toNat) * 2 ^ 6 + p3.toNat) * 2 ^ 2 + p4.toNat) * 2 ^ 11 + p5.toNat := by simp only [Sys2Proof.Laws.toNat_append]
  generalize p0 ++ p1 ++ p2 ++ p3 ++ p4 ++ p5 = w at h ⊢
  have := p0.isLt; have := p1.isLt; have := p2.isLt; have := p3.isLt; have := p4.isLt; have := p5.isLt
  refine ⟨?_, ?_, ?_, ?_, ?_⟩ <;> apply Sys2Proof.Laws.field_eq <;>
    omega

theorem Sys2Proof.Laws.fields54 (p0 : BitVec 6) (p1 : BitVec 5) (p2 : BitVec 3) (p3 : BitVec 4) (p4 : BitVec 1) (p5 : BitVec 13) :
    (p0 ++ p1 ++ p2 ++ p3 ++ p4 ++ p5).extractLsb' 26 6 = p0 ∧
    (p0 ++ p1 ++ p2 ++ p3 ++ p4 ++ p5).extractLsb' 21 5 = p1 ∧
    (p0 ++ p1 ++ p2 ++ p3 ++ p4 ++ p5).extractLsb' 18 3 = p2 ∧
    (p0 ++ p1 ++ p2 ++ p3 ++ p4 ++ p5).extractLsb' 14 4 = p3 ∧
    (p0 ++ p1 ++ p2 ++ p3 ++ p4 ++ p5).extractLsb' 13 1 = p4 := by
  have h : (p0 ++ p1 ++ p2 ++ p3 ++ p4 ++ p5).toNat = (((((p0.toNat) * 2 ^ 5 + p1.toNat) * 2 ^ 3 + p2.toNat) * 2 ^ 4 + p3.toNat) * 2 ^ 1 + p4.toNat) * 2 ^ 13 + p5.toNat := by simp only [Sys2Proof.Laws.toNat_append]
  generalize p0 ++ p1 ++ p2 ++ p3 ++ p4 ++ p5 = w at h ⊢
  have := p0.isLt; have := p1.isLt; have := p2.isLt; have := p3.isLt; have := p4.isLt; have := p5.isLt
  refine ⟨?_, ?_, ?_, ?_, ?_⟩ <;> apply Sys2Proof.Laws.field_eq <;>
    omega

theorem Sys2Proof.Laws.fields55 (p0 : BitVec 6) (p1 : BitVec 3) (p2 : BitVec 23) :
    (p0 ++ p1 ++ p2).extractLsb' 26 6 = p0 ∧
    (p0 ++ p1 ++ p2).extractLsb' 23 3 = p1 := by
  have h : (p0 ++ p1 ++ p2).toNat = ((p0.toNat) * 2 ^ 3 + p1.toNat) * 2 ^ 23 + p2.toNat := by simp only [Sys2Proof.Laws.toNat_append]
  generalize p0 ++ p1 ++ p2 = w at h ⊢
  have := p0.isLt; have := p1.isLt; have := p2.isLt
  refine ⟨?_, ?_⟩ <;> apply Sys2Proof.Laws.field_eq <;>
    omega

theorem Sys2Proof.Laws.fields56 (p0 : BitVec 6) (p1 : BitVec 3) (p2 : BitVec 4) (p3 : BitVec 6) (p4 : BitVec 13) :
    (p0 ++ p1 ++ p2 ++ p3 ++ p4).extractLsb' 26 6 = p0 ∧
    (p0 ++ p1 ++ p2 ++ p3 ++ p4).extractLsb' 23 3 = p1 ∧
    (p0 ++ p1 ++ p2 ++ p3 ++ p4).extractLsb' 19 4 = p2 ∧
    (p0 ++ p1 ++ p2 ++ p3 ++ p4).extractLsb' 13 6 = p3 := by
  have h : (p0 ++ p1 ++ p2 ++ p3 ++ p4).toNat = ((((p0.toNat) * 2 ^ 3 + p1.toNat) * 2 ^ 4 + p2.toNat) * 2 ^ 6 + p3.toNat) * 2 ^ 13 + p4.toNat := by simp only [Sys2Proof.Laws.toNat_append]
  generalize p0 ++ p1 ++ p2 ++ p3 ++ p4 = w at h ⊢
  have := p0.isLt; have := p1.isLt; have := p2.isLt; have := p3.isLt; have := p4.isLt
  refine ⟨?_, ?_, ?_, ?_⟩ <;> apply Sys2Proof.Laws.field_eq <;>
    omega

theorem Sys2Proof.Laws.fields57 (p0 : BitVec 6) (p1 : BitVec 1) (p2 : BitVec 3) (p3 : BitVec 3) (p4 : BitVec 6) (p5 : BitVec 13) :
    (p0 ++ p1 ++ p2 ++ p3 ++ p4 ++ p5).extractLsb' 26 6 = p0 ∧
    (p0 ++ p1 ++ p2 ++ p3 ++ p4 ++ p5).extractLsb' 25 1 = p1 ∧
    (p0 ++ p1 ++ p2 ++ p3 ++ p4 ++ p5).extractLsb' 22 3 = p2 ∧
    (p0 ++ p1 ++ p2 ++ p3 ++ p4 ++ p5).extractLsb' 19 3 = p3 ∧
    (p0 ++ p1 ++ p2 ++ p3 ++ p4 ++ p5).extractLsb' 13 6 = p4 := by
  have h : (p0 ++ p1 ++ p2 ++ p3 ++ p4 ++ p5).toNat = (((((p0.toNat) * 2 ^ 1 + p1.toNat) * 2 ^ 3 + p2.toNat) * 2 ^ 3 + p3.toNat) * 2 ^ 6 + p4.toNat) * 2 ^ 13 + p5.toNat := by simp only [Sys2Proof.Laws.toNat_append]
  generalize p0 ++ p1 ++ p2 ++ p3 ++ p4 ++ p5 = w at h ⊢
  have := p0.isLt; have := p1.isLt; have := p2.isLt; have := p3.isLt; have := p4.isLt; have := p5.isLt
  refine ⟨?_, ?_, ?_, ?_, ?_⟩ <;> apply Sys2Proof.Laws.field_eq <;>
    omega

theorem Sys2Proof.Laws.fields58 (p0 : BitVec 6) (p1 : BitVec 4) (p2 : BitVec 4) (p3 : BitVec 6) (p4 : BitVec 12) :
    (p0 ++ p1 ++ p2 ++ p3 ++ p4).extractLsb' 26 6 = p0 ∧
    (p0 ++ p1 ++ p2 ++ p3 ++ p4).extractLsb' 22 4 = p1 ∧
    (p0 ++ p1 ++ p2 ++ p3 ++ p4).extractLsb' 18 4 = p2 ∧
    (p0 ++ p1 ++ p2 ++ p3 ++ p4).extractLsb' 12 6 = p3 := by
  have h : (p0 ++ p1 ++ p2 ++ p3 ++ p4).toNat = ((((p0.toNat) * 2 ^ 4 + p1.toNat) * 2 ^ 4 + p2.toNat) * 2 ^ 6 + p3.toNat) * 2 ^ 12 + p4.toNat := by simp only [Sys2Proof.Laws.toNat_append]
  generalize p0 ++ p1 ++ p2 ++ p3 ++ p4 = w at h ⊢
  have := p0.isLt; have := p1.isLt; have := p2.isLt; have := p3.isLt; have := p4.isLt
  refine ⟨?_, ?_, ?_, ?_⟩ <;> apply Sys2Proof.Laws.field_eq <;>
    omega

theorem Sys2Proof.Laws.fields59 (p0 : BitVec 6) (p1 : BitVec 6) (p2 : BitVec 20) :
    (p0 ++ p1 ++ p2).extractLsb' 26 6 = p0 ∧
    (p0 ++ p1 ++ p2).extractLsb' 19 1 = p2.extractLsb' 19 1 ∧
    (p0 ++ p1 ++ p2).extractLsb' 20 6 = p1 := by
  have h : (p0 ++ p1 ++ p2).toNat = ((p0.toNat) * 2 ^ 6 + p1.toNat) * 2 ^ 20 + p2.toNat := by simp only [Sys2Proof.Laws.toNat_append]
  generalize p0 ++ p1 ++ p2 = w at h ⊢
  have := p0.isLt; have := p1.isLt; have := p2.isLt
  refine ⟨?_, ?_, ?_⟩ <;> apply Sys2Proof.Laws.field_eq <;>
    (try simp only [BitVec.extractLsb'_toNat, Nat.shiftRight_eq_div_pow]) <;> omega

theorem Sys2Proof.Laws.fields60 (p0 : BitVec 6) (p1 : BitVec 1) (p2 : BitVec 2) (p3 : BitVec 1) (p4 : BitVec 3) (p5 : BitVec 19) :
    (p0 ++ p1 ++ p2 ++ p3 ++ p4 ++ p5).extractLsb' 26 6 = p0 ∧
    (p0 ++ p1 ++ p2 ++ p3 ++ p4 ++ p5).extractLsb' 25 1 = p1 ∧
    (p0 ++ p1 ++ p2 ++ p3 ++ p4 ++ p5).extractLsb' 23 2 = p2 ∧
    (p0 ++ p1 ++ p2 ++ p3 ++ p4 ++ p5).extractLsb' 22 1 = p3 ∧
    (p0 ++ p1 ++ p2 ++ p3 ++ p4 ++ p5).extractLsb' 19 3 = p4 := by
  have h : (p0 ++ p1 ++ p2 ++ p3 ++ p4 ++ p5).toNat = (((((p0.toNat) * 2 ^ 1 + p1.toNat) * 2 ^ 2 + p2.toNat) * 2 ^ 1 + p3.toNat) * 2 ^ 3 + p4.toNat) * 2 ^ 19 + p5.toNat := by simp only [Sys2Proof.Laws.toNat_append]
  generalize p0 ++ p1 ++ p2 ++ p3 ++ p4 ++ p5 = w at h ⊢
  have := p0.isLt; have := p1.isLt; have := p2.isLt; have := p3.isLt; have := p4.isLt; have := p5.isLt
  refine ⟨?_, ?_, ?_, ?_, ?_⟩ <;> apply Sys2Proof.Laws.field_eq <;>
    omega

theorem Sys2Proof.Laws.fields61 (p0 : BitVec 6) (p1 : BitVec 1) (p2 : BitVec 25) :
    (p0 ++ p1 ++ p2).extractLsb' 26 6 = p0 ∧
    (p0 ++ p1 ++ p2).extractLsb' 25 1 = p1 := by
  have h : (p0 ++ p1 ++ p2).toNat = ((p0.toNat) * 2 ^ 1 + p1.toNat) * 2 ^ 25 + p2.toNat := by simp only [Sys2Proof.Laws.toNat_append]
  generalize p0 ++ p1 ++ p2 = w at h ⊢
  have := p0.isLt; have := p1.isLt; have := p2.isLt
  refine ⟨?_, ?_⟩ <;> apply Sys2Proof.Laws.field_eq <;>
    omega

theorem Sys2Proof.Laws.fields62 (p0 : BitVec 6) (p1 : BitVec 2) (p2 : BitVec 6) (p3 : BitVec 6) (p4 : BitVec 3) (p5 : BitVec 1) (p6 : BitVec 8) :
    (p0 ++ p1 ++ p2 ++ p3 ++ p4 ++ p5 ++ p6).extractLsb' 26 6 = p0 ∧
    (p0 ++ p1 ++ p2 ++ p3 ++ p4 ++ p5 ++ p6).extractLsb' 24 2 = p1 ∧
    (p0 ++ p1 ++ p2 ++ p3 ++ p4 ++ p5 ++ p6).extractLsb' 18 6 = p2 ∧
    (p0 ++ p1 ++ p2 ++ p3 ++ p4 ++ p5 ++ p6).extractLsb' 12 6 = p3 ∧
    (p0 ++ p1 ++ p2 ++ p3 ++ p4 ++ p5 ++ p6).extractLsb' 9 3 = p4 ∧
    (p0 ++ p1 ++ p2 ++ p3 ++ p4 ++ p5 ++ p6).extractLsb' 8 1 = p5 := by
  have h : (p0 ++ p1 ++ p2 ++ p3 ++ p4 ++ p5 ++ p6).toNat = ((((((p0.toNat) * 2 ^ 2 + p1.toNat) * 2 ^ 6 + p2.toNat) * 2 ^ 6 + p3.toNat) * 2 ^ 3 + p4.toNat) * 2 ^ 1 + p5.toNat) * 2 ^ 8 + p6.toNat := by simp only [Sys2Proof.Laws.toNat_append]
  generalize p0 ++ p1 ++ p2 ++ p3 ++ p4 ++ p5 ++ p6 = w at h ⊢
  have := p0.isLt; have := p1.isLt; have := p2.isLt; have := p3.isLt; have := p4.isLt; have := p5.isLt; have := p6.isLt
  refine ⟨?_, ?_, ?_, ?_, ?_, ?_⟩ <;> apply Sys2Proof.Laws.field_eq <;>
    omega

theorem Sys2Proof.Laws.fields63 (p0 : BitVec 6) (p1 : BitVec 2) (p2 : BitVec 6) (p3 : BitVec 6) (p4 : BitVec 3) (p5 : BitVec 1) (p6 : BitVec 8) :
    (p0 ++ p1 ++ p2 ++ p3 ++ p4 ++ p5 ++ p6).extractLsb' 26 6 = p0 ∧
    (p0 ++ p1 ++ p2 ++ p3 ++ p4 ++ p5 ++ p6).extractLsb' 24 2 = p1 ∧
    (p0 ++ p1 ++ p2 ++ p3 ++ p4 ++ p5 ++ p6).extractLsb' 12 6 = p3 ∧
    (p0 ++ p1 ++ p2 ++ p3 ++ p4 ++ p5 ++ p6).extractLsb' 9 3 = p4 ∧
    (p0 ++ p1 ++ p2 ++ p3 ++ p4 ++ p5 ++ p6).extractLsb' 8 1 = p5 := by
  have h : (p0 ++ p1 ++ p2 ++ p3 ++ p4 ++ p5 ++ p6).toNat = ((((((p0.toNat) * 2 ^ 2 + p1.toNat) * 2 ^ 6 + p2.toNat) * 2 ^ 6 + p3.toNat) * 2 ^ 3 + p4.toNat) * 2 ^ 1 + p5.toNat) * 2 ^ 8 + p6.toNat := by simp only [Sys2Proof.Laws.toNat_append]
  generalize p0 ++ p1 ++ p2 ++ p3 ++ p4 ++ p5 ++ p6 = w at h ⊢
  have := p0.isLt; have := p1.isLt; have := p2.isLt; have := p3.isLt; have := p4.isLt; have := p5.isLt; have := p6.isLt
  refine ⟨?_, ?_, ?_, ?_, ?_⟩ <;> apply Sys2Proof.Laws.field_eq <;>
    omega

theorem Sys2Proof.Laws.fields64 (p0 : BitVec 6) (p1 : BitVec 8) (p2 : BitVec 6) (p3 : BitVec 12) :
    (p0 ++ p1 ++ p2 ++ p3).extractLsb' 26 6 = p0 ∧
    (p0 ++ p1 ++ p2 ++ p3).extractLsb' 12 6 = p2 := by
  have h : (p0 ++ p1 ++ p2 ++ p3).toNat = (((p0.toNat) * 2 ^ 8 + p1.toNat) * 2 ^ 6 + p2.toNat) * 2 ^ 12 + p3.toNat := by simp only [Sys2Proof.Laws.toNat_append]
  generalize p0 ++ p1 ++ p2 ++ p3 = w at h ⊢
  have := p0.isLt; have := p1.isLt; have := p2.isLt; have := p3.isLt
  refine ⟨?_, ?_⟩ <;> apply Sys2Proof.Laws.field_eq <;>
    omega

theorem Sys2Proof.Laws.fields65 (p0 : BitVec 6) (p1 : BitVec 1) (p2 : BitVec 4) (p3 : BitVec 6) (p4 : BitVec 6) (p5 : BitVec 6) (p6 : BitVec 2) (p7 : BitVec 1) :
    (p0 ++ p1 ++ p2 ++ p3 ++ p4 ++ p5 ++ p6 ++ p7).extractLsb' 26 6 = p0 ∧
    (p0 ++ p1 ++ p2 ++ p3 ++ p4 ++ p5 ++ p6 ++ p7).extractLsb' 25 1 = p1 ∧
    (p0 ++ p1 ++ p2 ++ p3 ++ p4 ++ p5 ++ p6 ++ p7).extractLsb' 21 4 = p2 ∧
    (p0 ++ p1 ++ p2 ++ p3 ++ p4 ++ p5 ++ p6 ++ p7).extractLsb' 15 6 = p3 ∧
    (p0 ++ p1 ++ p2 ++ p3 ++ p4 ++ p5 ++ p6 ++ p7).extractLsb' 9 6 = p4 ∧
    (p0 ++ p1 ++ p2 ++ p3 ++ p4 ++ p5 ++ p6 ++ p7).extractLsb' 3 6 = p5 ∧
    (p0 ++ p1 ++ p2 ++ p3 ++ p4 ++ p5 ++ p6 ++ p7).extractLsb' 1 2 = p6 := by
  have h : (p0 ++ p1 ++ p2 ++ p3 ++ p4 ++ p5 ++ p6 ++ p7).toNat = (((((((p0.toNat) * 2 ^ 1 + p1.toNat) * 2 ^ 4 + p2.toNat) * 2 ^ 6 + p3.toNat) * 2 ^ 6 + p4.toNat) * 2 ^ 6 + p5.toNat) * 2 ^ 2 + p6.toNat) * 2 ^ 1 + p7.toNat := by simp only [Sys2Proof.Laws.toNat_append]
  generalize p0 ++ p1 ++ p2 ++ p3 ++ p4 ++ p5 ++ p6 ++ p7 = w at h ⊢
  have := p0.isLt; have := p1.isLt; have := p2.isLt; have := p3.isLt; have := p4.isLt; have := p5.isLt; have := p6.isLt; have := p7.isLt
  refine ⟨?_, ?_, ?_, ?_, ?_, ?_, ?_⟩ <;> apply Sys2Proof.Laws.field_eq <;>
    omega

theorem Sys2Proof.Laws.fields66 (p0 : BitVec 6) (p1 : BitVec 7) (p2 : BitVec 19) :
    (p0 ++ p1 ++ p2).extractLsb' 26 6 = p0 ∧
    (p0 ++ p1 ++ p2).extractLsb' 19 7 = p1 := by
  have h : (p0 ++ p1 ++ p2).toNat = ((p0.toNat) * 2 ^ 7 + p1.toNat) * 2 ^ 19 + p2.toNat := by simp only [Sys2Proof.Laws.toNat_append]
  generalize p0 ++ p1 ++ p2 = w at h ⊢
  have := p0.isLt; have := p1.isLt; have := p2.isLt
  refine ⟨?_, ?_⟩ <;> apply Sys2Proof.Laws.field_eq <;>
    omega

theorem Sys2Proof.Laws.fields67 (p0 : BitVec 6) (p1 : BitVec 4) (p2 : BitVec 6) (p3 : BitVec 6) (p4 : BitVec 10) :
    (p0 ++ p1 ++ p2 ++ p3 ++ p4).extractLsb' 26 6 = p0 ∧
    (p0 ++ p1 ++ p2 ++ p3 ++ p4).extractLsb' 22 4 = p1 ∧
    (p0 ++ p1 ++ p2 ++ p3 ++ p4).extractLsb' 16 6 = p2 ∧
    (p0 ++ p1 ++ p2 ++ p3 ++ p4).extractLsb' 10 6 = p3 := by
  have h : (p0 ++ p1 ++ p2 ++ p3 ++ p4).toNat = ((((p0.toNat) * 2 ^ 4 + p1.toNat) * 2 ^ 6 + p2.toNat) * 2 ^ 6 + p3.toNat) * 2 ^ 10 + p4.toNat := by simp only [Sys2Proof.Laws.toNat_append]
  generalize p0 ++ p1 ++ p2 ++ p3 ++ p4 = w at h ⊢
  have := p0.isLt; have := p1.isLt; have := p2.isLt; have := p3.isLt; have := p4.isLt
  refine ⟨?_, ?_, ?_, ?_⟩ <;> apply Sys2Proof.Laws.field_eq <;>
    omega

theorem Sys2Proof.Laws.fields68 (p0 : BitVec 6) (p1 : BitVec 2) (p2 : BitVec 5) (p3 : BitVec 7) (p4 : BitVec 6) (p5 : BitVec 6) :
    (p0 ++ p1 ++ p2 ++ p3 ++ p4 ++ p5).extractLsb' 26 6 = p0 ∧
    (p0 ++ p1 ++ p2 ++ p3 ++ p4 ++ p5).extractLsb' 24 2 = p1 ∧
    (p0 ++ p1 ++ p2 ++ p3 ++ p4 ++ p5).extractLsb' 19 5 = p2 ∧
    (p0 ++ p1 ++ p2 ++ p3 ++ p4 ++ p5).extractLsb' 12 7 = p3 ∧
    (p0 ++ p1 ++ p2 ++ p3 ++ p4 ++ p5).extractLsb' 6 6 = p4 := by
  have h : (p0 ++ p1 ++ p2 ++ p3 ++ p4 ++ p5).toNat = (((((p0.toNat) * 2 ^ 2 + p1.toNat) * 2 ^ 5 + p2.toNat) * 2 ^ 7 + p3.toNat) * 2 ^ 6 + p4.toNat) * 2 ^ 6 + p5.toNat := by simp only [Sys2Proof.Laws.toNat_append]
  generalize p0 ++ p1 ++ p2 ++ p3 ++ p4 ++ p5 = w at h ⊢
  have := p0.isLt; have := p1.isLt; have := p2.isLt; have := p3.isLt; have := p4.isLt; have := p5.isLt
  refine ⟨?_, ?_, ?_, ?_, ?_⟩ <;> apply Sys2Proof.Laws.field_eq <;>
    omega

theorem Sys2Proof.Laws.fields69 (p0 : BitVec 6) (p1 : BitVec 2) (p2 : BitVec 5) (p3 : BitVec 16) (p4 : BitVec 3) :
    (p0 ++ p1 ++ p2 ++ p3 ++ p4).extractLsb' 26 6 = p0 ∧
    (p0 ++ p1 ++ p2 ++ p3 ++ p4).extractLsb' 24 2 = p1 ∧
    (p0 ++ p1 ++ p2 ++ p3 ++ p4).extractLsb' 19 5 = p2 ∧
    (p0 ++ p1 ++ p2 ++ p3 ++ p4).extractLsb' 3 16 = p3 := by
  have h : (p0 ++ p1 ++ p2 ++ p3 ++ p4).toNat = ((((p0.toNat) * 2 ^ 2 + p1.toNat) * 2 ^ 5 + p2.toNat) * 2 ^ 16 + p3.toNat) * 2 ^ 3 + p4.toNat := by simp only [Sys2Proof.Laws.toNat_append]
  generalize p0 ++ p1 ++ p2 ++ p3 ++ p4 = w at h ⊢
  have := p0.isLt; have := p1.isLt; have := p2.isLt; have := p3.isLt; have := p4.isLt
  refine ⟨?_, ?_, ?_, ?_⟩ <;> apply Sys2Proof.Laws.field_eq <;>
    omega

theorem Sys2Proof.Laws.fields70 (p0 : BitVec 6) (p1 : BitVec 2) (p2 : BitVec 8) (p3 : BitVec 14) (p4 : BitVec 2) :
    (p0 ++ p1 ++ p2 ++ p3 ++ p4).extractLsb' 26 6 = p0 ∧
    (p0 ++ p1 ++ p2 ++ p3 ++ p4).extractLsb' 24 2 = p1 ∧
    (p0 ++ p1 ++ p2 ++ p3 ++ p4).extractLsb' 16 8 = p2 ∧
    (p0 ++ p1 ++ p2 ++ p3 ++ p4).extractLsb' 0 2 = p4 := by
  have h : (p0 ++ p1 ++ p2 ++ p3 ++ p4).toNat = ((((p0.toNat) * 2 ^ 2 + p1.toNat) * 2 ^ 8 + p2.toNat) * 2 ^ 14 + p3.toNat) * 2 ^ 2 + p4.toNat := by simp only [Sys2Proof.Laws.toNat_append]
  generalize p0 ++ p1 ++ p2 ++ p3 ++ p4 = w at h ⊢
  have := p0.isLt; have := p1.isLt; have := p2.isLt; have := p3.isLt; have := p4.isLt
  refine ⟨?_, ?_, ?_, ?_⟩ <;> apply Sys2Proof.Laws.field_eq <;>
    omega

theorem Sys2Proof.Laws.fields71 (p0 : BitVec 6) (p1 : BitVec 2) (p2 : BitVec 8) (p3 : BitVec 1) (p4 : BitVec 5) (p5 : BitVec 8) (p6 : BitVec 2) :
    (p0 ++ p1 ++ p2 ++ p3 ++ p4 ++ p5 ++ p6).extractLsb' 26 6 = p0 ∧
    (p0 ++ p1 ++ p2 ++ p3 ++ p4 ++ p5 ++ p6).extractLsb' 24 2 = p1 ∧
    (p0 ++ p1 ++ p2 ++ p3 ++ p4 ++ p5 ++ p6).extractLsb' 16 8 = p2 ∧
    (p0 ++ p1 ++ p2 ++ p3 ++ p4 ++ p5 ++ p6).extractLsb' 10 5 = p4 ∧
    (p0 ++ p1 ++ p2 ++ p3 ++ p4 ++ p5 ++ p6).extractLsb' 0 2 = p6 := by
  have h : (p0 ++ p1 ++ p2 ++ p3 ++ p4 ++ p5 ++ p6).toNat = ((((((p0.toNat) * 2 ^ 2 + p1.toNat) * 2 ^ 8 + p2.toNat) * 2 ^ 1 + p3.toNat) * 2 ^ 5 + p4.toNat) * 2 ^ 8 + p5.toNat) * 2 ^ 2 + p6.toNat := by simp only [Sys2Proof.Laws.toNat_append]
  generalize p0 ++ p1 ++ p2 ++ p3 ++ p4 ++ p5 ++ p6 = w at h ⊢
  have := p0.isLt; have := p1.isLt; have := p2.isLt; have := p3.isLt; have := p4.isLt; have := p5.isLt; have := p6.isLt
  refine ⟨?_, ?_, ?_, ?_, ?_⟩ <;> apply Sys2Proof.Laws.field_eq <;>
    omega

theorem Sys2Proof.Laws.fields72 (p0 : BitVec 6) (p1 : BitVec 2) (p2 : BitVec 8) (p3 : BitVec 6) (p4 : BitVec 2) (p5 : BitVec 6) (p6 : BitVec 2) :
    (p0 ++ p1 ++ p2 ++ p3 ++ p4 ++ p5 ++ p6).extractLsb' 26 6 = p0 ∧
    (p0 ++ p1 ++ p2 ++ p3 ++ p4 ++ p5 ++ p6).extractLsb' 24 2 = p1 ∧
    (p0 ++ p1 ++ p2 ++ p3 ++ p4 ++ p5 ++ p6).extractLsb' 16 8 = p2 ∧
    (p0 ++ p1 ++ p2 ++ p3 ++ p4 ++ p5 ++ p6).extractLsb' 10 6 = p3 ∧
    (p0 ++ p1 ++ p2 ++ p3 ++ p4 ++ p5 ++ p6).extractLsb' 8 2 = p4 ∧
    (p0 ++ p1 ++ p2 ++ p3 ++ p4 ++ p5 ++ p6).extractLsb' 0 2 = p6 := by
  have h : (p0 ++ p1 ++ p2 ++ p3 ++ p4 ++ p5 ++ p6).toNat = ((((((p0.toNat) * 2 ^ 2 + p1.toNat) * 2 ^ 8 + p2.toNat) * 2 ^ 6 + p3.toNat) * 2 ^ 2 + p4.toNat) * 2 ^ 6 + p5.toNat) * 2 ^ 2 + p6.toNat := by simp only [Sys2Proof.Laws.toNat_append]
  generalize p0 ++ p1 ++ p2 ++ p3 ++ p4 ++ p5 ++ p6 = w at h ⊢
  have := p0.isLt; have := p1.isLt; have := p2.isLt; have := p3.isLt; have := p4.isLt; have := p5.isLt; have := p6.isLt
  refine ⟨?_, ?_, ?_, ?_, ?_, ?_⟩ <;> apply Sys2Proof.Laws.field_eq <;>
    omega

theorem Sys2Proof.Laws.fields73 (p0 : BitVec 6) (p1 : BitVec 2) (p2 : BitVec 8) (p3 : BitVec 6) (p4 : BitVec 2) (p5 : BitVec 6) (p6 : BitVec 2) :
    (p0 ++ p1 ++ p2 ++ p3 ++ p4 ++ p5 ++ p6).extractLsb' 26 6 = p0 ∧
    (p0 ++ p1 ++ p2 ++ p3 ++ p4 ++ p5 ++ p6).extractLsb' 24 2 = p1 ∧
    (p0 ++ p1 ++ p2 ++ p3 ++ p4 ++ p5 ++ p6).extractLsb' 16 8 = p2 ∧
    (p0 ++ p1 ++ p2 ++ p3 ++ p4 ++ p5 ++ p6).extractLsb' 10 6 = p3 ∧
    (p0 ++ p1 ++ p2 ++ p3 ++ p4 ++ p5 ++ p6).extractLsb' 8 2 = p4 ∧
    (p0 ++ p1 ++ p2 ++ p3 ++ p4 ++ p5 ++ p6).extractLsb' 2 6 = p5 ∧
    (p0 ++ p1 ++ p2 ++ p3 ++ p4 ++ p5 ++ p6).extractLsb' 0 2 = p6 := by
  have h : (p0 ++ p1 ++ p2 ++ p3 ++ p4 ++ p5 ++ p6).toNat = ((((((p0.toNat) * 2 ^ 2 + p1.toNat) * 2 ^ 8 + p2.toNat) * 2 ^ 6 + p3.toNat) * 2 ^ 2 + p4.toNat) * 2 ^ 6 + p5.toNat) * 2 ^ 2 + p6.toNat := by simp only [Sys2Proof.Laws.toNat_append]
  generalize p0 ++ p1 ++ p2 ++ p3 ++ p4 ++ p5 ++ p6 = w at h ⊢
  have := p0.isLt; have := p1.isLt; have := p2.isLt; have := p3.isLt; have := p4.isLt; have := p5.isLt; have := p6.isLt
  refine ⟨?_, ?_, ?_, ?_, ?_, ?_, ?_⟩ <;> apply Sys2Proof.Laws.field_eq <;>
    omega

theorem Sys2Proof.Laws.fields74 (p0 : BitVec 6) (p1 : BitVec 6) (p2 : BitVec 2) (p3 : BitVec 2) (p4 : BitVec 16) :
    (p0 ++ p1 ++ p2 ++ p3 ++ p4).extractLsb' 26 6 = p0 ∧
    (p0 ++ p1 ++ p2 ++ p3 ++ p4).extractLsb' 15 1 = p4.extractLsb' 15 1 ∧
    (p0 ++ p1 ++ p2 ++ p3 ++ p4).extractLsb' 20 6 = p1 ∧
    (p0 ++ p1 ++ p2 ++ p3 ++ p4).extractLsb' 18 2 = p2 ∧
    (p0 ++ p1 ++ p2 ++ p3 ++ p4).extractLsb' 16 2 = p3 := by
  have h : (p0 ++ p1 ++ p2 ++ p3 ++ p4).toNat = ((((p0.toNat) * 2 ^ 6 + p1.toNat) * 2 ^ 2 + p2.toNat) * 2 ^ 2 + p3.toNat) * 2 ^ 16 + p4.toNat := by simp only [Sys2Proof.Laws.toNat_append]
  generalize p0 ++ p1 ++ p2 ++ p3 ++ p4 = w at h ⊢
  have := p0.isLt; have := p1.isLt; have := p2.isLt; have := p3.isLt; have := p4.isLt
  refine ⟨?_, ?_, ?_, ?_, ?_⟩ <;> apply Sys2Proof.Laws.field_eq <;>
    (try simp only [BitVec.extractLsb'_toNat, Nat.shiftRight_eq_div_pow]) <;> omega

theorem Sys2Proof.Laws.fields75 (p0 : BitVec 6) (p1 : BitVec 6) (p2 : BitVec 2) (p3 : BitVec 18) :
    (p0 ++ p1 ++ p2 ++ p3).extractLsb' 26 6 = p0 ∧
    (p0 ++ p1 ++ p2 ++ p3).extractLsb' 15 1 = p3.extractLsb' 15 1 ∧
    (p0 ++ p1 ++ p2 ++ p3).extractLsb' 20 6 = p1 ∧
    (p0 ++ p1 ++ p2 ++ p3).extractLsb' 18 2 = p2 := by
  have h : (p0 ++ p1 ++ p2 ++ p3).toNat = (((p0.toNat) * 2 ^ 6 + p1.toNat) * 2 ^ 2 + p2.toNat) * 2 ^ 18 + p3.toNat := by simp only [Sys2Proof.Laws.toNat_append]
  generalize p0 ++ p1 ++ p2 ++ p3 = w at h ⊢
  have := p0.isLt; have := p1.isLt; have := p2.isLt; have := p3.isLt
  refine ⟨?_, ?_, ?_, ?_⟩ <;> apply Sys2Proof.Laws.field_eq <;>
    (try simp only [BitVec.extractLsb'_toNat, Nat.shiftRight_eq_div_pow]) <;> omega

theorem Sys2Proof.Laws.fields76 (p0 : BitVec 6) (p1 : BitVec 4) (p2 : BitVec 4) (p3 : BitVec 6) (p4 : BitVec 6) (p5 : BitVec 6) :
    (p0 ++ p1 ++ p2 ++ p3 ++ p4 ++ p5).extractLsb' 26 6 = p0 ∧
    (p0 ++ p1 ++ p2 ++ p3 ++ p4 ++ p5).extractLsb' 22 4 = p1 ∧
    (p0 ++ p1 ++ p2 ++ p3 ++ p4 ++ p5).extractLsb' 18 4 = p2 ∧
    (p0 ++ p1 ++ p2 ++ p3 ++ p4 ++ p5).extractLsb' 12 6 = p3 ∧
    (p0 ++ p1 ++ p2 ++ p3 ++ p4 ++ p5).extractLsb' 6 6 = p4 ∧
    (p0 ++ p1 ++ p2 ++ p3 ++ p4 ++ p5).extractLsb' 0 6 = p5 := by
  have h : (p0 ++ p1 ++ p2 ++ p3 ++ p4 ++ p5).toNat = (((((p0.toNat) * 2 ^ 4 + p1.toNat) * 2 ^ 4 + p2.toNat) * 2 ^ 6 + p3.toNat) * 2 ^ 6 + p4.toNat) * 2 ^ 6 + p5.toNat := by simp only [Sys2Proof.Laws.toNat_append]
  generalize p0 ++ p1 ++ p2 ++ p3 ++ p4 ++ p5 = w at h ⊢
  have := p0.isLt; have := p1.isLt; have := p2.isLt; have := p3.isLt; have := p4.isLt; have := p5.isLt
  refine ⟨?_, ?_, ?_, ?_, ?_, ?_⟩ <;> apply Sys2Proof.Laws.field_eq <;>
    omega

theorem Sys2Proof.Laws.fields77 (p0 : BitVec 6) (p1 : BitVec 4) (p2 : BitVec 6) (p3 : BitVec 3) (p4 : BitVec 2) (p5 : BitVec 11) :
    (p0 ++ p1 ++ p2 ++ p3 ++ p4 ++ p5).extractLsb' 26 6 = p0 ∧
    (p0 ++ p1 ++ p2 ++ p3 ++ p4 ++ p5).extractLsb' 22 4 = p1 ∧
    (p0 ++ p1 ++ p2 ++ p3 ++ p4 ++ p5).extractLsb' 16 6 = p2 ∧
    (p0 ++ p1 ++ p2 ++ p3 ++ p4 ++ p5).extractLsb' 13 3 = p3 ∧
    (p0 ++ p1 ++ p2 ++ p3 ++ p4 ++ p5).extractLsb' 11 2 = p4 := by
  have h : (p0 ++ p1 ++ p2 ++ p3 ++ p4 ++ p5).toNat = (((((p0.toNat) * 2 ^ 4 + p1.toNat) * 2 ^ 6 + p2.toNat) * 2 ^ 3 + p3.toNat) * 2 ^ 2 + p4.toNat) * 2 ^ 11 + p5.toNat := by simp only [Sys2Proof.Laws.toNat_append]
  generalize p0 ++ p1 ++ p2 ++ p3 ++ p4 ++ p5 = w at h ⊢
  have := p0.isLt; have := p1.isLt; have := p2.isLt; have := p3.isLt; have := p4.isLt; have := p5.isLt
  refine ⟨?_, ?_, ?_, ?_, ?_⟩ <;> apply Sys2Proof.Laws.field_eq <;>
    omega

theorem Sys2Proof.Laws.fields78 (p0 : BitVec 6) (p1 : BitVec 5) (p2 : BitVec 5) (p3 : BitVec 8) (p4 : BitVec 4) (p5 : BitVec 4) :
    (p0 ++ p1 ++ p2 ++ p3 ++ p4 ++ p5).extractLsb' 26 6 = p0 ∧
    (p0 ++ p1 ++ p2 ++ p3 ++ p4 ++ p5).extractLsb' 21 5 = p1 ∧
    (p0 ++ p1 ++ p2 ++ p3 ++ p4 ++ p5).extractLsb' 16 5 = p2 ∧
    (p0 ++ p1 ++ p2 ++ p3 ++ p4 ++ p5).extractLsb' 8 8 = p3 ∧
    (p0 ++ p1 ++ p2 ++ p3 ++ p4 ++ p5).extractLsb' 4 4 = p4 := by
  have h : (p0 ++ p1 ++ p2 ++ p3 ++ p4 ++ p5).toNat = (((((p0.toNat) * 2 ^ 5 + p1.toNat) * 2 ^ 5 + p2.toNat) * 2 ^ 8 + p3.toNat) * 2 ^ 4 + p4.toNat) * 2 ^ 4 + p5.toNat := by simp only [Sys2Proof.Laws.toNat_append]
  generalize p0 ++ p1 ++ p2 ++ p3 ++ p4 ++ p5 = w at h ⊢
  have := p0.isLt; have := p1.isLt; have := p2.isLt; have := p3.isLt; have := p4.isLt; have := p5.isLt
  refine ⟨?_, ?_, ?_, ?_, ?_⟩ <;> apply Sys2Proof.Laws.field_eq <;>
    omega

theorem Sys2Proof.Laws.fields79 (p0 : BitVec 6) (p1 : BitVec 4) (p2 : BitVec 6) (p3 : BitVec 6) (p4 : BitVec 6) (p5 : BitVec 4) :
    (p0 ++ p1 ++ p2 ++ p3 ++ p4 ++ p5).extractLsb' 26 6 = p0 ∧
    (p0 ++ p1 ++ p2 ++ p3 ++ p4 ++ p5).extractLsb' 22 4 = p1 ∧
    (p0 ++ p1 ++ p2 ++ p3 ++ p4 ++ p5).extractLsb' 16 6 = p2 ∧
    (p0 ++ p1 ++ p2 ++ p3 ++ p4 ++ p5).extractLsb' 10 6 = p3 ∧
    (p0 ++ p1 ++ p2 ++ p3 ++ p4 ++ p5).extractLsb' 4 6 = p4 := by
  have h : (p0 ++ p1 ++ p2 ++ p3 ++ p4 ++ p5).toNat = (((((p0.toNat) * 2 ^ 4 + p1.toNat) * 2 ^ 6 + p2.toNat) * 2 ^ 6 + p3.toNat) * 2 ^ 6 + p4.toNat) * 2 ^ 4 + p5.toNat := by simp only [Sys2Proof.Laws.toNat_append]
  generalize p0 ++ p1 ++ p2 ++ p3 ++ p4 ++ p5 = w at h ⊢
  have := p0.isLt; have := p1.isLt; have := p2.isLt; have := p3.isLt; have := p4.isLt; have := p5.isLt
  refine ⟨?_, ?_, ?_, ?_, ?_⟩ <;> apply Sys2Proof.Laws.field_eq <;>
    omega

theorem Sys2Proof.Laws.fields80 (p0 : BitVec 6) (p1 : BitVec 6) (p2 : BitVec 6) (p3 : BitVec 2) (p4 : BitVec 12) :
    (p0 ++ p1 ++ p2 ++ p3 ++ p4).extractLsb' 26 6 = p0 ∧
    (p0 ++ p1 ++ p2 ++ p3 ++ p4).extractLsb' 20 6 = p1 ∧
    (p0 ++ p1 ++ p2 ++ p3 ++ p4).extractLsb' 14 6 = p2 ∧
    (p0 ++ p1 ++ p2 ++ p3 ++ p4).extractLsb' 12 2 = p3 := by
  have h : (p0 ++ p1 ++ p2 ++ p3 ++ p4).toNat = ((((p0.toNat) * 2 ^ 6 + p1.toNat) * 2 ^ 6 + p2.toNat) * 2 ^ 2 + p3.toNat) * 2 ^ 12 + p4.toNat := by simp only [Sys2Proof.Laws.toNat_append]
  generalize p0 ++ p1 ++ p2 ++ p3 ++ p4 = w at h ⊢
  have := p0.isLt; have := p1.isLt; have := p2.isLt; have := p3.isLt; have := p4.isLt
  refine ⟨?_, ?_, ?_, ?_⟩ <;> apply Sys2Proof.Laws.field_eq <;>
    omega

/-! ## The instructions -/

set_option maxRecDepth 4000

theorem Sys2Proof.Laws.Encoding.nop : Sys2Proof.Laws.Encoding.Statement (.nop) :=
  fun h => absurd h (Nat.lt_irrefl 8)

theorem Sys2Proof.Laws.Encoding.br (g : BitVec 4) (t : BitVec 12) : Sys2Proof.Laws.Encoding.Statement (.br g t) := by
  intro _
  show candidate0 (0x1#6 ++ g ++ 0x0#10 ++ t) = _
  obtain ⟨e0, e1, e2⟩ := Sys2Proof.Laws.fields1 0x1#6 g 0x0#10 t
  unfold candidate0
  rw [e0, e1, e2]; rfl

theorem Sys2Proof.Laws.Encoding.jmp (t : BitVec 12) : Sys2Proof.Laws.Encoding.Statement (.jmp t) := by
  intro _
  show candidate0 (0x2#6 ++ 0x0#14 ++ t) = _
  obtain ⟨e0, e1⟩ := Sys2Proof.Laws.fields2 0x2#6 0x0#14 t
  unfold candidate0
  rw [e0, e1]; rfl

theorem Sys2Proof.Laws.Encoding.jmpr (a : BitVec 6) : Sys2Proof.Laws.Encoding.Statement (.jmpr a) := by
  intro _
  show candidate0 (0x3#6 ++ a ++ 0x0#20) = _
  obtain ⟨e0, e1⟩ := Sys2Proof.Laws.fields3 0x3#6 a 0x0#20
  unfold candidate0
  rw [e0, e1]; rfl

theorem Sys2Proof.Laws.Encoding.call (t : BitVec 12) : Sys2Proof.Laws.Encoding.Statement (.call t) := by
  intro _
  show candidate0 (0x4#6 ++ 0x0#14 ++ t) = _
  obtain ⟨e0, e1⟩ := Sys2Proof.Laws.fields2 0x4#6 0x0#14 t
  unfold candidate0
  rw [e0, e1]; rfl

theorem Sys2Proof.Laws.Encoding.ret : Sys2Proof.Laws.Encoding.Statement .ret :=
  fun _ => rfl

theorem Sys2Proof.Laws.Encoding.loop (c : BitVec 12) (l : BitVec 12) : Sys2Proof.Laws.Encoding.Statement (.loop c l) := by
  intro _
  show candidate0 (0x6#6 ++ c ++ 0x0#2 ++ l) = _
  obtain ⟨e0, e1, e2⟩ := Sys2Proof.Laws.fields4 0x6#6 c 0x0#2 l
  unfold candidate0
  rw [e0, e1, e2]; rfl

theorem Sys2Proof.Laws.Encoding.loopr (a : BitVec 6) (l : BitVec 12) : Sys2Proof.Laws.Encoding.Statement (.loopr a l) := by
  intro _
  show candidate0 (0x7#6 ++ a ++ 0x0#8 ++ l) = _
  obtain ⟨e0, e1, e2⟩ := Sys2Proof.Laws.fields5 0x7#6 a 0x0#8 l
  unfold candidate0
  rw [e0, e1, e2]; rfl

theorem Sys2Proof.Laws.Encoding.lbrk (g : BitVec 4) : Sys2Proof.Laws.Encoding.Statement (.lbrk g) := by
  intro _
  show candidate0 (0x8#6 ++ g ++ 0x0#22) = _
  obtain ⟨e0, e1⟩ := Sys2Proof.Laws.fields6 0x8#6 g 0x0#22
  unfold candidate0
  rw [e0, e1]; rfl

theorem Sys2Proof.Laws.Encoding.ckpt (s : BitVec 12) : Sys2Proof.Laws.Encoding.Statement (.ckpt s) := by
  intro _
  show candidate0 (0x9#6 ++ 0x0#14 ++ s) = _
  obtain ⟨e0, e1, e2⟩ := Sys2Proof.Laws.fields7 0x9#6 0x0#14 s
  unfold candidate0
  rw [e0, e1, e2]; rfl

theorem Sys2Proof.Laws.Encoding.ckptP (s : BitVec 12) : Sys2Proof.Laws.Encoding.Statement (.ckptP s) := by
  intro _
  show candidate0 (0x9#6 ++ 0x2000#14 ++ s) = _
  obtain ⟨e0, e1, e2⟩ := Sys2Proof.Laws.fields7 0x9#6 0x2000#14 s
  unfold candidate0
  rw [e0, e1, e2]; rfl

theorem Sys2Proof.Laws.Encoding.halt : Sys2Proof.Laws.Encoding.Statement .halt :=
  fun _ => rfl

theorem Sys2Proof.Laws.Encoding.trap (c : BitVec 16) : Sys2Proof.Laws.Encoding.Statement (.trap c) := by
  intro _
  show candidate0 (0xB#6 ++ 0x0#10 ++ c) = _
  obtain ⟨e0, e1⟩ := Sys2Proof.Laws.fields8 0xB#6 0x0#10 c
  unfold candidate0
  rw [e0, e1]; rfl

theorem Sys2Proof.Laws.Encoding.tret : Sys2Proof.Laws.Encoding.Statement .tret :=
  fun _ => rfl

theorem Sys2Proof.Laws.Encoding.wgcy (a : BitVec 6) : Sys2Proof.Laws.Encoding.Statement (.wgcy a) := by
  intro _
  show candidate0 (0xD#6 ++ a ++ 0x0#20) = _
  obtain ⟨e0, e1⟩ := Sys2Proof.Laws.fields3 0xD#6 a 0x0#20
  unfold candidate0
  rw [e0, e1]; rfl

theorem Sys2Proof.Laws.Encoding.scall (c : BitVec 16) : Sys2Proof.Laws.Encoding.Statement (.scall c) := by
  intro _
  show candidate0 (0xE#6 ++ 0x0#10 ++ c) = _
  obtain ⟨e0, e1⟩ := Sys2Proof.Laws.fields8 0xE#6 0x0#10 c
  unfold candidate0
  rw [e0, e1]; rfl

theorem Sys2Proof.Laws.Encoding.rswap : Sys2Proof.Laws.Encoding.Statement .rswap :=
  fun _ => rfl

theorem Sys2Proof.Laws.Encoding.idle (n : BitVec 16) : Sys2Proof.Laws.Encoding.Statement (.idle n) := by
  intro _
  show candidate0 (0x10#6 ++ 0x0#10 ++ n) = _
  obtain ⟨e0, e1⟩ := Sys2Proof.Laws.fields8 0x10#6 0x0#10 n
  unfold candidate0
  rw [e0, e1]; rfl

theorem Sys2Proof.Laws.Encoding.brk (c : BitVec 16) : Sys2Proof.Laws.Encoding.Statement (.brk c) := by
  intro _
  show candidate0 (0x11#6 ++ 0x0#10 ++ c) = _
  obtain ⟨e0, e1⟩ := Sys2Proof.Laws.fields8 0x11#6 0x0#10 c
  unfold candidate0
  rw [e0, e1]; rfl

theorem Sys2Proof.Laws.Encoding.add (d : BitVec 6) (a : BitVec 6) (b : BitVec 6) : Sys2Proof.Laws.Encoding.Statement (.add d a b) := by
  intro _
  show candidate1 (0x1#6 ++ d ++ a ++ b ++ 0x0#8) = _
  obtain ⟨e0, e1, e2, e3, e4⟩ := Sys2Proof.Laws.fields9 0x1#6 d a b 0x0#8
  unfold candidate1
  rw [e0, e1, e2, e3, e4]; rfl

theorem Sys2Proof.Laws.Encoding.sub (d : BitVec 6) (a : BitVec 6) (b : BitVec 6) : Sys2Proof.Laws.Encoding.Statement (.sub d a b) := by
  intro _
  show candidate1 (0x1#6 ++ d ++ a ++ b ++ 0x1#8) = _
  obtain ⟨e0, e1, e2, e3, e4⟩ := Sys2Proof.Laws.fields9 0x1#6 d a b 0x1#8
  unfold candidate1
  rw [e0, e1, e2, e3, e4]; rfl

theorem Sys2Proof.Laws.Encoding.and (d : BitVec 6) (a : BitVec 6) (b : BitVec 6) : Sys2Proof.Laws.Encoding.Statement (.and d a b) := by
  intro _
  show candidate1 (0x1#6 ++ d ++ a ++ b ++ 0x2#8) = _
  obtain ⟨e0, e1, e2, e3, e4⟩ := Sys2Proof.Laws.fields9 0x1#6 d a b 0x2#8
  unfold candidate1
  rw [e0, e1, e2, e3, e4]; rfl

theorem Sys2Proof.Laws.Encoding.or (d : BitVec 6) (a : BitVec 6) (b : BitVec 6) : Sys2Proof.Laws.Encoding.Statement (.or d a b) := by
  intro _
  show candidate1 (0x1#6 ++ d ++ a ++ b ++ 0x3#8) = _
  obtain ⟨e0, e1, e2, e3, e4⟩ := Sys2Proof.Laws.fields9 0x1#6 d a b 0x3#8
  unfold candidate1
  rw [e0, e1, e2, e3, e4]; rfl

theorem Sys2Proof.Laws.Encoding.xor (d : BitVec 6) (a : BitVec 6) (b : BitVec 6) : Sys2Proof.Laws.Encoding.Statement (.xor d a b) := by
  intro _
  show candidate1 (0x1#6 ++ d ++ a ++ b ++ 0x4#8) = _
  obtain ⟨e0, e1, e2, e3, e4⟩ := Sys2Proof.Laws.fields9 0x1#6 d a b 0x4#8
  unfold candidate1
  rw [e0, e1, e2, e3, e4]; rfl

theorem Sys2Proof.Laws.Encoding.andn (d : BitVec 6) (a : BitVec 6) (b : BitVec 6) : Sys2Proof.Laws.Encoding.Statement (.andn d a b) := by
  intro _
  show candidate1 (0x1#6 ++ d ++ a ++ b ++ 0x5#8) = _
  obtain ⟨e0, e1, e2, e3, e4⟩ := Sys2Proof.Laws.fields9 0x1#6 d a b 0x5#8
  unfold candidate1
  rw [e0, e1, e2, e3, e4]; rfl

theorem Sys2Proof.Laws.Encoding.orn (d : BitVec 6) (a : BitVec 6) (b : BitVec 6) : Sys2Proof.Laws.Encoding.Statement (.orn d a b) := by
  intro _
  show candidate1 (0x1#6 ++ d ++ a ++ b ++ 0x6#8) = _
  obtain ⟨e0, e1, e2, e3, e4⟩ := Sys2Proof.Laws.fields9 0x1#6 d a b 0x6#8
  unfold candidate1
  rw [e0, e1, e2, e3, e4]; rfl

theorem Sys2Proof.Laws.Encoding.shl (d : BitVec 6) (a : BitVec 6) (b : BitVec 6) : Sys2Proof.Laws.Encoding.Statement (.shl d a b) := by
  intro _
  show candidate1 (0x1#6 ++ d ++ a ++ b ++ 0x7#8) = _
  obtain ⟨e0, e1, e2, e3, e4⟩ := Sys2Proof.Laws.fields9 0x1#6 d a b 0x7#8
  unfold candidate1
  rw [e0, e1, e2, e3, e4]; rfl

theorem Sys2Proof.Laws.Encoding.shr (d : BitVec 6) (a : BitVec 6) (b : BitVec 6) : Sys2Proof.Laws.Encoding.Statement (.shr d a b) := by
  intro _
  show candidate1 (0x1#6 ++ d ++ a ++ b ++ 0x8#8) = _
  obtain ⟨e0, e1, e2, e3, e4⟩ := Sys2Proof.Laws.fields9 0x1#6 d a b 0x8#8
  unfold candidate1
  rw [e0, e1, e2, e3, e4]; rfl

theorem Sys2Proof.Laws.Encoding.sra (d : BitVec 6) (a : BitVec 6) (b : BitVec 6) : Sys2Proof.Laws.Encoding.Statement (.sra d a b) := by
  intro _
  show candidate1 (0x1#6 ++ d ++ a ++ b ++ 0x9#8) = _
  obtain ⟨e0, e1, e2, e3, e4⟩ := Sys2Proof.Laws.fields9 0x1#6 d a b 0x9#8
  unfold candidate1
  rw [e0, e1, e2, e3, e4]; rfl

theorem Sys2Proof.Laws.Encoding.rotl (d : BitVec 6) (a : BitVec 6) (b : BitVec 6) : Sys2Proof.Laws.Encoding.Statement (.rotl d a b) := by
  intro _
  show candidate1 (0x1#6 ++ d ++ a ++ b ++ 0xA#8) = _
  obtain ⟨e0, e1, e2, e3, e4⟩ := Sys2Proof.Laws.fields9 0x1#6 d a b 0xA#8
  unfold candidate1
  rw [e0, e1, e2, e3, e4]; rfl

theorem Sys2Proof.Laws.Encoding.rotr (d : BitVec 6) (a : BitVec 6) (b : BitVec 6) : Sys2Proof.Laws.Encoding.Statement (.rotr d a b) := by
  intro _
  show candidate1 (0x1#6 ++ d ++ a ++ b ++ 0xB#8) = _
  obtain ⟨e0, e1, e2, e3, e4⟩ := Sys2Proof.Laws.fields9 0x1#6 d a b 0xB#8
  unfold candidate1
  rw [e0, e1, e2, e3, e4]; rfl

theorem Sys2Proof.Laws.Encoding.slt (d : BitVec 6) (a : BitVec 6) (b : BitVec 6) : Sys2Proof.Laws.Encoding.Statement (.slt d a b) := by
  intro _
  show candidate1 (0x1#6 ++ d ++ a ++ b ++ 0xC#8) = _
  obtain ⟨e0, e1, e2, e3, e4⟩ := Sys2Proof.Laws.fields9 0x1#6 d a b 0xC#8
  unfold candidate1
  rw [e0, e1, e2, e3, e4]; rfl

theorem Sys2Proof.Laws.Encoding.sltu (d : BitVec 6) (a : BitVec 6) (b : BitVec 6) : Sys2Proof.Laws.Encoding.Statement (.sltu d a b) := by
  intro _
  show candidate1 (0x1#6 ++ d ++ a ++ b ++ 0xD#8) = _
  obtain ⟨e0, e1, e2, e3, e4⟩ := Sys2Proof.Laws.fields9 0x1#6 d a b 0xD#8
  unfold candidate1
  rw [e0, e1, e2, e3, e4]; rfl

theorem Sys2Proof.Laws.Encoding.seq (d : BitVec 6) (a : BitVec 6) (b : BitVec 6) : Sys2Proof.Laws.Encoding.Statement (.seq d a b) := by
  intro _
  show candidate1 (0x1#6 ++ d ++ a ++ b ++ 0xE#8) = _
  obtain ⟨e0, e1, e2, e3, e4⟩ := Sys2Proof.Laws.fields9 0x1#6 d a b 0xE#8
  unfold candidate1
  rw [e0, e1, e2, e3, e4]; rfl

theorem Sys2Proof.Laws.Encoding.sne (d : BitVec 6) (a : BitVec 6) (b : BitVec 6) : Sys2Proof.Laws.Encoding.Statement (.sne d a b) := by
  intro _
  show candidate1 (0x1#6 ++ d ++ a ++ b ++ 0xF#8) = _
  obtain ⟨e0, e1, e2, e3, e4⟩ := Sys2Proof.Laws.fields9 0x1#6 d a b 0xF#8
  unfold candidate1
  rw [e0, e1, e2, e3, e4]; rfl

theorem Sys2Proof.Laws.Encoding.min (d : BitVec 6) (a : BitVec 6) (b : BitVec 6) : Sys2Proof.Laws.Encoding.Statement (.min d a b) := by
  intro _
  show candidate1 (0x1#6 ++ d ++ a ++ b ++ 0x10#8) = _
  obtain ⟨e0, e1, e2, e3, e4⟩ := Sys2Proof.Laws.fields9 0x1#6 d a b 0x10#8
  unfold candidate1
  rw [e0, e1, e2, e3, e4]; rfl

theorem Sys2Proof.Laws.Encoding.max (d : BitVec 6) (a : BitVec 6) (b : BitVec 6) : Sys2Proof.Laws.Encoding.Statement (.max d a b) := by
  intro _
  show candidate1 (0x1#6 ++ d ++ a ++ b ++ 0x11#8) = _
  obtain ⟨e0, e1, e2, e3, e4⟩ := Sys2Proof.Laws.fields9 0x1#6 d a b 0x11#8
  unfold candidate1
  rw [e0, e1, e2, e3, e4]; rfl

theorem Sys2Proof.Laws.Encoding.minu (d : BitVec 6) (a : BitVec 6) (b : BitVec 6) : Sys2Proof.Laws.Encoding.Statement (.minu d a b) := by
  intro _
  show candidate1 (0x1#6 ++ d ++ a ++ b ++ 0x12#8) = _
  obtain ⟨e0, e1, e2, e3, e4⟩ := Sys2Proof.Laws.fields9 0x1#6 d a b 0x12#8
  unfold candidate1
  rw [e0, e1, e2, e3, e4]; rfl

theorem Sys2Proof.Laws.Encoding.maxu (d : BitVec 6) (a : BitVec 6) (b : BitVec 6) : Sys2Proof.Laws.Encoding.Statement (.maxu d a b) := by
  intro _
  show candidate1 (0x1#6 ++ d ++ a ++ b ++ 0x13#8) = _
  obtain ⟨e0, e1, e2, e3, e4⟩ := Sys2Proof.Laws.fields9 0x1#6 d a b 0x13#8
  unfold candidate1
  rw [e0, e1, e2, e3, e4]; rfl

theorem Sys2Proof.Laws.Encoding.mul (d : BitVec 6) (a : BitVec 6) (b : BitVec 6) : Sys2Proof.Laws.Encoding.Statement (.mul d a b) := by
  intro _
  show candidate1 (0x1#6 ++ d ++ a ++ b ++ 0x14#8) = _
  obtain ⟨e0, e1, e2, e3, e4⟩ := Sys2Proof.Laws.fields9 0x1#6 d a b 0x14#8
  unfold candidate1
  rw [e0, e1, e2, e3, e4]; rfl

theorem Sys2Proof.Laws.Encoding.mulh (d : BitVec 6) (a : BitVec 6) (b : BitVec 6) : Sys2Proof.Laws.Encoding.Statement (.mulh d a b) := by
  intro _
  show candidate1 (0x1#6 ++ d ++ a ++ b ++ 0x15#8) = _
  obtain ⟨e0, e1, e2, e3, e4⟩ := Sys2Proof.Laws.fields9 0x1#6 d a b 0x15#8
  unfold candidate1
  rw [e0, e1, e2, e3, e4]; rfl

theorem Sys2Proof.Laws.Encoding.mulhu (d : BitVec 6) (a : BitVec 6) (b : BitVec 6) : Sys2Proof.Laws.Encoding.Statement (.mulhu d a b) := by
  intro _
  show candidate1 (0x1#6 ++ d ++ a ++ b ++ 0x16#8) = _
  obtain ⟨e0, e1, e2, e3, e4⟩ := Sys2Proof.Laws.fields9 0x1#6 d a b 0x16#8
  unfold candidate1
  rw [e0, e1, e2, e3, e4]; rfl

theorem Sys2Proof.Laws.Encoding.div (d : BitVec 6) (a : BitVec 6) (b : BitVec 6) : Sys2Proof.Laws.Encoding.Statement (.div d a b) := by
  intro _
  show candidate1 (0x1#6 ++ d ++ a ++ b ++ 0x17#8) = _
  obtain ⟨e0, e1, e2, e3, e4⟩ := Sys2Proof.Laws.fields9 0x1#6 d a b 0x17#8
  unfold candidate1
  rw [e0, e1, e2, e3, e4]; rfl

theorem Sys2Proof.Laws.Encoding.divu (d : BitVec 6) (a : BitVec 6) (b : BitVec 6) : Sys2Proof.Laws.Encoding.Statement (.divu d a b) := by
  intro _
  show candidate1 (0x1#6 ++ d ++ a ++ b ++ 0x18#8) = _
  obtain ⟨e0, e1, e2, e3, e4⟩ := Sys2Proof.Laws.fields9 0x1#6 d a b 0x18#8
  unfold candidate1
  rw [e0, e1, e2, e3, e4]; rfl

theorem Sys2Proof.Laws.Encoding.rem (d : BitVec 6) (a : BitVec 6) (b : BitVec 6) : Sys2Proof.Laws.Encoding.Statement (.rem d a b) := by
  intro _
  show candidate1 (0x1#6 ++ d ++ a ++ b ++ 0x19#8) = _
  obtain ⟨e0, e1, e2, e3, e4⟩ := Sys2Proof.Laws.fields9 0x1#6 d a b 0x19#8
  unfold candidate1
  rw [e0, e1, e2, e3, e4]; rfl

theorem Sys2Proof.Laws.Encoding.remu (d : BitVec 6) (a : BitVec 6) (b : BitVec 6) : Sys2Proof.Laws.Encoding.Statement (.remu d a b) := by
  intro _
  show candidate1 (0x1#6 ++ d ++ a ++ b ++ 0x1A#8) = _
  obtain ⟨e0, e1, e2, e3, e4⟩ := Sys2Proof.Laws.fields9 0x1#6 d a b 0x1A#8
  unfold candidate1
  rw [e0, e1, e2, e3, e4]; rfl

theorem Sys2Proof.Laws.Encoding.clz (d : BitVec 6) (a : BitVec 6) : Sys2Proof.Laws.Encoding.Statement (.clz d a) := by
  intro _
  show candidate1 (0x1#6 ++ d ++ a ++ 0x1B#14) = _
  obtain ⟨e0, e1, e2, e3⟩ := Sys2Proof.Laws.fields10 0x1#6 d a 0x1B#14
  unfold candidate1
  rw [e0, e1, e2, e3]; rfl

theorem Sys2Proof.Laws.Encoding.ctz (d : BitVec 6) (a : BitVec 6) : Sys2Proof.Laws.Encoding.Statement (.ctz d a) := by
  intro _
  show candidate1 (0x1#6 ++ d ++ a ++ 0x1C#14) = _
  obtain ⟨e0, e1, e2, e3⟩ := Sys2Proof.Laws.fields10 0x1#6 d a 0x1C#14
  unfold candidate1
  rw [e0, e1, e2, e3]; rfl

theorem Sys2Proof.Laws.Encoding.popc (d : BitVec 6) (a : BitVec 6) : Sys2Proof.Laws.Encoding.Statement (.popc d a) := by
  intro _
  show candidate1 (0x1#6 ++ d ++ a ++ 0x1D#14) = _
  obtain ⟨e0, e1, e2, e3⟩ := Sys2Proof.Laws.fields10 0x1#6 d a 0x1D#14
  unfold candidate1
  rw [e0, e1, e2, e3]; rfl

theorem Sys2Proof.Laws.Encoding.bext (d : BitVec 6) (a : BitVec 6) (b : BitVec 6) : Sys2Proof.Laws.Encoding.Statement (.bext d a b) := by
  intro _
  show candidate1 (0x1#6 ++ d ++ a ++ b ++ 0x1E#8) = _
  obtain ⟨e0, e1, e2, e3, e4⟩ := Sys2Proof.Laws.fields9 0x1#6 d a b 0x1E#8
  unfold candidate1
  rw [e0, e1, e2, e3, e4]; rfl

theorem Sys2Proof.Laws.Encoding.bdep (d : BitVec 6) (a : BitVec 6) (b : BitVec 6) : Sys2Proof.Laws.Encoding.Statement (.bdep d a b) := by
  intro _
  show candidate1 (0x1#6 ++ d ++ a ++ b ++ 0x1F#8) = _
  obtain ⟨e0, e1, e2, e3, e4⟩ := Sys2Proof.Laws.fields9 0x1#6 d a b 0x1F#8
  unfold candidate1
  rw [e0, e1, e2, e3, e4]; rfl

theorem Sys2Proof.Laws.Encoding.addi (d : BitVec 6) (a : BitVec 6) (i : BitVec 14) : Sys2Proof.Laws.Encoding.Statement (.addi d a i) := by
  intro _
  show candidate1 (0x2#6 ++ d ++ a ++ i) = _
  obtain ⟨e0, e1, e2, e3⟩ := Sys2Proof.Laws.fields11 0x2#6 d a i
  unfold candidate1
  rw [e0, e1, e2, e3]; rfl

theorem Sys2Proof.Laws.Encoding.andi (d : BitVec 6) (a : BitVec 6) (i : BitVec 14) : Sys2Proof.Laws.Encoding.Statement (.andi d a i) := by
  intro _
  show candidate1 (0x3#6 ++ d ++ a ++ i) = _
  obtain ⟨e0, e1, e2, e3⟩ := Sys2Proof.Laws.fields11 0x3#6 d a i
  unfold candidate1
  rw [e0, e1, e2, e3]; rfl

theorem Sys2Proof.Laws.Encoding.ori (d : BitVec 6) (a : BitVec 6) (i : BitVec 14) : Sys2Proof.Laws.Encoding.Statement (.ori d a i) := by
  intro _
  show candidate1 (0x4#6 ++ d ++ a ++ i) = _
  obtain ⟨e0, e1, e2, e3⟩ := Sys2Proof.Laws.fields11 0x4#6 d a i
  unfold candidate1
  rw [e0, e1, e2, e3]; rfl

theorem Sys2Proof.Laws.Encoding.xori (d : BitVec 6) (a : BitVec 6) (i : BitVec 14) : Sys2Proof.Laws.Encoding.Statement (.xori d a i) := by
  intro _
  show candidate1 (0x5#6 ++ d ++ a ++ i) = _
  obtain ⟨e0, e1, e2, e3⟩ := Sys2Proof.Laws.fields11 0x5#6 d a i
  unfold candidate1
  rw [e0, e1, e2, e3]; rfl

theorem Sys2Proof.Laws.Encoding.slti (d : BitVec 6) (a : BitVec 6) (i : BitVec 14) : Sys2Proof.Laws.Encoding.Statement (.slti d a i) := by
  intro _
  show candidate1 (0x6#6 ++ d ++ a ++ i) = _
  obtain ⟨e0, e1, e2, e3⟩ := Sys2Proof.Laws.fields11 0x6#6 d a i
  unfold candidate1
  rw [e0, e1, e2, e3]; rfl

theorem Sys2Proof.Laws.Encoding.shli (d : BitVec 6) (a : BitVec 6) (m : BitVec 6) : Sys2Proof.Laws.Encoding.Statement (.shli d a m) := by
  intro _
  show candidate1 (0x7#6 ++ d ++ a ++ 0x0#8 ++ m) = _
  obtain ⟨e0, e1, e2, e3⟩ := Sys2Proof.Laws.fields12 0x7#6 d a 0x0#8 m
  unfold candidate1
  rw [e0, e1, e2, e3]; rfl

theorem Sys2Proof.Laws.Encoding.shri (d : BitVec 6) (a : BitVec 6) (m : BitVec 6) : Sys2Proof.Laws.Encoding.Statement (.shri d a m) := by
  intro _
  show candidate1 (0x8#6 ++ d ++ a ++ 0x0#8 ++ m) = _
  obtain ⟨e0, e1, e2, e3⟩ := Sys2Proof.Laws.fields12 0x8#6 d a 0x0#8 m
  unfold candidate1
  rw [e0, e1, e2, e3]; rfl

theorem Sys2Proof.Laws.Encoding.srai (d : BitVec 6) (a : BitVec 6) (m : BitVec 6) : Sys2Proof.Laws.Encoding.Statement (.srai d a m) := by
  intro _
  show candidate1 (0x9#6 ++ d ++ a ++ 0x0#8 ++ m) = _
  obtain ⟨e0, e1, e2, e3⟩ := Sys2Proof.Laws.fields12 0x9#6 d a 0x0#8 m
  unfold candidate1
  rw [e0, e1, e2, e3]; rfl

theorem Sys2Proof.Laws.Encoding.lui (d : BitVec 6) (i : BitVec 20) : Sys2Proof.Laws.Encoding.Statement (.lui d i) := by
  intro _
  show candidate1 (0xA#6 ++ d ++ i) = _
  obtain ⟨e0, e1, e2⟩ := Sys2Proof.Laws.fields13 0xA#6 d i
  unfold candidate1
  rw [e0, e1, e2]; rfl

theorem Sys2Proof.Laws.Encoding.sel (d : BitVec 6) (a : BitVec 6) (b : BitVec 6) (g : BitVec 4) : Sys2Proof.Laws.Encoding.Statement (.sel d a b g) := by
  intro _
  show candidate1 (0xB#6 ++ d ++ a ++ b ++ 0x0#4 ++ g) = _
  obtain ⟨e0, e1, e2, e3, e4⟩ := Sys2Proof.Laws.fields14 0xB#6 d a b 0x0#4 g
  unfold candidate1
  rw [e0, e1, e2, e3, e4]; rfl

theorem Sys2Proof.Laws.Encoding.gset (d : BitVec 3) (a : BitVec 6) (b : BitVec 6) (c : BitVec 3) : Sys2Proof.Laws.Encoding.Statement (.gset d a b c) := by
  intro _
  show candidate1 (0xC#6 ++ d ++ 0x0#3 ++ a ++ b ++ 0x0#5 ++ c) = _
  obtain ⟨e0, e1, e2, e3, e4⟩ := Sys2Proof.Laws.fields15 0xC#6 d 0x0#3 a b 0x0#5 c
  unfold candidate1
  rw [e0, e1, e2, e3, e4]; rfl

theorem Sys2Proof.Laws.Encoding.glog (d : BitVec 3) (a : BitVec 4) (b : BitVec 4) (o : BitVec 2) : Sys2Proof.Laws.Encoding.Statement (.glog d a b o) := by
  intro _
  show candidate1 (0xD#6 ++ d ++ a ++ b ++ o ++ 0x0#13) = _
  obtain ⟨e0, e1, e2, e3, e4⟩ := Sys2Proof.Laws.fields16 0xD#6 d a b o 0x0#13
  unfold candidate1
  rw [e0, e1, e2, e3, e4]; rfl

theorem Sys2Proof.Laws.Encoding.gmovToScalar (s : BitVec 6) : Sys2Proof.Laws.Encoding.Statement (.gmovToScalar s) := by
  intro _
  show candidate1 (0xE#6 ++ 0x0#1 ++ s ++ 0x0#19) = _
  obtain ⟨e0, e1, e2⟩ := Sys2Proof.Laws.fields17 0xE#6 0x0#1 s 0x0#19
  unfold candidate1
  rw [e0, e1, e2]; rfl

theorem Sys2Proof.Laws.Encoding.gmovToGuards (s : BitVec 6) : Sys2Proof.Laws.Encoding.Statement (.gmovToGuards s) := by
  intro _
  show candidate1 (0xE#6 ++ 0x1#1 ++ s ++ 0x0#19) = _
  obtain ⟨e0, e1, e2⟩ := Sys2Proof.Laws.fields17 0xE#6 0x1#1 s 0x0#19
  unfold candidate1
  rw [e0, e1, e2]; rfl

theorem Sys2Proof.Laws.Encoding.latq (d : BitVec 6) (e : BitVec 6) : Sys2Proof.Laws.Encoding.Statement (.latq d e) := by
  intro _
  show candidate1 (0xF#6 ++ d ++ 0x0#14 ++ e) = _
  obtain ⟨e0, e1, e2⟩ := Sys2Proof.Laws.fields18 0xF#6 d 0x0#14 e
  unfold candidate1
  rw [e0, e1, e2]; rfl

theorem Sys2Proof.Laws.Encoding.fadd (d : BitVec 6) (a : BitVec 6) (b : BitVec 6) (p : BitVec 1) : Sys2Proof.Laws.Encoding.Statement (.fadd d a b p) := by
  intro _
  show candidate1 (0x10#6 ++ d ++ a ++ b ++ p ++ 0x0#7) = _
  obtain ⟨e0, e1, e2, e3, e4, e5⟩ := Sys2Proof.Laws.fields19 0x10#6 d a b p 0x0#7
  unfold candidate1
  rw [e0, e1, e2, e3, e4, e5]; rfl

theorem Sys2Proof.Laws.Encoding.fsub (d : BitVec 6) (a : BitVec 6) (b : BitVec 6) (p : BitVec 1) : Sys2Proof.Laws.Encoding.Statement (.fsub d a b p) := by
  intro _
  show candidate1 (0x10#6 ++ d ++ a ++ b ++ p ++ 0x1#7) = _
  obtain ⟨e0, e1, e2, e3, e4, e5⟩ := Sys2Proof.Laws.fields19 0x10#6 d a b p 0x1#7
  unfold candidate1
  rw [e0, e1, e2, e3, e4, e5]; rfl

theorem Sys2Proof.Laws.Encoding.fmul (d : BitVec 6) (a : BitVec 6) (b : BitVec 6) (p : BitVec 1) : Sys2Proof.Laws.Encoding.Statement (.fmul d a b p) := by
  intro _
  show candidate1 (0x10#6 ++ d ++ a ++ b ++ p ++ 0x2#7) = _
  obtain ⟨e0, e1, e2, e3, e4, e5⟩ := Sys2Proof.Laws.fields19 0x10#6 d a b p 0x2#7
  unfold candidate1
  rw [e0, e1, e2, e3, e4, e5]; rfl

theorem Sys2Proof.Laws.Encoding.fdiv (d : BitVec 6) (a : BitVec 6) (b : BitVec 6) (p : BitVec 1) : Sys2Proof.Laws.Encoding.Statement (.fdiv d a b p) := by
  intro _
  show candidate1 (0x10#6 ++ d ++ a ++ b ++ p ++ 0x3#7) = _
  obtain ⟨e0, e1, e2, e3, e4, e5⟩ := Sys2Proof.Laws.fields19 0x10#6 d a b p 0x3#7
  unfold candidate1
  rw [e0, e1, e2, e3, e4, e5]; rfl

theorem Sys2Proof.Laws.Encoding.fsqrt (d : BitVec 6) (a : BitVec 6) (p : BitVec 1) : Sys2Proof.Laws.Encoding.Statement (.fsqrt d a p) := by
  intro _
  show candidate1 (0x10#6 ++ d ++ a ++ 0x0#6 ++ p ++ 0x4#7) = _
  obtain ⟨e0, e1, e2, e3, e4⟩ := Sys2Proof.Laws.fields20 0x10#6 d a 0x0#6 p 0x4#7
  unfold candidate1
  rw [e0, e1, e2, e3, e4]; rfl

theorem Sys2Proof.Laws.Encoding.fmin (d : BitVec 6) (a : BitVec 6) (b : BitVec 6) (p : BitVec 1) : Sys2Proof.Laws.Encoding.Statement (.fmin d a b p) := by
  intro _
  show candidate1 (0x10#6 ++ d ++ a ++ b ++ p ++ 0x5#7) = _
  obtain ⟨e0, e1, e2, e3, e4, e5⟩ := Sys2Proof.Laws.fields19 0x10#6 d a b p 0x5#7
  unfold candidate1
  rw [e0, e1, e2, e3, e4, e5]; rfl

theorem Sys2Proof.Laws.Encoding.fmax (d : BitVec 6) (a : BitVec 6) (b : BitVec 6) (p : BitVec 1) : Sys2Proof.Laws.Encoding.Statement (.fmax d a b p) := by
  intro _
  show candidate1 (0x10#6 ++ d ++ a ++ b ++ p ++ 0x6#7) = _
  obtain ⟨e0, e1, e2, e3, e4, e5⟩ := Sys2Proof.Laws.fields19 0x10#6 d a b p 0x6#7
  unfold candidate1
  rw [e0, e1, e2, e3, e4, e5]; rfl

theorem Sys2Proof.Laws.Encoding.fcmp (d : BitVec 6) (a : BitVec 6) (b : BitVec 6) (p : BitVec 1) (u : BitVec 3) : Sys2Proof.Laws.Encoding.Statement (.fcmp d a b p u) := by
  intro _
  show candidate1 (0x10#6 ++ d ++ a ++ b ++ p ++ u ++ 0x7#4) = _
  obtain ⟨e0, e1, e2, e3, e4, e5, e6⟩ := Sys2Proof.Laws.fields21 0x10#6 d a b p u 0x7#4
  unfold candidate1
  rw [e0, e1, e2, e3, e4, e5, e6]; rfl

theorem Sys2Proof.Laws.Encoding.fcvt (d : BitVec 6) (a : BitVec 6) (p : BitVec 1) (u : BitVec 3) : Sys2Proof.Laws.Encoding.Statement (.fcvt d a p u) := by
  intro _
  show candidate1 (0x10#6 ++ d ++ a ++ 0x0#6 ++ p ++ u ++ 0x8#4) = _
  obtain ⟨e0, e1, e2, e3, e4, e5⟩ := Sys2Proof.Laws.fields22 0x10#6 d a 0x0#6 p u 0x8#4
  unfold candidate1
  rw [e0, e1, e2, e3, e4, e5]; rfl

theorem Sys2Proof.Laws.Encoding.fclass (d : BitVec 6) (a : BitVec 6) (p : BitVec 1) : Sys2Proof.Laws.Encoding.Statement (.fclass d a p) := by
  intro _
  show candidate1 (0x10#6 ++ d ++ a ++ 0x0#6 ++ p ++ 0x9#7) = _
  obtain ⟨e0, e1, e2, e3, e4⟩ := Sys2Proof.Laws.fields20 0x10#6 d a 0x0#6 p 0x9#7
  unfold candidate1
  rw [e0, e1, e2, e3, e4]; rfl

theorem Sys2Proof.Laws.Encoding.fmadd (d : BitVec 6) (a : BitVec 6) (b : BitVec 6) (c : BitVec 6) (p : BitVec 1) : Sys2Proof.Laws.Encoding.Statement (.fmadd d a b c p) := by
  intro _
  show candidate1 (0x11#6 ++ d ++ a ++ b ++ c ++ p ++ 0x0#1) = _
  obtain ⟨e0, e1, e2, e3, e4, e5⟩ := Sys2Proof.Laws.fields23 0x11#6 d a b c p 0x0#1
  unfold candidate1
  rw [e0, e1, e2, e3, e4, e5]; rfl

theorem Sys2Proof.Laws.Encoding.ldB (d : BitVec 6) (e : BitVec 4) (x : BitVec 6) (i : BitVec 10) : Sys2Proof.Laws.Encoding.Statement (.ldB d e x i) := by
  intro _
  show candidate2 (0x1#6 ++ d ++ e ++ x ++ i) = _
  obtain ⟨e0, e1, e2, e3, e4⟩ := Sys2Proof.Laws.fields24 0x1#6 d e x i
  unfold candidate2
  rw [e0, e1, e2, e3, e4]; rfl

theorem Sys2Proof.Laws.Encoding.ldBz (d : BitVec 6) (e : BitVec 4) (x : BitVec 6) (i : BitVec 10) : Sys2Proof.Laws.Encoding.Statement (.ldBz d e x i) := by
  intro _
  show candidate2 (0x2#6 ++ d ++ e ++ x ++ i) = _
  obtain ⟨e0, e1, e2, e3, e4⟩ := Sys2Proof.Laws.fields24 0x2#6 d e x i
  unfold candidate2
  rw [e0, e1, e2, e3, e4]; rfl

theorem Sys2Proof.Laws.Encoding.ldH (d : BitVec 6) (e : BitVec 4) (x : BitVec 6) (i : BitVec 10) : Sys2Proof.Laws.Encoding.Statement (.ldH d e x i) := by
  intro _
  show candidate2 (0x3#6 ++ d ++ e ++ x ++ i) = _
  obtain ⟨e0, e1, e2, e3, e4⟩ := Sys2Proof.Laws.fields24 0x3#6 d e x i
  unfold candidate2
  rw [e0, e1, e2, e3, e4]; rfl

theorem Sys2Proof.Laws.Encoding.ldHz (d : BitVec 6) (e : BitVec 4) (x : BitVec 6) (i : BitVec 10) : Sys2Proof.Laws.Encoding.Statement (.ldHz d e x i) := by
  intro _
  show candidate2 (0x4#6 ++ d ++ e ++ x ++ i) = _
  obtain ⟨e0, e1, e2, e3, e4⟩ := Sys2Proof.Laws.fields24 0x4#6 d e x i
  unfold candidate2
  rw [e0, e1, e2, e3, e4]; rfl

theorem Sys2Proof.Laws.Encoding.ldW (d : BitVec 6) (e : BitVec 4) (x : BitVec 6) (i : BitVec 10) : Sys2Proof.Laws.Encoding.Statement (.ldW d e x i) := by
  intro _
  show candidate2 (0x5#6 ++ d ++ e ++ x ++ i) = _
  obtain ⟨e0, e1, e2, e3, e4⟩ := Sys2Proof.Laws.fields24 0x5#6 d e x i
  unfold candidate2
  rw [e0, e1, e2, e3, e4]; rfl

theorem Sys2Proof.Laws.Encoding.ldWz (d : BitVec 6) (e : BitVec 4) (x : BitVec 6) (i : BitVec 10) : Sys2Proof.Laws.Encoding.Statement (.ldWz d e x i) := by
  intro _
  show candidate2 (0x6#6 ++ d ++ e ++ x ++ i) = _
  obtain ⟨e0, e1, e2, e3, e4⟩ := Sys2Proof.Laws.fields24 0x6#6 d e x i
  unfold candidate2
  rw [e0, e1, e2, e3, e4]; rfl

theorem Sys2Proof.Laws.Encoding.ldD (d : BitVec 6) (e : BitVec 4) (x : BitVec 6) (i : BitVec 10) : Sys2Proof.Laws.Encoding.Statement (.ldD d e x i) := by
  intro _
  show candidate2 (0x7#6 ++ d ++ e ++ x ++ i) = _
  obtain ⟨e0, e1, e2, e3, e4⟩ := Sys2Proof.Laws.fields24 0x7#6 d e x i
  unfold candidate2
  rw [e0, e1, e2, e3, e4]; rfl

theorem Sys2Proof.Laws.Encoding.stB (v : BitVec 6) (e : BitVec 4) (x : BitVec 6) (g : BitVec 4) (i : BitVec 6) : Sys2Proof.Laws.Encoding.Statement (.stB v e x g i) := by
  intro _
  show candidate2 (0x8#6 ++ v ++ e ++ x ++ g ++ i) = _
  obtain ⟨e0, e1, e2, e3, e4, e5⟩ := Sys2Proof.Laws.fields25 0x8#6 v e x g i
  unfold candidate2
  rw [e0, e1, e2, e3, e4, e5]; rfl

theorem Sys2Proof.Laws.Encoding.stH (v : BitVec 6) (e : BitVec 4) (x : BitVec 6) (g : BitVec 4) (i : BitVec 6) : Sys2Proof.Laws.Encoding.Statement (.stH v e x g i) := by
  intro _
  show candidate2 (0x9#6 ++ v ++ e ++ x ++ g ++ i) = _
  obtain ⟨e0, e1, e2, e3, e4, e5⟩ := Sys2Proof.Laws.fields25 0x9#6 v e x g i
  unfold candidate2
  rw [e0, e1, e2, e3, e4, e5]; rfl

theorem Sys2Proof.Laws.Encoding.stW (v : BitVec 6) (e : BitVec 4) (x : BitVec 6) (g : BitVec 4) (i : BitVec 6) : Sys2Proof.Laws.Encoding.Statement (.stW v e x g i) := by
  intro _
  show candidate2 (0xA#6 ++ v ++ e ++ x ++ g ++ i) = _
  obtain ⟨e0, e1, e2, e3, e4, e5⟩ := Sys2Proof.Laws.fields25 0xA#6 v e x g i
  unfold candidate2
  rw [e0, e1, e2, e3, e4, e5]; rfl

theorem Sys2Proof.Laws.Encoding.stD (v : BitVec 6) (e : BitVec 4) (x : BitVec 6) (g : BitVec 4) (i : BitVec 6) : Sys2Proof.Laws.Encoding.Statement (.stD v e x g i) := by
  intro _
  show candidate2 (0xB#6 ++ v ++ e ++ x ++ g ++ i) = _
  obtain ⟨e0, e1, e2, e3, e4, e5⟩ := Sys2Proof.Laws.fields25 0xB#6 v e x g i
  unfold candidate2
  rw [e0, e1, e2, e3, e4, e5]; rfl

theorem Sys2Proof.Laws.Encoding.aadd (d : BitVec 6) (x : BitVec 6) (v : BitVec 6) (g : BitVec 4) : Sys2Proof.Laws.Encoding.Statement (.aadd d x v g) := by
  intro _
  show candidate2 (0x10#6 ++ d ++ x ++ v ++ g ++ 0x0#4) = _
  obtain ⟨e0, e1, e2, e3, e4, e5⟩ := Sys2Proof.Laws.fields26 0x10#6 d x v g 0x0#4
  unfold candidate2
  rw [e0, e1, e2, e3, e4, e5]; rfl

theorem Sys2Proof.Laws.Encoding.aand (d : BitVec 6) (x : BitVec 6) (v : BitVec 6) (g : BitVec 4) : Sys2Proof.Laws.Encoding.Statement (.aand d x v g) := by
  intro _
  show candidate2 (0x10#6 ++ d ++ x ++ v ++ g ++ 0x1#4) = _
  obtain ⟨e0, e1, e2, e3, e4, e5⟩ := Sys2Proof.Laws.fields26 0x10#6 d x v g 0x1#4
  unfold candidate2
  rw [e0, e1, e2, e3, e4, e5]; rfl

theorem Sys2Proof.Laws.Encoding.aor (d : BitVec 6) (x : BitVec 6) (v : BitVec 6) (g : BitVec 4) : Sys2Proof.Laws.Encoding.Statement (.aor d x v g) := by
  intro _
  show candidate2 (0x10#6 ++ d ++ x ++ v ++ g ++ 0x2#4) = _
  obtain ⟨e0, e1, e2, e3, e4, e5⟩ := Sys2Proof.Laws.fields26 0x10#6 d x v g 0x2#4
  unfold candidate2
  rw [e0, e1, e2, e3, e4, e5]; rfl

theorem Sys2Proof.Laws.Encoding.axor (d : BitVec 6) (x : BitVec 6) (v : BitVec 6) (g : BitVec 4) : Sys2Proof.Laws.Encoding.Statement (.axor d x v g) := by
  intro _
  show candidate2 (0x10#6 ++ d ++ x ++ v ++ g ++ 0x3#4) = _
  obtain ⟨e0, e1, e2, e3, e4, e5⟩ := Sys2Proof.Laws.fields26 0x10#6 d x v g 0x3#4
  unfold candidate2
  rw [e0, e1, e2, e3, e4, e5]; rfl

theorem Sys2Proof.Laws.Encoding.amin (d : BitVec 6) (x : BitVec 6) (v : BitVec 6) (g : BitVec 4) : Sys2Proof.Laws.Encoding.Statement (.amin d x v g) := by
  intro _
  show candidate2 (0x10#6 ++ d ++ x ++ v ++ g ++ 0x4#4) = _
  obtain ⟨e0, e1, e2, e3, e4, e5⟩ := Sys2Proof.Laws.fields26 0x10#6 d x v g 0x4#4
  unfold candidate2
  rw [e0, e1, e2, e3, e4, e5]; rfl

theorem Sys2Proof.Laws.Encoding.amax (d : BitVec 6) (x : BitVec 6) (v : BitVec 6) (g : BitVec 4) : Sys2Proof.Laws.Encoding.Statement (.amax d x v g) := by
  intro _
  show candidate2 (0x10#6 ++ d ++ x ++ v ++ g ++ 0x5#4) = _
  obtain ⟨e0, e1, e2, e3, e4, e5⟩ := Sys2Proof.Laws.fields26 0x10#6 d x v g 0x5#4
  unfold candidate2
  rw [e0, e1, e2, e3, e4, e5]; rfl

theorem Sys2Proof.Laws.Encoding.aminu (d : BitVec 6) (x : BitVec 6) (v : BitVec 6) (g : BitVec 4) : Sys2Proof.Laws.Encoding.Statement (.aminu d x v g) := by
  intro _
  show candidate2 (0x10#6 ++ d ++ x ++ v ++ g ++ 0x6#4) = _
  obtain ⟨e0, e1, e2, e3, e4, e5⟩ := Sys2Proof.Laws.fields26 0x10#6 d x v g 0x6#4
  unfold candidate2
  rw [e0, e1, e2, e3, e4, e5]; rfl

theorem Sys2Proof.Laws.Encoding.amaxu (d : BitVec 6) (x : BitVec 6) (v : BitVec 6) (g : BitVec 4) : Sys2Proof.Laws.Encoding.Statement (.amaxu d x v g) := by
  intro _
  show candidate2 (0x10#6 ++ d ++ x ++ v ++ g ++ 0x7#4) = _
  obtain ⟨e0, e1, e2, e3, e4, e5⟩ := Sys2Proof.Laws.fields26 0x10#6 d x v g 0x7#4
  unfold candidate2
  rw [e0, e1, e2, e3, e4, e5]; rfl

theorem Sys2Proof.Laws.Encoding.aswap (d : BitVec 6) (x : BitVec 6) (v : BitVec 6) (g : BitVec 4) : Sys2Proof.Laws.Encoding.Statement (.aswap d x v g) := by
  intro _
  show candidate2 (0x10#6 ++ d ++ x ++ v ++ g ++ 0x8#4) = _
  obtain ⟨e0, e1, e2, e3, e4, e5⟩ := Sys2Proof.Laws.fields26 0x10#6 d x v g 0x8#4
  unfold candidate2
  rw [e0, e1, e2, e3, e4, e5]; rfl

theorem Sys2Proof.Laws.Encoding.acas (d : BitVec 6) (x : BitVec 6) (n : BitVec 6) (g : BitVec 4) : Sys2Proof.Laws.Encoding.Statement (.acas d x n g) := by
  intro _
  show candidate2 (0x11#6 ++ d ++ x ++ n ++ g ++ 0x0#4) = _
  obtain ⟨e0, e1, e2, e3, e4⟩ := Sys2Proof.Laws.fields27 0x11#6 d x n g 0x0#4
  unfold candidate2
  rw [e0, e1, e2, e3, e4]; rfl

theorem Sys2Proof.Laws.Encoding.lockb (m : BitVec 16) (n : BitVec 4) : Sys2Proof.Laws.Encoding.Statement (.lockb m n) := by
  intro _
  show candidate2 (0x18#6 ++ m ++ 0x0#6 ++ n) = _
  obtain ⟨e0, e1, e2⟩ := Sys2Proof.Laws.fields28 0x18#6 m 0x0#6 n
  unfold candidate2
  rw [e0, e1, e2]; rfl

theorem Sys2Proof.Laws.Encoding.csrr (d : BitVec 6) (c : BitVec 12) : Sys2Proof.Laws.Encoding.Statement (.csrr d c) := by
  intro _
  show candidate2 (0x1A#6 ++ d ++ 0x0#8 ++ c) = _
  obtain ⟨e0, e1, e2⟩ := Sys2Proof.Laws.fields5 0x1A#6 d 0x0#8 c
  unfold candidate2
  rw [e0, e1, e2]; rfl

theorem Sys2Proof.Laws.Encoding.csrw (a : BitVec 6) (c : BitVec 12) : Sys2Proof.Laws.Encoding.Statement (.csrw a c) := by
  intro _
  show candidate2 (0x1B#6 ++ a ++ 0x0#8 ++ c) = _
  obtain ⟨e0, e1, e2⟩ := Sys2Proof.Laws.fields5 0x1B#6 a 0x0#8 c
  unfold candidate2
  rw [e0, e1, e2]; rfl

theorem Sys2Proof.Laws.Encoding.csrs (a : BitVec 6) (c : BitVec 12) : Sys2Proof.Laws.Encoding.Statement (.csrs a c) := by
  intro _
  show candidate2 (0x1C#6 ++ a ++ 0x0#8 ++ c) = _
  obtain ⟨e0, e1, e2⟩ := Sys2Proof.Laws.fields5 0x1C#6 a 0x0#8 c
  unfold candidate2
  rw [e0, e1, e2]; rfl

theorem Sys2Proof.Laws.Encoding.csrc (a : BitVec 6) (c : BitVec 12) : Sys2Proof.Laws.Encoding.Statement (.csrc a c) := by
  intro _
  show candidate2 (0x1D#6 ++ a ++ 0x0#8 ++ c) = _
  obtain ⟨e0, e1, e2⟩ := Sys2Proof.Laws.fields5 0x1D#6 a 0x0#8 c
  unfold candidate2
  rw [e0, e1, e2]; rfl

theorem Sys2Proof.Laws.Encoding.fence (p : BitVec 8) (s : BitVec 8) (k : BitVec 3) : Sys2Proof.Laws.Encoding.Statement (.fence p s k) := by
  intro _
  show candidate2 (0x1E#6 ++ p ++ s ++ k ++ 0x0#7) = _
  obtain ⟨e0, e1, e2, e3⟩ := Sys2Proof.Laws.fields29 0x1E#6 p s k 0x0#7
  unfold candidate2
  rw [e0, e1, e2, e3]; rfl

theorem Sys2Proof.Laws.Encoding.idr (d : BitVec 6) (i : BitVec 4) : Sys2Proof.Laws.Encoding.Statement (.idr d i) := by
  intro _
  show candidate2 (0x1F#6 ++ d ++ 0x0#16 ++ i) = _
  obtain ⟨e0, e1, e2⟩ := Sys2Proof.Laws.fields30 0x1F#6 d 0x0#16 i
  unfold candidate2
  rw [e0, e1, e2]; rfl

theorem Sys2Proof.Laws.Encoding.vadd (d : BitVec 5) (a : BitVec 5) (b : BitVec 5) (t : BitVec 3) : Sys2Proof.Laws.Encoding.Statement (.vadd d a b t) := by
  intro _
  show candidate3 (0x1#6 ++ d ++ a ++ b ++ t ++ 0x0#8) = _
  obtain ⟨e0, e1, e2, e3, e4⟩ := Sys2Proof.Laws.fields31 0x1#6 d a b t 0x0#8
  unfold candidate3
  rw [e0, e1, e2, e3, e4]; rfl

theorem Sys2Proof.Laws.Encoding.vsub (d : BitVec 5) (a : BitVec 5) (b : BitVec 5) (t : BitVec 3) : Sys2Proof.Laws.Encoding.Statement (.vsub d a b t) := by
  intro _
  show candidate3 (0x2#6 ++ d ++ a ++ b ++ t ++ 0x0#8) = _
  obtain ⟨e0, e1, e2, e3, e4⟩ := Sys2Proof.Laws.fields31 0x2#6 d a b t 0x0#8
  unfold candidate3
  rw [e0, e1, e2, e3, e4]; rfl

theorem Sys2Proof.Laws.Encoding.vmul (d : BitVec 5) (a : BitVec 5) (b : BitVec 5) (t : BitVec 3) : Sys2Proof.Laws.Encoding.Statement (.vmul d a b t) := by
  intro _
  show candidate3 (0x3#6 ++ d ++ a ++ b ++ t ++ 0x0#8) = _
  obtain ⟨e0, e1, e2, e3, e4⟩ := Sys2Proof.Laws.fields31 0x3#6 d a b t 0x0#8
  unfold candidate3
  rw [e0, e1, e2, e3, e4]; rfl

theorem Sys2Proof.Laws.Encoding.vfma (d : BitVec 5) (a : BitVec 5) (b : BitVec 5) (t : BitVec 3) (c : BitVec 5) : Sys2Proof.Laws.Encoding.Statement (.vfma d a b t c) := by
  intro _
  show candidate3 (0x4#6 ++ d ++ a ++ b ++ t ++ c ++ 0x0#3) = _
  obtain ⟨e0, e1, e2, e3, e4, e5⟩ := Sys2Proof.Laws.fields32 0x4#6 d a b t c 0x0#3
  unfold candidate3
  rw [e0, e1, e2, e3, e4, e5]; rfl

theorem Sys2Proof.Laws.Encoding.vfms (d : BitVec 5) (a : BitVec 5) (b : BitVec 5) (t : BitVec 3) (c : BitVec 5) : Sys2Proof.Laws.Encoding.Statement (.vfms d a b t c) := by
  intro _
  show candidate3 (0x5#6 ++ d ++ a ++ b ++ t ++ c ++ 0x0#3) = _
  obtain ⟨e0, e1, e2, e3, e4, e5⟩ := Sys2Proof.Laws.fields32 0x5#6 d a b t c 0x0#3
  unfold candidate3
  rw [e0, e1, e2, e3, e4, e5]; rfl

theorem Sys2Proof.Laws.Encoding.vmin (d : BitVec 5) (a : BitVec 5) (b : BitVec 5) (t : BitVec 3) : Sys2Proof.Laws.Encoding.Statement (.vmin d a b t) := by
  intro _
  show candidate3 (0x6#6 ++ d ++ a ++ b ++ t ++ 0x0#8) = _
  obtain ⟨e0, e1, e2, e3, e4⟩ := Sys2Proof.Laws.fields31 0x6#6 d a b t 0x0#8
  unfold candidate3
  rw [e0, e1, e2, e3, e4]; rfl

theorem Sys2Proof.Laws.Encoding.vmax (d : BitVec 5) (a : BitVec 5) (b : BitVec 5) (t : BitVec 3) : Sys2Proof.Laws.Encoding.Statement (.vmax d a b t) := by
  intro _
  show candidate3 (0x7#6 ++ d ++ a ++ b ++ t ++ 0x0#8) = _
  obtain ⟨e0, e1, e2, e3, e4⟩ := Sys2Proof.Laws.fields31 0x7#6 d a b t 0x0#8
  unfold candidate3
  rw [e0, e1, e2, e3, e4]; rfl

theorem Sys2Proof.Laws.Encoding.vabs (d : BitVec 5) (a : BitVec 5) (t : BitVec 3) : Sys2Proof.Laws.Encoding.Statement (.vabs d a t) := by
  intro _
  show candidate3 (0x8#6 ++ d ++ a ++ 0x0#5 ++ t ++ 0x0#8) = _
  obtain ⟨e0, e1, e2, e3⟩ := Sys2Proof.Laws.fields33 0x8#6 d a 0x0#5 t 0x0#8
  unfold candidate3
  rw [e0, e1, e2, e3]; rfl

theorem Sys2Proof.Laws.Encoding.vneg (d : BitVec 5) (a : BitVec 5) (t : BitVec 3) : Sys2Proof.Laws.Encoding.Statement (.vneg d a t) := by
  intro _
  show candidate3 (0x9#6 ++ d ++ a ++ 0x0#5 ++ t ++ 0x0#8) = _
  obtain ⟨e0, e1, e2, e3⟩ := Sys2Proof.Laws.fields33 0x9#6 d a 0x0#5 t 0x0#8
  unfold candidate3
  rw [e0, e1, e2, e3]; rfl

theorem Sys2Proof.Laws.Encoding.vand (d : BitVec 5) (a : BitVec 5) (b : BitVec 5) (t : BitVec 3) : Sys2Proof.Laws.Encoding.Statement (.vand d a b t) := by
  intro _
  show candidate3 (0xA#6 ++ d ++ a ++ b ++ t ++ 0x0#8) = _
  obtain ⟨e0, e1, e2, e3, e4⟩ := Sys2Proof.Laws.fields31 0xA#6 d a b t 0x0#8
  unfold candidate3
  rw [e0, e1, e2, e3, e4]; rfl

theorem Sys2Proof.Laws.Encoding.vor (d : BitVec 5) (a : BitVec 5) (b : BitVec 5) (t : BitVec 3) : Sys2Proof.Laws.Encoding.Statement (.vor d a b t) := by
  intro _
  show candidate3 (0xB#6 ++ d ++ a ++ b ++ t ++ 0x0#8) = _
  obtain ⟨e0, e1, e2, e3, e4⟩ := Sys2Proof.Laws.fields31 0xB#6 d a b t 0x0#8
  unfold candidate3
  rw [e0, e1, e2, e3, e4]; rfl

theorem Sys2Proof.Laws.Encoding.vxor (d : BitVec 5) (a : BitVec 5) (b : BitVec 5) (t : BitVec 3) : Sys2Proof.Laws.Encoding.Statement (.vxor d a b t) := by
  intro _
  show candidate3 (0xC#6 ++ d ++ a ++ b ++ t ++ 0x0#8) = _
  obtain ⟨e0, e1, e2, e3, e4⟩ := Sys2Proof.Laws.fields31 0xC#6 d a b t 0x0#8
  unfold candidate3
  rw [e0, e1, e2, e3, e4]; rfl

theorem Sys2Proof.Laws.Encoding.vnot (d : BitVec 5) (a : BitVec 5) (t : BitVec 3) : Sys2Proof.Laws.Encoding.Statement (.vnot d a t) := by
  intro _
  show candidate3 (0xD#6 ++ d ++ a ++ 0x0#5 ++ t ++ 0x0#8) = _
  obtain ⟨e0, e1, e2, e3⟩ := Sys2Proof.Laws.fields33 0xD#6 d a 0x0#5 t 0x0#8
  unfold candidate3
  rw [e0, e1, e2, e3]; rfl

theorem Sys2Proof.Laws.Encoding.vshl (d : BitVec 5) (a : BitVec 5) (b : BitVec 5) (t : BitVec 3) : Sys2Proof.Laws.Encoding.Statement (.vshl d a b t) := by
  intro _
  show candidate3 (0xE#6 ++ d ++ a ++ b ++ t ++ 0x0#8) = _
  obtain ⟨e0, e1, e2, e3, e4⟩ := Sys2Proof.Laws.fields31 0xE#6 d a b t 0x0#8
  unfold candidate3
  rw [e0, e1, e2, e3, e4]; rfl

theorem Sys2Proof.Laws.Encoding.vshr (d : BitVec 5) (a : BitVec 5) (b : BitVec 5) (t : BitVec 3) : Sys2Proof.Laws.Encoding.Statement (.vshr d a b t) := by
  intro _
  show candidate3 (0xF#6 ++ d ++ a ++ b ++ t ++ 0x0#8) = _
  obtain ⟨e0, e1, e2, e3, e4⟩ := Sys2Proof.Laws.fields31 0xF#6 d a b t 0x0#8
  unfold candidate3
  rw [e0, e1, e2, e3, e4]; rfl

theorem Sys2Proof.Laws.Encoding.vsra (d : BitVec 5) (a : BitVec 5) (b : BitVec 5) (t : BitVec 3) : Sys2Proof.Laws.Encoding.Statement (.vsra d a b t) := by
  intro _
  show candidate3 (0x10#6 ++ d ++ a ++ b ++ t ++ 0x0#8) = _
  obtain ⟨e0, e1, e2, e3, e4⟩ := Sys2Proof.Laws.fields31 0x10#6 d a b t 0x0#8
  unfold candidate3
  rw [e0, e1, e2, e3, e4]; rfl

theorem Sys2Proof.Laws.Encoding.vcmpeq (d : BitVec 3) (a : BitVec 5) (b : BitVec 5) (t : BitVec 3) : Sys2Proof.Laws.Encoding.Statement (.vcmpeq d a b t) := by
  intro _
  show candidate3 (0x11#6 ++ d ++ 0x0#2 ++ a ++ b ++ t ++ 0x0#8) = _
  obtain ⟨e0, e1, e2, e3, e4⟩ := Sys2Proof.Laws.fields34 0x11#6 d 0x0#2 a b t 0x0#8
  unfold candidate3
  rw [e0, e1, e2, e3, e4]; rfl

theorem Sys2Proof.Laws.Encoding.vcmplt (d : BitVec 3) (a : BitVec 5) (b : BitVec 5) (t : BitVec 3) : Sys2Proof.Laws.Encoding.Statement (.vcmplt d a b t) := by
  intro _
  show candidate3 (0x12#6 ++ d ++ 0x0#2 ++ a ++ b ++ t ++ 0x0#8) = _
  obtain ⟨e0, e1, e2, e3, e4⟩ := Sys2Proof.Laws.fields34 0x12#6 d 0x0#2 a b t 0x0#8
  unfold candidate3
  rw [e0, e1, e2, e3, e4]; rfl

theorem Sys2Proof.Laws.Encoding.vcmple (d : BitVec 3) (a : BitVec 5) (b : BitVec 5) (t : BitVec 3) : Sys2Proof.Laws.Encoding.Statement (.vcmple d a b t) := by
  intro _
  show candidate3 (0x13#6 ++ d ++ 0x0#2 ++ a ++ b ++ t ++ 0x0#8) = _
  obtain ⟨e0, e1, e2, e3, e4⟩ := Sys2Proof.Laws.fields34 0x13#6 d 0x0#2 a b t 0x0#8
  unfold candidate3
  rw [e0, e1, e2, e3, e4]; rfl

theorem Sys2Proof.Laws.Encoding.vsel (d : BitVec 5) (a : BitVec 5) (b : BitVec 5) (t : BitVec 3) (m : BitVec 3) : Sys2Proof.Laws.Encoding.Statement (.vsel d a b t m) := by
  intro _
  show candidate3 (0x14#6 ++ d ++ a ++ b ++ t ++ 0x0#5 ++ m) = _
  obtain ⟨e0, e1, e2, e3, e4, e5⟩ := Sys2Proof.Laws.fields35 0x14#6 d a b t 0x0#5 m
  unfold candidate3
  rw [e0, e1, e2, e3, e4, e5]; rfl

theorem Sys2Proof.Laws.Encoding.vmov (d : BitVec 5) (a : BitVec 5) : Sys2Proof.Laws.Encoding.Statement (.vmov d a) := by
  intro _
  show candidate3 (0x15#6 ++ d ++ a ++ 0x0#16) = _
  obtain ⟨e0, e1, e2⟩ := Sys2Proof.Laws.fields36 0x15#6 d a 0x0#16
  unfold candidate3
  rw [e0, e1, e2]; rfl

theorem Sys2Proof.Laws.Encoding.vsplat (d : BitVec 5) (t : BitVec 3) (i : BitVec 16) : Sys2Proof.Laws.Encoding.Statement (.vsplat d t i) := by
  intro _
  show candidate3 (0x16#6 ++ d ++ t ++ i ++ 0x0#2) = _
  obtain ⟨e0, e1, e2, e3⟩ := Sys2Proof.Laws.fields37 0x16#6 d t i 0x0#2
  unfold candidate3
  rw [e0, e1, e2, e3]; rfl

theorem Sys2Proof.Laws.Encoding.vext (d : BitVec 5) (a : BitVec 5) (t : BitVec 3) (l : BitVec 7) : Sys2Proof.Laws.Encoding.Statement (.vext d a t l) := by
  intro _
  show candidate3 (0x17#6 ++ d ++ a ++ 0x0#5 ++ t ++ l ++ 0x0#1) = _
  obtain ⟨e0, e1, e2, e3, e4⟩ := Sys2Proof.Laws.fields38 0x17#6 d a 0x0#5 t l 0x0#1
  unfold candidate3
  rw [e0, e1, e2, e3, e4]; rfl

theorem Sys2Proof.Laws.Encoding.vins (d : BitVec 5) (a : BitVec 5) (t : BitVec 3) (l : BitVec 7) : Sys2Proof.Laws.Encoding.Statement (.vins d a t l) := by
  intro _
  show candidate3 (0x18#6 ++ d ++ a ++ 0x0#5 ++ t ++ l ++ 0x0#1) = _
  obtain ⟨e0, e1, e2, e3, e4⟩ := Sys2Proof.Laws.fields38 0x18#6 d a 0x0#5 t l 0x0#1
  unfold candidate3
  rw [e0, e1, e2, e3, e4]; rfl

theorem Sys2Proof.Laws.Encoding.vcvt (d : BitVec 5) (a : BitVec 5) (t : BitVec 3) (s : BitVec 3) : Sys2Proof.Laws.Encoding.Statement (.vcvt d a t s) := by
  intro _
  show candidate3 (0x19#6 ++ d ++ a ++ 0x0#5 ++ t ++ s ++ 0x0#5) = _
  obtain ⟨e0, e1, e2, e3, e4⟩ := Sys2Proof.Laws.fields39 0x19#6 d a 0x0#5 t s 0x0#5
  unfold candidate3
  rw [e0, e1, e2, e3, e4]; rfl

theorem Sys2Proof.Laws.Encoding.vidx (d : BitVec 5) (t : BitVec 3) : Sys2Proof.Laws.Encoding.Statement (.vidx d t) := by
  intro _
  show candidate3 (0x1A#6 ++ d ++ 0x0#10 ++ t ++ 0x0#8) = _
  obtain ⟨e0, e1, e2⟩ := Sys2Proof.Laws.fields40 0x1A#6 d 0x0#10 t 0x0#8
  unfold candidate3
  rw [e0, e1, e2]; rfl

theorem Sys2Proof.Laws.Encoding.mand (d : BitVec 3) (a : BitVec 3) (b : BitVec 3) : Sys2Proof.Laws.Encoding.Statement (.mand d a b) := by
  intro _
  show candidate3 (0x1B#6 ++ d ++ a ++ b ++ 0x0#17) = _
  obtain ⟨e0, e1, e2, e3⟩ := Sys2Proof.Laws.fields41 0x1B#6 d a b 0x0#17
  unfold candidate3
  rw [e0, e1, e2, e3]; rfl

theorem Sys2Proof.Laws.Encoding.mor (d : BitVec 3) (a : BitVec 3) (b : BitVec 3) : Sys2Proof.Laws.Encoding.Statement (.mor d a b) := by
  intro _
  show candidate3 (0x1C#6 ++ d ++ a ++ b ++ 0x0#17) = _
  obtain ⟨e0, e1, e2, e3⟩ := Sys2Proof.Laws.fields41 0x1C#6 d a b 0x0#17
  unfold candidate3
  rw [e0, e1, e2, e3]; rfl

theorem Sys2Proof.Laws.Encoding.mxor (d : BitVec 3) (a : BitVec 3) (b : BitVec 3) : Sys2Proof.Laws.Encoding.Statement (.mxor d a b) := by
  intro _
  show candidate3 (0x1D#6 ++ d ++ a ++ b ++ 0x0#17) = _
  obtain ⟨e0, e1, e2, e3⟩ := Sys2Proof.Laws.fields41 0x1D#6 d a b 0x0#17
  unfold candidate3
  rw [e0, e1, e2, e3]; rfl

theorem Sys2Proof.Laws.Encoding.mnot (d : BitVec 3) (a : BitVec 3) : Sys2Proof.Laws.Encoding.Statement (.mnot d a) := by
  intro _
  show candidate3 (0x1E#6 ++ d ++ a ++ 0x0#20) = _
  obtain ⟨e0, e1, e2⟩ := Sys2Proof.Laws.fields42 0x1E#6 d a 0x0#20
  unfold candidate3
  rw [e0, e1, e2]; rfl

theorem Sys2Proof.Laws.Encoding.mpop (a : BitVec 3) (d : BitVec 5) : Sys2Proof.Laws.Encoding.Statement (.mpop a d) := by
  intro _
  show candidate3 (0x1F#6 ++ 0x0#3 ++ a ++ 0x0#3 ++ d ++ 0x0#12) = _
  obtain ⟨e0, e1, e2⟩ := Sys2Proof.Laws.fields43 0x1F#6 0x0#3 a 0x0#3 d 0x0#12
  unfold candidate3
  rw [e0, e1, e2]; rfl

theorem Sys2Proof.Laws.Encoding.mfirst (a : BitVec 3) (d : BitVec 5) : Sys2Proof.Laws.Encoding.Statement (.mfirst a d) := by
  intro _
  show candidate3 (0x20#6 ++ 0x0#3 ++ a ++ 0x0#3 ++ d ++ 0x0#12) = _
  obtain ⟨e0, e1, e2⟩ := Sys2Proof.Laws.fields43 0x20#6 0x0#3 a 0x0#3 d 0x0#12
  unfold candidate3
  rw [e0, e1, e2]; rfl

theorem Sys2Proof.Laws.Encoding.vexp (d : BitVec 5) (a : BitVec 5) (t : BitVec 3) : Sys2Proof.Laws.Encoding.Statement (.vexp d a t) := by
  intro _
  show candidate4 (0x1#6 ++ d ++ a ++ 0x0#5 ++ t ++ 0x0#8) = _
  obtain ⟨e0, e1, e2, e3⟩ := Sys2Proof.Laws.fields33 0x1#6 d a 0x0#5 t 0x0#8
  unfold candidate4
  rw [e0, e1, e2, e3]; rfl

theorem Sys2Proof.Laws.Encoding.vexp2 (d : BitVec 5) (a : BitVec 5) (t : BitVec 3) : Sys2Proof.Laws.Encoding.Statement (.vexp2 d a t) := by
  intro _
  show candidate4 (0x2#6 ++ d ++ a ++ 0x0#5 ++ t ++ 0x0#8) = _
  obtain ⟨e0, e1, e2, e3⟩ := Sys2Proof.Laws.fields33 0x2#6 d a 0x0#5 t 0x0#8
  unfold candidate4
  rw [e0, e1, e2, e3]; rfl

theorem Sys2Proof.Laws.Encoding.vlog2 (d : BitVec 5) (a : BitVec 5) (t : BitVec 3) : Sys2Proof.Laws.Encoding.Statement (.vlog2 d a t) := by
  intro _
  show candidate4 (0x3#6 ++ d ++ a ++ 0x0#5 ++ t ++ 0x0#8) = _
  obtain ⟨e0, e1, e2, e3⟩ := Sys2Proof.Laws.fields33 0x3#6 d a 0x0#5 t 0x0#8
  unfold candidate4
  rw [e0, e1, e2, e3]; rfl

theorem Sys2Proof.Laws.Encoding.vrcp (d : BitVec 5) (a : BitVec 5) (t : BitVec 3) : Sys2Proof.Laws.Encoding.Statement (.vrcp d a t) := by
  intro _
  show candidate4 (0x4#6 ++ d ++ a ++ 0x0#5 ++ t ++ 0x0#8) = _
  obtain ⟨e0, e1, e2, e3⟩ := Sys2Proof.Laws.fields33 0x4#6 d a 0x0#5 t 0x0#8
  unfold candidate4
  rw [e0, e1, e2, e3]; rfl

theorem Sys2Proof.Laws.Encoding.vrsqrt (d : BitVec 5) (a : BitVec 5) (t : BitVec 3) : Sys2Proof.Laws.Encoding.Statement (.vrsqrt d a t) := by
  intro _
  show candidate4 (0x5#6 ++ d ++ a ++ 0x0#5 ++ t ++ 0x0#8) = _
  obtain ⟨e0, e1, e2, e3⟩ := Sys2Proof.Laws.fields33 0x5#6 d a 0x0#5 t 0x0#8
  unfold candidate4
  rw [e0, e1, e2, e3]; rfl

theorem Sys2Proof.Laws.Encoding.vsqrt (d : BitVec 5) (a : BitVec 5) (t : BitVec 3) : Sys2Proof.Laws.Encoding.Statement (.vsqrt d a t) := by
  intro _
  show candidate4 (0x6#6 ++ d ++ a ++ 0x0#5 ++ t ++ 0x0#8) = _
  obtain ⟨e0, e1, e2, e3⟩ := Sys2Proof.Laws.fields33 0x6#6 d a 0x0#5 t 0x0#8
  unfold candidate4
  rw [e0, e1, e2, e3]; rfl

theorem Sys2Proof.Laws.Encoding.vdiv (d : BitVec 5) (a : BitVec 5) (b : BitVec 5) (t : BitVec 3) : Sys2Proof.Laws.Encoding.Statement (.vdiv d a b t) := by
  intro _
  show candidate4 (0x7#6 ++ d ++ a ++ b ++ t ++ 0x0#8) = _
  obtain ⟨e0, e1, e2, e3, e4⟩ := Sys2Proof.Laws.fields31 0x7#6 d a b t 0x0#8
  unfold candidate4
  rw [e0, e1, e2, e3, e4]; rfl

theorem Sys2Proof.Laws.Encoding.vtanh (d : BitVec 5) (a : BitVec 5) (t : BitVec 3) : Sys2Proof.Laws.Encoding.Statement (.vtanh d a t) := by
  intro _
  show candidate4 (0x8#6 ++ d ++ a ++ 0x0#5 ++ t ++ 0x0#8) = _
  obtain ⟨e0, e1, e2, e3⟩ := Sys2Proof.Laws.fields33 0x8#6 d a 0x0#5 t 0x0#8
  unfold candidate4
  rw [e0, e1, e2, e3]; rfl

theorem Sys2Proof.Laws.Encoding.vsigm (d : BitVec 5) (a : BitVec 5) (t : BitVec 3) : Sys2Proof.Laws.Encoding.Statement (.vsigm d a t) := by
  intro _
  show candidate4 (0x9#6 ++ d ++ a ++ 0x0#5 ++ t ++ 0x0#8) = _
  obtain ⟨e0, e1, e2, e3⟩ := Sys2Proof.Laws.fields33 0x9#6 d a 0x0#5 t 0x0#8
  unfold candidate4
  rw [e0, e1, e2, e3]; rfl

theorem Sys2Proof.Laws.Encoding.vredsum (d : BitVec 5) (a : BitVec 5) (t : BitVec 3) : Sys2Proof.Laws.Encoding.Statement (.vredsum d a t) := by
  intro _
  show candidate4 (0xA#6 ++ d ++ a ++ 0x0#5 ++ t ++ 0x0#8) = _
  obtain ⟨e0, e1, e2, e3⟩ := Sys2Proof.Laws.fields33 0xA#6 d a 0x0#5 t 0x0#8
  unfold candidate4
  rw [e0, e1, e2, e3]; rfl

theorem Sys2Proof.Laws.Encoding.vredmax (d : BitVec 5) (a : BitVec 5) (t : BitVec 3) : Sys2Proof.Laws.Encoding.Statement (.vredmax d a t) := by
  intro _
  show candidate4 (0xB#6 ++ d ++ a ++ 0x0#5 ++ t ++ 0x0#8) = _
  obtain ⟨e0, e1, e2, e3⟩ := Sys2Proof.Laws.fields33 0xB#6 d a 0x0#5 t 0x0#8
  unfold candidate4
  rw [e0, e1, e2, e3]; rfl

theorem Sys2Proof.Laws.Encoding.vredmin (d : BitVec 5) (a : BitVec 5) (t : BitVec 3) : Sys2Proof.Laws.Encoding.Statement (.vredmin d a t) := by
  intro _
  show candidate4 (0xC#6 ++ d ++ a ++ 0x0#5 ++ t ++ 0x0#8) = _
  obtain ⟨e0, e1, e2, e3⟩ := Sys2Proof.Laws.fields33 0xC#6 d a 0x0#5 t 0x0#8
  unfold candidate4
  rw [e0, e1, e2, e3]; rfl

theorem Sys2Proof.Laws.Encoding.vscan (d : BitVec 5) (a : BitVec 5) (t : BitVec 3) : Sys2Proof.Laws.Encoding.Statement (.vscan d a t) := by
  intro _
  show candidate4 (0xD#6 ++ d ++ a ++ 0x0#5 ++ t ++ 0x0#8) = _
  obtain ⟨e0, e1, e2, e3⟩ := Sys2Proof.Laws.fields33 0xD#6 d a 0x0#5 t 0x0#8
  unfold candidate4
  rw [e0, e1, e2, e3]; rfl

theorem Sys2Proof.Laws.Encoding.vsortk (d : BitVec 5) (a : BitVec 5) (t : BitVec 3) (c : BitVec 5) : Sys2Proof.Laws.Encoding.Statement (.vsortk d a t c) := by
  intro _
  show candidate4 (0xE#6 ++ d ++ a ++ 0x0#5 ++ t ++ c ++ 0x0#3) = _
  obtain ⟨e0, e1, e2, e3, e4⟩ := Sys2Proof.Laws.fields44 0xE#6 d a 0x0#5 t c 0x0#3
  unfold candidate4
  rw [e0, e1, e2, e3, e4]; rfl

theorem Sys2Proof.Laws.Encoding.vperm (d : BitVec 5) (a : BitVec 5) (b : BitVec 5) (t : BitVec 3) : Sys2Proof.Laws.Encoding.Statement (.vperm d a b t) := by
  intro _
  show candidate4 (0xF#6 ++ d ++ a ++ b ++ t ++ 0x0#8) = _
  obtain ⟨e0, e1, e2, e3, e4⟩ := Sys2Proof.Laws.fields31 0xF#6 d a b t 0x0#8
  unfold candidate4
  rw [e0, e1, e2, e3, e4]; rfl

theorem Sys2Proof.Laws.Encoding.vrotl (d : BitVec 5) (a : BitVec 5) (t : BitVec 3) (l : BitVec 7) : Sys2Proof.Laws.Encoding.Statement (.vrotl d a t l) := by
  intro _
  show candidate4 (0x10#6 ++ d ++ a ++ 0x0#5 ++ t ++ l ++ 0x0#1) = _
  obtain ⟨e0, e1, e2, e3, e4⟩ := Sys2Proof.Laws.fields38 0x10#6 d a 0x0#5 t l 0x0#1
  unfold candidate4
  rw [e0, e1, e2, e3, e4]; rfl

theorem Sys2Proof.Laws.Encoding.vpack (d : BitVec 5) (a : BitVec 5) (b : BitVec 5) (t : BitVec 3) (s : BitVec 3) (q : BitVec 1) : Sys2Proof.Laws.Encoding.Statement (.vpack d a b t s q) := by
  intro _
  show candidate4 (0x11#6 ++ d ++ a ++ b ++ t ++ s ++ 0x0#1 ++ q ++ 0x0#3) = _
  obtain ⟨e0, e1, e2, e3, e4, e5, e6⟩ := Sys2Proof.Laws.fields45 0x11#6 d a b t s 0x0#1 q 0x0#3
  unfold candidate4
  rw [e0, e1, e2, e3, e4, e5, e6]; rfl

theorem Sys2Proof.Laws.Encoding.vunpack (d : BitVec 5) (a : BitVec 5) (t : BitVec 3) (s : BitVec 3) (h : BitVec 1) (q : BitVec 1) : Sys2Proof.Laws.Encoding.Statement (.vunpack d a t s h q) := by
  intro _
  show candidate4 (0x12#6 ++ d ++ a ++ 0x0#5 ++ t ++ s ++ h ++ q ++ 0x0#3) = _
  obtain ⟨e0, e1, e2, e3, e4, e5, e6⟩ := Sys2Proof.Laws.fields46 0x12#6 d a 0x0#5 t s h q 0x0#3
  unfold candidate4
  rw [e0, e1, e2, e3, e4, e5, e6]; rfl

theorem Sys2Proof.Laws.Encoding.vrnd (d : BitVec 5) (a : BitVec 5) (b : BitVec 5) (t : BitVec 3) : Sys2Proof.Laws.Encoding.Statement (.vrnd d a b t) := by
  intro _
  show candidate4 (0x13#6 ++ d ++ a ++ b ++ t ++ 0x0#8) = _
  obtain ⟨e0, e1, e2, e3, e4⟩ := Sys2Proof.Laws.fields31 0x13#6 d a b t 0x0#8
  unfold candidate4
  rw [e0, e1, e2, e3, e4]; rfl

theorem Sys2Proof.Laws.Encoding.vbVfma (d : BitVec 5) (a : BitVec 5) (b : BitVec 5) (t : BitVec 3) (c : BitVec 5) : Sys2Proof.Laws.Encoding.Statement (.vbVfma d a b t c) := by
  intro _
  show candidate4 (0x14#6 ++ d ++ a ++ b ++ t ++ c ++ 0x0#3) = _
  obtain ⟨e0, e1, e2, e3, e4, e5⟩ := Sys2Proof.Laws.fields32 0x14#6 d a b t c 0x0#3
  unfold candidate4
  rw [e0, e1, e2, e3, e4, e5]; rfl

theorem Sys2Proof.Laws.Encoding.vbVadd (d : BitVec 5) (a : BitVec 5) (b : BitVec 5) (t : BitVec 3) : Sys2Proof.Laws.Encoding.Statement (.vbVadd d a b t) := by
  intro _
  show candidate4 (0x15#6 ++ d ++ a ++ b ++ t ++ 0x0#8) = _
  obtain ⟨e0, e1, e2, e3, e4⟩ := Sys2Proof.Laws.fields31 0x15#6 d a b t 0x0#8
  unfold candidate4
  rw [e0, e1, e2, e3, e4]; rfl

theorem Sys2Proof.Laws.Encoding.vbVmul (d : BitVec 5) (a : BitVec 5) (b : BitVec 5) (t : BitVec 3) : Sys2Proof.Laws.Encoding.Statement (.vbVmul d a b t) := by
  intro _
  show candidate4 (0x16#6 ++ d ++ a ++ b ++ t ++ 0x0#8) = _
  obtain ⟨e0, e1, e2, e3, e4⟩ := Sys2Proof.Laws.fields31 0x16#6 d a b t 0x0#8
  unfold candidate4
  rw [e0, e1, e2, e3, e4]; rfl

theorem Sys2Proof.Laws.Encoding.vld (v : BitVec 5) (e : BitVec 4) (x : BitVec 6) (l : BitVec 2) (i : BitVec 5) : Sys2Proof.Laws.Encoding.Statement (.vld v e x l i) := by
  intro _
  show candidate5 (0x1#6 ++ v ++ e ++ x ++ l ++ 0x0#4 ++ i) = _
  obtain ⟨e0, e1, e2, e3, e4, e5⟩ := Sys2Proof.Laws.fields47 0x1#6 v e x l 0x0#4 i
  unfold candidate5
  rw [e0, e1, e2, e3, e4, e5]; rfl

theorem Sys2Proof.Laws.Encoding.vst (v : BitVec 5) (e : BitVec 4) (x : BitVec 6) (l : BitVec 2) (g : BitVec 1) (m : BitVec 3) (i : BitVec 5) : Sys2Proof.Laws.Encoding.Statement (.vst v e x l g m i) := by
  intro _
  show candidate5 (0x2#6 ++ v ++ e ++ x ++ l ++ g ++ m ++ i) = _
  obtain ⟨e0, e1, e2, e3, e4, e5, e6, e7⟩ := Sys2Proof.Laws.fields48 0x2#6 v e x l g m i
  unfold candidate5
  rw [e0, e1, e2, e3, e4, e5, e6, e7]; rfl

theorem Sys2Proof.Laws.Encoding.vlds (v : BitVec 5) (e : BitVec 4) (x : BitVec 6) (l : BitVec 2) (z : BitVec 2) : Sys2Proof.Laws.Encoding.Statement (.vlds v e x l z) := by
  intro _
  show candidate5 (0x3#6 ++ v ++ e ++ x ++ l ++ 0x0#4 ++ z ++ 0x0#3) = _
  obtain ⟨e0, e1, e2, e3, e4, e5⟩ := Sys2Proof.Laws.fields49 0x3#6 v e x l 0x0#4 z 0x0#3
  unfold candidate5
  rw [e0, e1, e2, e3, e4, e5]; rfl

theorem Sys2Proof.Laws.Encoding.vsts (v : BitVec 5) (e : BitVec 4) (x : BitVec 6) (l : BitVec 2) (g : BitVec 1) (m : BitVec 3) (z : BitVec 2) : Sys2Proof.Laws.Encoding.Statement (.vsts v e x l g m z) := by
  intro _
  show candidate5 (0x4#6 ++ v ++ e ++ x ++ l ++ g ++ m ++ z ++ 0x0#3) = _
  obtain ⟨e0, e1, e2, e3, e4, e5, e6, e7⟩ := Sys2Proof.Laws.fields50 0x4#6 v e x l g m z 0x0#3
  unfold candidate5
  rw [e0, e1, e2, e3, e4, e5, e6, e7]; rfl

theorem Sys2Proof.Laws.Encoding.vgath (v : BitVec 5) (e : BitVec 4) (x : BitVec 6) (l : BitVec 2) (b : BitVec 5) : Sys2Proof.Laws.Encoding.Statement (.vgath v e x l b) := by
  intro _
  show candidate5 (0x5#6 ++ v ++ e ++ x ++ l ++ 0x0#4 ++ b) = _
  obtain ⟨e0, e1, e2, e3, e4, e5⟩ := Sys2Proof.Laws.fields47 0x5#6 v e x l 0x0#4 b
  unfold candidate5
  rw [e0, e1, e2, e3, e4, e5]; rfl

theorem Sys2Proof.Laws.Encoding.vscat (v : BitVec 5) (e : BitVec 4) (x : BitVec 6) (l : BitVec 2) (g : BitVec 1) (m : BitVec 3) (b : BitVec 5) : Sys2Proof.Laws.Encoding.Statement (.vscat v e x l g m b) := by
  intro _
  show candidate5 (0x6#6 ++ v ++ e ++ x ++ l ++ g ++ m ++ b) = _
  obtain ⟨e0, e1, e2, e3, e4, e5, e6, e7⟩ := Sys2Proof.Laws.fields48 0x6#6 v e x l g m b
  unfold candidate5
  rw [e0, e1, e2, e3, e4, e5, e6, e7]; rfl

theorem Sys2Proof.Laws.Encoding.vldb (d : BitVec 5) (e : BitVec 4) (x : BitVec 6) (l : BitVec 2) (z : BitVec 2) (i : BitVec 7) : Sys2Proof.Laws.Encoding.Statement (.vldb d e x l z i) := by
  intro _
  show candidate5 (0x7#6 ++ d ++ e ++ x ++ l ++ z ++ i) = _
  obtain ⟨e0, e1, e2, e3, e4, e5, e6⟩ := Sys2Proof.Laws.fields51 0x7#6 d e x l z i
  unfold candidate5
  rw [e0, e1, e2, e3, e4, e5, e6]; rfl

theorem Sys2Proof.Laws.Encoding.tcfg (t : BitVec 3) (s : BitVec 8) : Sys2Proof.Laws.Encoding.Statement (.tcfg t s) := by
  intro _
  show candidate5 (0x10#6 ++ t ++ s ++ 0x0#15) = _
  obtain ⟨e0, e1, e2⟩ := Sys2Proof.Laws.fields52 0x10#6 t s 0x0#15
  unfold candidate5
  rw [e0, e1, e2]; rfl

theorem Sys2Proof.Laws.Encoding.tld (t : BitVec 3) (e : BitVec 4) (x : BitVec 6) (l : BitVec 2) : Sys2Proof.Laws.Encoding.Statement (.tld t e x l) := by
  intro _
  show candidate5 (0x11#6 ++ t ++ e ++ x ++ l ++ 0x0#11) = _
  obtain ⟨e0, e1, e2, e3, e4⟩ := Sys2Proof.Laws.fields53 0x11#6 t e x l 0x0#11
  unfold candidate5
  rw [e0, e1, e2, e3, e4]; rfl

theorem Sys2Proof.Laws.Encoding.tst (t : BitVec 3) (e : BitVec 4) (x : BitVec 6) (l : BitVec 2) : Sys2Proof.Laws.Encoding.Statement (.tst t e x l) := by
  intro _
  show candidate5 (0x12#6 ++ t ++ e ++ x ++ l ++ 0x0#11) = _
  obtain ⟨e0, e1, e2, e3, e4⟩ := Sys2Proof.Laws.fields53 0x12#6 t e x l 0x0#11
  unfold candidate5
  rw [e0, e1, e2, e3, e4]; rfl

theorem Sys2Proof.Laws.Encoding.trowv (v : BitVec 5) (t : BitVec 3) (i : BitVec 4) (h : BitVec 1) : Sys2Proof.Laws.Encoding.Statement (.trowv v t i h) := by
  intro _
  show candidate5 (0x13#6 ++ v ++ t ++ i ++ h ++ 0x0#13) = _
  obtain ⟨e0, e1, e2, e3, e4⟩ := Sys2Proof.Laws.fields54 0x13#6 v t i h 0x0#13
  unfold candidate5
  rw [e0, e1, e2, e3, e4]; rfl

theorem Sys2Proof.Laws.Encoding.tvrow (v : BitVec 5) (t : BitVec 3) (i : BitVec 4) (h : BitVec 1) : Sys2Proof.Laws.Encoding.Statement (.tvrow v t i h) := by
  intro _
  show candidate5 (0x14#6 ++ v ++ t ++ i ++ h ++ 0x0#13) = _
  obtain ⟨e0, e1, e2, e3, e4⟩ := Sys2Proof.Laws.fields54 0x14#6 v t i h 0x0#13
  unfold candidate5
  rw [e0, e1, e2, e3, e4]; rfl

theorem Sys2Proof.Laws.Encoding.tcolv (v : BitVec 5) (t : BitVec 3) (i : BitVec 4) (h : BitVec 1) : Sys2Proof.Laws.Encoding.Statement (.tcolv v t i h) := by
  intro _
  show candidate5 (0x15#6 ++ v ++ t ++ i ++ h ++ 0x0#13) = _
  obtain ⟨e0, e1, e2, e3, e4⟩ := Sys2Proof.Laws.fields54 0x15#6 v t i h 0x0#13
  unfold candidate5
  rw [e0, e1, e2, e3, e4]; rfl

theorem Sys2Proof.Laws.Encoding.tvcol (v : BitVec 5) (t : BitVec 3) (i : BitVec 4) (h : BitVec 1) : Sys2Proof.Laws.Encoding.Statement (.tvcol v t i h) := by
  intro _
  show candidate5 (0x16#6 ++ v ++ t ++ i ++ h ++ 0x0#13) = _
  obtain ⟨e0, e1, e2, e3, e4⟩ := Sys2Proof.Laws.fields54 0x16#6 v t i h 0x0#13
  unfold candidate5
  rw [e0, e1, e2, e3, e4]; rfl

theorem Sys2Proof.Laws.Encoding.tzero (t : BitVec 3) : Sys2Proof.Laws.Encoding.Statement (.tzero t) := by
  intro _
  show candidate5 (0x17#6 ++ t ++ 0x0#23) = _
  obtain ⟨e0, e1⟩ := Sys2Proof.Laws.fields55 0x17#6 t 0x0#23
  unfold candidate5
  rw [e0, e1]; rfl

theorem Sys2Proof.Laws.Encoding.tsave (t : BitVec 3) (e : BitVec 4) (x : BitVec 6) : Sys2Proof.Laws.Encoding.Statement (.tsave t e x) := by
  intro _
  show candidate5 (0x18#6 ++ t ++ e ++ x ++ 0x0#13) = _
  obtain ⟨e0, e1, e2, e3⟩ := Sys2Proof.Laws.fields56 0x18#6 t e x 0x0#13
  unfold candidate5
  rw [e0, e1, e2, e3]; rfl

theorem Sys2Proof.Laws.Encoding.trest (t : BitVec 3) (e : BitVec 4) (x : BitVec 6) : Sys2Proof.Laws.Encoding.Statement (.trest t e x) := by
  intro _
  show candidate5 (0x19#6 ++ t ++ e ++ x ++ 0x0#13) = _
  obtain ⟨e0, e1, e2, e3⟩ := Sys2Proof.Laws.fields56 0x19#6 t e x 0x0#13
  unfold candidate5
  rw [e0, e1, e2, e3]; rfl

theorem Sys2Proof.Laws.Encoding.mnest (k : BitVec 1) (l : BitVec 3) (f : BitVec 3) (a : BitVec 6) : Sys2Proof.Laws.Encoding.Statement (.mnest k l f a) := by
  intro _
  show candidate6 (0x1#6 ++ k ++ l ++ f ++ a ++ 0x0#13) = _
  obtain ⟨e0, e1, e2, e3, e4⟩ := Sys2Proof.Laws.fields57 0x1#6 k l f a 0x0#13
  unfold candidate6
  rw [e0, e1, e2, e3, e4]; rfl

theorem Sys2Proof.Laws.Encoding.mfmt (e : BitVec 4) (f : BitVec 4) (a : BitVec 6) : Sys2Proof.Laws.Encoding.Statement (.mfmt e f a) := by
  intro _
  show candidate6 (0x2#6 ++ e ++ f ++ a ++ 0x0#12) = _
  obtain ⟨e0, e1, e2, e3⟩ := Sys2Proof.Laws.fields58 0x2#6 e f a 0x0#12
  unfold candidate6
  rw [e0, e1, e2, e3]; rfl

theorem Sys2Proof.Laws.Encoding.mspar (a : BitVec 6) : Sys2Proof.Laws.Encoding.Statement (.mspar a) := by
  intro _
  show candidate6 (0x3#6 ++ a ++ 0x0#20) = _
  obtain ⟨e0, e1, e2⟩ := Sys2Proof.Laws.fields59 0x3#6 a 0x0#20
  unfold candidate6
  rw [e0, e1, e2]; rfl

theorem Sys2Proof.Laws.Encoding.msparOff : Sys2Proof.Laws.Encoding.Statement .msparOff :=
  fun _ => rfl

theorem Sys2Proof.Laws.Encoding.mtree (a : BitVec 6) : Sys2Proof.Laws.Encoding.Statement (.mtree a) := by
  intro _
  show candidate6 (0x4#6 ++ a ++ 0x0#20) = _
  obtain ⟨e0, e1, e2⟩ := Sys2Proof.Laws.fields59 0x4#6 a 0x0#20
  unfold candidate6
  rw [e0, e1, e2]; rfl

theorem Sys2Proof.Laws.Encoding.mtreeOff : Sys2Proof.Laws.Encoding.Statement .mtreeOff :=
  fun _ => rfl

theorem Sys2Proof.Laws.Encoding.msel (c : BitVec 2) (m : BitVec 1) (f : BitVec 3) : Sys2Proof.Laws.Encoding.Statement (.msel c m f) := by
  intro _
  show candidate6 (0x5#6 ++ 0x1#1 ++ c ++ m ++ f ++ 0x0#19) = _
  obtain ⟨e0, e1, e2, e3, e4⟩ := Sys2Proof.Laws.fields60 0x5#6 0x1#1 c m f 0x0#19
  unfold candidate6
  rw [e0, e1, e2, e3, e4]; rfl

theorem Sys2Proof.Laws.Encoding.mselOff : Sys2Proof.Laws.Encoding.Statement .mselOff :=
  fun _ => rfl

theorem Sys2Proof.Laws.Encoding.mgo (b : BitVec 1) : Sys2Proof.Laws.Encoding.Statement (.mgo b) := by
  intro _
  show candidate6 (0x6#6 ++ b ++ 0x0#25) = _
  obtain ⟨e0, e1⟩ := Sys2Proof.Laws.fields61 0x6#6 b 0x0#25
  unfold candidate6
  rw [e0, e1]; rfl

theorem Sys2Proof.Laws.Encoding.macc (c : BitVec 2) (r : BitVec 6) (a : BitVec 6) (f : BitVec 3) (m : BitVec 1) : Sys2Proof.Laws.Encoding.Statement (.macc c r a f m) := by
  intro _
  show candidate6 (0x7#6 ++ c ++ r ++ a ++ f ++ m ++ 0x0#8) = _
  obtain ⟨e0, e1, e2, e3, e4, e5⟩ := Sys2Proof.Laws.fields62 0x7#6 c r a f m 0x0#8
  unfold candidate6
  rw [e0, e1, e2, e3, e4, e5]; rfl

theorem Sys2Proof.Laws.Encoding.mzero (m : BitVec 4) : Sys2Proof.Laws.Encoding.Statement (.mzero m) := by
  intro _
  show candidate6 (0x8#6 ++ m ++ 0x0#22) = _
  obtain ⟨e0, e1⟩ := Sys2Proof.Laws.fields6 0x8#6 m 0x0#22
  unfold candidate6
  rw [e0, e1]; rfl

theorem Sys2Proof.Laws.Encoding.mret (c : BitVec 2) (a : BitVec 6) (f : BitVec 3) (m : BitVec 1) : Sys2Proof.Laws.Encoding.Statement (.mret c a f m) := by
  intro _
  show candidate6 (0x9#6 ++ c ++ 0x0#6 ++ a ++ f ++ m ++ 0x0#8) = _
  obtain ⟨e0, e1, e2, e3, e4⟩ := Sys2Proof.Laws.fields63 0x9#6 c 0x0#6 a f m 0x0#8
  unfold candidate6
  rw [e0, e1, e2, e3, e4]; rfl

theorem Sys2Proof.Laws.Encoding.mstat (a : BitVec 6) : Sys2Proof.Laws.Encoding.Statement (.mstat a) := by
  intro _
  show candidate6 (0xA#6 ++ 0x0#8 ++ a ++ 0x0#12) = _
  obtain ⟨e0, e1⟩ := Sys2Proof.Laws.fields64 0xA#6 0x0#8 a 0x0#12
  unfold candidate6
  rw [e0, e1]; rfl

theorem Sys2Proof.Laws.Encoding.mabort : Sys2Proof.Laws.Encoding.Statement .mabort :=
  fun _ => rfl

theorem Sys2Proof.Laws.Encoding.mrest : Sys2Proof.Laws.Encoding.Statement .mrest :=
  fun _ => rfl

theorem Sys2Proof.Laws.Encoding.cpy (f : BitVec 1) (e : BitVec 4) (l : BitVec 6) (x : BitVec 6) (n : BitVec 6) (y : BitVec 2) : Sys2Proof.Laws.Encoding.Statement (.cpy f e l x n y) := by
  intro _
  show candidate7 (0x1#6 ++ f ++ e ++ l ++ x ++ n ++ y ++ 0x0#1) = _
  obtain ⟨e0, e1, e2, e3, e4, e5, e6⟩ := Sys2Proof.Laws.fields65 0x1#6 f e l x n y 0x0#1
  unfold candidate7
  rw [e0, e1, e2, e3, e4, e5, e6]; rfl

theorem Sys2Proof.Laws.Encoding.cpy2 (f : BitVec 1) (e : BitVec 4) (l : BitVec 6) (x : BitVec 6) (n : BitVec 6) (y : BitVec 2) : Sys2Proof.Laws.Encoding.Statement (.cpy2 f e l x n y) := by
  intro _
  show candidate7 (0x2#6 ++ f ++ e ++ l ++ x ++ n ++ y ++ 0x0#1) = _
  obtain ⟨e0, e1, e2, e3, e4, e5, e6⟩ := Sys2Proof.Laws.fields65 0x2#6 f e l x n y 0x0#1
  unfold candidate7
  rw [e0, e1, e2, e3, e4, e5, e6]; rfl

theorem Sys2Proof.Laws.Encoding.mwait (p : BitVec 7) : Sys2Proof.Laws.Encoding.Statement (.mwait p) := by
  intro _
  show candidate7 (0x3#6 ++ p ++ 0x0#19) = _
  obtain ⟨e0, e1⟩ := Sys2Proof.Laws.fields66 0x3#6 p 0x0#19
  unfold candidate7
  rw [e0, e1]; rfl

theorem Sys2Proof.Laws.Encoding.cflush (e : BitVec 4) (x : BitVec 6) (n : BitVec 6) : Sys2Proof.Laws.Encoding.Statement (.cflush e x n) := by
  intro _
  show candidate7 (0x4#6 ++ e ++ x ++ n ++ 0x0#10) = _
  obtain ⟨e0, e1, e2, e3⟩ := Sys2Proof.Laws.fields67 0x4#6 e x n 0x0#10
  unfold candidate7
  rw [e0, e1, e2, e3]; rfl

theorem Sys2Proof.Laws.Encoding.cinv (e : BitVec 4) (x : BitVec 6) (n : BitVec 6) : Sys2Proof.Laws.Encoding.Statement (.cinv e x n) := by
  intro _
  show candidate7 (0x5#6 ++ e ++ x ++ n ++ 0x0#10) = _
  obtain ⟨e0, e1, e2, e3⟩ := Sys2Proof.Laws.fields67 0x5#6 e x n 0x0#10
  unfold candidate7
  rw [e0, e1, e2, e3]; rfl

theorem Sys2Proof.Laws.Encoding.send (l : BitVec 2) (a : BitVec 5) (r : BitVec 7) (s : BitVec 6) : Sys2Proof.Laws.Encoding.Statement (.send l a r s) := by
  intro _
  show candidate7 (0x6#6 ++ l ++ a ++ r ++ s ++ 0x0#6) = _
  obtain ⟨e0, e1, e2, e3, e4⟩ := Sys2Proof.Laws.fields68 0x6#6 l a r s 0x0#6
  unfold candidate7
  rw [e0, e1, e2, e3, e4]; rfl

theorem Sys2Proof.Laws.Encoding.recv (l : BitVec 2) (d : BitVec 5) (t : BitVec 16) : Sys2Proof.Laws.Encoding.Statement (.recv l d t) := by
  intro _
  show candidate7 (0x7#6 ++ l ++ d ++ t ++ 0x0#3) = _
  obtain ⟨e0, e1, e2, e3⟩ := Sys2Proof.Laws.fields69 0x7#6 l d t 0x0#3
  unfold candidate7
  rw [e0, e1, e2, e3]; rfl

theorem Sys2Proof.Laws.Encoding.rget (q : BitVec 2) (s : BitVec 8) (k : BitVec 2) : Sys2Proof.Laws.Encoding.Statement (.rget q s k) := by
  intro _
  show candidate7 (0x8#6 ++ q ++ s ++ 0x0#14 ++ k) = _
  obtain ⟨e0, e1, e2, e3⟩ := Sys2Proof.Laws.fields70 0x8#6 q s 0x0#14 k
  unfold candidate7
  rw [e0, e1, e2, e3]; rfl

theorem Sys2Proof.Laws.Encoding.rput (q : BitVec 2) (s : BitVec 8) (v : BitVec 5) (k : BitVec 2) : Sys2Proof.Laws.Encoding.Statement (.rput q s v k) := by
  intro _
  show candidate7 (0x9#6 ++ q ++ s ++ 0x0#1 ++ v ++ 0x0#8 ++ k) = _
  obtain ⟨e0, e1, e2, e3, e4⟩ := Sys2Proof.Laws.fields71 0x9#6 q s 0x0#1 v 0x0#8 k
  unfold candidate7
  rw [e0, e1, e2, e3, e4]; rfl

theorem Sys2Proof.Laws.Encoding.radd (q : BitVec 2) (s : BitVec 8) (o : BitVec 6) (w : BitVec 2) (k : BitVec 2) : Sys2Proof.Laws.Encoding.Statement (.radd q s o w k) := by
  intro _
  show candidate7 (0xA#6 ++ q ++ s ++ o ++ w ++ 0x0#6 ++ k) = _
  obtain ⟨e0, e1, e2, e3, e4, e5⟩ := Sys2Proof.Laws.fields72 0xA#6 q s o w 0x0#6 k
  unfold candidate7
  rw [e0, e1, e2, e3, e4, e5]; rfl

theorem Sys2Proof.Laws.Encoding.rmax (q : BitVec 2) (s : BitVec 8) (o : BitVec 6) (w : BitVec 2) (k : BitVec 2) : Sys2Proof.Laws.Encoding.Statement (.rmax q s o w k) := by
  intro _
  show candidate7 (0xB#6 ++ q ++ s ++ o ++ w ++ 0x0#6 ++ k) = _
  obtain ⟨e0, e1, e2, e3, e4, e5⟩ := Sys2Proof.Laws.fields72 0xB#6 q s o w 0x0#6 k
  unfold candidate7
  rw [e0, e1, e2, e3, e4, e5]; rfl

theorem Sys2Proof.Laws.Encoding.rmin (q : BitVec 2) (s : BitVec 8) (o : BitVec 6) (w : BitVec 2) (k : BitVec 2) : Sys2Proof.Laws.Encoding.Statement (.rmin q s o w k) := by
  intro _
  show candidate7 (0xC#6 ++ q ++ s ++ o ++ w ++ 0x0#6 ++ k) = _
  obtain ⟨e0, e1, e2, e3, e4, e5⟩ := Sys2Proof.Laws.fields72 0xC#6 q s o w 0x0#6 k
  unfold candidate7
  rw [e0, e1, e2, e3, e4, e5]; rfl

theorem Sys2Proof.Laws.Encoding.rand (q : BitVec 2) (s : BitVec 8) (o : BitVec 6) (w : BitVec 2) (k : BitVec 2) : Sys2Proof.Laws.Encoding.Statement (.rand q s o w k) := by
  intro _
  show candidate7 (0xD#6 ++ q ++ s ++ o ++ w ++ 0x0#6 ++ k) = _
  obtain ⟨e0, e1, e2, e3, e4, e5⟩ := Sys2Proof.Laws.fields72 0xD#6 q s o w 0x0#6 k
  unfold candidate7
  rw [e0, e1, e2, e3, e4, e5]; rfl

theorem Sys2Proof.Laws.Encoding.ror (q : BitVec 2) (s : BitVec 8) (o : BitVec 6) (w : BitVec 2) (k : BitVec 2) : Sys2Proof.Laws.Encoding.Statement (.ror q s o w k) := by
  intro _
  show candidate7 (0xE#6 ++ q ++ s ++ o ++ w ++ 0x0#6 ++ k) = _
  obtain ⟨e0, e1, e2, e3, e4, e5⟩ := Sys2Proof.Laws.fields72 0xE#6 q s o w 0x0#6 k
  unfold candidate7
  rw [e0, e1, e2, e3, e4, e5]; rfl

theorem Sys2Proof.Laws.Encoding.rcas (q : BitVec 2) (s : BitVec 8) (o : BitVec 6) (w : BitVec 2) (c : BitVec 6) (k : BitVec 2) : Sys2Proof.Laws.Encoding.Statement (.rcas q s o w c k) := by
  intro _
  show candidate7 (0xF#6 ++ q ++ s ++ o ++ w ++ c ++ k) = _
  obtain ⟨e0, e1, e2, e3, e4, e5, e6⟩ := Sys2Proof.Laws.fields73 0xF#6 q s o w c k
  unfold candidate7
  rw [e0, e1, e2, e3, e4, e5, e6]; rfl

theorem Sys2Proof.Laws.Encoding.rboard (q : BitVec 2) (s : BitVec 8) (v : BitVec 5) (k : BitVec 2) : Sys2Proof.Laws.Encoding.Statement (.rboard q s v k) := by
  intro _
  show candidate7 (0x10#6 ++ q ++ s ++ 0x0#1 ++ v ++ 0x0#8 ++ k) = _
  obtain ⟨e0, e1, e2, e3, e4⟩ := Sys2Proof.Laws.fields71 0x10#6 q s 0x0#1 v 0x0#8 k
  unfold candidate7
  rw [e0, e1, e2, e3, e4]; rfl

theorem Sys2Proof.Laws.Encoding.ralight (q : BitVec 2) (s : BitVec 8) (k : BitVec 2) : Sys2Proof.Laws.Encoding.Statement (.ralight q s k) := by
  intro _
  show candidate7 (0x11#6 ++ q ++ s ++ 0x0#14 ++ k) = _
  obtain ⟨e0, e1, e2, e3⟩ := Sys2Proof.Laws.fields70 0x11#6 q s 0x0#14 k
  unfold candidate7
  rw [e0, e1, e2, e3]; rfl

theorem Sys2Proof.Laws.Encoding.rcol (d : BitVec 6) (q : BitVec 2) (w : BitVec 2) : Sys2Proof.Laws.Encoding.Statement (.rcol d q w) := by
  intro _
  show candidate7 (0x12#6 ++ d ++ q ++ w ++ 0x0#16) = _
  obtain ⟨e0, e1, e2, e3, e4⟩ := Sys2Proof.Laws.fields74 0x12#6 d q w 0x0#16
  unfold candidate7
  rw [e0, e1, e2, e3, e4]; rfl

theorem Sys2Proof.Laws.Encoding.rcolRev (d : BitVec 6) (q : BitVec 2) : Sys2Proof.Laws.Encoding.Statement (.rcolRev d q) := by
  intro _
  show candidate7 (0x12#6 ++ d ++ q ++ 0x8000#18) = _
  obtain ⟨e0, e1, e2, e3⟩ := Sys2Proof.Laws.fields75 0x12#6 d q 0x8000#18
  unfold candidate7
  rw [e0, e1, e2, e3]; rfl

theorem Sys2Proof.Laws.Encoding.gpass (d : BitVec 4) (s : BitVec 4) (o : BitVec 6) (p : BitVec 6) (n : BitVec 6) : Sys2Proof.Laws.Encoding.Statement (.gpass d s o p n) := by
  intro _
  show candidate7 (0x13#6 ++ d ++ s ++ o ++ p ++ n) = _
  obtain ⟨e0, e1, e2, e3, e4, e5⟩ := Sys2Proof.Laws.fields76 0x13#6 d s o p n
  unfold candidate7
  rw [e0, e1, e2, e3, e4, e5]; rfl

theorem Sys2Proof.Laws.Encoding.kvcommit (e : BitVec 4) (p : BitVec 6) (n : BitVec 6) : Sys2Proof.Laws.Encoding.Statement (.kvcommit e p n) := by
  intro _
  show candidate7 (0x14#6 ++ e ++ p ++ n ++ 0x0#10) = _
  obtain ⟨e0, e1, e2, e3⟩ := Sys2Proof.Laws.fields67 0x14#6 e p n 0x0#10
  unfold candidate7
  rw [e0, e1, e2, e3]; rfl

theorem Sys2Proof.Laws.Encoding.coll (e : BitVec 4) (p : BitVec 6) (o : BitVec 3) (t : BitVec 2) : Sys2Proof.Laws.Encoding.Statement (.coll e p o t) := by
  intro _
  show candidate7 (0x15#6 ++ e ++ p ++ o ++ t ++ 0x0#11) = _
  obtain ⟨e0, e1, e2, e3, e4⟩ := Sys2Proof.Laws.fields77 0x15#6 e p o t 0x0#11
  unfold candidate7
  rw [e0, e1, e2, e3, e4]; rfl

theorem Sys2Proof.Laws.Encoding.cwait (d : BitVec 6) : Sys2Proof.Laws.Encoding.Statement (.cwait d) := by
  intro _
  show candidate7 (0x16#6 ++ d ++ 0x0#20) = _
  obtain ⟨e0, e1⟩ := Sys2Proof.Laws.fields3 0x16#6 d 0x0#20
  unfold candidate7
  rw [e0, e1]; rfl

theorem Sys2Proof.Laws.Encoding.fxcall (d : BitVec 5) (a : BitVec 5) (i : BitVec 8) (f : BitVec 4) : Sys2Proof.Laws.Encoding.Statement (.fxcall d a i f) := by
  intro _
  show candidate7 (0x17#6 ++ d ++ a ++ i ++ f ++ 0x0#4) = _
  obtain ⟨e0, e1, e2, e3, e4⟩ := Sys2Proof.Laws.fields78 0x17#6 d a i f 0x0#4
  unfold candidate7
  rw [e0, e1, e2, e3, e4]; rfl

theorem Sys2Proof.Laws.Encoding.iload (e : BitVec 4) (x : BitVec 6) (c : BitVec 6) (n : BitVec 6) : Sys2Proof.Laws.Encoding.Statement (.iload e x c n) := by
  intro _
  show candidate7 (0x18#6 ++ e ++ x ++ c ++ n ++ 0x0#4) = _
  obtain ⟨e0, e1, e2, e3, e4⟩ := Sys2Proof.Laws.fields79 0x18#6 e x c n 0x0#4
  unfold candidate7
  rw [e0, e1, e2, e3, e4]; rfl

theorem Sys2Proof.Laws.Encoding.ovpload (e : BitVec 4) (x : BitVec 6) (c : BitVec 6) : Sys2Proof.Laws.Encoding.Statement (.ovpload e x c) := by
  intro _
  show candidate7 (0x19#6 ++ e ++ x ++ c ++ 0x0#10) = _
  obtain ⟨e0, e1, e2, e3⟩ := Sys2Proof.Laws.fields67 0x19#6 e x c 0x0#10
  unfold candidate7
  rw [e0, e1, e2, e3]; rfl

theorem Sys2Proof.Laws.Encoding.gcommit (c : BitVec 6) : Sys2Proof.Laws.Encoding.Statement (.gcommit c) := by
  intro _
  show candidate7 (0x1A#6 ++ c ++ 0x0#20) = _
  obtain ⟨e0, e1⟩ := Sys2Proof.Laws.fields3 0x1A#6 c 0x0#20
  unfold candidate7
  rw [e0, e1]; rfl

theorem Sys2Proof.Laws.Encoding.dbgrd (d : BitVec 6) (w : BitVec 6) (k : BitVec 2) : Sys2Proof.Laws.Encoding.Statement (.dbgrd d w k) := by
  intro _
  show candidate7 (0x1C#6 ++ d ++ w ++ k ++ 0x0#12) = _
  obtain ⟨e0, e1, e2, e3⟩ := Sys2Proof.Laws.fields80 0x1C#6 d w k 0x0#12
  unfold candidate7
  rw [e0, e1, e2, e3]; rfl

theorem Sys2Proof.Laws.Encoding.pauseExpire (n : Nat) (vl : Nat) : Sys2Proof.Laws.Encoding.Statement (.pauseExpire n vl) :=
  fun h => absurd h (Nat.lt_irrefl 8)

theorem Sys2Proof.Laws.Encoding.linkDown (n : Nat) : Sys2Proof.Laws.Encoding.Statement (.linkDown n) :=
  fun h => absurd h (Nat.lt_irrefl 8)

theorem Sys2Proof.Laws.Encoding.timeFlitQueue : Sys2Proof.Laws.Encoding.Statement (.timeFlitQueue) :=
  fun h => absurd h (Nat.lt_irrefl 8)

theorem Sys2Proof.Laws.Encoding.slewStep : Sys2Proof.Laws.Encoding.Statement (.slewStep) :=
  fun h => absurd h (Nat.lt_irrefl 8)

theorem Sys2Proof.Laws.Encoding.levelChange (coh : Nat) : Sys2Proof.Laws.Encoding.Statement (.levelChange coh) :=
  fun h => absurd h (Nat.lt_irrefl 8)

theorem Sys2Proof.Laws.Encoding.domainReport (n : Nat) : Sys2Proof.Laws.Encoding.Statement (.domainReport n) :=
  fun h => absurd h (Nat.lt_irrefl 8)

theorem Sys2Proof.Laws.Encoding.dispatchWindow : Sys2Proof.Laws.Encoding.Statement (.dispatchWindow) :=
  fun h => absurd h (Nat.lt_irrefl 8)

theorem Sys2Proof.Laws.Encoding.taskStart (task : Nat) : Sys2Proof.Laws.Encoding.Statement (.taskStart task) :=
  fun h => absurd h (Nat.lt_irrefl 8)

theorem Sys2Proof.Laws.Encoding.pboundKill (task : Nat) : Sys2Proof.Laws.Encoding.Statement (.pboundKill task) :=
  fun h => absurd h (Nat.lt_irrefl 8)

theorem Sys2Proof.Laws.Encoding.takeover : Sys2Proof.Laws.Encoding.Statement (.takeover) :=
  fun h => absurd h (Nat.lt_irrefl 8)

theorem Sys2Proof.Laws.Encoding.holdTakeEffect (core : Nat) : Sys2Proof.Laws.Encoding.Statement (.holdTakeEffect core) :=
  fun h => absurd h (Nat.lt_irrefl 8)

theorem Sys2Proof.Laws.Encoding.holdEnd (core : Nat) : Sys2Proof.Laws.Encoding.Statement (.holdEnd core) :=
  fun h => absurd h (Nat.lt_irrefl 8)

theorem Sys2Proof.Laws.Encoding.lockExpire (core : Nat) : Sys2Proof.Laws.Encoding.Statement (.lockExpire core) :=
  fun h => absurd h (Nat.lt_irrefl 8)

theorem Sys2Proof.Laws.Encoding.nestStep (core : Nat) : Sys2Proof.Laws.Encoding.Statement (.nestStep core) :=
  fun h => absurd h (Nat.lt_irrefl 8)

theorem Sys2Proof.Laws.Encoding.rollback (core : Nat) : Sys2Proof.Laws.Encoding.Statement (.rollback core) :=
  fun h => absurd h (Nat.lt_irrefl 8)

theorem Sys2Proof.Laws.Encoding.rollbackResume (core : Nat) : Sys2Proof.Laws.Encoding.Statement (.rollbackResume core) :=
  fun h => absurd h (Nat.lt_irrefl 8)

theorem Sys2Proof.Laws.Encoding.cohortEnd (core : Nat) : Sys2Proof.Laws.Encoding.Statement (.cohortEnd core) :=
  fun h => absurd h (Nat.lt_irrefl 8)

theorem Sys2Proof.Laws.Encoding.ringOpPerform (core : Nat) (q : Nat) : Sys2Proof.Laws.Encoding.Statement (.ringOpPerform core q) :=
  fun h => absurd h (Nat.lt_irrefl 8)

theorem Sys2Proof.Laws.Encoding.ringResultArrive (core : Nat) (q : Nat) : Sys2Proof.Laws.Encoding.Statement (.ringResultArrive core q) :=
  fun h => absurd h (Nat.lt_irrefl 8)

theorem Sys2Proof.Laws.Encoding.roundelScrub (canvas : Nat) (slot : Nat) : Sys2Proof.Laws.Encoding.Statement (.roundelScrub canvas slot) :=
  fun h => absurd h (Nat.lt_irrefl 8)

theorem Sys2Proof.Laws.Encoding.registerWrite (w : RegWrite) : Sys2Proof.Laws.Encoding.Statement (.registerWrite w) :=
  fun h => absurd h (Nat.lt_irrefl 8)

theorem Sys2Proof.Laws.Encoding.packageReset (damaged : List (Nat × Nat)) (failed : BitVec 8) (flit : Bool) : Sys2Proof.Laws.Encoding.Statement (.packageReset damaged failed flit) :=
  fun h => absurd h (Nat.lt_irrefl 8)

theorem Sys2Proof.Laws.Encoding.drbgReseed : Sys2Proof.Laws.Encoding.Statement (.drbgReseed) :=
  fun h => absurd h (Nat.lt_irrefl 8)

theorem Sys2Proof.Laws.Encoding.linkTrain (n : Nat) (ok : Bool) (delay : Nat) : Sys2Proof.Laws.Encoding.Statement (.linkTrain n ok delay) :=
  fun h => absurd h (Nat.lt_irrefl 8)

theorem Sys2Proof.Laws.Encoding.flitSend (n : Nat) (data : Option (Nat × List Byte)) : Sys2Proof.Laws.Encoding.Statement (.flitSend n data) :=
  fun h => absurd h (Nat.lt_irrefl 8)

theorem Sys2Proof.Laws.Encoding.flitReceive (n : Nat) (flit : List Byte) (taken : List Nat) : Sys2Proof.Laws.Encoding.Statement (.flitReceive n flit taken) :=
  fun h => absurd h (Nat.lt_irrefl 8)

theorem Sys2Proof.Laws.Encoding.linkRetrain (n : Nat) (ok : Bool) (crossing : List Nat) : Sys2Proof.Laws.Encoding.Statement (.linkRetrain n ok crossing) :=
  fun h => absurd h (Nat.lt_irrefl 8)

theorem Sys2Proof.Laws.Encoding.gcyalign (who : Nat) (val : BitVec 32) : Sys2Proof.Laws.Encoding.Statement (.gcyalign who val) :=
  fun h => absurd h (Nat.lt_irrefl 8)

theorem Sys2Proof.Laws.Encoding.pwrmap (who : Nat) (c : Nat) (val : BitVec 32) : Sys2Proof.Laws.Encoding.Statement (.pwrmap who c val) :=
  fun h => absurd h (Nat.lt_irrefl 8)

theorem Sys2Proof.Laws.Encoding.regctl (who : Nat) (n : Nat) (val : BitVec 32) : Sys2Proof.Laws.Encoding.Statement (.regctl who n val) :=
  fun h => absurd h (Nat.lt_irrefl 8)

theorem Sys2Proof.Laws.Encoding.powerInterval (n : Nat) (est : List TierEstimate) (power : Nat) : Sys2Proof.Laws.Encoding.Statement (.powerInterval n est power) :=
  fun h => absurd h (Nat.lt_irrefl 8)

theorem Sys2Proof.Laws.Encoding.doorbell (v : Nat) (q : Nat) (val : BitVec 32) : Sys2Proof.Laws.Encoding.Statement (.doorbell v q val) :=
  fun h => absurd h (Nat.lt_irrefl 8)

theorem Sys2Proof.Laws.Encoding.kickmapClear (who : Nat) (w : Nat) (val : Word) : Sys2Proof.Laws.Encoding.Statement (.kickmapClear who w val) :=
  fun h => absurd h (Nat.lt_irrefl 8)

theorem Sys2Proof.Laws.Encoding.lqbaseWrite (v : Nat) (q : Nat) (val : Word) (be : BitVec 8) : Sys2Proof.Laws.Encoding.Statement (.lqbaseWrite v q val be) :=
  fun h => absurd h (Nat.lt_irrefl 8)

theorem Sys2Proof.Laws.Encoding.lqcfgWrite (v : Nat) (q : Nat) (val : BitVec 32) (be : BitVec 4) : Sys2Proof.Laws.Encoding.Statement (.lqcfgWrite v q val be) :=
  fun h => absurd h (Nat.lt_irrefl 8)

theorem Sys2Proof.Laws.Encoding.cqbaseWrite (v : Nat) (val : Word) (be : BitVec 8) : Sys2Proof.Laws.Encoding.Statement (.cqbaseWrite v val be) :=
  fun h => absurd h (Nat.lt_irrefl 8)

theorem Sys2Proof.Laws.Encoding.cqcfgWrite (v : Nat) (val : BitVec 32) (be : BitVec 4) : Sys2Proof.Laws.Encoding.Statement (.cqcfgWrite v val be) :=
  fun h => absurd h (Nat.lt_irrefl 8)

theorem Sys2Proof.Laws.Encoding.cqheadWrite (v : Nat) (val : BitVec 32) : Sys2Proof.Laws.Encoding.Statement (.cqheadWrite v val) :=
  fun h => absurd h (Nat.lt_irrefl 8)

theorem Sys2Proof.Laws.Encoding.completionRecordWrite (v : Nat) : Sys2Proof.Laws.Encoding.Statement (.completionRecordWrite v) :=
  fun h => absurd h (Nat.lt_irrefl 8)

theorem Sys2Proof.Laws.Encoding.vfbindWrite (v : Nat) (val : BitVec 128) : Sys2Proof.Laws.Encoding.Statement (.vfbindWrite v val) :=
  fun h => absurd h (Nat.lt_irrefl 8)

theorem Sys2Proof.Laws.Encoding.s2inv (val : BitVec 128) : Sys2Proof.Laws.Encoding.Statement (.s2inv val) :=
  fun h => absurd h (Nat.lt_irrefl 8)

theorem Sys2Proof.Laws.Encoding.lockedSetWrite (v : Nat) (reg : LockedReg) (w : MaskedWrite) : Sys2Proof.Laws.Encoding.Statement (.lockedSetWrite v reg w) :=
  fun h => absurd h (Nat.lt_irrefl 8)

theorem Sys2Proof.Laws.Encoding.ideStreamLoss (v : Nat) : Sys2Proof.Laws.Encoding.Statement (.ideStreamLoss v) :=
  fun h => absurd h (Nat.lt_irrefl 8)

theorem Sys2Proof.Laws.Encoding.vfFlr (v : Nat) : Sys2Proof.Laws.Encoding.Statement (.vfFlr v) :=
  fun h => absurd h (Nat.lt_irrefl 8)

theorem Sys2Proof.Laws.Encoding.pfReset : Sys2Proof.Laws.Encoding.Statement (.pfReset) :=
  fun h => absurd h (Nat.lt_irrefl 8)

theorem Sys2Proof.Laws.Encoding.vfResetDone (v : Nat) : Sys2Proof.Laws.Encoding.Statement (.vfResetDone v) :=
  fun h => absurd h (Nat.lt_irrefl 8)

theorem Sys2Proof.Laws.Encoding.getTdispVersion (v : Nat) : Sys2Proof.Laws.Encoding.Statement (.getTdispVersion v) :=
  fun h => absurd h (Nat.lt_irrefl 8)

theorem Sys2Proof.Laws.Encoding.getTdispCapabilities (v : Nat) : Sys2Proof.Laws.Encoding.Statement (.getTdispCapabilities v) :=
  fun h => absurd h (Nat.lt_irrefl 8)

theorem Sys2Proof.Laws.Encoding.getDeviceInterfaceState (v : Nat) : Sys2Proof.Laws.Encoding.Statement (.getDeviceInterfaceState v) :=
  fun h => absurd h (Nat.lt_irrefl 8)

theorem Sys2Proof.Laws.Encoding.lockInterfaceRequest (v : Nat) (flags : BitVec 16) : Sys2Proof.Laws.Encoding.Statement (.lockInterfaceRequest v flags) :=
  fun h => absurd h (Nat.lt_irrefl 8)

theorem Sys2Proof.Laws.Encoding.getDeviceInterfaceReport (v : Nat) (offset : BitVec 16) (length : BitVec 16) : Sys2Proof.Laws.Encoding.Statement (.getDeviceInterfaceReport v offset length) :=
  fun h => absurd h (Nat.lt_irrefl 8)

theorem Sys2Proof.Laws.Encoding.startInterfaceRequest (v : Nat) (nonce : Payload) : Sys2Proof.Laws.Encoding.Statement (.startInterfaceRequest v nonce) :=
  fun h => absurd h (Nat.lt_irrefl 8)

theorem Sys2Proof.Laws.Encoding.stopInterfaceRequest (v : Nat) : Sys2Proof.Laws.Encoding.Statement (.stopInterfaceRequest v) :=
  fun h => absurd h (Nat.lt_irrefl 8)

theorem Sys2Proof.Laws.Encoding.bindP2pStreamRequest (v : Nat) : Sys2Proof.Laws.Encoding.Statement (.bindP2pStreamRequest v) :=
  fun h => absurd h (Nat.lt_irrefl 8)

theorem Sys2Proof.Laws.Encoding.unbindP2pStreamRequest (v : Nat) : Sys2Proof.Laws.Encoding.Statement (.unbindP2pStreamRequest v) :=
  fun h => absurd h (Nat.lt_irrefl 8)

theorem Sys2Proof.Laws.Encoding.setMmioAttributeRequest (v : Nat) : Sys2Proof.Laws.Encoding.Statement (.setMmioAttributeRequest v) :=
  fun h => absurd h (Nat.lt_irrefl 8)

theorem Sys2Proof.Laws.Encoding.tdispVendorRequest (v : Nat) : Sys2Proof.Laws.Encoding.Statement (.tdispVendorRequest v) :=
  fun h => absurd h (Nat.lt_irrefl 8)

theorem Sys2Proof.Laws.Encoding.tdidone (who : Nat) (val : Word) : Sys2Proof.Laws.Encoding.Statement (.tdidone who val) :=
  fun h => absurd h (Nat.lt_irrefl 8)

theorem Sys2Proof.Laws.Encoding.tdictlLock (who : Nat) (v : Nat) (val : Word) : Sys2Proof.Laws.Encoding.Statement (.tdictlLock who v val) :=
  fun h => absurd h (Nat.lt_irrefl 8)

theorem Sys2Proof.Laws.Encoding.tdictlRun (who : Nat) (v : Nat) (val : Word) : Sys2Proof.Laws.Encoding.Statement (.tdictlRun who v val) :=
  fun h => absurd h (Nat.lt_irrefl 8)

theorem Sys2Proof.Laws.Encoding.tdictlError (who : Nat) (v : Nat) (val : Word) : Sys2Proof.Laws.Encoding.Statement (.tdictlError who v val) :=
  fun h => absurd h (Nat.lt_irrefl 8)

theorem Sys2Proof.Laws.Encoding.tdictlUnlock (who : Nat) (v : Nat) (val : Word) : Sys2Proof.Laws.Encoding.Statement (.tdictlUnlock who v val) :=
  fun h => absurd h (Nat.lt_irrefl 8)

theorem Sys2Proof.Laws.Encoding.getMeasurements (v : Nat) (index : Nat) : Sys2Proof.Laws.Encoding.Statement (.getMeasurements v index) :=
  fun h => absurd h (Nat.lt_irrefl 8)

theorem Sys2Proof.Laws.Encoding.spdmRequest (v : Nat) (tdisp : Bool) (msg : List Byte) : Sys2Proof.Laws.Encoding.Statement (.spdmRequest v tdisp msg) :=
  fun h => absurd h (Nat.lt_irrefl 8)

theorem Sys2Proof.Laws.Encoding.ideKm (stream : Nat) (secure : Bool) : Sys2Proof.Laws.Encoding.Statement (.ideKm stream secure) :=
  fun h => absurd h (Nat.lt_irrefl 8)

theorem Sys2Proof.Laws.Encoding.worldCreate (mb : Mailbox) (world : Nat) (policy : List Byte) (parts : List Partition) : Sys2Proof.Laws.Encoding.Statement (.worldCreate mb world policy parts) :=
  fun h => absurd h (Nat.lt_irrefl 8)

theorem Sys2Proof.Laws.Encoding.worldRekey (mb : Mailbox) (world : Nat) : Sys2Proof.Laws.Encoding.Statement (.worldRekey mb world) :=
  fun h => absurd h (Nat.lt_irrefl 8)

theorem Sys2Proof.Laws.Encoding.worldDestroy (mb : Mailbox) (world : Nat) : Sys2Proof.Laws.Encoding.Statement (.worldDestroy mb world) :=
  fun h => absurd h (Nat.lt_irrefl 8)

theorem Sys2Proof.Laws.Encoding.worldDestroyDone (world : Nat) : Sys2Proof.Laws.Encoding.Statement (.worldDestroyDone world) :=
  fun h => absurd h (Nat.lt_irrefl 8)

theorem Sys2Proof.Laws.Encoding.worldExport (mb : Mailbox) (world : Nat) : Sys2Proof.Laws.Encoding.Statement (.worldExport mb world) :=
  fun h => absurd h (Nat.lt_irrefl 8)

theorem Sys2Proof.Laws.Encoding.worldImport (mb : Mailbox) (world : Nat) (policy : List Byte) (wrapped : WrappedKeys) (parts : List Partition) : Sys2Proof.Laws.Encoding.Statement (.worldImport mb world policy wrapped parts) :=
  fun h => absurd h (Nat.lt_irrefl 8)

theorem Sys2Proof.Laws.Encoding.sealInstall (mb : Mailbox) (sealId : Nat) (policy : List Byte) (key : BitVec 512) : Sys2Proof.Laws.Encoding.Statement (.sealInstall mb sealId policy key) :=
  fun h => absurd h (Nat.lt_irrefl 8)

theorem Sys2Proof.Laws.Encoding.sealRemove (mb : Mailbox) (sealId : Nat) : Sys2Proof.Laws.Encoding.Statement (.sealRemove mb sealId) :=
  fun h => absurd h (Nat.lt_irrefl 8)

theorem Sys2Proof.Laws.Encoding.frameReencrypt (world : Nat) (frame : Nat) : Sys2Proof.Laws.Encoding.Statement (.frameReencrypt world frame) :=
  fun h => absurd h (Nat.lt_irrefl 8)

theorem Sys2Proof.Laws.Encoding.generationRetire (world : Nat) : Sys2Proof.Laws.Encoding.Statement (.generationRetire world) :=
  fun h => absurd h (Nat.lt_irrefl 8)

theorem Sys2Proof.Laws.Encoding.fetch (who : Nat) (v : Nat) (q : Nat) (arg : BitVec 32) (dmaOk : Bool) : Sys2Proof.Laws.Encoding.Statement (.fetch who v q arg dmaOk) :=
  fun h => absurd h (Nat.lt_irrefl 8)

theorem Sys2Proof.Laws.Encoding.start (who : Nat) (v : Nat) (q : Nat) (arg : BitVec 32) (dma : LaunchDma) : Sys2Proof.Laws.Encoding.Statement (.start who v q arg dma) :=
  fun h => absurd h (Nat.lt_irrefl 8)

theorem Sys2Proof.Laws.Encoding.invalidationComplete (stage2 : Bool) (task : Nat) : Sys2Proof.Laws.Encoding.Statement (.invalidationComplete stage2 task) :=
  fun h => absurd h (Nat.lt_irrefl 8)

theorem Sys2Proof.Laws.Encoding.translation (task : Nat) : Sys2Proof.Laws.Encoding.Statement (.translation task) :=
  fun h => absurd h (Nat.lt_irrefl 8)

theorem Sys2Proof.Laws.Encoding.dispatchDecision (task : Nat) (places : List Place) (anchor : Nat) : Sys2Proof.Laws.Encoding.Statement (.dispatchDecision task places anchor) :=
  fun h => absurd h (Nat.lt_irrefl 8)

theorem Sys2Proof.Laws.Encoding.quantumExpire (task : Nat) (other : Nat) : Sys2Proof.Laws.Encoding.Statement (.quantumExpire task other) :=
  fun h => absurd h (Nat.lt_irrefl 8)

theorem Sys2Proof.Laws.Encoding.preemptRequest (task : Nat) : Sys2Proof.Laws.Encoding.Statement (.preemptRequest task) :=
  fun h => absurd h (Nat.lt_irrefl 8)

theorem Sys2Proof.Laws.Encoding.taskResume (task : Nat) (places : List Place) : Sys2Proof.Laws.Encoding.Statement (.taskResume task places) :=
  fun h => absurd h (Nat.lt_irrefl 8)

theorem Sys2Proof.Laws.Encoding.jcommit (who : Nat) (val : Word) : Sys2Proof.Laws.Encoding.Statement (.jcommit who val) :=
  fun h => absurd h (Nat.lt_irrefl 8)

theorem Sys2Proof.Laws.Encoding.jcrcSeal (who : Nat) (pos : Nat) : Sys2Proof.Laws.Encoding.Statement (.jcrcSeal who pos) :=
  fun h => absurd h (Nat.lt_irrefl 8)

theorem Sys2Proof.Laws.Encoding.jcrcCheck (who : Nat) (pos : Nat) : Sys2Proof.Laws.Encoding.Statement (.jcrcCheck who pos) :=
  fun h => absurd h (Nat.lt_irrefl 8)

theorem Sys2Proof.Laws.Encoding.resume (who : Nat) : Sys2Proof.Laws.Encoding.Statement (.resume who) :=
  fun h => absurd h (Nat.lt_irrefl 8)

theorem Sys2Proof.Laws.Encoding.curctlRelease (who : Nat) : Sys2Proof.Laws.Encoding.Statement (.curctlRelease who) :=
  fun h => absurd h (Nat.lt_irrefl 8)

theorem Sys2Proof.Laws.Encoding.assign (who : Nat) (frame : Nat) (owner : Nat) : Sys2Proof.Laws.Encoding.Statement (.assign who frame owner) :=
  fun h => absurd h (Nat.lt_irrefl 8)

theorem Sys2Proof.Laws.Encoding.release (who : Nat) (frame : Nat) : Sys2Proof.Laws.Encoding.Statement (.release who frame) :=
  fun h => absurd h (Nat.lt_irrefl 8)

theorem Sys2Proof.Laws.Encoding.read (who : Nat) (frame : Nat) : Sys2Proof.Laws.Encoding.Statement (.read who frame) :=
  fun h => absurd h (Nat.lt_irrefl 8)

theorem Sys2Proof.Laws.Encoding.fotNop (who : Nat) : Sys2Proof.Laws.Encoding.Statement (.fotNop who) :=
  fun h => absurd h (Nat.lt_irrefl 8)

theorem Sys2Proof.Laws.Encoding.scrubComplete (frame : Nat) : Sys2Proof.Laws.Encoding.Statement (.scrubComplete frame) :=
  fun h => absurd h (Nat.lt_irrefl 8)

theorem Sys2Proof.Laws.Encoding.fillInstall (fill : Nat) (ecc : EccResult) : Sys2Proof.Laws.Encoding.Statement (.fillInstall fill ecc) :=
  fun h => absurd h (Nat.lt_irrefl 8)

theorem Sys2Proof.Laws.Encoding.releasedEffectPerform : Sys2Proof.Laws.Encoding.Statement (.releasedEffectPerform) :=
  fun h => absurd h (Nat.lt_irrefl 8)

theorem Sys2Proof.Laws.Encoding.cinvPerform : Sys2Proof.Laws.Encoding.Statement (.cinvPerform) :=
  fun h => absurd h (Nat.lt_irrefl 8)

theorem Sys2Proof.Laws.Encoding.l2col (who : Nat) (g : Nat) (val : BitVec 32) : Sys2Proof.Laws.Encoding.Statement (.l2col who g val) :=
  fun h => absurd h (Nat.lt_irrefl 8)

theorem Sys2Proof.Laws.Encoding.columnChangeDone (g : Nat) : Sys2Proof.Laws.Encoding.Statement (.columnChangeDone g) :=
  fun h => absurd h (Nat.lt_irrefl 8)

theorem Sys2Proof.Laws.Encoding.hbmRetrain (stack : Nat) (ok : Bool) : Sys2Proof.Laws.Encoding.Statement (.hbmRetrain stack ok) :=
  fun h => absurd h (Nat.lt_irrefl 8)

theorem Sys2Proof.Laws.Encoding.unitErrorDetect (e : UnitError) : Sys2Proof.Laws.Encoding.Statement (.unitErrorDetect e) :=
  fun h => absurd h (Nat.lt_irrefl 8)

theorem Sys2Proof.Laws.Encoding.errhead (who : Nat) (val : Word) : Sys2Proof.Laws.Encoding.Statement (.errhead who val) :=
  fun h => absurd h (Nat.lt_irrefl 8)

theorem Sys2Proof.Laws.Encoding.corestate (who : Nat) (n : Nat) (val : Word) : Sys2Proof.Laws.Encoding.Statement (.corestate who n val) :=
  fun h => absurd h (Nat.lt_irrefl 8)

theorem Sys2Proof.Laws.Encoding.timingTableWrite (who : Nat) (n : Nat) (e : Nat) (val : BitVec 16) : Sys2Proof.Laws.Encoding.Statement (.timingTableWrite who n e val) :=
  fun h => absurd h (Nat.lt_irrefl 8)

theorem Sys2Proof.Laws.Encoding.checkOverpaint (who : Nat) (req : Word) : Sys2Proof.Laws.Encoding.Statement (.checkOverpaint who req) :=
  fun h => absurd h (Nat.lt_irrefl 8)

theorem Sys2Proof.Laws.Encoding.selfTest (who : Nat) (req : Word) : Sys2Proof.Laws.Encoding.Statement (.selfTest who req) :=
  fun h => absurd h (Nat.lt_irrefl 8)

theorem Sys2Proof.Laws.Encoding.selfTestDone (pass : Bool) (badPlots : List Nat) : Sys2Proof.Laws.Encoding.Statement (.selfTestDone pass badPlots) :=
  fun h => absurd h (Nat.lt_irrefl 8)

theorem Sys2Proof.Laws.Encoding.dropCore (who : Nat) (req : Word) : Sys2Proof.Laws.Encoding.Statement (.dropCore who req) :=
  fun h => absurd h (Nat.lt_irrefl 8)

theorem Sys2Proof.Laws.Encoding.postLoadOutcome (who : Nat) (req : Word) : Sys2Proof.Laws.Encoding.Statement (.postLoadOutcome who req) :=
  fun h => absurd h (Nat.lt_irrefl 8)

theorem Sys2Proof.Laws.Encoding.collectiveStatusArrive (group : Nat) (status : BitVec 8) (remote : List (List Byte)) : Sys2Proof.Laws.Encoding.Statement (.collectiveStatusArrive group status remote) :=
  fun h => absurd h (Nat.lt_irrefl 8)

theorem Sys2Proof.Laws.Encoding.debugPortScan (core : Nat) (off : Nat) : Sys2Proof.Laws.Encoding.Statement (.debugPortScan core off) :=
  fun h => absurd h (Nat.lt_irrefl 8)

theorem Sys2Proof.Laws.Encoding.uncachedCopySourceArrival (core : Nat) (copy : Nat) : Sys2Proof.Laws.Encoding.Statement (.uncachedCopySourceArrival core copy) :=
  fun h => absurd h (Nat.lt_irrefl 8)

theorem Sys2Proof.Laws.Encoding.firmwareImageUpdate (image : BitVec 8) (copies : List (List Byte × List Byte)) : Sys2Proof.Laws.Encoding.Statement (.firmwareImageUpdate image copies) :=
  fun h => absurd h (Nat.lt_irrefl 8)

theorem Sys2Proof.Laws.Encoding.modulePowerOff : Sys2Proof.Laws.Encoding.Statement (.modulePowerOff) :=
  fun h => absurd h (Nat.lt_irrefl 8)
end

