-- ==== Sys2Proof/Machine/HostReads.lean ====
section
/-! DEFINITION. What the host reads: the memory BARs of a virtual function, BAR 0 of the physical function (R40-R43, R48, R54, R109,
R111). The opcode table has no row for a read by the host, which changes nothing (log 66, DEDUCED). -/

namespace Sys2Proof.Machine

/-- The registers of VF BAR 0 that hold something to read: first offset, width in bytes, value (R42, R43). -/
def Vf.bar0Regs (f : Vf) : List (Nat × Nat × Nat) :=
  [(0x100, 4, f.stat.toNat), (0x108, 4, f.lswin.toNat), (0x300, 8, f.cqBase.toNat), (0x308, 4, f.cqcfg.toNat),
   (0x30C, 4, f.cqHead.toNat), (0x8000, 32, f.msixTable.toNat), (0x9000, 8, f.pba.toNat)]
  ++ (List.range 8).flatMap fun q =>
    [(0x200 + 0x20 * q, 8, (f.queue q).base.toNat), (0x208 + 0x20 * q, 4, (f.queue q).cfg.toNat)]

/-- The registers of the PF's BAR 0 that hold something to read, near an offset: VFBIND v, VFS2ROOT v, S2INVSTAT (R41, R109, R111). -/
def State.pfBar0Regs (s : State) (off : Nat) : List (Nat × Nat × Nat) :=
  let v := (off - 0x10000) / 16
  let u := (off - 0x20000) / 8
  [(0x30010, 4, s.s2inv.isSome.toNat)]
  ++ (if 0x10000 ≤ off ∧ v < 128 then
      [(0x10000 + 16 * v, 16, (s.vf v).world.toNat + 2 ^ 31 * (s.vf v).bound.toNat + 2 ^ 64 * (s.vf v).parts.toNat)] else [])
  ++ (if 0x20000 ≤ off ∧ u < 128 then [(0x20000 + 8 * u, 8, (SMap.get 0 u s.s2root).toNat)] else [])

/-- The byte at an offset among registers: 0 where none lies (R9, R42). -/
def byteAmong (regs : List (Nat × Nat × Nat)) (off : Nat) : Byte :=
  match regs.find? fun r => decide (r.1 ≤ off) && decide (off < r.1 + r.2.1) with
  | some r => BitVec.ofNat 8 (r.2.2 / 256 ^ (off - r.1))
  | none => 0

/-- A byte of a memory BAR of virtual function v (R42, R43, R48). -/
def State.vfBarByte (s : State) (v bar off : Nat) : Byte :=
  if bar = 2 then BitVec.ofNat 8 ((s.bar2Word v (off / 8)).toNat / 256 ^ (off % 8))
  else if inDoeMirror off then
    BitVec.ofNat 8 (((s.mailbox (1 + v)).word ((off - 0xA000) / 4 * 4)).toNat / 256 ^ (off % 4))
  else byteAmong (s.vf v).bar0Regs off

/-- What a memory read of n bytes of a BAR of virtual function v gets, with or without the T bit, on a selective stream or none: none is
Unsupported Request (R40, R42, R43, R48, R54). -/
def State.vfRead (s : State) (v bar off n : Nat) (tee : Bool) (stream : Option Nat) : Option (List Byte) :=
  let own := !tee || stream == some (1 + v)
  let ok := if bar = 0 ∧ inDoeMirror off then s.mirrorAccepts v tee else s.vfAccepts v tee
  if own && ok then some ((List.range n).map fun k => s.vfBarByte v bar (off + k)) else none

/-- What a memory read of n bytes of the PF's BAR 0 gets (R40, R41, R109, R111). -/
def State.pfRead (s : State) (off n : Nat) : List Byte :=
  (List.range n).map fun k => byteAmong (s.pfBar0Regs (off + k)) (off + k)

/-- What a DMA read of n bytes of HBM for the host gets: what HBM holds under the key of the extent that the address belongs to, none where a
data unit delivers poison. Of a SEALED extent that is the inner-layer ciphertext, as the model owner supplied it: only a B fill takes the
inner layer off (R76, R79, R80, R85, R191). -/
def State.dmaRead (s : State) (key : MemKey) (dpa n : Nat) : Option (List Byte) :=
  match s.hbmBytes key ((List.range n).map fun k => (dpa + k, k)) with
  | .ok bytes => some (bytes.map (·.2))
  | .error _ => none

/-! ## Configuration space (R39, R50, R56, R57) -/

/-- The capabilities of R39. -/
inductive Capability where
  | pciExpress | msix | aer | ari | sriov | doe | ide | dataLinkFeature | physicalLayer64
deriving DecidableEq, Repr

/-- The capabilities of the PF, and of each VF; no other is present (R39). -/
def pfCapabilities : List Capability :=
  [.pciExpress, .msix, .aer, .ari, .sriov, .doe, .ide, .dataLinkFeature, .physicalLayer64]
def vfCapabilities : List Capability := [.pciExpress, .msix, .aer, .ari, .doe, .dataLinkFeature, .physicalLayer64]

/-- The registers of configuration space to which the spec gives contents, by name: the spec gives no offsets. Streams have their numbers. -/
inductive ConfigReg where
  | totalVfs | initialVfs | firstVfOffset | vfStride | maxPayload | maxReadRequest | deviceStatus | command | sriovControl
  | vfBar0 | vfBar2 | msixControl | streamControl (n : Nat) | ridAssociation (n : Nat) | addressAssociation (n : Nat) | doe (off : Nat)
deriving DecidableEq, Repr

/-- The registers of selective stream n: that of the PF, or of VF n - 1 (R39, R50). -/
def State.stream (s : State) (n : Nat) : IdeStream := if n = 0 then s.pf.ide else (s.vf (n - 1)).ide

/-- What a read of the PF's configuration space gets: sizes in bytes; Fatal Error Detected is bit 2 of Device Status (R39, R50, R57;
log 17, PRESUMED); a VF BAR is a 64-bit one that is not prefetchable (R42). A register of which some VFs hold an older, frozen value
reads as it was last written (log 83, DESIGN CHOICE). -/
def State.pfConfig (s : State) : ConfigReg → Nat
  | .totalVfs => 128
  | .initialVfs => 128
  | .firstVfOffset => 1
  | .vfStride => 1
  | .maxPayload => 512
  | .maxReadRequest => 4096
  | .deviceStatus => 4 * s.pf.fatal.toNat
  | .command => s.pf.command.toNat
  | .sriovControl => s.pf.sriov.toNat
  | .vfBar0 => s.pf.vfBar0.toNat + 4
  | .vfBar2 => s.pf.vfBar2.toNat + 4
  | .msixControl => s.pf.msixCtl.toNat
  | .streamControl n => (s.stream n).control.toNat
  | .ridAssociation n => (s.stream n).rid.toNat
  | .addressAssociation n => (s.stream n).addr.toNat
  | .doe off => ((s.mailbox 0).word off).toNat

/-- What a read of the configuration space of virtual function v gets: during its reset as after it, but for Transactions Pending, bit 5 of
Device Status (R39, R42, R56; log 17, PRESUMED). -/
def State.vfConfig (s : State) (v : Nat) : ConfigReg → Nat
  | .maxPayload => 512
  | .maxReadRequest => 4096
  | .deviceStatus => 32 * (s.vf v).resetting.toNat
  | .msixControl => (s.vf v).msixCtl.toNat
  | .doe off => ((if (s.vf v).resetting then Doe.reset else s.mailbox (1 + v)).word off).toNat
  | _ => 0

end Sys2Proof.Machine
end

