-- ==== Sys2Proof/Tests/Slice0.lean ====
section
/-! SUPPORT. Tests: words written out from the encodings of the specification, the refusal of ill-formed words, instructions on small states
with results taken from the specification's examples or worked out by hand from its rules, and for every statement with hypotheses a state
that meets them (`witness_<statement>`). -/

namespace Sys2Proof.Tests

open Sys2Proof Sys2Proof.Machine Sys2Proof.Cert

/-! ## States -/

/-- Compute core 0 running a task, at bundle 0. -/
def strand : State := { State.reset with core := Core.fresh 0 .running .task ArchRegs.reset 0 }

/-- Changing the focal core. -/
def change (s : State) (f : Core → Core) : State := withCore s (f s.core)

/-- Giving scalar registers values. -/
def regs (s : State) (l : List (BitVec 6 × Word)) : State :=
  change s fun c => { c with r := l.foldl (fun r p => r.setS p.1 p.2) c.r }

/-- The same core in service mode, and running a trap handler. -/
def service : State := change strand fun c => { c with mode := .service }
def handler : State := change service fun c => { c with inh := true }

/-- Curator A running. -/
def control : State := State.reset

/-- The Conservator running, with registers and bytes in its scratchpad. -/
def conservator : State := withCore State.reset (Core.control 514 .running)

/-- An L2-backed extent of compartment 1 of world 0, and one that is HOST. -/
def l2Extent : Extent := ⟨3, 0x10000, true, true, false, false, false, 0, 1, .l2, [(0, 0x10000, 0x10000)], 0, 1, 0⟩
def hostExtent : Extent := { l2Extent with num := 4, backing := .host }

/-- The strand with a sealed extent 7 that may be written. -/
def sealing : State := change strand fun c => { c with exts := [{ l2Extent with num := 7, sealed := true }] }

/-- The strand with the first two. -/
def extents : State := change strand fun c => { c with exts := [l2Extent, hostExtent] }

/-- A state whose undo log has no room, whose gate buffer is full, in which a window of a bank is open from t on, or in which a word is bad. -/
def fullUndo (s : State) : State := change s fun c => { c with reserved := List.range 64 }
def fullGate (s : State) : State := change s fun c => { c with gated := List.replicate 64 ⟨0, 0, 0, 1024, 0, 7, 0x02, 0, 0, .flush []⟩ }
def inWindow (s : State) (bank t : Nat) : State := change s fun c => { c with windows := [(bank, t)] }
def spoiled (s : State) (w : RegWord) : State := change s fun c => { c with bad := [.register w 8] }

/-! ## Slots 0, 1 and 2: states that meet the hypotheses of the statements -/

/-- A loop stack with n entries. -/
def looping (n : Nat) : State := change strand fun c => { c with loops := List.replicate n ⟨0x40, 2, 3, 0⟩ }

theorem witness_BranchesGoToTheirTargets :
    (∀ i ∈ [Instr.nop, .br 0 4095, .br 8 0, .jmp 4095, .call 0, .ret], Issues i strand) ∧ (strand.core.sreg 62).toNat % 32 = 0 ∧
    Issues (.jmpr 4) (regs strand [(4, 0x1FFE0)]) ∧ ((regs strand [(4, 0x1FFE0)]).core.sreg 4).toNat % 32 = 0 ∧
    Issues (.jmpr 4) (regs strand [(4, 1)]) ∧ ((regs strand [(4, 1)]).core.sreg 4).toNat % 32 ≠ 0 ∧
    Issues .ret (regs strand [(62, 1)]) ∧ ((regs strand [(62, 1)]).core.sreg 62).toNat % 32 ≠ 0 := by
  unfold Issues; decide

theorem witness_LoopsOpenAndBreak :
    (∀ i ∈ [Instr.loop 4095 0, .loop 1 4095, .loop 0 4095, .lbrk 1, .lbrk 0], Issues i strand) ∧
    strand.core.guardOf 1 = false ∧ strand.core.guardOf 0 = true ∧ strand.core.loops = [] ∧
    Issues (.loop 1 0) (looping 5) ∧ (looping 5).core.loops.length < 6 ∧ Issues (.loop 1 0) (looping 6) ∧
    6 ≤ (looping 6).core.loops.length ∧ Issues (.loopr 4 0) (regs strand [(4, 1)]) ∧ (regs strand [(4, 1)]).core.sreg 4 ≠ 0 ∧
    Issues (.loopr 4 0) (regs strand [(4, 0xFFFFFFFFFFFFFFFF)]) ∧ Issues (.lbrk 0) (looping 1) ∧
    (looping 1).core.loops = ⟨0x40, 2, 3, 0⟩ :: [] ∧ Issues (.loopr 4 0) strand ∧ strand.core.sreg 4 = 0 ∧
    Issues (.loopr 4 0) (regs (looping 6) [(4, 1)]) ∧ (regs (looping 6) [(4, 1)]).core.sreg 4 ≠ 0 ∧ 6 ≤ (regs (looping 6) [(4, 1)]).core.loops.length := by
  unfold Issues; decide

theorem witness_LoopsOpenAndBreak_pc :
    let opening : Core := { strand.core with loopAct := some (some ⟨0x20, 1, 2, 0⟩) }
    let breaking : Core := { (looping 1).core with loopAct := some none, nextPc := some 0x80 }
    opening.loopAct = some (some ⟨0x20, 1, 2, 0⟩) ∧ opening.nextPc = none ∧ breaking.loopAct = some none ∧
    breaking.loops = ⟨0x40, 2, 3, 0⟩ :: [] ∧ breaking.nextPc = some 0x80 := by decide

theorem witness_CheckpointMarkers :
    let late := change strand fun c => { c with ccy := 8191 }
    Issues (.ckpt 4095) late ∧ Issues (.ckptP 4095) late ∧ (4095 : BitVec 12).toNat = late.core.ccy % 4096 ∧ Issues (.ckpt 0) late ∧ Issues (.ckptP 0) late ∧
    (0 : BitVec 12).toNat ≠ late.core.ccy % 4096 ∧ late.core.isControl = false ∧ late.core.inh = false ∧ Issues (.ckpt 1) control ∧
    Issues (.ckptP 1) control ∧ control.core.isControl = true ∧ Issues (.ckpt 0) handler ∧ Issues (.ckptP 0) handler ∧ handler.core.inh = true ∧
    handler.core.isControl = false := by
  unfold Issues; decide

theorem witness_SequencerControl :
    (∀ i ∈ [Instr.halt, .trap 0xFFFF, .scall 0, .brk 1, .wgcy 4, .idle 1, .idle 0xFFFF], Issues i strand) ∧
    strand.core.inHandler = false ∧ (∀ q ∈ strand.core.r.q.toList, (q.err && q.arrived) = false) ∧ strand.core.isControl = false ∧
    Issues .tret control ∧ Issues (.wgcy 4) control ∧ control.core.isControl = true ∧ Issues .tret handler ∧
    handler.core.inh = true ∧ Issues .rswap service ∧ service.core.inh = false ∧ service.core.eng.nest = none ∧
    (∀ i ∈ [Instr.halt, .rswap, .trap 0xFFFF, .scall 0, .brk 1], Issues i handler) ∧ handler.core.isControl = false ∧ Issues .tret service := by
  unfold Issues; decide

theorem witness_ScalarLogicAndCompare :
    ∀ i ∈ [Instr.add 1 2 3, .sub 1 2 3, .and 1 2 3, .or 1 2 3, .xor 1 2 3, .andn 1 2 3, .orn 1 2 3, .shl 1 2 3, .shr 1 2 3, .sra 1 2 3,
      .rotl 1 2 3, .rotr 1 2 3, .slt 1 2 3, .sltu 1 2 3, .seq 1 2 3, .sne 1 2 3, .min 1 2 3, .max 1 2 3, .minu 1 2 3, .maxu 0 63 63],
      Issues i strand := by
  unfold Issues; decide

theorem witness_ScalarMultiplyAndDivide :
    (∀ i ∈ [Instr.mul 1 2 3, .mulh 1 2 3, .mulhu 1 2 3, .div 1 2 3, .divu 1 2 3, .rem 1 2 3, .remu 1 2 3], Issues i strand) ∧
    (let s := regs strand [(2, 0x8000000000000000), (3, 0xFFFFFFFFFFFFFFFF)]
     Issues (.div 1 2 3) s ∧ s.core.sreg 2 = BitVec.intMin 64 ∧ s.core.sreg 3 = BitVec.allOnes 64) := by
  unfold Issues; decide

theorem witness_ScalarBitFields :
    ∀ i ∈ [Instr.clz 1 2, .ctz 1 2, .popc 1 2, .bext 1 2 3, .bdep 1 2 3], Issues i strand := by
  unfold Issues; decide

theorem witness_ScalarImmediates :
    ∀ i ∈ [Instr.addi 1 2 0x2000, .andi 1 2 3, .ori 1 2 3, .xori 1 2 3, .slti 1 2 3, .shli 1 2 63, .shri 1 2 0, .srai 1 2 63,
      .lui 1 0x80000, .sel 1 2 3 8], Issues i strand := by
  unfold Issues; decide

theorem witness_GuardsAndLatency :
    (∀ i ∈ [Instr.gset 1 2 3 6, .glog 1 2 3 0, .glog 1 2 3 1, .glog 1 2 3 2, .gmovToScalar 1, .gmovToGuards 1, .latq 1 28, .latq 1 29],
      Issues i strand) ∧ 29 ≤ (29 : BitVec 6).toNat ∧ (28 : BitVec 6).toNat < 29 ∧ strand.core.isControl = false := by
  unfold Issues; decide

theorem witness_ScalarFloatingPoint :
    ∀ i ∈ [Instr.fadd 1 2 3 0, .fsub 1 2 3 1, .fmul 1 2 3 0, .fdiv 1 2 3 1, .fsqrt 1 2 0, .fmin 1 2 3 1, .fmax 1 2 3 0, .fcmp 1 2 3 1 3,
      .fcvt 1 2 0 6, .fclass 1 2 1, .fmadd 1 2 3 4 0], Issues i strand := by
  unfold Issues; decide

/-- The strand with s2 at the last 8 bytes of its scratchpad. -/
def atTop : State := regs strand [(2, 0x7FFF8)]

theorem witness_LoadsReadLittleEndian :
    (∀ i ∈ [Instr.ldB 1 15 2 0, .ldBz 1 15 2 0, .ldH 1 15 2 0, .ldHz 1 15 2 0, .ldW 1 15 2 0, .ldWz 1 15 2 0, .ldD 1 15 2 0],
      Issues i atTop) ∧
    (∀ n ∈ [1, 2, 4, 8], ∃ k, atTop.core.lclRead (atTop.core.offset 2 (n * 0)) n n none .sealedLoad = .ok k ∧
      k.busyBank false k.ccy (banks (atTop.core.offset 2 (n * 0)) n) = none) ∧
    (∃ k, (change atTop fun c => { c with windows := [(31, 0)] }).core.lclRead 0x7FFF8 8 8 none .sealedLoad = .ok k ∧
      k.busyBank false k.ccy (banks 0x7FFF8 8) = some 31) ∧
    (∃ f, atTop.core.lclRead (atTop.core.offset 2 (8 * 1)) 8 8 none .sealedLoad = .error f) ∧
    (∃ f, atTop.core.extFault 3 (atTop.core.offset 2 0) 8 8 .load (·.device) = some f) ∧
    (∀ i ∈ [Instr.ldB 1 0 2 0, .ldBz 1 0 2 0, .ldH 1 0 2 0, .ldHz 1 0 2 0, .ldW 1 0 2 0, .ldWz 1 0 2 0, .ldD 1 0 2 0], Issues i control) ∧
    (∀ n ∈ [1, 2, 4, 8], control.core.extFault 0 (control.core.offset 2 (n * 0)) n n .load (·.device) = none) ∧
    (∃ y bs, control.core.extent 0 = some y ∧ control.deviceBytes y (control.core.offset 2 0) 8 = .ok bs) := by
  unfold Issues
  refine ⟨by decide, ?_, ⟨_, rfl, by decide⟩, ⟨_, rfl⟩, ⟨_, rfl⟩, by decide, by decide, ⟨_, _, rfl, rfl⟩⟩
  simp only [List.forall_mem_cons, List.not_mem_nil, false_imp_iff, implies_true, and_true]
  refine ⟨⟨_, rfl, by decide⟩, ⟨_, rfl, by decide⟩, ⟨_, rfl, by decide⟩, ⟨_, rfl, by decide⟩⟩

theorem witness_StoresWriteLowBytes :
    (∀ i ∈ [Instr.stB 1 15 2 0 0, .stH 1 15 2 0 0, .stW 1 15 2 0 0, .stD 1 15 2 0 0, .stD 1 15 2 8 0, .stB 1 3 2 0 0], Issues i atTop) ∧
    atTop.core.guardOf 8 = false ∧ atTop.core.guardOf 0 = true ∧
    (∀ n ∈ [1, 2, 4, 8], atTop.core.lclWriteFault (atTop.core.offset 2 (n * 0)) n n = none) ∧
    (∃ k, atTop.core.reserve [rowOf (atTop.core.offset 2 0)] = .ok k ∧
      k.busyBank false (atTop.core.ccy + atTop.lat 7) [bankOf (atTop.core.offset 2 0)] = none) ∧
    (∃ f, atTop.core.lclWriteFault (atTop.core.offset 2 (8 * 1)) 8 8 = some f) ∧
    (∃ f, atTop.core.extFault 3 (atTop.core.offset 2 0) 8 8 .store (fun y => !y.gateDst) = some f) ∧
    (∀ i ∈ [Instr.stB 1 3 0 0 63, .stH 1 3 0 0 63, .stW 1 3 0 0 63, .stD 1 3 0 0 63], Issues i extents) ∧
    (∀ n ∈ [1, 2, 4, 8], extents.core.extFault 3 (extents.core.offset 0 (n * 63)) n n .store (fun y => !y.gateDst) = none) ∧
    extents.core.extent 3 = some l2Extent ∧ l2Extent.sealed = false ∧ extents.core.isControl = false ∧
    extents.core.gated.length < 64 := by
  unfold Issues
  exact ⟨by decide, by decide, by decide, by decide, ⟨_, rfl, by decide⟩, ⟨_, rfl⟩, ⟨_, rfl⟩, by decide⟩

/-- The Conservator with a store whose first data unit gives poison, and Curator A with a write to the register space on its way. -/
def badStore : State := { conservator with hbmTags := SMap.put 0 (storeBase / 128) 1 [] }
def writingRegister : State := { control with released := [⟨0, 512, 64, 1025, 0, 2, 0x02, 0, 0, .write .stretcher .curator [(0, 1)]⟩] }

set_option exponentiation.threshold 1100 in
set_option maxRecDepth 4000 in
theorem witness_LoadsReadLittleEndian_poison :
    Issues (.ldD 1 2 2 0) badStore ∧ badStore.core.extFault 2 (badStore.core.offset 2 0) 8 8 .load (·.device) = none ∧
    (∃ y u, badStore.core.extent 2 = some y ∧ badStore.deviceBytes y (badStore.core.offset 2 0) 8 = .error u) := by
  unfold Issues
  exact ⟨by decide, by decide, _, _, rfl, rfl⟩

theorem witness_StoresWriteLowBytes_faults :
    Issues (.stD 1 15 2 0 0) (fullUndo atTop) ∧ (∃ r, (fullUndo atTop).core.reserve [rowOf 0x7FFF8] = .error r) ∧
    Issues (.stD 1 15 2 0 0) (inWindow atTop 31 1) ∧ (∃ k, (inWindow atTop 31 1).core.reserve [rowOf 0x7FFF8] = .ok k ∧
      k.busyBank false ((inWindow atTop 31 1).core.ccy + (inWindow atTop 31 1).lat 7) [31] = some 31) ∧
    Issues (.stD 1 3 0 0 63) (fullGate extents) ∧ 64 ≤ (fullGate extents).core.gated.length ∧
    (∀ s ∈ [control, writingRegister], Issues (.stD 1 0 0 0 63) s ∧ s.core.isControl = true ∧
      s.core.extFault 0 (s.core.offset 0 (8 * 63)) 8 8 .store (fun y => !y.gateDst) = none ∧
      (s.core.extent 0).map (fun y => (y.sealed, y.backing)) = some (false, .stretcher)) ∧
    (control.released.any fun g => g.toStretcher 512) = false ∧ (writingRegister.released.any fun g => g.toStretcher 512) = true ∧
    Issues (.stD 1 2 0 0 63) conservator ∧ conservator.core.extFault 2 (conservator.core.offset 0 (8 * 63)) 8 8 .store (fun y => !y.gateDst) = none ∧
    (conservator.core.extent 2).map (fun y => (y.sealed, y.backing)) = some (false, .nc) ∧
    Issues (.stD 1 7 0 0 63) sealing ∧ sealing.core.extFault 7 (sealing.core.offset 0 (8 * 63)) 8 8 .store (fun y => !y.gateDst) = none ∧
    (sealing.core.extent 7).map (·.sealed) = some true := by
  unfold Issues
  and_intros <;> first | decide | exact ⟨_, rfl, by decide⟩ | exact ⟨_, rfl⟩

theorem witness_AtomicsTakeTheirWindow_faults :
    Issues (.aadd 1 2 3 0) (fullUndo atTop) ∧ (∃ k r, (fullUndo atTop).core.lclRead 0x7FFF8 8 8 none .sealedCopy = .ok k ∧
      k.reserve [rowOf 0x7FFF8] = .error r) ∧
    Issues (.aadd 1 2 3 0) (inWindow atTop 31 1) ∧ (∃ k u, (inWindow atTop 31 1).core.lclRead 0x7FFF8 8 8 none .sealedCopy = .ok k ∧
      k.reserve [rowOf 0x7FFF8] = .ok u ∧ u.windows = (31, 1) :: [] ∧ bankOf 0x7FFF8 = 31) := by
  unfold Issues
  exact ⟨by decide, ⟨_, _, rfl, rfl⟩, by decide, ⟨_, _, rfl, rfl, by decide⟩⟩

/-- Two open windows of bank 31: the second meets that of an atomic issued now, the first does not. -/
def twoWindows : State := change atTop fun c => { c with windows := [(31, 4), (31, 3)] }

theorem witness_AtomicsTakeTheirWindow_collisions :
    Issues (.aadd 1 2 3 0) twoWindows ∧ Issues (.aadd 1 2 3 8) twoWindows ∧ twoWindows.core.guardOf 0 = true ∧
    twoWindows.core.guardOf 8 = false ∧ twoWindows.core.windows = [(31, 4)] ++ (31, 3) :: [] ∧ WindowMeets twoWindows 2 [(31, 4)] (31, 3) ∧
    ∃ k u, twoWindows.core.lclRead (twoWindows.core.sreg 2).toNat 8 8 none .sealedCopy = .ok k ∧
      k.reserve [rowOf (twoWindows.core.sreg 2).toNat] = .ok u ∧ u.windows = [(31, 4)] ++ (31, 3) :: [] := by
  unfold Issues WindowMeets
  exact ⟨by decide, by decide, by decide, by decide, by decide, by decide, _, _, rfl, rfl, by decide⟩

theorem witness_AtomicsTakeTheirWindow :
    (∀ i ∈ [Instr.aadd 1 2 3 0, .aand 1 2 3 0, .aor 1 2 3 0, .axor 1 2 3 0, .amin 1 2 3 0, .amax 1 2 3 0, .aminu 1 2 3 0, .amaxu 1 2 3 0,
      .aswap 1 2 3 0, .acas 1 2 3 0, .acas 1 2 3 8], Issues i atTop) ∧ atTop.core.guardOf 0 = true ∧ atTop.core.guardOf 8 = false ∧
    (∃ k u, atTop.core.lclRead (atTop.core.sreg 2).toNat 8 8 none .sealedCopy = .ok k ∧
      k.reserve [rowOf (atTop.core.sreg 2).toNat] = .ok u ∧
      ∀ w ∈ u.windows, w.1 = bankOf (atTop.core.sreg 2).toNat → w.2 + 3 ≤ atTop.core.ccy + 1 ∨ atTop.core.ccy + 4 ≤ w.2) ∧
    (∃ f, strand.core.lclRead (strand.core.sreg 2).toNat 8 8 none .sealedCopy = .error f) ∧ Issues (.acas 1 2 3 0) strand := by
  unfold Issues
  exact ⟨by decide, by decide, by decide, ⟨_, _, rfl, rfl, by decide⟩, ⟨_, rfl⟩, by decide⟩

theorem witness_AtomicsReadModifyWrite : ∃ (l : Late) (fn addr lat : Nat) (d : BitVec 6) (v : Word) (cmp : Option Word),
    l.eff = .atomic fn addr d v cmp lat := ⟨⟨1, 0, 2, 0, .atomic 8 0x8000 1 2 (some 3) 4⟩, 8, 0x8000, 4, 1, 2, some 3, rfl⟩

theorem witness_CsrsLocksAndFences :
    (∀ i ∈ [Instr.lockb 0xFFFF 1, .lockb 0 15, .csrr 1 0x000, .csrr 1 0x060, .csrr 1 0x061, .csrw 1 0x001, .csrs 1 0x010, .csrc 1 0x011,
      .csrw 1 0x000, .csrs 1 0x060, .csrc 1 0x005, .fence 0 1 6, .fence 1 0 6, .fence 1 1 6, .fence 1 1 7, .idr 1 15], Issues i strand) ∧
    csrListed 0x000 = true ∧ csrListed 0x060 = true ∧ csrListed 0x061 = false ∧ csrWritable .task 0x001 = true ∧
    csrWritable .task 0x010 = true ∧ csrWritable .task 0x011 = true ∧ csrWritable .task 0x000 = false ∧ csrWritable .task 0x060 = false ∧
    csrWritable .task 0x005 = false ∧ csrListed 0x005 = true ∧ strand.core.isControl = false ∧ Issues (.fence 1 1 0) control ∧
    control.core.isControl = true := by
  unfold Issues; decide

theorem witness_IdentifiersNameTheCore :
    strand.core.id < 512 ∧ 512 ≤ control.core.id ∧ (looping 6).core.loops[5]? = some ⟨0x40, 2, 3, 0⟩ ∧
    (looping 6).core.loops.length ≤ 6 := by decide

/-! ## Slots 3 to 6 -/

theorem witness_VectorArithmetic :
    ∀ i ∈ [Instr.vadd 1 2 3 0, .vsub 1 2 3 6, .vmul 31 31 31 3, .vfma 1 2 3 2 4, .vfms 1 2 3 0 4, .vmin 1 2 3 6, .vmax 1 2 3 0, .vabs 1 2 3,
      .vneg 1 2 4, .vshl 1 2 3 3, .vshr 1 2 3 4, .vsra 1 2 3 6, .vbVadd 1 2 3 0, .vbVmul 1 2 3 6, .vbVfma 1 2 3 0 4], Issues i strand := by
  unfold Issues; decide

theorem witness_VectorMovesAndMasks :
    ∀ i ∈ [Instr.vand 1 2 3 6, .vor 1 2 3 6, .vxor 1 2 3 6, .vnot 1 2 6, .vmov 1 2, .vsplat 1 0 0x3F80, .vext 1 2 6 31, .vins 1 2 3 0,
      .vidx 1 6, .vcvt 1 2 0 6, .vsel 1 2 3 0 7, .vcmpeq 1 2 3 0, .vcmplt 1 2 3 3, .vcmple 1 2 3 6, .mand 1 2 3, .mor 1 2 3, .mxor 1 2 3,
      .mnot 1 2, .mpop 1 2, .mfirst 1 2], Issues i strand := by
  unfold Issues; decide

theorem witness_VectorFunctions :
    ∀ i ∈ [Instr.vexp 1 2 0, .vexp2 1 2 0, .vlog2 1 2 0, .vrcp 1 2 0, .vrsqrt 1 2 0, .vsqrt 1 2 0, .vdiv 1 2 3 0, .vtanh 1 2 0, .vsigm 1 2 0,
      .vredsum 1 2 0, .vredmax 1 2 6, .vredmin 1 2 3, .vscan 1 2 0, .vsortk 1 2 0 4, .vperm 1 2 3 6, .vrotl 1 2 6 31, .vpack 1 2 3 1 0 0,
      .vunpack 1 2 0 1 1 0, .vrnd 1 2 3 6], Issues i strand := by
  unfold Issues; decide

theorem witness_LanesAreIndependent : (5 : BitVec 3) ≠ 7 ∧ 127 < laneCount 5 ∧ 3 ≤ (5 : BitVec 3).toNat ∧ 31 < laneCount 0 ∧
    laneCount 0 ≤ 127 := by decide

/-- The strand with s2 at the last line of its scratchpad and s8 at its last 8 KiB; s3 = 32 and s9 = 128 are strides. -/
def atLine : State := regs strand [(2, 0x7FF80), (3, 0), (8, 0x7E000), (9, 128), (12, 0x80000)]

/-- A check that does not pass fails. -/
theorem fails {α β : Type} {r : Except α β} (h : r.toBool = false) : ∃ f, r = .error f := by
  cases r with
  | error f => exact ⟨f, rfl⟩
  | ok => simp [Except.toBool] at h

/-- One that passes has a result. -/
theorem passes {α β : Type} {r : Except α β} (h : r.toBool = true) : ∃ k, r = .ok k := by
  cases r with
  | error => simp [Except.toBool] at h
  | ok k => exact ⟨k, rfl⟩

set_option exponentiation.threshold 1100 in
set_option maxRecDepth 4000 in
theorem witness_VectorLoads :
    (∀ i ∈ [Instr.vld 1 15 2 0 0, .vld 1 3 2 0 0, .vldb 1 15 2 0 3 15, .vldb 1 3 2 0 3 0, .vlds 1 15 2 0 2, .vlds 1 15 12 0 2,
      .vgath 1 15 2 0 0, .vgath 1 15 12 0 0], Issues i atLine) ∧
    (∃ k, atLine.core.readElems 0xF [atLine.core.offset 2 0] 128 128 0 = .ok k ∧
      k.busyBank false k.ccy (distinct ((physRange 0 (atLine.core.offset 2 0) 128).map bankOf)) = none) ∧
    (∃ f, atLine.core.readElems 3 [atLine.core.offset 2 0] 128 128 0 = .error f) ∧
    (∃ f, atLine.core.readElems 3 [atLine.core.offset 2 0] (sizeOf2 3) (sizeOf2 3) 0 = .error f) ∧
    (∃ f, atLine.core.readElems 0xF (atLine.core.strided 12 (128 / sizeOf2 2)) (sizeOf2 2) (sizeOf2 2) 0 = .error f) ∧
    (∃ f, atLine.core.readElems 0xF (atLine.core.indexed 12 0) 4 4 0 = .error f) ∧
    (∃ k, atLine.core.readElems 0xF [atLine.core.offset 2 (sizeOf2 3 * 15)] (sizeOf2 3) (sizeOf2 3) 0 = .ok k ∧
      k.busyBank false k.ccy (distinct ((physRange 0 (atLine.core.offset 2 (sizeOf2 3 * 15)) (sizeOf2 3)).map bankOf)) = none) ∧
    (∃ k, atLine.core.readElems 0xF (atLine.core.strided 2 (128 / sizeOf2 2)) (sizeOf2 2) (sizeOf2 2) 0 = .ok k) ∧
    (∃ k, atLine.core.readElems 0xF (atLine.core.indexed 2 0) 4 4 0 = .ok k) := by
  unfold Issues
  exact ⟨by decide, ⟨_, rfl, by decide⟩, ⟨_, rfl⟩, ⟨_, rfl⟩, ⟨_, rfl⟩, fails (by decide), ⟨_, rfl, by decide⟩, ⟨_, rfl⟩, passes (by decide)⟩

set_option exponentiation.threshold 1100 in
set_option maxRecDepth 4000 in
theorem witness_VectorLoads_collision :
    (∀ i ∈ [Instr.vld 1 15 2 0 0, .vldb 1 15 2 0 3 15], Issues i (inWindow atLine 31 0)) ∧
    (∃ k, (inWindow atLine 31 0).core.readElems 0xF [0x7FF80] 128 128 0 = .ok k ∧
      k.busyBank false k.ccy (distinct ((physRange 0 0x7FF80 128).map bankOf)) = some 31) ∧
    (∃ k, (inWindow atLine 31 0).core.readElems 0xF [0x7FFF8] (sizeOf2 3) (sizeOf2 3) 0 = .ok k ∧
      k.busyBank false k.ccy (distinct ((physRange 0 0x7FFF8 (sizeOf2 3)).map bankOf)) = some 31) := by
  unfold Issues
  exact ⟨by decide, ⟨_, rfl, by decide⟩, ⟨_, rfl, by decide⟩⟩

theorem witness_VectorStoresAreElementStores :
    ∀ i ∈ [Instr.vst 1 15 2 0 0 0 0, .vst 1 3 2 0 1 7 31, .vsts 1 15 2 3 1 1 2, .vscat 1 15 2 0 1 1 0], Issues i atLine := by
  unfold Issues; decide

/-- A sealed plate at the top of the scratchpad. -/
def sealedTop : State := change atLine fun c => { c with plates := SMap.put PlateTag.reset 127 { PlateTag.reset with sealed := true } c.plates }

/-- One element of four bytes, two of which may be written. -/
def element (o : Nat) : List (Nat × List (Byte × Bool)) := [(o, [(1, true), (2, false), (3, true), (4, false)])]

theorem witness_ElementStores :
    (∃ f, strand.core.elemFault 0xF [0x80000] 4 4 .store (fun _ => true) = some f) ∧
    (∃ o, sealedTop.core.elemFault 0xF [0x7FFFC] 4 4 .store (fun _ => true) = none ∧
      rankFault [0x7FFFC] [rowOf ((physRange 0 0x7FFFC 4).headD 0)] = none ∧ sealedTop.core.sealedOff (offsets 0x7FFFC 4) = some o) ∧
    (∃ k, strand.core.elemFault 0xF [0x7FFFC] 4 4 .store (fun _ => true) = none ∧
      strand.core.sealedOff (offsets 0x7FFFC 4) = none ∧ strand.core.reserve [rowOf 0x7FFFC, rowOf 0x7FFFE] = .ok k) ∧
    (extents.core.elemFault 3 [0xFFFC] 4 4 .store (fun y => !y.gateDst) = none ∧ extents.core.extent 3 = some l2Extent ∧
      l2Extent.sealed = false ∧ extents.core.isControl = false ∧ extents.core.gated.length < 64) ∧
    (element 0xFFFC).map (·.1) = [0xFFFC] ∧ ((element 0xFFFC).map (·.2.length)).headD 0 = 4 := by
  exact ⟨⟨_, rfl⟩, ⟨0x7FFFC, by decide⟩, ⟨_, by decide, by decide, rfl⟩, by decide⟩

theorem witness_ElementStores_faults :
    (∃ f, strand.core.elemFault 0xF [65536, 69632, 73728, 77824, 81920] 4 4 .store (fun _ => true) = none ∧ 
      rankFault [65536, 69632, 73728, 77824, 81920] [512, 544, 576, 608, 640] = some f) ∧
    (∃ row, (fullUndo strand).core.elemFault 0xF [0x7FFFC] 4 4 .store (fun _ => true) = none ∧ (fullUndo strand).core.reserve [rowOf 0x7FFFC] = .error row) ∧
    extents.core.elemFault 3 [0] 4 4 .store (fun y => !y.gateDst) = none ∧ (3 : Nat) ≠ 0 ∧ (sealing.core.extent 7).map (·.sealed) = some true ∧
    sealing.core.elemFault 7 [0] 4 4 .store (fun y => !y.gateDst) = none ∧ 64 ≤ (fullGate extents).core.gated.length ∧
    (fullGate extents).core.elemFault 3 [0] 4 4 .store (fun y => !y.gateDst) = none := by
  refine ⟨⟨_, by decide, rfl⟩, ⟨_, by decide, rfl⟩, ?_⟩
  and_intros <;> decide

/-- Tile 1 configured with 16 rows of 16 elements of 4 bytes, s2 at the last KiB of the scratchpad and s12 beyond it. -/
def tiled : State := change (regs extents [(2, 0x7FC00), (4, 0xFC00), (12, 0x80000)]) fun c => { c with r := { c.r with tshape := 0x8F00 } }

/-- Tile 1 configured with 4 rows of 4 elements of 1 byte. -/
def tiledSmall : State := change strand fun c => { c with r := { c.r with tshape := 0xC000 } }

theorem witness_TileAccesses :
    (∀ i ∈ [Instr.tcfg 1 0xFF, .trowv 1 1 15 1, .tzero 1, .tld 1 15 2 0], Issues i strand) ∧ strand.core.tileConf 1 = false ∧
    (∀ i ∈ [Instr.trowv 1 1 4 0, .tvcol 1 1 4 0], Issues i tiledSmall) ∧ tiledSmall.core.tileConf 1 = true ∧
    tiledSmall.core.tileRows 1 = 4 ∧ tiledSmall.core.tileCols 1 = 4 ∧
    (∀ i ∈ [Instr.trowv 1 1 15 1, .tvrow 1 1 0 0, .tcolv 1 1 15 1, .tvcol 1 1 0 0, .tzero 1], Issues i tiled) ∧
    tiled.core.tileConf 1 = true ∧ tiled.core.tileRows 1 = 16 ∧ tiled.core.tileCols 1 = 16 ∧ (∃ p k, tiled.core.claim 1 = .ok (p, k)) := by
  unfold Issues
  and_intros <;> first | decide | exact ⟨_, _, rfl⟩

set_option maxRecDepth 20000 in
theorem witness_TileTransfers :
    (∀ i ∈ [Instr.tld 1 15 2 0, .tst 1 15 2 0, .tsave 1 15 2, .tst 1 3 4 0, .trest 1 15 2], Issues i tiled) ∧
    tiled.core.elemFault 0xF [(tiled.core.sreg 2).toNat] (tiled.core.tileLength 1) 64 .load (fun _ => false) = none ∧
    tiled.core.elemFault 0xF [(tiled.core.sreg 2).toNat] (tiled.core.tileLength 1) 64 .store (fun y => !y.gateDst) = none ∧
    tiled.core.elemFault 0xF [(tiled.core.sreg 2).toNat] 1024 128 .store (fun _ => false) = none ∧
    tiled.core.elemFault 0xF [(tiled.core.sreg 2).toNat] 1024 128 .load (fun _ => false) = none ∧ tiled.core.plates = [] ∧
    (∃ p k, tiled.core.claim 1 = .ok (p, k) ∧ k.uses = []) ∧
    (∃ r p k, tiled.core.reserve ((offsets (tiled.core.sreg 2).toNat 1024).map rowOf) = .ok r ∧ r.claim 1 = .ok (p, k) ∧ k.uses = []) ∧
    tiled.core.extFault 3 (tiled.core.sreg 4).toNat (tiled.core.tileLength 1) 64 .store (fun y => !y.gateDst) = none := by
  unfold Issues
  and_intros <;> first | decide | exact ⟨_, _, rfl, by decide⟩ | exact ⟨_, _, _, rfl, rfl, by decide⟩

/-- Tile 1 as the dirty tile of the other image, which must be saved first. -/
def otherTile : State := change tiled fun c => { c with r := { c.r with valid := 2, dirty := 2, owner := 2, claimed := 0 } }

/-- Tile 1 with its KiB of `lcl` in a sealed plate, and with an extent that is sealed. -/
def sealedTile : State := change tiled fun c => { c with
  plates := SMap.put PlateTag.reset 127 { PlateTag.reset with sealed := true } c.plates, exts := [{ l2Extent with sealed := true }] }

set_option maxRecDepth 20000 in
theorem witness_TileTransfers_faults :
    Issues (.tzero 1) (fullUndo otherTile) ∧ (fullUndo otherTile).core.tileConf 1 = true ∧ (∃ r, (fullUndo otherTile).core.claim 1 = .error r) ∧
    (∀ i ∈ [Instr.tld 1 15 2 0, .tst 1 15 2 0, .tsave 1 15 2, .trest 1 15 2], ∀ s ∈ [fullUndo otherTile, inWindow tiled 24 0, sealedTile], Issues i s) ∧
    (∃ r, (fullUndo otherTile).core.reserve [] = .ok r ∧ ∃ row, r.claim 1 = .error row) ∧
    (∃ row, (fullUndo tiled).core.reserve [rowOf 0x7FC00] = .error row) ∧
    (∃ p k, (inWindow tiled 24 0).core.claim 1 = .ok (p, k) ∧ (k.busyBank false (p + 0) [bankOf 0x7FC00]).isSome = true) ∧
    (∃ f, tiled.core.elemFault 0xF [(tiled.core.sreg 12).toNat] (tiled.core.tileLength 1) 64 .load (fun _ => false) = some f) ∧
    (∃ f, tiled.core.elemFault 0xF [(tiled.core.sreg 12).toNat] (tiled.core.tileLength 1) 64 .store (fun y => !y.gateDst) = some f) ∧
    (∃ f, tiled.core.elemFault 0xF [(tiled.core.sreg 12).toNat] 1024 128 .store (fun _ => false) = some f) ∧
    (∃ o, sealedTile.core.sealedOff (offsets (sealedTile.core.sreg 2).toNat 1024) = some o) ∧
    (∀ i ∈ [Instr.tst 1 3 4 0, .tst 1 3 4 1], Issues i sealedTile ∧ Issues i tiled) ∧ (sealedTile.core.extent 3).map (·.sealed) = some true ∧
    (tiled.core.extent 3).map (·.sealed) = some false ∧ Issues (.tst 1 3 4 0) (fullGate tiled) ∧ 64 ≤ (fullGate tiled).core.gated.length ∧
    (∃ row, (gatedBy (fullUndo otherTile) (fullUndo otherTile).core 5 0x02 0 1 (.write .l2 .null [])).core.claim 1 = .error row) := by
  unfold Issues
  and_intros <;> first | decide | exact Option.isSome_iff_exists.1 (by decide) | exact ⟨_, rfl⟩ | exact ⟨_, rfl, _, rfl⟩ | exact ⟨_, _, rfl, by decide⟩

theorem witness_TileRowsReachVectors : (1 : Nat) < 2 ∧ (15 : Nat) < 16 ∧ 15 < tiled.core.tileCols 1 ∧ 3 < tiled.core.tileSize 1 ∧
    tiled.core.tileSize 1 * (16 * 1 + 15) + 3 < 128 := by decide

/-- A strand whose nests have one step, with a marker in its bundle; s2 = 0x7F000 holds a sparsity word and a tree descriptor. -/
def nested : State := change (regs strand [(2, 0x7F000), (3, 65536)]) fun c => { c with
  bundle := [0x24000000#32]
  lcl := (c.lcl.writeBytes 0x7F000 [2]).writeBytes 0x7F040 [0xFF, 0]
  r := { c.r with nests := Vector.replicate 2 (Vector.replicate 6 ⟨1, 0x6000000000000, 0x6800000000000, 0, 0⟩) } }

/-- The same with its nest going. -/
def going : State := change nested fun c => { c with eng := { c.eng with nest := some ⟨0, [0, 0, 0, 0, 0, 0], 8, 0, 1, 0b0001, 0, 0, true⟩ } }

/-- The handler that has a restored nest waiting. -/
def waiting : State := change going fun c => { c with mode := .service, eng := { c.eng with suspended := true } }

/-- A strand with an operation of q3 that came back with an error. -/
def marked : State := change strand fun c => { c with r := c.r.setQ 3 { c.qreg 3 with arrived := true, err := true } }

theorem witness_SequencerControl_faults :
    Issues .halt marked ∧ marked.core.inHandler = false ∧
    ((marked.core.r.q.getD 3 QReg.reset).err && (marked.core.r.q.getD 3 QReg.reset).arrived) = true ∧
    (∀ k, k < 3 → ((marked.core.r.q.getD k QReg.reset).err && (marked.core.r.q.getD k QReg.reset).arrived) = false) ∧
    Issues .rswap control ∧ control.core.isControl = true ∧
    (let s := change going fun c => { c with mode := .service }
     Issues .rswap s ∧ s.core.isControl = false ∧ s.core.inh = false ∧ s.core.eng.nest ≠ none) := by
  unfold Issues; decide

theorem witness_MatrixTables_refusals :
    Issues (.mfmt 0 0 1) going ∧ going.core.liveEntries.contains 0 = true ∧
    fmtValueOk 0 (going.core.sreg 1).toNat = true ∧ fmtValueOk 0 (going.core.sreg 3).toNat = false ∧ Issues (.mfmt 15 0 3) going ∧
    waiting.core.nestSuspended = true ∧
    (∀ i ∈ [Instr.mnest 1 5 0 1, .mfmt 15 0 1, .macc 3 63 4 0 0, .mret 3 4 0 1, .mspar 2, .mtree 2, .msparOff, .mtreeOff, .mselOff, .msel 3 1 4],
      Issues i waiting) := by
  unfold Issues; decide

set_option maxRecDepth 4000 in
theorem witness_MatrixTables :
    nested.core.nestSuspended = false ∧ going.core.nestSuspended = false ∧
    (∀ i ∈ [Instr.mnest 1 5 0 1, .mnest 1 0 0 3, .mfmt 15 0 1, .mspar 2, .mtree 2, .msparOff, .mtreeOff, .mselOff, .msel 3 1 7], Issues i nested) ∧
    nestValueOk 5 0 (nested.core.sreg 1) = true ∧ nested.core.eng.nest = none ∧ nestValueOk 0 0 (nested.core.sreg 3) = false ∧
    Issues (.mnest 0 0 0 1) going ∧ going.core.eng.nest.map (·.bank) = some (0 : BitVec 1).toNat ∧
    fmtValueOk 0 (nested.core.sreg 1).toNat = true ∧
    going.core.liveEntries.contains 0 = true ∧ nested.core.liveEntries.contains 15 = false ∧
    (∃ k, nested.core.lclRead (nested.core.sreg 2).toNat 128 128 none .sealedLoad = .ok k ∧
      k.heldM k.ccy (offsets (nested.core.sreg 2).toNat 128) = none) ∧
    (∃ k, (change nested fun c => { c with windows := [(0, 0)] }).core.lclRead 0x7F000 128 128 none .sealedLoad = .ok k ∧
      (k.heldM k.ccy (offsets 0x7F000 128)).isSome = true) ∧
    (∃ f, nested.core.lclRead 0x80000 128 128 none .sealedLoad = .error f) ∧ badSparsity [4, 0, 0, 0, 0, 0, 0, 0] = some 0 ∧
    badTree (nested.core.lcl.readBytes (nested.core.sreg 2).toNat 128) = none ∧
    badSparsity (nested.core.lcl.readBytes (nested.core.sreg 2).toNat 8) = none := by
  unfold Issues
  and_intros <;> first | decide | exact ⟨_, rfl, by decide⟩ | exact ⟨_, rfl⟩

/-- The nested strand where entry 24 of the timing tables is 0. -/
def atOnce : State := { nested with tables := [(24, 0)] }

/-- Bank 1 not retired by the nest that is going; s4 = 0x8000, s5 = 0x80000. -/
def rows : State := regs strand [(4, 0x8000), (5, 0x80000)]

/-- Where no plate is sealed, the check of a write is that of its range. -/
theorem unsealed {c : Core} {off len align : Nat} (hp : c.plates = []) (hf : c.lclFault off len align = none) :
    c.lclWriteFault off len align = none := by
  have : c.sealedOff (offsets off len) = none := List.find?_eq_none.2 fun _ _ => by simp [Core.plate, hp, SMap.get, PlateTag.reset]
  simp [Core.lclWriteFault, hf, this]

set_option maxRecDepth 20000 in
theorem witness_MatrixEngine :
    nested.core.nestSuspended = false ∧ going.core.nestSuspended = false ∧ rows.core.nestSuspended = false ∧ strand.core.nestSuspended = false ∧
    Issues (.mgo 1) nested ∧ nested.core.mgoFault (1 : BitVec 1).toNat (nested.lat 24) = none ∧ nested.lat 24 ≠ 0 ∧
    (Issues (.mgo 1) atOnce ∧ atOnce.core.mgoFault (1 : BitVec 1).toNat (atOnce.lat 24) = none ∧ atOnce.lat 24 = 0) ∧
    Issues (.mgo 0) strand ∧ (∃ f, strand.core.mgoFault (0 : BitVec 1).toNat (strand.lat 24) = some f) ∧
    (∀ i ∈ [Instr.macc 3 63 4 0 0, .mzero 0xF, .mret 3 4 0 1, .mstat 4], Issues i rows) ∧
    (0xF : BitVec 4) &&& rows.core.heldBanks = 0 ∧ Issues (.mzero 1) going ∧ 1 &&& going.core.heldBanks ≠ 0 ∧
    (∃ k, rows.core.lclWriteFault (rows.core.sreg 4).toNat (64 * outBytes 0) (min (64 * outBytes 0) 128) = none ∧
      rows.core.reserve ((offsets (rows.core.sreg 4).toNat (64 * outBytes 0)).map rowOf) = .ok k ∧ k.bad = []) ∧
    going.core.eng.nest ≠ none ∧ going.core.lclWriteFault (0x8000) (4096 * outBytes 0) 128 = none ∧
    rows.core.eng.nest = none ∧ rows.core.retiring = false ∧ rows.core.lclWriteFault (rows.core.sreg 4).toNat (4096 * outBytes 0) 128 = none ∧
    (∃ z, rows.core.lclWriteFault (rows.core.sreg 5).toNat (4096 * outBytes 0) 128 = some z) ∧ (∃ z, rows.core.lclWriteFault (rows.core.sreg 5).toNat 64 64 = some z) ∧
    (∃ k, rows.core.lclWriteFault (rows.core.sreg 4).toNat 64 64 = none ∧ rows.core.reserve [rowOf (rows.core.sreg 4).toNat] = .ok k) := by
  unfold Issues
  and_intros <;> (first | exact unsealed rfl (by decide) | decide | exact Option.isSome_iff_exists.1 (by decide) |
    exact ⟨_, by decide, rfl, by decide⟩ | exact ⟨_, by decide, rfl⟩)

/-- An accumulator with a bad word. -/
def badRow : State := spoiled rows (.acc 3 2016)

set_option maxRecDepth 20000 in
theorem witness_MatrixEngine_faults :
    (∃ k, badRow.core.reserve ((offsets (badRow.core.sreg 4).toNat (64 * outBytes 0)).map rowOf) = .ok k ∧
      (k.badAcc 3 (fun i => i / 64 == 63)).isSome = true) ∧ Issues (.macc 3 63 4 0 0) badRow ∧
    (badRow.core.badAcc 3 fun _ => true).isSome = true ∧ (rows.core.badAcc 3 fun _ => true) = none ∧
    (∃ z, rows.core.lclWriteFault (rows.core.sreg 5).toNat (64 * outBytes 0) (min (64 * outBytes 0) 128) = some z) ∧
    (∀ i ∈ [Instr.macc 3 63 5 0 0, .mret 3 5 0 1, .mstat 5], Issues i rows) ∧ Issues (.mret 3 4 0 1) going := by
  unfold Issues
  and_intros <;> first | decide | exact Option.isSome_iff_exists.1 (by decide) | exact ⟨_, rfl, by decide⟩

/-- A handler with the interrupted matrix state still to be copied, one that has copied it, and one that waits for a restored nest. -/
def saved : MatrixSave := ⟨ArchRegs.reset.nests, ArchRegs.reset.fmt, false, false, none, ArchRegs.reset.src, none, none, []⟩
def interrupted : State := change handler fun c => { c with eng := { c.eng with suspended := true }, save := some saved }
def restored : State := change going fun c => { c with mode := .service, eng := { c.eng with suspended := true } }

theorem witness_MatrixInHandlers :
    interrupted.core.inHandler = true ∧ interrupted.core.eng.suspended = true ∧ interrupted.core.save ≠ none ∧ handler.core.eng.suspended = false ∧
    Issues .mabort interrupted ∧ Issues .mrest interrupted ∧ interrupted.core.nestSuspended = false ∧ interrupted.core.save = some saved ∧
    Issues .mrest handler ∧ handler.core.nestSuspended = false ∧ handler.core.save = none ∧ restored.core.nestSuspended = true ∧
    (∀ i ∈ [Instr.mabort, .mrest, .mgo 0, .mzero 1], Issues i restored) := by
  unfold Issues; decide

theorem witness_RetirementPassesTheBank :
    strand.core.sealedOff ((List.range (4096 * outBytes 0)).map (0x70000 + ·)) = none ∧
    (∃ o, sealedTop.core.sealedOff ((List.range (4096 * outBytes 0)).map (0x7C000 + ·)) = some o) := by
  refine ⟨List.find?_eq_none.2 fun _ _ => Bool.false_ne_true, Option.isSome_iff_exists.1 (List.find?_isSome.2 ⟨0x7F000, ?_, by decide⟩)⟩
  exact List.mem_map.2 ⟨0x3000, List.mem_range.2 (by decide), rfl⟩

/-! ## Slot 7 -/

/-- The strand with an NC extent 5 beside its others, s1 = 16, s2 = 0x7FFF0, s4 = 0xFFF0, s6 = two rows of 16 bytes, s7 their steps,
s8 = 65552, s10 = 2^19 + 16, s12 = 0x80000. -/
def copying : State := change (regs extents [(1, 16), (2, 0x7FFF0), (4, 0xFFF0), (6, 0x200000010), (7, 0xFFFFFFF0FFFFFFF0), (8, 65552),
  (10, 524304), (12, 0x80000), (13, 0x60000), (14, 1)]) fun c => { c with exts := c.exts ++ [{ l2Extent with num := 5, backing := .nc }] }

theorem witness_CopiesCheckTheirRows :
    (∀ i ∈ [Instr.cpy 0 3 2 4 0 0, .cpy 0 3 2 4 14 0, .cpy 0 3 2 4 10 0, .cpy 0 3 2 4 1 0, .cpy 1 3 2 4 1 0, .cpy 0 3 12 4 1 0, .cpy2 0 3 2 4 0 0,
      .cpy2 0 3 2 4 6 0, .cpy2 1 3 2 4 6 0, .cpy2 0 3 12 4 6 0], Issues i copying) ∧ copying.core.sreg 0 = 0 ∧
    (copying.core.sreg 14).toNat % 16 ≠ 0 ∧ (copying.core.sreg 10).toNat % 16 = 0 ∧ 524288 < (copying.core.sreg 10).toNat ∧
    copying.core.sreg 1 ≠ 0 ∧ (copying.core.sreg 1).toNat % 16 = 0 ∧
    (∃ k, copying.core.copyRow ⟨false, 3, 0, false⟩ ⟨0xFFF0, 0x7FFF0, 16⟩ = .ok k) ∧
    (∃ z, copying.core.copyRow ⟨false, 3, 0, false⟩ ⟨0xFFF0, 0x80000, 16⟩ = .error z) ∧
    (∃ k, copying.core.copyRows ⟨true, 3, 0, true⟩ (copying.core.rows2 2 4 6) = .ok k) ∧
    (∃ z, copying.core.copyRows ⟨false, 3, 0, true⟩ (copying.core.rows2 12 4 6) = .error z) ∧
    ((copying.core.sreg 6).extractLsb' 0 32).toNat = 16 ∧ 1 < ((copying.core.sreg 6).extractLsb' 32 16).toNat := by
  unfold Issues
  and_intros <;> first | decide | exact passes (by decide) | exact fails (by decide)

/-- The same with an extent 6 of 1 MiB and a sealed extent 7. -/
def copyingMore : State := change copying fun c => { c with
  exts := c.exts ++ [{ l2Extent with num := 6, length := 0x100000 }, { l2Extent with num := 7, sealed := true }] }

theorem witness_CopiesCheckTheirRows_order :
    (copyingMore.core.copyRange ⟨false, 7, 0, false⟩ ⟨16, 0x60000, 16⟩ = none ∧
      (copyingMore.core.copySealed ⟨false, 7, 0, false⟩ ⟨16, 0x60000, 16⟩).isSome = true) ∧
    (copyingMore.core.extSide ⟨false, 3, 0, false⟩ ⟨0x10000, 0, 16⟩ 1).isSome = true ∧
    copyingMore.core.extSide ⟨false, 6, 0, false⟩ ⟨0, 0, 524304⟩ 1 = none ∧
    copyingMore.core.extSide ⟨false, 3, 0, false⟩ ⟨0xFFF0, 0x80000, 16⟩ 1 = none ∧ (copyingMore.core.lclFault 0x80000 16 1).isSome = true ∧
    copyingMore.core.extSide ⟨false, 3, 0, false⟩ ⟨0, 0x60000, 8⟩ 1 = none ∧ copyingMore.core.lclFault 0x60000 8 1 = none := by decide

theorem witness_CopiesIntoLcl :
    (∃ u, copying.core.reserve ((markChunks true (chunkOffsets ⟨false, 5, 0, true⟩ (copying.core.rows2 2 4 6))).map fun x => rowOf (physOf 0 x.dst)) = .ok u) ∧
    (⟨false, 0xF, 0, false⟩ : CopyForm).ext = 0xF ∧ copying.core.extent 5 = some { l2Extent with num := 5, backing := .nc } ∧
    copying.core.extent 3 = some l2Extent ∧ (∃ row, (fullUndo copying).core.reserve [rowOf 0x7FFF0] = .error row) := by
  exact ⟨passes (by decide), by decide, by decide, by decide, _, rfl⟩

theorem witness_CopiesTagTheirPlates : (∃ x ∈ [(⟨0, 0x7FFF0, true⟩ : Chunk)], plateOf x.dst = 127) ∧
    ∀ x ∈ [(⟨0, 0x7FFF0, true⟩ : Chunk)], plateOf x.dst ≠ 126 := by decide

theorem witness_CopiesOutOfLcl :
    copying.core.extent 3 = some l2Extent ∧ copying.core.isControl = false ∧ copying.core.gated.length < 64 ∧
    (fullGate copying).outbound (fullGate copying).core + 16 * 1 ≤ 65536 ∧ 64 ≤ (fullGate copying).core.gated.length ∧
    65536 < copying.outbound copying.core + 16 * 4097 ∧ copying.outbound copying.core + 16 * 4096 ≤ 65536 ∧
    (∀ n, (chunkOffsets ⟨true, 3, 0, false⟩ [⟨0, 0x60000, 16 * n⟩]).length = n) ∧ conservator.core.isControl = true ∧
    (∃ x, conservator.core.extent 2 = some x ∧ x.backing ≠ .stretcher) ∧
    (∀ s ∈ [control, writingRegister], s.core.isControl = true ∧ (s.core.extent 0).map (·.backing) = some .stretcher) ∧
    (control.released.any fun g => g.toStretcher control.core.id) = false ∧
    (writingRegister.released.any fun g => g.toStretcher writingRegister.core.id) = true := by
  and_intros <;> first | decide | exact fun n => by simp [chunkOffsets]

/-- A strand alone in its cohort, and one with a full landing register 3 of tag 5. -/
def alone : State := change extents fun c => { c with tcount := 1, cohsize := 1, coh := 1 }
def landed : State := change strand fun c => { c with r := c.r.setL 3 ⟨0, 5, true⟩ }

/-- Curator A with an L2-backed extent 3, as none of the control cores has. -/
def cached : State := change (regs control [(1, 16)]) fun c => { c with exts := c.exts ++ [l2Extent] }

theorem witness_WaitsMaintenanceAndTransfers_forms :
    Issues (.mwait 64) control ∧ 64 ≤ (64 : BitVec 7).toNat ∧ (∀ i ∈ [Instr.cflush 15 4 1, .cinv 15 4 1, .cflush 5 4 1, .cinv 5 4 1], Issues i copying) ∧
    copying.core.extFault 5 (copying.core.sreg 4).toNat (copying.core.sreg 1).toNat 1 .load (fun y => !y.device && y.backing != .host) = none ∧
    copying.core.extent 5 = some { l2Extent with num := 5, backing := .nc } ∧ Issues (.cflush 3 4 1) (fullGate copying) ∧
    64 ≤ (fullGate copying).core.gated.length ∧ Issues (.cflush 3 0 1) cached ∧ cached.core.isControl = true ∧ cached.core.sreg 1 ≠ 0 ∧
    cached.core.extent 3 = some l2Extent ∧
    cached.core.extFault 3 (cached.core.sreg 0).toNat (cached.core.sreg 1).toNat 1 .load (fun y => !y.device && y.backing != .host) = none := by
  unfold Issues; decide

theorem witness_WaitsMaintenanceAndTransfers :
    Issues (.mwait 127) strand ∧ strand.core.isControl = false ∧ Issues (.mwait 63) control ∧ control.core.isControl = true ∧
    (∀ i ∈ [Instr.cflush 3 4 0, .cinv 3 4 0, .cflush 3 4 1, .cinv 3 4 1, .cflush 3 4 12, .cinv 3 4 12], Issues i copying) ∧
    copying.core.sreg 0 = 0 ∧ copying.core.sreg 1 ≠ 0 ∧ copying.core.extent 3 = some l2Extent ∧
    copying.core.extFault 3 (copying.core.sreg 4).toNat (copying.core.sreg 1).toNat 1 .load (fun y => !y.device && y.backing != .host) = none ∧
    copying.core.isControl = false ∧ copying.core.gated.length < 64 ∧
    (∃ f, copying.core.extFault 3 (copying.core.sreg 4).toNat (copying.core.sreg 12).toNat 1 .load
      (fun y => !y.device && y.backing != .host) = some f) ∧
    (∀ i ∈ [Instr.send 3 1 0 0, .send 0 1 127 0], Issues i alone) ∧
    (∃ d, (alone.cohort alone.core.coh).find? (fun d => d.tstrand % d.cohsize == (0 : BitVec 7).toNat) = some d) ∧
    (alone.cohort alone.core.coh).find? (fun d => d.tstrand % d.cohsize == (127 : BitVec 7).toNat) = none ∧
    (∀ i ∈ [Instr.recv 3 1 5, .recv 3 1 6, .recv 0 1 0], Issues i landed) ∧ (landed.core.lreg 3).full = true ∧ (landed.core.lreg 3).tag = 5 ∧
    (landed.core.lreg 0).full = false := by
  unfold Issues
  and_intros <;> first | decide | exact ⟨_, rfl⟩

/-- The strand with partition 0 and its ring slot 255; and a q register in use by an operation, with a result, and with an error. -/
def ringed : State := { strand with partOf := SMap.put none 0 (some 0) [], slotOwner := SMap.put none 255 (some 0) [] }
def armed : RingEntry := ⟨.rget, 0, 255, 0, 0, 0, 0, 0, false, .armed 0⟩
def asked (s : State) : State := change s fun c => { c with r := c.r.setQ 1 { c.qreg 1 with entry := some armed } }
def arrived (err : Bool) : State := change ringed fun c => { c with r := c.r.setQ 1 { c.qreg 1 with arrived := true, err := err } }

theorem witness_RingOperationsReserveTheirRegister :
    (∀ s ∈ [ringed, asked ringed, strand, control], ∀ i ∈ [Instr.rget 1 255 0, .rput 1 255 0 0, .radd 1 255 1 3 0, .rmax 1 255 1 3 0, .rmin 1 255 1 3 0,
      .rand 1 255 1 3 0, .ror 1 255 1 3 0, .rcas 1 255 1 3 2 0, .rboard 1 255 0 0, .ralight 1 255 0], Issues i s) ∧
    strand.ringOwns strand.core 0 255 = false ∧ ringed.ringOwns ringed.core 0 255 = true ∧ (ringed.core.qreg 1).busy = false ∧
    ringed.core.isControl = false ∧ ringed.core.gated.length < 64 ∧ ((asked ringed).core.qreg 1).busy = true ∧
    (asked ringed).ringOwns (asked ringed).core 0 255 = true ∧ control.ringOwns control.core 3 255 = true ∧ control.core.isControl = true ∧
    (control.core.qreg 1).busy = false ∧ Issues (.rput 1 255 0 0) (fullGate ringed) ∧
    (fullGate ringed).ringOwns (fullGate ringed).core 0 255 = true ∧ 64 ≤ (fullGate ringed).core.gated.length := by
  unfold Issues; decide

theorem witness_RingOperationsAtTheSlot :
    { armed with kind := .rcas, word := 3 }.word < 4 ∧ (⟨true, 255, 0⟩ : Slot).boarded = true ∧ (⟨false, 0, 0⟩ : Slot).boarded = false ∧
    (⟨true, 255, 0⟩ : Slot).payload.extractLsb' (64 * 3) 64 = { armed with kind := .rcas, word := 3 }.cmp ∧
    (⟨true, 0, 1 <<< 255⟩ : Slot).payload.extractLsb' (64 * 3) 64 ≠ { armed with kind := .rcas, word := 3 }.cmp := by decide

/-- A strand with a collective outstanding. -/
def collective : State := change strand fun c => { c with colls := [⟨1, none⟩] }

theorem witness_CollectingResults :
    (∀ s ∈ [ringed, asked ringed, asked control, arrived true, arrived false], Issues (.rcol 3 1 3) s) ∧
    (∀ s ∈ [asked ringed, arrived false], Issues (.rcolRev 3 1) s) ∧
    ((arrived true).core.qreg 1).arrived = true ∧ ((arrived true).core.qreg 1).err = true ∧ ((arrived false).core.qreg 1).arrived = true ∧
    ((arrived false).core.qreg 1).err = false ∧ (arrived false).core.isControl = false ∧ (ringed.core.qreg 1).arrived = false ∧
    (ringed.core.qreg 1).busy = false ∧ ((asked ringed).core.qreg 1).arrived = false ∧ ((asked ringed).core.qreg 1).entry = some armed ∧
    armed.phase ≠ .gated ∧ ((asked control).core.qreg 1).arrived = false ∧ ((asked control).core.qreg 1).entry = some armed ∧
    (∀ s ∈ [control, strand, collective], Issues (.cwait 3) s) ∧ strand.core.colls.length ≤ strand.core.collecting ∧
    collective.core.collecting < collective.core.colls.length ∧ collective.core.isControl = false := by
  unfold Issues; decide

/-- A world whose gate 0 leads from compartment 1 to compartment 0, in lines of 128 bytes. -/
def gatePolicy : List Byte := [1, 0, 2, 1] ++ List.replicate 12 0 ++ [1, 0, 0, 0, 32, 0, 1, 0, 0, 1] ++ List.replicate 502 0
def world0 : World := ⟨gatePolicy, 1, none, [(1, [])], [], [], false⟩

/-- A strand of that world with a gate destination 6; s1 = 128, s2 = 0x7F800; there a path descriptor with rows of 128 bytes and, at s3,
a collective descriptor of one element. s4 = 65 and s5 = 0xFF80, s6 = 2. -/
def gated : State := { change (regs extents [(1, 128), (2, 0x7F800), (3, 0x7F880), (4, 65), (5, 0xFF80), (6, 2)]) (fun c => { c with
  exts := c.exts ++ [{ l2Extent with num := 6, gateDst := true, comp := 0 }]
  collgrp := some 0, cohsize := 1
  lcl := (c.lcl.writeBytes 0x7F800 [128, 0, 0, 0, 0, 0, 0, 0, 0x80]).writeBytes 0x7F880 [0, 0, 0, 0, 0, 0, 0, 0, 0x80, 0, 0, 0, 0, 0, 0, 0, 1] }) with
  worlds := [(0, world0)] }

/-- The same with extent 3 sealed. -/
def sealedPath : State := change gated fun c => { c with exts := c.exts.map fun x => { x with sealed := x.sealed || x.num == 3 } }

def pathBytes : List Byte := gated.core.lcl.readBytes 0x7F800 128
def collBytes : List Byte := gated.core.lcl.readBytes 0x7F880 32

set_option maxRecDepth 4000 in
theorem witness_GatesCommitsAndCollectives :
    Issues (.gpass 6 3 0 5 1) control ∧ control.core.isControl = true ∧ gated.core.isControl = false ∧
    (∀ i ∈ [Instr.gpass 6 3 5 5 1, .gpass 6 15 5 2 1, .gpass 6 3 5 5 4, .kvcommit 3 2 0, .kvcommit 3 2 4, .kvcommit 3 2 6, .coll 3 3 0 0], Issues i gated) ∧
    Issues (.coll 3 3 0 0) strand ∧ strand.core.collgrp = none ∧
    (∃ f, gated.gateCheck ⟨6, 3, 0xFF80, 0xFF80, 65⟩ = .error f) ∧
    (∃ k l, gated.gateCheck ⟨6, 3, 0xFF80, 0xFF80, 128⟩ = .ok (k, l) ∧ (k.extent 6).isSome = true ∧ (k.extent 3).isSome = true ∧ k.gated.length < 64) ∧
    (∃ k l, gated.gateCheck ⟨6, 15, 0xFF80, 0x7F800, 128⟩ = .ok (k, l) ∧ (k.extent 6).isSome = true ∧ k.extent 15 = none) ∧
    gated.core.sreg 0 = 0 ∧ 64 < (gated.core.sreg 4).toNat ∧ (gated.core.sreg 6).toNat = 2 ∧
    (∃ k, gated.core.lclRead (gated.core.sreg 2).toNat 128 128 none .sealedLoad = .ok k ∧ pathOk pathBytes 2 = true ∧ (k.extent 3).isSome = true ∧
      (∀ j, j < 2 → k.l2Range 3 (fun _ => true) (fieldAt pathBytes 8 8 + fieldAt pathBytes (32 + j) 1 * fieldAt pathBytes 0 4) (fieldAt pathBytes 0 4) = none ∧
        k.l2Range 3 (fun _ => true) (fieldAt pathBytes 16 8 + j * fieldAt pathBytes 0 4) (fieldAt pathBytes 0 4) = none) ∧ k.gated.length < 64) ∧
    (sealedPath.core.extent 3).map (·.sealed) = some true ∧ Issues (.kvcommit 3 2 6) sealedPath ∧ gated.core.collgrp = some 0 ∧
    (∃ k, gated.core.lclRead (gated.core.sreg 3).toNat 32 32 none .sealedLoad = .ok k ∧ fieldAt collBytes 0 8 % 128 = 0 ∧ fieldAt collBytes 8 8 % 128 = 0 ∧
      fieldAt collBytes 16 4 = 1 ∧ zeroBytes collBytes 20 12 = true ∧
      k.l2Range 3 (fun _ => true) (fieldAt collBytes 0 8) (fieldAt collBytes 16 4 * collSize 0) = none ∧
      k.l2Range 3 (fun _ => true) (fieldAt collBytes 8 8) (fieldAt collBytes 16 4 * collSize 0) = none ∧ k.extent 3 = some l2Extent ∧
      l2Extent.sealed = false ∧ k.colls.length < 4 ∧ k.gated.length < 64) ∧
    gated.world l2Extent.world = some world0 ∧ world0.gen = l2Extent.gen := by
  unfold Issues
  and_intros <;> first | decide | exact fails (by decide) | exact ⟨_, _, rfl, by decide⟩ | exact ⟨_, rfl, by decide⟩

/-- The Conservator with s3 = 0x3F8, s4 = 511, s5 = 2^16, s6 = 63; core 511 is loading and its column is
shifted. -/
def loading : State := { change (regs conservator [(3, 0x3F8), (4, 511), (5, 0x10000), (6, 63), (7, 0x3FFF8)])
  (fun c => { c with plates := SMap.put PlateTag.reset 0 { PlateTag.reset with sealed := true } c.plates }) with
  shifted := [columnOf 511], cstate := SMap.put CoreState.reset 2 ⟨0, false, 0⟩ [] }

/-- Curator A with s1 = 32 and the same s2, and a core in service mode with s8 = 32760. -/
def curator : State := regs control [(1, 32), (2, 0x0FFF01FF)]
def debugging : State := regs service [(8, 32760)]

/-- The same with a sealed B buffer and s1 = 0x80000. -/
def debugFar : State := change (regs debugging [(1, 0x80000)]) fun c => { c with eng := { c.eng with bsealed := true } }

/-- A strand whose overpaint is a converter of format 6. -/
def converter : State := { strand with overpaints := [⟨0, 1, 0, 0, 1, false, 6, [], []⟩] }

theorem witness_ConvertersAndSystemLoads :
    (∀ s ∈ [converter, strand], Issues (.fxcall 1 2 6 0) s) ∧ (∃ x fl, converter.convertBy converter.core.id 6 0 (converter.core.vreg 2) = some (x, fl)) ∧
    strand.convertBy strand.core.id 6 0 (strand.core.vreg 2) = none ∧
    (∀ i ∈ [Instr.iload 15 0 2 1, .iload 15 0 2 0], Issues i curator) ∧ Issues (.dbgrd 1 8 2) debugging ∧
    (∀ i ∈ [Instr.ovpload 2 0 6, .gcommit 4, .gcommit 14, .dbgrd 1 6 0, .dbgrd 1 7 1, .dbgrd 1 3 1], Issues i loading) ∧
    curator.core.sreg 2 &&& ~~~0x0FFF01FF = 0 ∧ (curator.core.sreg 1).toNat = 32 ∧
    ((curator.core.sreg 2).extractLsb' 16 12).toNat + (curator.core.sreg 1).toNat / 32 ≤ 4096 ∧
    (∃ k, curator.core.readSource 15 (curator.core.sreg 0).toNat (curator.core.sreg 1).toNat = .ok k) ∧ curator.core.sreg 0 = 0 ∧
    loading.core.sreg 6 &&& ~~~0x3F = 0 ∧ (∃ y, loading.core.extent 2 = some y) ∧
    (∃ k, loading.core.readSource 2 (loading.core.sreg 0).toNat 6291456 = .ok k) ∧ (loading.cs ((loading.core.sreg 4).extractLsb' 0 9).toNat).state = 3 ∧
    loading.shifted.contains (columnOf ((loading.core.sreg 4).extractLsb' 0 9).toNat) = true ∧
    loading.noFwUpdate ((loading.core.sreg 4).extractLsb' 0 9).toNat none = false ∧ (loading.cs 2).state ≠ 3 ∧
    (loading.core.sreg 6).toNat < loading.core.lclSize / 4096 ∧ loading.core.lclFault (loading.core.sreg 7).toNat 8 8 = none ∧
    loading.core.sealedOff (offsets (loading.core.sreg 7).toNat 8) = none ∧
    loading.core.badWord (offsets (loading.core.sreg 7).toNat 8) = none ∧ debugging.core.badReg (· == .bbuf 4095) = none ∧ loading.core.lclFault (loading.core.sreg 3).toNat 8 8 = none ∧
    (∃ o, loading.core.sealedOff (offsets (loading.core.sreg 3).toNat 8) = some o) ∧ (debugging.core.sreg 8).toNat ≤ 32760 ∧
    (debugging.core.sreg 8).toNat % 8 = 0 ∧ debugging.core.eng.bsealed = false := by
  unfold Issues
  refine ⟨by decide, ⟨_, _, rfl⟩, ?_⟩
  and_intros <;> first | decide | exact ⟨0x3F8, by decide⟩ | exact ⟨_, rfl⟩

/-- Curator A with operands that `iload` does not take: a reserved bit in s3, a length of 1 in s4, and two bundles past the last. -/
def misloading : State := regs control [(1, 32), (2, 0x0FFF01FF), (3, 0x200), (4, 1), (5, 64)]

theorem witness_ConvertersAndSystemLoads_illegal :
    (∀ i ∈ [Instr.iload 15 0 3 1, .iload 15 0 2 0, .iload 15 0 2 4, .iload 15 0 2 5], Issues i misloading) ∧
    misloading.core.sreg 3 &&& ~~~0x0FFF01FF ≠ 0 ∧ misloading.core.sreg 0 = 0 ∧ (misloading.core.sreg 4).toNat % 32 ≠ 0 ∧
    4096 < ((misloading.core.sreg 2).extractLsb' 16 12).toNat + (misloading.core.sreg 5).toNat / 32 ∧
    misloading.core.sreg 1 ≠ 0 ∧ (misloading.core.sreg 1).toNat % 32 = 0 ∧
    Issues (.ovpload 2 0 5) loading ∧ loading.core.sreg 5 &&& ~~~0x3F ≠ 0 := by
  unfold Issues; decide

theorem witness_ConvertersAndSystemLoads_refusals :
    (∃ z, curator.core.readSource 15 0x80000 32 = .error z) ∧ (∃ z, loading.core.readSource 3 0 6291456 = .error z) ∧
    Issues (.iload 15 0 2 1) curator ∧ Issues (.ovpload 3 0 6) loading ∧ ({ loading with shifted := [] }.shifted.contains 0) = false ∧
    ({ loading with shifted := [] }.cs 511).state = 3 ∧ (∀ i ∈ [Instr.dbgrd 1 1 0, .dbgrd 1 1 1, .dbgrd 1 1 2, .dbgrd 1 8 2], Issues i debugFar) ∧
    debugFar.core.lclSize / 4096 ≤ (debugFar.core.sreg 1).toNat ∧ (∃ z, debugFar.core.lclFault (debugFar.core.sreg 1).toNat 8 8 = some z) ∧
    32760 < (debugFar.core.sreg 1).toNat ∧ (debugFar.core.sreg 8).toNat ≤ 32760 ∧ debugFar.core.eng.bsealed = true := by
  unfold Issues
  and_intros <;> first | decide | exact ⟨_, rfl⟩

/-! ## Rows without a word -/

/-- The machine after reset with link 15 so. -/
def linked (l : Link) : State := { State.reset with links := [(15, l)] }
def linkUp : Link := { Link.reset with up := true }

theorem witness_LinksCarryFlits :
    (∀ s ∈ [State.reset], (s.link 15).up = false ∧ (s.link 15).removed = false) ∧ ((linked { linkUp with asks := 8 }).link 15).up = true ∧
    8 ≤ ((linked { linkUp with asks := 8 }).link 15).asks ∧ ((linked linkUp).link 15).timeQueued = false ∧ ((linked linkUp).link 15).retry = none ∧
    ((linked linkUp).link 15).resend = none ∧ ((linked linkUp).link 15).pauseMask = 0 ∧ ((linked linkUp).link 15).removed = false ∧
    ((linked linkUp).link 15).paused (linked linkUp).time.gcy 4 = false ∧ ((linked linkUp).link 15).paused (linked linkUp).time.gcy 0 = false ∧ ((linked linkUp).link 15).replay.length < 128 ∧
    ((linked { Link.reset with asks := 8 }).link 15).up = false ∧ 8 ≤ ((linked { Link.reset with asks := 8 }).link 15).asks := by
  decide

/-- The machine after reset at global cycle 2048, with a pending alignment. -/
def aligning (n : Int) : State := { State.reset with time := { State.reset.time with gcy := 2048, enable := true, pending := n } }

/-- The same with a level change of cohort 0 ready, and with 16 overloaded intervals of regulator 3. -/
def levelled : State := { State.reset with core := { State.reset.core with run := .halted }, others := [], pendLevel := [(0, 2, 0)] }
def overloaded : State := { State.reset with regs := State.reset.regs.setIfInBounds 3 { Regulator.reset with overRuns := 16 } }

theorem witness_TimeAndPower :
    (aligning 1).time.enable = true ∧ 0 < (aligning 1).time.pending ∧ (aligning (-1)).time.pending < 0 ∧
    (aligning 0).tasks.any Task.dispatched = false ∧ (∀ k, State.reset.clusterBusy k = false) ∧
    ((List.range 4).filter (· != 3)).foldl (fun t k => t + (State.reset.reg k).cap.toNat) 0 +
      (((650 : BitVec 32) <<< 16).extractLsb' 16 10 : BitVec 10).toNat = 2600 ∧
    ((aligning 0).reg 3).lastRun + 2048 ≤ (aligning 0).time.gcy ∧ levelled.pendLevel.find? (fun p => p.1 == 0) = some (0, 2, 0) ∧
    (∀ c ∈ levelled.cohort 0, c.goes = true ∧ 0 ≤ c.ccy) ∧ 16 ≤ (overloaded.reg 3).overRuns := by
  and_intros <;> first | decide | exact fun _ => rfl

/-- A machine whose functions answer requests, with virtual function 127 so. -/
def answering (f : Vf) : State := { State.reset with pf := ⟨false, 2, 9, 0, 0, true, true, 0, ⟨0, 0, 0⟩⟩, vfs := [(127, f)] }
def onQueue7 (q : LaunchQueue) : State := answering { Vf.reset with lq := Vf.reset.lq.setIfInBounds 7 q }
def enabled : State := onQueue7 { LaunchQueue.reset with enable := true, log2 := 12 }

theorem witness_QueueRegisters :
    TakesWrites enabled 127 ∧ ((enabled.vf 127).queue 7).enable = true ∧ ((4095 : BitVec 32).extractLsb' 0 16).toNat < 2 ^ ((enabled.vf 127).queue 7).log2.toNat ∧
    2 ^ ((enabled.vf 127).queue 7).log2.toNat ≤ ((4096 : BitVec 32).extractLsb' 0 16).toNat ∧ TakesWrites (answering Vf.reset) 127 ∧
    (((answering Vf.reset).vf 127).queue 7).enable = false ∧ (128 : Word) &&& ~~~(0x7F : Word) ≠ ((enabled.vf 127).queue 7).base ∧
    (0x80040000 : BitVec 32).getLsbD 31 = true ∧ sizeLegal ((0x80040000 : BitVec 32).extractLsb' 16 4) = true ∧
    sizeLegal ((0x800C0000 : BitVec 32).extractLsb' 16 4) = true ∧ ((answering Vf.reset).vf 127).cqEnable = false := by
  unfold TakesWrites; decide

/-- Virtual function 127 with its completion queue in use. -/
def completing : State := answering { Vf.reset with cqEnable := true, cqLog2 := 4 }

theorem witness_QueueRegisters_forms :
    (0x800B0000 : BitVec 32).extractLsb' 16 4 ≠ ((enabled.vf 127).queue 7).log2 ∧
    (0x000C0000 : BitVec 32).extractLsb' 16 4 = ((enabled.vf 127).queue 7).log2 ∧ (0x80030000 : BitVec 32).getLsbD 31 = true ∧
    sizeLegal ((0x80030000 : BitVec 32).extractLsb' 16 4) = false ∧ (0x00040000 : BitVec 32).getLsbD 31 = false ∧ TakesWrites completing 127 ∧
    (completing.vf 127).cqEnable = true ∧ (32 : Word) &&& ~~~(0x1F : Word) ≠ (completing.vf 127).cqBase ∧
    (0x80050000 : BitVec 32).extractLsb' 16 4 ≠ (completing.vf 127).cqLog2 ∧
    (0x00040000 : BitVec 32).extractLsb' 16 4 = (completing.vf 127).cqLog2 := by
  unfold TakesWrites; decide

/-- A record of a task of one strand, cohort size and cohorts 1, of timing class 0; and the task. -/
def jobRecord : List Byte := [0, 0, 0, 2, 1, 1, 1, 0, 1, 0] ++ List.replicate 118 0
def job (p : TaskPhase) : Task :=
  { id := 1, vf := 127, lnum := 0, queue := 0, lidx := 0, record := jobRecord, image := [], exttab := [], fmttab := [], world := 0, gen := 0,
    phase := p, exts := [], pages := [], built := 0, places := [], anchor := 0, slips := 0, slipped := false, since := 0, asked := false,
    parkedCores := [], cohortsLeft := 1, haltGcy := 0, inval := none, partner := none, fin := none, split := false }

/-- A task that has ended. -/
def done : Task := { job .ended with fin := some ⟨6, 0, 0, 5, 5⟩ }
def finished (holding : Bool) : State := { answering Vf.reset with tasks := [done], cur := { State.reset.cur with holding := holding } }

theorem witness_FunctionsAndRecords :
    (∃ e, (finished false).nextRecord 127 = some (done, e)) ∧ (finished false).cur.holding = false ∧ (∃ e, (finished true).nextRecord 127 = some (done, e)) ∧
    (finished true).cur.holding = true ∧ (finished true).cur.hold.length < 256 ∧ ((finished true).vf 127).resetting = false ∧
    ((finished true).vf 127).tdi ≠ 3 ∧ (finished true).pfWaits [127] = false ∧ ((finished true).vf 127).tdi = 0 ∧
    (∀ p, p < 64 → ((0 : BitVec 128).extractLsb' 64 64 : Word).getLsbD p = true → (finished true).worldOf p = some ((0 : BitVec 128).extractLsb' 0 6).toNat) ∧
    (answering { Vf.reset with tdi := 2 }).pfWaits [127] = false ∧ ((answering { Vf.reset with tdi := 2 }).vf 127).isLocked = true ∧
    State.reset.s2inv = none ∧ ((1 : BitVec 128) <<< 127).getLsbD 127 = true ∧ ((1 : BitVec 128) <<< 127).extractLsb' 103 24 = 0 ∧
    (answering { Vf.reset with tdi := 2 }).withPrimer 127 = false ∧
    ((answering { Vf.reset with resetting := true, scrubbing := true }).vf 127).resetting = true ∧
    ((answering { Vf.reset with resetting := true, scrubbing := true }).vf 127).scrubbing = true ∧
    ((answering { Vf.reset with resetting := true, scrubbing := true }).slotScrub.any fun x =>
      ((answering { Vf.reset with resetting := true, scrubbing := true }).vfSlots 127).contains x) = false ∧ TakesWrites (answering Vf.reset) 127 := by
  unfold TakesWrites
  exact ⟨⟨_, rfl⟩, by decide, ⟨_, rfl⟩, by decide⟩

/-- Virtual function 127 so, whose partition 0 holds ring slot 255; a task of it has ended. -/
def slotted (f : Vf) : State := { answering { f with parts := 1 } with
  tasks := [done], partOf := SMap.put none 0 (some 0) [], slotOwner := SMap.put none 255 (some 0) [] }

theorem witness_FunctionsAndRecords_settled :
    (∀ s ∈ [answering Vf.reset, answering { Vf.reset with tdi := 2 }], s.unfinished 127 = false) ∧
    ((answering { Vf.reset with tdi := 2 }).vf 127).isLocked = true ∧ (answering Vf.reset).vfAccepts 127 false = true ∧
    (answering Vf.reset).pfWaits (List.range 128) = false := by decide

theorem witness_FunctionsAndRecords_more :
    (∃ x, ({ State.reset with s2inv := some x }).s2inv ≠ none) ∧ (answering Vf.reset).pfWaits [127] = false ∧ ((answering Vf.reset).vf 127).tdi = 0 ∧
    (15 : BitVec 8).extractLsb' 0 4 ≠ (0 : BitVec 4) ∧ (answering Vf.reset).pfWaits (List.range 128) = false ∧
    ((answering Vf.reset).vf 127).resetting = false ∧ (answering Vf.reset).vfAccepts 127 false = true ∧
    (answering Vf.reset).withPrimer 127 = false ∧ ((answering Vf.reset).vf 127).isLocked = false ∧
    ((slotted { Vf.reset with resetting := true }).vf 127).resetting = true ∧ ((slotted { Vf.reset with resetting := true }).vf 127).scrubbing = false ∧
    (∀ k ∈ (slotted { Vf.reset with resetting := true }).tasks, k.vf = 127 → k.phase = .ended ∧
      (slotted { Vf.reset with resetting := true }).effectsDone k.id = true) ∧ (slotted { Vf.reset with resetting := true }).vfSlots 127 ≠ [] ∧
    SMap.wfFrom 0 0 (answering Vf.reset).s2root = true ∧ inDoeMirror 0x108 = false ∧ (512 : Nat) ≤ 515 ∧ (some 5 : Option Nat) ≠ some (1 + 127) := by
  and_intros <;> first | decide | exact ⟨⟨0, 0, 0, []⟩, by decide⟩

/-- Virtual function 127 unlocked with all that a lock needs, locked with a report, and running. -/
def ready : State := { answering { Vf.reset with secure := true, bound := true, parts := 1 } with meas := [] }
def locked : State := answering { Vf.reset with tdi := 1, nonce := 7, report := [1, 2, 3] }

theorem witness_TdispRequests :
    (∀ s ∈ [ready, locked, State.reset], TakesMessages s 127) ∧ (locked.vf 127).tdi ≠ 0 ∧ (ready.vf 127).tdi = 0 ∧ ready.tdichk 127 = 0x3F ∧
    (1 : BitVec 16) &&& 0xFFFE = 0 ∧ State.reset.tdichk 127 ≠ 0x3F ∧ (State.reset.vf 127).tdi = 0 ∧ (ready.vf 127).isLocked = false ∧
    (locked.vf 127).isLocked = true ∧ (2 : BitVec 16).toNat < (locked.vf 127).report.length ∧ (ready.vf 127).tdi ≠ 1 ∧ (locked.vf 127).tdi = 1 ∧
    (8 : Payload) ≠ (locked.vf 127).nonce ∧ (locked.vf 127).report.length ≤ (3 : BitVec 16).toNat := by
  unfold TakesMessages; decide

/-- A TDISP message with the Primer, and a message of 1,024 bytes for virtual function 127. -/
def event : TdiEvt := ⟨1, 127, 0, 16, []⟩
def message : List Byte := [0, 0, 0, 0, 128, 0] ++ List.replicate 1018 0

set_option maxRecDepth 8000 in
theorem witness_PrimerServices :
    (((1 : Word).extractLsb' 0 2 : BitVec 2) = 1 ∧ ((2 : Word).extractLsb' 0 2 : BitVec 2) = 2 ∧ ((3 : Word).extractLsb' 0 2 : BitVec 2) = 3 ∧
      ((0 : Word).extractLsb' 0 2 : BitVec 2) = 0) ∧ (ready.vf 127).tdi = 0 ∧ (locked.vf 127).tdi = 1 ∧
    ({ ready with tdiEvt := some event }).tdiEvt = some event ∧ event.kind = 1 ∧ (2048 : BitVec 16).toNat ≤ 2048 ∧
    (({ ready with tdiEvt := some event }).vf event.vf).resetting = false ∧ State.reset.primerUp = true ∧ TakesMessages ready 127 ∧
    message.length = 1024 ∧ fieldAt message 4 2 % 256 = 1 + 127 ∧ ([0x13, 0x84] : List Byte).length < 16 ∧
    fieldAt [0x13, 0x84] 1 1 = 0x84 ∧ fieldAt [0x12, 0xE0] 1 1 ≠ 0x84 ∧ fieldAt [0x12, 0xE0] 0 1 ≠ 0x13 ∧ { event with kind := 3 }.kind ≠ 1 ∧
    ((2 ^ 16 - 1 : Word).extractLsb' 16 48 : BitVec 48) = 0 := by
  unfold TakesMessages; decide

/-- A TDISP message of 16 bytes, and virtual function 127 locked with it in TDIEVT. -/
def tdisp (version code : Byte) : List Byte := [version, code, 0, 0, 128] ++ List.replicate 11 0
def showing (msg : List Byte) : State := { locked with tdiEvt := some ⟨1, 127, 0, msg.length, msg⟩ }

theorem witness_PrimerServices_answers :
    (∀ msg ∈ [tdisp 0x11 0x81, tdisp 0x10 0x80, tdisp 0x10 0x88, tdisp 0x10 0x81, tdisp 0x10 0x85, tdisp 0x10 0x87],
      (showing msg).tdiEvt = some ⟨1, 127, 0, msg.length, msg⟩ ∧ 16 ≤ msg.length ∧ ((showing msg).vf 127).resetting = false ∧
      (showing msg).tdiRsp.wf = true) ∧
    fieldAt (tdisp 0x11 0x81) 0 1 ≠ 0x10 ∧ (∀ k ∈ [(0x80 : Byte), 0x81, 0x85, 0x87, 0x88],
      fieldAt (tdisp 0x10 k) 0 1 = 0x10 ∧ fieldAt (tdisp 0x10 k) 1 1 = k.toNat) ∧
    fieldAt (tdisp 0x10 0x81) 4 2 % 256 = 1 + 127 ∧ fieldAt (List.replicate 16 (0 : Byte)) 4 2 % 256 ≠ 1 + 127 ∧
    (1024 < (List.replicate 1025 (0 : Byte)).length) ∧ fieldAt [0x13, 0xE0, 1, 4] 1 1 = 0xE0 ∧ fieldAt [0x13, 0xE0, 1, 4] 0 1 = 0x13 := by
  and_intros <;> first | exact (by rw [List.length_replicate]; decide) | decide

/-- World 63 so, and virtual function 127 bound to it. -/
def inWorld (w : World) : State := { answering { Vf.reset with bound := true, world := 63 } with worlds := [(63, w)] }
def worldPolicy : List Byte := [1, 0, 2, 0] ++ List.replicate 524 0
def plain : World := ⟨worldPolicy, 2, none, [(2, [7])], [], [], false⟩
def sealPolicy : List Byte := [1, 0, 1, 1] ++ List.replicate 52 0

set_option maxRecDepth 8000 in
theorem witness_WorldsAndSeals :
    State.reset.spdmOnly = false ∧ State.reset.primerUp = true ∧ State.reset.world 63 = none ∧ policyOk worldPolicy = true ∧
    (inWorld plain).world 63 = some plain ∧ (inWorld plain).spdmOnly = false ∧ (inWorld plain).primerUp = true ∧ plain.prev = none ∧
    plain.destroying = false ∧ plain.gen ≠ 0xFFFF ∧ ((inWorld plain).vf 127).bound = true ∧ ((inWorld plain).vf 127).world.toNat = 63 ∧
    ({ inWorld plain with vfs := [] }.vfs.any fun p => p.2.bound && p.2.world.toNat == 63) = false ∧
    (inWorld { plain with destroying := true }).world 63 = some { plain with destroying := true } ∧
    (plain.seals.any fun y => y.1 == 8) = false ∧ sealPolicyOk (policyComps plain.policy) sealPolicy = true ∧
    ((inWorld { plain with seals := [(8, sealPolicy, 0)] }).world 63).isSome = true ∧
    ({ inWorld { plain with prev := some 1 } with fot := SMap.put 0xFE 0 63 [] }.owner 0).toNat = 63 ∧
    ((inWorld { plain with prev := some 1, moved := [0] }).world 63).isSome = true ∧
    (∀ f ∈ (inWorld { plain with prev := some 1, moved := [0] }).framesOf 63, f ∈ [0]) ∧ (inWorld plain).tasks = [] := by
  decide

set_option maxRecDepth 8000 in
theorem witness_WorldsAndSeals_generations :
    ({ inWorld { plain with prev := some 1 } with fot := SMap.put 0xFE 0 63 [] }.needsFrame 63 1 0) = false ∧
    { plain with prev := some 1 }.prev = some 1 ∧ (inWorld plain).world 63 = some plain ∧ State.reset.world 63 = none ∧
    policyOk worldPolicy = true := by decide

set_option maxRecDepth 8000 in
theorem witness_WorldsAndSeals_more :
    (∀ m ∈ [(⟨none, true⟩ : Mailbox), ⟨none, false⟩, ⟨some 127, true⟩], State.reset.serviceWaits m = false ∧ (inWorld plain).serviceWaits m = false) ∧
    policyOk [] = false ∧ { plain with gen := 0xFFFF }.prev = none ∧ ((inWorld plain).vfs.any fun p => p.2.bound && p.2.world.toNat == 63) = true ∧
    ({ plain with seals := [(8, sealPolicy, 0)] }.seals.any fun y => y.1 == 8) = true ∧
    (∀ f ∈ ({ plain with destroying := true } : World).moved, (inWorld plain).owner f ≠ 0xFE) ∧ (inWorld plain).inTraining 0 = false ∧
    (0 : Nat) ∉ ({ plain with prev := some 1 } : World).moved ∧
    (∃ f ∈ ({ plain with destroying := true, moved := [0] } : World).moved, State.reset.owner f = 0xFE) := by decide

/-- The machine with function 127 bound to partition 0 (cluster 0) in world 0, core 0 operational there, and one task. -/
def launched (k : Task) : State := { answering { Vf.reset with bound := true, parts := 1, lnum := 1 } with
  tasks := [k], partOf := SMap.put none 0 (some 0) [], partWorld := SMap.put none 0 (some 0) [],
  cstate := SMap.put CoreState.reset 0 ⟨0, false, 0⟩ [], time := { State.reset.time with gcy := 256 } }

/-- The same with one extent declared that no page table maps. -/
def unmapped : Task := { job .translating with
  record := jobRecord.set 11 1, exttab := List.replicate 32 0 ++ List.replicate 8 0 ++ [0, 16] ++ List.replicate 22 0 }

/-- A task that follows launch number 1 of another task, which has failed (8) or is ready (3). -/
def follower (p : TaskPhase) : Task := { job p with id := 2, lnum := 2, record := (jobRecord.set 12 1).set 16 1 }
def behind (p : TaskPhase) (word : Word) : State := { answering { Vf.reset with bound := true, parts := 1, lnum := 3, status := SMap.put 0 1 word [] } with
  tasks := [follower p], time := { State.reset.time with gcy := 256 } }

/-- Core 0 running task 1 in a cohort of its own, and halted there. -/
def tasked (r : RunState) : Core := { Core.fresh 0 r .task ArchRegs.reset 0 with task := 1, coh := 1025, cohsize := 1, tcount := 1, preempt := some 0 }
def halting : State := { launched { job .running with places := [⟨0, 0, 0, 0⟩] } with others := { tasked .halted with ccy := 1 } :: State.reset.others }

/-- A queue that waits for a FETCH of its entry 15, one whose record has been fetched, and one of a function that is stopped. -/
def fetching (q : LaunchQueue) (tdi : BitVec 2) : State := answering { Vf.reset with lq := Vf.reset.lq.setIfInBounds 7 q, tdi := tdi, lnum := 1 }

set_option exponentiation.threshold 1100 in
set_option maxRecDepth 4000 in
theorem witness_LaunchesAndDispatch :
    (∀ p ∈ [TaskPhase.ready, .waiting, .running, .parked], (launched (job p)).task 1 = some (job p)) ∧
    (∃ f t, (launched unmapped).translate unmapped = (.error f, t)) ∧
    (∃ xs pages gen t, (launched (job .translating)).translate (job .translating) = (.ok (xs, pages, gen), t) ∧ t.awaitsMove 0 xs = false) ∧
    (launched (job .ready)).retired [] = true ∧ (behind .invalidating (2 ^ 32 + 8)).task 2 = some (follower .invalidating) ∧
    (behind .invalidating (2 ^ 32 + 8)).failedPred (follower .invalidating) = some 1 ∧
    (256 % 256 = 0 ∧ (launched (job .ready)).time.gcy ≤ 256 ∧ (launched (job .ready)).cur.paused = false ∧
      (launched (job .ready)).vfStopped 127 = false ∧ ((launched (job .ready)).vf 127).bound = true ∧
      (launched (job .ready)).placesFit (job .ready) [⟨0, 0, 0, 0⟩] = true ∧
      (launched (job .ready)).mayServe (job .ready) ((launched (job .ready)).placePartition (job .ready) [⟨0, 0, 0, 0⟩]) = true) ∧
    ((job .waiting).anchor + (job .waiting).startOfs ≤ (launched (job .waiting)).time.gcy ∧ (launched (job .waiting)).failedPred (job .waiting) = none ∧
      (launched (job .waiting)).openPreds (job .waiting) = []) ∧
    ((behind .waiting (2 ^ 32 + 3)).failedPred (follower .waiting) = none ∧ (behind .waiting (2 ^ 32 + 3)).openPreds (follower .waiting) ≠ []) ∧
    (halting.cores.any fun c => !c.isControl && c.task == 1 && c.run != .ended && c.preempt.isSome && decide (c.pbound < c.ccy - c.pbFrom)) = true ∧
    (State.reset.window + 1700000 ≤ (aligning 0).time.gcy + 1700000) ∧
    halting.coreOf 0 = some { tasked .halted with ccy := 1 } ∧ (tasked .halted).isControl = false ∧
    halting.cohortOver { tasked .halted with ccy := 1 } = true ∧
    halting.cur.holding = false ∧ (fetching LaunchQueue.reset 0).commandIs 512 1 127 7 15 = true ∧ (15 : BitVec 32).extractLsb' 16 16 = 0 ∧
    (((fetching { LaunchQueue.reset with enable := true, log2 := 12, tail := 4095 } 0).vf 127).queue 7).tail.toNat < 2 ^ 12 ∧
    (fetching LaunchQueue.reset 3).vfStopped 127 = true ∧ ((fetching LaunchQueue.reset 0).launchWord 127 0).extractLsb' 0 4 = 0 ∧
    ((fetching LaunchQueue.reset 0).vf 127).queue 7 = LaunchQueue.reset ∧
    (((fetching { LaunchQueue.reset with record := some (15, jobRecord) } 0).vf 127).queue 7).record = some (15, jobRecord) ∧
    (fetching LaunchQueue.reset 0).commandIs 512 2 127 7 0 = true := by
  and_intros <;> first | exact fun _ _ => rfl | rfl | exact ⟨_, _, rfl⟩ | exact ⟨_, _, _, _, rfl, by decide⟩ | decide

/-- The same in a world whose generation is the task's. -/
def opened (k : Task) : State := { launched k with worlds := [(0, { world0 with gen := 0 })] }

/-- A member of a pair that is to run on the cores of the other, which is so. -/
def member : Task := { job .ready with record := jobRecord.set 0 1, partner := some 2 }
def paired (p : TaskPhase) : State := { opened member with tasks := [member, { job p with id := 2, places := [⟨0, 0, 0, 0⟩] }] }
def late : Task := { job .waiting with slipped := true }
def shelved : Task := { job .parked with places := [⟨0, 0, 0, 0⟩] }

set_option exponentiation.threshold 1100 in
set_option maxRecDepth 4000 in
theorem witness_LaunchesAndDispatch_more :
    (launched unmapped).training = 0 ∧ (∃ x, { State.reset with s2inv := some x }.retired x.waits = true) ∧
    (launched (job .invalidating)).failedPred (job .invalidating) = none ∧ (launched (job .invalidating)).openPreds (job .invalidating) = [] ∧
    (job .invalidating).inval = none ∧ (opened (job .ready)).openTo (job .ready) = true ∧ (opened (job .ready)).builtNow (job .ready) = true ∧
    (opened (job .ready)).placesFit (job .ready) [⟨0, 0, 0, 0⟩] = true ∧ (job .ready).type ≠ 1 ∧
    (opened (job .ready)).mayServe (job .ready) ((opened (job .ready)).placePartition (job .ready) [⟨0, 0, 0, 0⟩]) = true ∧
    (launched (job .ready)).builtNow (job .ready) = false ∧
    (∀ p ∈ [TaskPhase.running, .parked], member.type = 1 ∧ (paired p).openTo member = true ∧ (paired p).builtNow member = true ∧
      (member.partner.bind (paired p).task).map (fun x => (x.phase, x.partner, x.places)) = some (p, none, [⟨0, 0, 0, 0⟩])) ∧
    (paired .parked).placesAllowed member [⟨0, 0, 0, 0⟩] = true ∧ late.slipped = true ∧ (launched late).openPreds late = [] ∧
    (launched late).cur.paused = false ∧ (behind .waiting (2 ^ 32 + 8)).failedPred (follower .waiting) = some 1 ∧
    (launched shelved).mayUnpark shelved = true ∧
    ((job .preempted).partner.bind (opened (job .preempted)).task = none ∧ (opened (job .preempted)).placesFit (job .preempted) [⟨0, 0, 0, 0⟩] = true ∧
      (opened (job .preempted)).mayServe (job .preempted) ((opened (job .preempted)).placePartition (job .preempted) [⟨0, 0, 0, 0⟩]) = true) ∧
    (∃ xs pages gen t, (opened (job .preempted)).translate (job .preempted) = (.ok (xs, pages, gen), t) ∧ t.awaitsMove 0 xs = false ∧
      t.inClosedStack xs = false) ∧ { tasked .halted with ccy := 1 }.task = 1 := by
  and_intros <;> first | decide | exact ⟨⟨0, 0, 0, []⟩, by decide⟩ | exact ⟨_, _, _, _, rfl, by decide⟩

/-- A member that has waited out its partner's task, which is parked behind task 3; and a task of another world. -/
def moved : Task := { job .ready with world := 5 }
def switched : State := { opened member with
  tasks := [{ member with phase := .switching }, { job .parked with id := 2, partner := some 3, places := [⟨0, 0, 0, 0⟩] },
    { job .running with id := 3 }] }

set_option exponentiation.threshold 1100 in
set_option maxRecDepth 4000 in
theorem witness_LaunchesAndDispatch_worlds :
    (opened (job .ready)).task 1 = some (job .ready) ∧ ((opened (job .ready)).vf (job .ready).vf).world.toNat = (job .ready).world ∧
    ((opened moved).vf 127).world.toNat ≠ moved.world ∧ (opened moved).openTo moved = true ∧ ((opened moved).vf 127).bound = true ∧
    tableFault moved.exttab (moved.field 11 1) (moved.type == 3) moved.sealId
      ((opened moved).compartments ((opened moved).vf 127).world.toNat) = none ∧
    (switched.task 1 = some { member with phase := .switching } ∧ (switched.vf 127).bound = true ∧ switched.vfStopped 127 = false ∧
      (member.partner.bind switched.task).map (·.partner) = some (some 3)) ∧
    (∃ c ∈ shelved.cores, ({ launched shelved with cstate := [] }.coreFits shelved c) = false) ∧
    tableFault (job .preempted).exttab ((job .preempted).field 11 1) ((job .preempted).type == 3) (job .preempted).sealId
      ((opened (job .preempted)).compartments (job .preempted).world) = none := by
  and_intros <;> decide

/-- Two tasks of one tier ready for the clusters of partition 0, one of them running for a quantum. -/
def rival : Task := { job .ready with id := 2, vf := 126 }
def veteran : Task := { job .running with places := [⟨0, 0, 0, 0⟩] }
def contended : State := { launched veteran with
  tasks := [veteran, rival], vfs := [(126, { Vf.reset with bound := true, parts := 1 }), (127, { Vf.reset with bound := true, parts := 1 })]
  time := { State.reset.time with gcy := 85000 } }

set_option exponentiation.threshold 1100 in
set_option maxRecDepth 4000 in
theorem witness_LaunchesAndDispatch_quantum :
    contended.task 2 = some rival ∧ contended.task 1 = some veteran ∧ veteran.since + 85000 ≤ contended.time.gcy ∧ rival.vf ≠ veteran.vf ∧
    rival.tier = veteran.tier ∧ (∃ c ∈ veteran.cores, ∃ p, contended.partitionOf (clusterOf c) = some p ∧ ∃ x ∈ contended.readyIn p, x.id = rival.id) := by
  exact ⟨rfl, rfl, by decide, by decide, rfl, 0, by decide, 0, by decide⟩

/-- Curator A faulted and Curator B holding; frame 0 so. -/
def crashed : State := { State.reset with core := { State.reset.core with run := .faulted } }
def frame0 (o : BitVec 8) : State := { State.reset with fot := SMap.put 0xFE 0 o [] }

theorem witness_CuratorAndFrames :
    (0 : Nat) < fotFirst ∧ (∃ a, crashed.coreOf 512 = some a ∧ a.run = .faulted) ∧ (513 : Nat) ≠ State.reset.activeCurator ∧
    entryLen State.reset.cur.journal0 4095 ≤ 1008 ∧ ({ State.reset.cur with holding := true }).holding = true ∧ State.reset.cur.hold.length < 256 ∧
    (frame0 0xFF).owner 0 = 0xFF ∧ State.reset.owner 0 = 0xFE ∧ (frame0 0x3F).owner 0 ≠ 0xFF ∧ (frame0 0x3F).owner 0 ≠ 0xFE ∧
    ownerValid ((frame0 0x3F).owner 0) = true ∧ (frame0 0x3F).pinnedFrame 0 = false ∧
    ({ frame0 0x3F with tasks := [{ job .running with exts := [{ l2Extent with runs := [(0, 0, 0x10000)] }] }] }.pinnedFrame 0) = true ∧
    ownerValid (State.reset.owner 0) = false ∧ (State.reset.fills.any fun f => frameOfLine f.index == 0) = false := by
  exact ⟨by decide, ⟨_, rfl, by decide⟩, by decide⟩

/-- A journal whose first entry gives a length of 1,009. -/
def longEntry : Memory := [(4, 0xF1), (5, 0x03)]

theorem witness_CuratorAndFrames_journal :
    (512 : Nat) < 516 ∧ (515 : Nat) < 516 ∧ 1008 < entryLen longEntry 0 ∧ entryLen State.reset.cur.journal0 0 ≤ 1008 := by decide

/-- A released effect of core 0, a fill for line 5, and a line of cluster 0. -/
def effect (e : OutEffect) : Gated := ⟨0, 0, 0, 1024, 0, 7, 0x02, 0, 0, e⟩
def released (e : OutEffect) : State := { State.reset with released := [effect e] }
def fill5 : Fill := ⟨0, 0, 5, .comp 0 1 1, 0, [], false⟩
def line5 : Line := ⟨0, 5, 0, 0, 0, false, .comp 0 1 1, 0, true, 0⟩
def foreign : State := { State.reset with hbmTags := SMap.put 0 5 1 [] }
def arriving : Uncached := ⟨0, .host, .curator, [(0, 0x8000)], [], 0⟩
def fetched : State := change strand fun c => { c with uncached := [arriving] }

set_option exponentiation.threshold 1100 in
set_option maxRecDepth 4000 in
theorem witness_MemoryEvents :
    (∀ e ∈ [OutEffect.write .host .curator [(0, 1)], .flush [5], .inval [5], .write .l2 (.comp 0 1 1) [(640, 1), (767, 2)]],
      (released e).nextEffect = some (effect e) ∧ (released e).fillsFor 0 = false ∧
      (released e).released.find? (fun h => h.id == 0) = some (effect e)) ∧
    fetched.coreOf fetched.core.id = some fetched.core ∧ (∃ x, State.reset.hbmRead fill5.index fill5.key = some x) ∧ State.reset.hit 0 5 fill5.key = none ∧
    State.reset.stackBad.getLsbD (stackOfLine 5) = false ∧ { State.reset with fills := [fill5] }.fills.find? (fun f => f.id == 0) = some fill5 ∧
    foreign.hbmRead fill5.index fill5.key = none ∧
    ({ State.reset with lines := [line5] }.hit 0 5 (.comp 0 1 1)).isSome = true ∧ (∀ b ∈ [((640 : Nat), (1 : Byte)), (767, 2)], b.1 / 128 = 5) ∧
    State.reset.clusterBusy 63 = false ∧ (State.reset.col 63).change = none ∧
    ((8 : BitVec 32).extractLsb' 0 4 : BitVec 4) = (State.reset.col 63).off ^^^ ((1 : BitVec 4) <<< 3) ∧ ((8 : BitVec 32).extractLsb' 0 2 : BitVec 2) ≠ 3 ∧
    ((8 : BitVec 32).extractLsb' 2 2 : BitVec 2) ≠ 3 ∧ halting.clusterBusy 0 = true ∧
    ({ State.reset with l2col := [(63, ⟨false, 0, some (3, true)⟩)] }.col 63).change = some (3, true) ∧
    (State.reset.released.any fun x => x.cluster == 63) = false ∧
    fetched.core.uncached.find? (fun x => x.copy == arriving.copy) = some arriving ∧ arriving.moves.length ≤ 16 ∧ arriving.moves ≠ [] := by
  refine ⟨?_, rfl, ⟨0, by decide⟩, by decide, by decide, by decide, by decide, ?_⟩
  · simp only [List.forall_mem_cons, List.not_mem_nil, false_imp_iff, implies_true, and_true]
    and_intros <;> rfl
  · and_intros <;> decide

/-- Stack 0 in training, or with a task in it. -/
def trained : State := { State.reset with training := 1 }
def occupied : State := { State.reset with tasks := [{ job .running with exts := [{ l2Extent with runs := [(0, 0, 0x10000)] }] }] }

theorem witness_MemoryEvents_more :
    State.reset.fillWaits fill5 = false ∧ State.reset.badStack 5 = false ∧ State.reset.hasRoom 0 5 fill5.key 0 = true ∧
    (released (.write .host .curator [(0, 1)])).dmaStopped (1024 / 1024) = false ∧
    (released (.write .stretcher .curator [(0, 1)])).nextEffect = some (effect (.write .stretcher .curator [(0, 1)])) ∧
    State.reset.training.getLsbD 0 = false ∧ State.reset.inStack 0 = [] ∧ occupied.training.getLsbD 0 = false ∧ occupied.inStack 0 ≠ [] ∧
    trained.training.getLsbD 0 = true ∧ fetched.dmaStopped fetched.core.task = false := by decide

/-- A writeback that waits for the end of a training. -/
def waitingWrite : HeldWrite := ⟨5, 0, 0, 0⟩

set_option exponentiation.threshold 1100 in
set_option maxRecDepth 4000 in
theorem witness_MemoryEvents_training :
    { line5 with dirty := true }.dirty = true ∧ trained.inTraining line5.index = true ∧
    { trained with heldWb := [waitingWrite] }.heldWb = [waitingWrite] ∧ { trained with heldWb := [waitingWrite] }.wbWaits waitingWrite = true ∧
    { State.reset with heldWb := [waitingWrite] }.wbWaits waitingWrite = false ∧ arriving.dead.length ≤ 16 := by decide

/-- Core 0 as a strand alone in its cohort, beside the control cores, at global cycle 770 (where stop 0 meets slot 254). -/
def strandOf (r : RunState) (f : Core → Core) : Core := f { tasked r with preempt := none }
def beside (c : Core) : State := { State.reset with others := c :: State.reset.others, time := { State.reset.time with gcy := 770 }, slotScrub := [(0, 255)] }

/-- A hold that has taken effect, met or not; a lock that is over; a nest at its step; a fault of a class, reported. -/
def held (met : Bool) : Core := strandOf .running fun c => { c with holds := [⟨0, .clocks 3, .nothing, met⟩] }
def inHold : Core := { held true with inHold := true }
def locking : Core := strandOf .running fun c => { c with lock := some (1, 0), ccy := 1 }
def stepping : Core := strandOf .running fun c => { c with eng := { c.eng with nest := some ⟨0, [0, 0, 0, 0, 0, 0], 0, 0, 1, 0, 0, 0, true⟩ } }
def faulting (cause : Cause) : Core := strandOf .faulted fun c => { c with faults := [⟨cause, some 0, 5, 0⟩] }
def performed : RingEntry := { armed with slot := 254, phase := .armed 0 }
def armedCore : Core := strandOf .running fun c => { c with r := c.r.setQ 3 { c.qreg 3 with entry := some performed } }
def result : RingResult := ⟨0, 0, true, false, false, false, 0, 770⟩
def resultCore : Core := strandOf .running fun c => { c with r := c.r.setQ 3 { c.qreg 3 with result := some result } }
def collecting : State := { beside (strandOf .running fun c => { c with collgrp := some 0 }) with
  colls := [⟨1024, 0, 0, ⟨1, 0, 0, [0], 1, 0, .comp 0 1 1⟩, [0]⟩] }

/-- Two strands of the group that call for different operations. -/
def splitting : State := { collecting with
  colls := collecting.colls ++ [⟨1025, 0, 0, ⟨1, 1, 0, [0], 1, 0, .comp 0 1 1⟩, [0]⟩] }

set_option exponentiation.threshold 1100 in
/-- A cohort whose level is to change, on cluster 0. -/
def changing : State := { beside (strandOf .running id) with pendLevel := [(1025, 2, 0)] }

theorem witness_TimeAndPower_refusals :
    changing.clusterBusy 0 = true ∧
    ((List.range 4).filter (· != 3)).foldl (fun t k => t + (State.reset.reg k).cap.toNat) 0 +
      (((651 : BitVec 32) <<< 16).extractLsb' 16 10 : BitVec 10).toNat = 2601 ∧
    changing.pendLevel.find? (fun p => p.1 == 1025) = some (1025, 2, 0) ∧ changing.cohort 1025 ≠ [] ∧
    (∀ c ∈ changing.cohort 1025, c.goes = true ∧ 0 ≤ c.ccy) := by decide

theorem witness_StrandEvents :
    (∀ c : Core, c.id = 0 → (beside c).coreOf c.id = some c) ∧
    ((held false).goes = true ∧ (held false).isControl = false ∧ (held false).inEffect ≠ [] ∧ (beside (held false)).holdMarked (held false) = false ∧
      (((beside (held false)).holdGroup (held false)).all fun d => d.inEffect.all fun h => h.met) = false) ∧
    ((held true).goes = true ∧ (beside (held true)).holdMarked (held true) = false ∧
      (((beside (held true)).holdGroup (held true)).all fun d => d.inEffect.all fun h => h.met) = true) ∧
    (inHold.inHold = true ∧ (beside inHold).holdMarked inHold = false ∧
      (((beside inHold).holdGroup inHold).all fun d => d.inEffect.all fun h => h.met) = true) ∧
    (locking.lock = some (1, 0) ∧ locking.goes = true ∧ 0 < locking.ccy) ∧
    (stepping.goes = true ∧ stepping.eng.suspended = false ∧ stepping.faults = [] ∧ stepping.eng.nest.map (·.next) = some stepping.ccy ∧
      stepping.eng.nest.map (·.fresh) = some true) ∧
    ((faulting .schedLate).run = .faulted ∧ (faulting .schedLate).isControl = false ∧
      (∀ x ∈ (beside (faulting .schedLate)).verdictOn 1025, x.2.2 = 0 ∧ x.2.1.cause.neverEscalates = false)) ∧
    (∃ d f, ((beside (faulting .illegalOp)).verdictOn 1025).find? (fun x => x.2.2 == 2) = some (d, f, 2)) ∧
    ((strandOf .rolledBack id).run = .rolledBack ∧ (∀ d ∈ (beside (strandOf .rolledBack id)).cohort 1025, d.waitFills = [] ∧ d.faults = [])) ∧
    ((beside armedCore).performing 0 3 = some performed ∧ armedCore.ringEntry 3 = some performed) ∧
    ((resultCore.r.q.getD 3 QReg.reset).result = some result ∧ result.arrives ≤ (beside resultCore).time.gcy ∧ result.img = resultCore.r.act ∧
      resultCore.run = .running) ∧
    ((beside armedCore).slotScrub.contains (0, 255) = true ∧ (255 + 770) % 256 = 1) ∧
    (SMap.get [] 0 (beside armedCore).collWrites = [] ∧ collSplit ((beside armedCore).contributions 0) = none) ∧
    SMap.get [] 0 collecting.collWrites = [] ∧ collSplit (collecting.contributions 0) = none ∧ collecting.contributions 0 ≠ [] ∧
    collecting.allContribute 0 = true ∧ SMap.get [] 0 splitting.collWrites = [] ∧ collSplit (splitting.contributions 0) = some 0x72 ∧
    splitting.allContribute 0 = true := by
  refine ⟨fun c h => ?_, by decide, by decide, by decide, by decide, by decide, by decide, ⟨_, _, rfl⟩, by decide, ⟨rfl, rfl⟩, ⟨rfl, by decide⟩, by decide⟩
  simp [State.coreOf, State.cores, beside, h, State.reset, Core.control, Core.fresh]

theorem witness_StrandEvents_collective :
    (let s := { splitting with others := { strandOf .running (fun c => { c with collgrp := some 0, tstrand := 2 }) with id := 1 } :: splitting.others }
     SMap.get [] 0 s.collWrites = [] ∧ collSplit (s.contributions 0) ≠ none ∧ s.allContribute 0 = false) ∧ (0x71 : BitVec 8) ≠ 0 := by decide

theorem witness_ServiceEvents :
    (∃ e : UnitError, 1 ≤ e.kind ∧ e.kind ≤ 5 ∧ e.place = .unit ∧
      (e.kind = 3 → (State.reset.overpaints.any fun o => o.core == e.core) = false)) ∧
    (∃ e : UnitError, (e.kind = 2 ∨ e.kind = 5) ∧ e.place = .register (.s 63) 8) ∧ (2 : Nat) ≠ 1 ∧ 0 < State.reset.errFree ∧
    ((3 : Word).extractLsb' 0 9 - (0 : BitVec 9)).toNat ≤ ((5 : BitVec 9) - 0).toNat ∧
    (State.reset.errTail - State.reset.errHead).toNat < ((1 : Word).extractLsb' 0 9 - State.reset.errHead).toNat ∧
    (State.reset.cs 511).state ≠ 5 ∧ ((4 : Word).extractLsb' 0 3 : BitVec 3).toNat = 4 ∧ 6 ≤ ((7 : Word).extractLsb' 0 3 : BitVec 3).toNat ∧
    ({ State.reset with cstate := SMap.put CoreState.reset 511 ⟨0, false, 5⟩ [] }.cs 511).state = 5 ∧ (State.reset.cs 511).state = 3 ∧
    ({ State.reset with cstate := SMap.put CoreState.reset 511 ⟨0, false, 0⟩ [] }.cs 511).state ≠ 3 ∧ State.reset.selftest = none ∧
    { State.reset with selftest := some (511, 0x0100) }.selftest = some (511, 0x0100) ∧ (0x0100 : BitVec 16).toNat / 256 ≠ 32 ∧
    511 ∉ State.reset.detours ∧ (strand.coreOf 0).isSome = true ∧ strand.core.sealedOff [0x7FFF8, 0x7FFFF] = none ∧
    sealedTop.core.sealedOff [0x7FFF8, 0x7FFFF] = some 0x7FFF8 ∧ (sealedTop.coreOf 0).isSome = true ∧
    (State.reset.vfs.any fun x => x.2.isLocked && x.2.nfw) = false := by
  exact ⟨⟨⟨0, 0x0100, 5, 0, 0, .unit⟩, by decide⟩, ⟨⟨0, 0x0200, 2, 0, 0, .register (.s 63) 8⟩, by decide⟩, by decide⟩

/-- A core whose matrix row 0 is bypassed by a twin, of two plots; and a unit that awaits its self-test, which is under way. -/
def twinned : State := { State.reset with overpaints := [⟨0, 1, 3, 0x0500, 2, true, 0, [], []⟩] }
def testing (s : State) (unit : BitVec 16) : State := { s with selftest := some (0, unit), suspects := [(0, 0x0300)] }

/-- The same with one overpaint for all. -/
def repaired : State := { twinned with overpaints := [⟨0, 1, 3, 0x0500, 2, false, 0, [], []⟩], suspects := [(0, 0x0500)], selftest := some (0, 0x0500) }

theorem witness_ServiceEvents_outcomes :
    (∃ o, repaired.testPath 0 0x0500 = .overpaint o ∧ o.twin = false) ∧ (0, 0x0500) ∈ repaired.suspects ∧
    (0, 0x0500) ∉ { repaired with suspects := [] }.suspects ∧ { repaired with suspects := [] }.selftest = some (0, 0x0500) ∧
    (⟨0, 0x0400, 2, 0, 0, .hbm 5⟩ : UnitError).place = .hbm 5 ∧ ({ State.reset with errTail := 511 }.errFree = 0) ∧
    ({ State.reset with errTail := 447 }.errFree = 64) ∧ 64 < State.reset.errFree ∧ ((5 : Word).extractLsb' 0 3 : BitVec 3) = 5 := by
  exact ⟨⟨_, rfl, rfl⟩, by decide⟩

/-- A signature of zeros is that of no message. -/
theorem no_signature (key : Nat × Nat) (msg sig : List Byte) (h : beNat (sig.take 48) = 0) : ecdsaOk key msg sig = false := by
  simp [ecdsaOk, h]

set_option exponentiation.threshold 1100 in
set_option maxRecDepth 8000 in
theorem witness_ServiceEvents_more :
    unitValid 0x0300 = true ∧ unitOutside 0x0300 = false ∧ unitOutside 0xF001 = true ∧ reportable 0x0401 = false ∧
    State.reset.twinUnit 0 0x0500 = false ∧ twinned.twinUnit 0 0x0500 = true ∧
    ecdsaOk Config.firmwareKey ((State.reset.flash.readBytes 0 176).take 80) (((State.reset.flash.readBytes 0 176).drop 80).take 96) = false ∧
    (testing State.reset 0x0300).testPath 0 0x0300 = .native ∧ (0, 0x0300) ∈ (testing State.reset 0x0300).suspects ∧
    (0, 0x0500) ∉ (testing twinned 0x0500).suspects ∧ (testing twinned 0x0500).testPath 0 0x0500 ≠ .absent ∧
    (∃ o, (testing twinned 0x0500).testPath 0 0x0500 = .overpaint o) ∧ (testing State.reset 0x2001).testPath 0 0x2001 = .absent ∧
    (0 : Nat) < 512 ∧ (255 : Nat) < 256 ∧ strand.core.eng.bsealed = false ∧ 0x80000 ≤ 0x80000 ∧
    ({ answering { Vf.reset with tdi := 1, nfw := true } with spdmOnly := false }.vfs.any fun x => x.2.isLocked && x.2.nfw) = true := by
  and_intros <;> first | exact no_signature _ _ _ (by decide) | decide | exact ⟨_, rfl⟩

/-! ## Words, steps, writes, exceptions -/

theorem witness_EncodingsRoundTrip : slotOf (.cpy2 1 15 63 63 62 3) < 8 ∧ wellFormed (.cpy2 1 15 63 63 62 3) = true := by decide

/-- A strand whose scalar unit is condemned. -/
def dead : State := { strand with condemned := [(0, 0x0300)] }

theorem witness_IssueChecks :
    decodeSlot 1 0x04410600#32 = some (.add 4 4 6) ∧ ((0x03FFFFFF#32).extractLsb' 26 6 : BitVec 6) = 0 ∧
    slotOf .tret < 8 ∧ strand.core.issueFault .tret = some .privilege ∧ dead.core.issueFault (.add 1 2 3) = none ∧
    (unitsOf (.add 1 2 3)).any dead.dead = true ∧ (spoiled strand (.s 2)).core.issueFault (.add 1 2 3) = none ∧
    (unitsOf (.add 1 2 3)).any (spoiled strand (.s 2)).dead = false ∧ (spoiled strand (.s 2)).core.strikes (.add 1 2 3) = some (.eccReg, some 8) ∧ control.core.isControl = true ∧ notOnControl (.vadd 1 2 3 0) = true ∧
    strand.core.isControl = false ∧ strand.core.mode = .task ∧ service.core.isControl = false ∧ service.core.mode = .service ∧
    (change strand fun c => { c with r := { c.r with tvec := 0x8000000000000000 } }).core.r.tvec.getLsbD 63 = true := by decide

/-- Curator A with a bundle at its PC that holds these bytes. -/
def fetchingBytes (bs : List Byte) : State := change { State.reset with toGo := 0 } fun c => { c with imem := c.imem.writeBytes 0 bs }
def oneAdd : State := fetchingBytes [0, 0, 0, 0, 0x00, 0x06, 0x41, 0x04]
def badWord : State := fetchingBytes [0, 0, 0, 0, 0, 0, 0, 0xFC]
def secondWord : State := change { State.reset with toGo := 0 } fun c => { c with started := true, rest := [(1, 0x04410600#32)] }

theorem witness_StepRunsTheDecodedInstruction :
    Ready oneAdd ∧ oneAdd.core.fetchWords.getD 1 0 ≠ 0 ∧ (∀ j, j < 8 → j ≠ 1 → oneAdd.core.fetchWords.getD j 0 = 0) ∧
    decodeSlot 1 (oneAdd.core.fetchWords.getD 1 0) = some (.add 4 4 6) ∧ oneAdd.core.wordFault 1 (oneAdd.core.fetchWords.getD 1 0) = none ∧
    Ready badWord ∧ badWord.core.wordFault 1 (badWord.core.fetchWords.getD 1 0) = some .illegalOp ∧
    (∀ j, j < 1 → badWord.core.wordFault j (badWord.core.fetchWords.getD j 0) = none) ∧
    (secondWord.power = true ∧ secondWord.boundary = false ∧ secondWord.core.started = true ∧ secondWord.core.rest = [(1, 0x04410600#32)]) ∧
    (State.reset.boundary = true ∧ { State.reset with inputs := [(0, .drbgReseed)] }.nextInput [] [(0, .drbgReseed)] = some (.drbgReseed, [])) ∧
    (State.reset.nextInput [] State.reset.inputs = none ∧ ({ beside inHold with toGo := 4 }).boundary = true ∧
      ({ beside inHold with toGo := 4 }).dueEvent = some (.holdEnd 0)) ∧
    { State.reset with power := false }.power = false ∧ (∀ p ∈ State.reset.inputs, isPackageReset p.2 = false) := by
  unfold Ready; decide

/-- A core with one or two writes in flight, due at its next core cycle. -/
def writing (l : List Late) : Core := strandOf .running fun c => { c with late := l }

theorem witness_WritesTakeEffect :
    (∀ l ∈ (writing [⟨2, 0, 1, 0, .sreg 1 5⟩]).late, (writing [⟨2, 0, 1, 0, .sreg 1 5⟩]).ccy + 1 < l.due) ∧
    (∀ e ∈ [Effect.sreg 0 5, .sreg 63 5, .vreg 31 5, .mreg 7 5], (writing [⟨1, 0, 1, 0, e⟩]).late = [⟨1, 0, 1, 0, e⟩] ∧
      (1 : Nat) ≤ (writing [⟨1, 0, 1, 0, e⟩]).ccy + 1 ∧ (writing [⟨1, 0, 1, 0, e⟩]).holds = []) ∧
    (writing [⟨1, 0, 1, 0, .sreg 1 5⟩, ⟨1, 0, 2, 0, .sreg 1 6⟩]).late = [⟨1, 0, 1, 0, .sreg 1 5⟩, ⟨1, 0, 2, 0, .sreg 1 6⟩] ∧ 16 * 0 + 1 < 16 * 0 + 2 ∧
    (strandOf .running id).lcl.wf = true ∧ ([(0, 1), (1, 2)].map (·.1) : List Nat).Nodup ∧ (handler.core).undoable = false := by
  refine ⟨by decide, fun e _ => ⟨rfl, Nat.le_refl 1, rfl⟩, rfl, by decide⟩

/-- A core with an armed handler, one in a loop of two bundles at its last bundle, and Curator A the same. -/
def armedHandler : Core := strandOf .running fun c => { c with r := { c.r with tvec := 0x8000000000000040 } }
def inLoop (n : BitVec 32) : Core := strandOf .running fun c => { c with pc := 0x60, loops := [⟨0x40, 2, n, 0⟩] }
def armedControl : Core := { Core.control 512 .running with r := { ArchRegs.reset with tvec := 0x8000000000000040 } }

theorem witness_ExceptionsAndCheckpoints :
    (∀ c : Core, c.id = 0 → (beside c).coreOf c.id = some c) ∧ (⟨.misaligned, some 1, 0, 0⟩ : TrapRec).tval = some 1 ∧
    { armedHandler with nextPc := some 0 }.loopAct = none ∧ armedHandler.nextPc = none ∧ armedHandler.loops = [] ∧
    (inLoop 2).nextPc = none ∧ (inLoop 2).loops = [⟨0x40, 2, 2, 0⟩] ∧ (inLoop 2).pc = 0x40 + BitVec.ofNat 17 (32 * (2 - 1)) ∧
    { inLoop 2 with pc := 0x40 }.pc ≠ 0x40 + BitVec.ofNat 17 (32 * (2 - 1)) ∧ (inLoop 1).pc = 0x40 + BitVec.ofNat 17 (32 * (2 - 1)) ∧
    armedHandler.isControl = false ∧ armedHandler.inh = false ∧ armedHandler.r.tvec.getLsbD 63 = true ∧ (strandOf .running id).r.tvec.getLsbD 63 = false ∧
    ({ State.reset with core := armedControl }.coreOf 512) = some armedControl ∧ armedControl.isControl = true ∧ armedControl.inh = false ∧
    armedControl.r.tvec.getLsbD 63 = true ∧ control.core.r.tvec.getLsbD 63 = false := by
  refine ⟨fun c h => ?_, ?_⟩
  · simp [State.coreOf, State.cores, beside, h, State.reset, Core.control, Core.fresh]
  · and_intros <;> first | exact (rfl : (_ : Option Core) = _) | decide

/-- A strand that has halted with an effect to release. -/
def leaving : Core := strandOf .halted fun c => { c with gated := [effect (.flush [5])] }

theorem witness_ExceptionsAndCheckpoints_releases :
    (strandOf .running fun c => { c with inh := true }).isControl = false ∧ (strandOf .running fun c => { c with inh := true }).inh = true ∧
    (∃ d ∈ (beside (strandOf .running id)).cores, d.id ∉ [0]) ∧ (beside leaving).cohort 1025 = [leaving] ∧ leaving.gated ≠ [] ∧
    ∀ d ∈ (beside leaving).cohort 1025, d.faults = [] ∧ d.swap = none ∧ d.call = none ∧ d.ckptWord = none ∧ d.rcolFault = d := by
  have h : (beside leaving).cohort 1025 = [leaving] := rfl
  refine ⟨by decide, by decide, by decide, h, by decide, fun d hd => ?_⟩
  rw [h, List.mem_singleton] at hd
  subst hd
  exact ⟨rfl, rfl, rfl, rfl, rfl⟩

/-! ## The whole machine -/

theorem witness_StepKeepsTheMemories : MemoriesWf State.reset ∧ ∃ t, step State.reset = .next t :=
  ⟨by unfold MemoriesWf; decide, _, rfl⟩

/-! ## The smoke test of WellFormed: an ill-formed term for each check, which the check and the decoder refuse -/

theorem test_ill_formed_words_refused : ∀ i ∈ [Instr.idle 0, .gset 1 2 3 7, .glog 1 2 3 3, .fcmp 1 2 3 0 4, .fcvt 1 2 0 7, .lockb 1 0, .idr 1 7,
      .idr 1 14, .idr 1 15, .vadd 1 2 3 7, .vsub 1 2 3 7, .vmul 1 2 3 7, .vfma 1 2 3 7 4, .vfms 1 2 3 7 4, .vmin 1 2 3 7, .vmax 1 2 3 7,
      .vabs 1 2 6, .vneg 1 2 6, .vand 1 2 3 0, .vor 1 2 3 2, .vxor 1 2 3 7, .vnot 1 2 1, .vshl 1 2 3 0, .vshr 1 2 3 7, .vsra 1 2 3 6,
      .vcmpeq 1 2 3 7, .vcmplt 1 2 3 7, .vcmple 1 2 3 7, .vsel 1 2 3 7 1, .vsplat 1 7 0, .vext 1 2 0 32, .vins 1 2 1 64, .vcvt 1 2 3 3,
      .vcvt 1 2 7 3, .vcvt 1 2 3 7, .vidx 1 7, .vexp 1 2 3, .vexp2 1 2 3, .vlog2 1 2 4, .vrcp 1 2 5, .vrsqrt 1 2 6, .vsqrt 1 2 7,
      .vdiv 1 2 3 3, .vtanh 1 2 3, .vsigm 1 2 3, .vredsum 1 2 7, .vredmax 1 2 7, .vredmin 1 2 7, .vscan 1 2 7, .vsortk 1 2 0 1,
      .vsortk 1 2 7 3, .vperm 1 2 3 7, .vrotl 1 2 6 32, .vpack 1 2 3 5 3 0, .vpack 1 2 3 4 3 1, .vunpack 1 2 3 5 0 0, .vrnd 1 2 3 1,
      .vbVfma 1 2 3 7 4, .vbVadd 1 2 3 7, .vbVmul 1 2 3 7, .vlds 1 15 63 0 0, .vsts 1 15 63 0 0 0 0, .mnest 0 6 0 1, .mnest 0 0 5 1,
      .mfmt 0 7 1, .msel 0 0 5, .macc 0 0 1 5 0, .mret 0 1 5 0, .cpy2 0 3 1 2 63 0, .coll 3 1 3 0, .coll 3 1 0 3, .dbgrd 1 2 3],
    wellFormed i = false ∧ decodeSlot (slotOf i) (encode i) = none := by decide

/-- A canvas on a compute core, and a vector register of the lower half of none on a control core. -/
theorem test_ill_formed_on_a_core : (∀ i ∈ [Instr.rget 0 1 1, .rput 0 1 2 1, .radd 0 1 2 0 1, .rmax 0 1 2 0 1, .rmin 0 1 2 0 1, .rand 0 1 2 0 1, .ror 0 1 2 0 1,
      .rcas 0 1 2 0 3 1, .rboard 0 1 2 1, .ralight 0 1 1], strand.core.issueFault i = some .illegalOp) ∧
    ∀ i ∈ [Instr.rput 0 1 16 1, .rboard 0 1 16 1], control.core.issueFault i = some .illegalOp := by decide

/-! ## Instructions on small states -/

/-- What an instruction leaves in flight. -/
def effects (i : Instr) (s : State) : List Effect :=
  match exec i s with
  | .next t => t.core.late.map (·.eff)
  | _ => []

/-- The faults that an instruction raises, and their values. -/
def faultsOf (i : Instr) (s : State) : List (Cause × Option Word) :=
  match exec i s with
  | .next t => t.core.faults.map fun f => (f.cause, f.tval)
  | _ => []

/-- The strand with s2 = x and s3 = y. -/
def pair (x y : Word) : State := regs strand [(2, x), (3, y)]

/-- The table of R292. -/
theorem test_division_corners :
    effects (.div 1 2 3) (pair 7 0) = [.sreg 1 0xFFFFFFFFFFFFFFFF] ∧ effects (.remu 1 2 3) (pair 7 0) = [.sreg 1 7] ∧
    effects (.div 1 2 3) (pair 0x8000000000000000 0xFFFFFFFFFFFFFFFF) = [.sreg 1 0x8000000000000000] ∧
    effects (.rem 1 2 3) (pair 0x8000000000000000 0xFFFFFFFFFFFFFFFF) = [.sreg 1 0] ∧
    effects (.div 1 2 3) (pair 0xFFFFFFFFFFFFFFF9 2) = [.sreg 1 0xFFFFFFFFFFFFFFFD] ∧
    effects (.rem 1 2 3) (pair 0xFFFFFFFFFFFFFFF9 2) = [.sreg 1 0xFFFFFFFFFFFFFFFF] := by decide

/-- R291, by hand: -1 times -1, signed and unsigned; a sum that wraps; shifts by 65; a signed and an unsigned comparison. -/
theorem test_integer_results :
    effects (.mulh 1 2 3) (pair 0xFFFFFFFFFFFFFFFF 0xFFFFFFFFFFFFFFFF) = [.sreg 1 0] ∧
    effects (.mulhu 1 2 3) (pair 0xFFFFFFFFFFFFFFFF 0xFFFFFFFFFFFFFFFF) = [.sreg 1 0xFFFFFFFFFFFFFFFE] ∧
    effects (.add 2 2 2) (pair 0x8000000000000001 0) = [.sreg 2 2] ∧ effects (.sra 1 2 3) (pair 0x8000000000000000 65) = [.sreg 1 0xC000000000000000] ∧
    effects (.rotr 1 2 3) (pair 1 65) = [.sreg 1 0x8000000000000000] ∧ effects (.slt 1 2 3) (pair 0xFFFFFFFFFFFFFFFF 1) = [.sreg 1 1] ∧
    effects (.sltu 1 2 3) (pair 0xFFFFFFFFFFFFFFFF 1) = [.sreg 1 0] := by decide

/-- R291, by hand: counts of zero and of one bit, and bits gathered from and scattered to 0xF0F0. -/
theorem test_bit_fields :
    effects (.clz 1 2) (pair 0 0) = [.sreg 1 64] ∧ effects (.ctz 1 2) (pair 8 0) = [.sreg 1 3] ∧
    effects (.bext 1 2 3) (pair 0xABCD 0xF0F0) = [.sreg 1 0xAC] ∧ effects (.bdep 1 2 3) (pair 0xAC 0xF0F0) = [.sreg 1 0xA0C0] := by decide

/-- R293, R294, by hand: immediates of both signs, and `sel` on an inverted guard. -/
theorem test_immediates :
    effects (.addi 1 2 0x3FFF) (pair 0 0) = [.sreg 1 0xFFFFFFFFFFFFFFFF] ∧ effects (.ori 1 2 0x3FFF) (pair 0 0) = [.sreg 1 0x3FFF] ∧
    effects (.lui 1 0x80000) (pair 0 0) = [.sreg 1 0xFFFFFFFF80000000] ∧ effects (.sel 1 2 3 8) (pair 5 6) = [.sreg 1 6] := by decide

/-- The examples of R299: `fcvt.i64.f64` of 2.5, -2.5 and 1.0e19, and their flags. -/
theorem test_fcvt_examples :
    effects (.fcvt 1 2 1 0) (pair 0x4004000000000000 0) = [.sreg 1 2, .events ⟨0x01, 0, 0, 0, 0⟩] ∧
    effects (.fcvt 1 2 1 0) (pair 0xC004000000000000 0) = [.sreg 1 0xFFFFFFFFFFFFFFFE, .events ⟨0x01, 0, 0, 0, 0⟩] ∧
    effects (.fcvt 1 2 1 0) (pair 0x43E158E460913D00 0) = [.sreg 1 0x7FFFFFFFFFFFFFFF, .events ⟨0x10, 0, 0, 0, 0⟩] := by decide

/-- R200, R207, R297, by hand: 1 + 2 in FP32, 1 / 0 in FP64, the square root of -1, and the smaller of the two zeros. -/
theorem test_floating_point :
    effects (.fadd 1 2 3 0) (pair 0xFFFFFFFF3F800000 0x40000000) = [.sreg 1 0x40400000, .events ⟨0, 0, 0, 0, 0⟩] ∧
    effects (.fdiv 1 2 3 1) (pair 0x3FF0000000000000 0) = [.sreg 1 0x7FF0000000000000, .events ⟨0x08, 0, 0, 0, 0⟩] ∧
    effects (.fsqrt 1 2 0) (pair 0xBF800000 0) = [.sreg 1 0x7FC00000, .events ⟨0x10, 0, 0, 0, 0⟩] ∧
    effects (.fmin 1 2 3 0) (pair 0 0x80000000) = [.sreg 1 0x80000000, .events ⟨0, 0, 0, 0, 0⟩] := by decide

/-- R300, R301, by hand: a byte with its sign, and bytes in little-endian order. -/
theorem test_loads_and_stores :
    effects (.ldB 1 15 2 0) (change (pair 0x8000 0) fun c => { c with lcl := c.lcl.writeBytes 0x8000 [0x80, 0x01] }) = [.sreg 1 0xFFFFFFFFFFFFFF80] ∧
    effects (.ldHz 1 15 2 0) (change (pair 0x8000 0) fun c => { c with lcl := c.lcl.writeBytes 0x8000 [0x80, 0x81] }) = [.sreg 1 0x8180] ∧
    effects (.stH 3 15 2 0 0) (pair 0x8000 0x12345678) = [.store .S [(0x8000, 0x78), (0x8001, 0x56)]] := by decide

/-- R267, R280, R283: a CSR number that is not listed, a misaligned jump, and an empty loop stack. -/
theorem test_faults :
    (faultsOf (.csrr 1 0xFFF) strand).map (·.1) = [.illegalOp] ∧ faultsOf (.jmpr 2) (pair 4 0) = [(.misaligned, some 4)] ∧
    faultsOf (.lbrk 0) strand = [(.illegalOp, some 0)] := by decide

set_option exponentiation.threshold 1100 in
set_option maxRecDepth 4000 in
/-- The example of R316 and R317: one vector, two orders. -/
theorem test_reduction_orders :
    let v : Vec := packLanes 32 [0x4B800000, 0x3F800000, 0x3F800000, 0xCB800000]
    (List.range 32).map (laneAt 0 (reduceLanes 0 (wideAdd 0) v).1) = List.replicate 32 0x3F800000 ∧
    (List.range 5).map (laneAt 0 (scanLanes 0 v).1) = [0x4B800000, 0x4B800000, 0x4B800000, 0, 0] := by decide

set_option exponentiation.threshold 1100 in
set_option maxRecDepth 4000 in
/-- R308, R311, by hand: bytes that wrap, and signed comparisons of them. -/
theorem test_byte_lanes :
    laneAt 5 (zipLanes 5 (laneAdd 5) (packLanes 8 [0xFF, 0x80]) (packLanes 8 [0x01, 0x80])).1 0 = 0 ∧
    laneAt 5 (zipLanes 5 (laneMul 5) (packLanes 8 [0xFF]) (packLanes 8 [0xFF])).1 0 = 1 ∧
    ((compareLanes 5 1 (packLanes 8 [0x80]) 0).1.getLsbD 0 = true) := by decide

set_option exponentiation.threshold 1100 in
set_option maxRecDepth 4000 in
/-- R369, by hand: `radd` on word 1 of a slot whose revision wraps, and `rcas` that does not meet its value. -/
theorem test_ring_slot :
    (RingEntry.act { armed with kind := .radd, x := 5, word := 1 } ⟨true, 0xFF, 7⟩).1 = ⟨true, 0, 7 + 5 * 2 ^ 64⟩ ∧
    (RingEntry.act { armed with kind := .rcas, x := 5, cmp := 8 } ⟨true, 3, 7⟩) = (⟨true, 3, 7⟩, false, false) := by decide

/-- The encoded bundle of the encoding chapter, bundle 12 at CCY 399. -/
theorem test_encoded_bundle :
    decodeSlot 0 0x2600018F = some (.ckptP 399) ∧ decodeSlot 1 0x08514010 = some (.addi 5 5 16) ∧
    decodeSlot 2 0x2C4F1481 = some (.stD 4 15 5 2 1) ∧ decodeSlot 3 0x10221820 = some (.vfma 1 2 3 0 4) ∧
    decodeSlot 5 0x04FE4202 = some (.vld 7 15 8 1 2) ∧ decodeSlot 4 1 = none ∧ decodeTval 4 1 = 0x8000000400000001 := by decide

/-! ## Every word of the opcode table, field by field -/

/-- Slot 0, control: words of its instructions, the fields at the bits of the encoding tables, each with a value of its own. -/
theorem test_decode_slot0 : ∀ p ∈ ([
      (0x07400E66, .br 13 3686), (0x08000DDD, .jmp 3549), (0x0FD00000, .jmpr 61), (0x10000DDD, .call 3549), (0x14000000, .ret),
      (0x1B774E66, .loop 3549 3686), (0x1FD00E66, .loopr 61 3686), (0x23400000, .lbrk 13), (0x24000DDD, .ckpt 3549),
      (0x26000DDD, .ckptP 3549), (0x28000000, .halt), (0x2C00DDDD, .trap 56797), (0x30000000, .tret), (0x37D00000, .wgcy 61),
      (0x3800DDDD, .scall 56797), (0x3C000000, .rswap), (0x4000DDDD, .idle 56797), (0x4400DDDD, .brk 56797)] : List (SlotWord × Instr)),
    decodeSlot 0 p.1 = some p.2 := by decide

/-- Slot 1, scalar: words of its instructions, the fields at the bits of the encoding tables, each with a value of its own. -/
theorem test_decode_slot1a : ∀ p ∈ ([
      (0x07D9BB00, .add 61 38 59), (0x07D9BB01, .sub 61 38 59), (0x07D9BB02, .and 61 38 59), (0x07D9BB03, .or 61 38 59),
      (0x07D9BB04, .xor 61 38 59), (0x07D9BB05, .andn 61 38 59), (0x07D9BB06, .orn 61 38 59), (0x07D9BB07, .shl 61 38 59),
      (0x07D9BB08, .shr 61 38 59), (0x07D9BB09, .sra 61 38 59), (0x07D9BB0A, .rotl 61 38 59), (0x07D9BB0B, .rotr 61 38 59),
      (0x07D9BB0C, .slt 61 38 59), (0x07D9BB0D, .sltu 61 38 59), (0x07D9BB0E, .seq 61 38 59), (0x07D9BB0F, .sne 61 38 59),
      (0x07D9BB10, .min 61 38 59), (0x07D9BB11, .max 61 38 59), (0x07D9BB12, .minu 61 38 59), (0x07D9BB13, .maxu 61 38 59)] : List (SlotWord × Instr)),
    decodeSlot 1 p.1 = some p.2 := by decide

/-- Slot 1, scalar: words of its instructions, the fields at the bits of the encoding tables, each with a value of its own. -/
theorem test_decode_slot1b : ∀ p ∈ ([
      (0x07D9BB14, .mul 61 38 59), (0x07D9BB15, .mulh 61 38 59), (0x07D9BB16, .mulhu 61 38 59), (0x07D9BB17, .div 61 38 59),
      (0x07D9BB18, .divu 61 38 59), (0x07D9BB19, .rem 61 38 59), (0x07D9BB1A, .remu 61 38 59), (0x07D9801B, .clz 61 38),
      (0x07D9801C, .ctz 61 38), (0x07D9801D, .popc 61 38), (0x07D9BB1E, .bext 61 38 59), (0x07D9BB1F, .bdep 61 38 59),
      (0x0BD9BBBB, .addi 61 38 15291), (0x0FD9BBBB, .andi 61 38 15291), (0x13D9BBBB, .ori 61 38 15291),
      (0x17D9BBBB, .xori 61 38 15291), (0x1BD9BBBB, .slti 61 38 15291), (0x1FD9803B, .shli 61 38 59), (0x23D9803B, .shri 61 38 59),
      (0x27D9803B, .srai 61 38 59)] : List (SlotWord × Instr)),
    decodeSlot 1 p.1 = some p.2 := by decide

/-- Slot 1, scalar: words of its instructions, the fields at the bits of the encoding tables, each with a value of its own. -/
theorem test_decode_slot1c : ∀ p ∈ ([
      (0x2BDE6666, .lui 61 943718), (0x2FD9BB0D, .sel 61 38 59 13), (0x3289BB05, .gset 5 38 59 5), (0x36F5C000, .glog 5 14 11 2),
      (0x39E80000, .gmovToScalar 61), (0x3BE80000, .gmovToGuards 61), (0x3FD00026, .latq 61 38), (0x43D9BB80, .fadd 61 38 59 1),
      (0x43D9BB81, .fsub 61 38 59 1), (0x43D9BB82, .fmul 61 38 59 1), (0x43D9BB83, .fdiv 61 38 59 1), (0x43D98084, .fsqrt 61 38 1),
      (0x43D9BB85, .fmin 61 38 59 1), (0x43D9BB86, .fmax 61 38 59 1), (0x43D9BBB7, .fcmp 61 38 59 1 3),
      (0x43D980E8, .fcvt 61 38 1 6), (0x43D98089, .fclass 61 38 1), (0x47D9BBD6, .fmadd 61 38 59 53 1)] : List (SlotWord × Instr)),
    decodeSlot 1 p.1 = some p.2 := by decide

/-- Slot 2, scalar memory: words of its instructions, the fields at the bits of the encoding tables, each with a value of its own. -/
theorem test_decode_slot2a : ∀ p ∈ ([
      (0x07DEEF55, .ldB 61 14 59 853), (0x0BDEEF55, .ldBz 61 14 59 853), (0x0FDEEF55, .ldH 61 14 59 853),
      (0x13DEEF55, .ldHz 61 14 59 853), (0x17DEEF55, .ldW 61 14 59 853), (0x1BDEEF55, .ldWz 61 14 59 853),
      (0x1FDEEF55, .ldD 61 14 59 853), (0x23DEEF6F, .stB 61 14 59 13 47), (0x27DEEF6F, .stH 61 14 59 13 47),
      (0x2BDEEF6F, .stW 61 14 59 13 47), (0x2FDEEF6F, .stD 61 14 59 13 47), (0x43D9BBD0, .aadd 61 38 59 13),
      (0x43D9BBD1, .aand 61 38 59 13), (0x43D9BBD2, .aor 61 38 59 13)] : List (SlotWord × Instr)),
    decodeSlot 2 p.1 = some p.2 := by decide

/-- Slot 2, scalar memory: words of its instructions, the fields at the bits of the encoding tables, each with a value of its own. -/
theorem test_decode_slot2b : ∀ p ∈ ([
      (0x43D9BBD3, .axor 61 38 59 13), (0x43D9BBD4, .amin 61 38 59 13), (0x43D9BBD5, .amax 61 38 59 13),
      (0x43D9BBD6, .aminu 61 38 59 13), (0x43D9BBD7, .amaxu 61 38 59 13), (0x43D9BBD8, .aswap 61 38 59 13),
      (0x47D9BBD0, .acas 61 38 59 13), (0x6377740E, .lockb 56797 14), (0x6BD00E66, .csrr 61 3686), (0x6FD00E66, .csrw 61 3686),
      (0x73D00E66, .csrs 61 3686), (0x77D00E66, .csrc 61 3686), (0x7B779B80, .fence 221 230 7), (0x7FD0000D, .idr 61 13)] : List (SlotWord × Instr)),
    decodeSlot 2 p.1 = some p.2 := by decide

/-- Slot 3, vector A: words of its instructions, the fields at the bits of the encoding tables, each with a value of its own. -/
theorem test_decode_slot3a : ∀ p ∈ ([
      (0x07B6DC00, .vadd 29 22 27 4), (0x0BB6DC00, .vsub 29 22 27 4), (0x0FB6DC00, .vmul 29 22 27 4),
      (0x13B6DCD8, .vfma 29 22 27 4 27), (0x17B6DCD8, .vfms 29 22 27 4 27), (0x1BB6DC00, .vmin 29 22 27 4),
      (0x1FB6DC00, .vmax 29 22 27 4), (0x23B60400, .vabs 29 22 4), (0x27B60400, .vneg 29 22 4), (0x2BB6DC00, .vand 29 22 27 4),
      (0x2FB6DC00, .vor 29 22 27 4), (0x33B6DC00, .vxor 29 22 27 4), (0x37B60400, .vnot 29 22 4), (0x3BB6DC00, .vshl 29 22 27 4),
      (0x3FB6DC00, .vshr 29 22 27 4), (0x43B6DC00, .vsra 29 22 27 4)] : List (SlotWord × Instr)),
    decodeSlot 3 p.1 = some p.2 := by decide

/-- Slot 3, vector A: words of its instructions, the fields at the bits of the encoding tables, each with a value of its own. -/
theorem test_decode_slot3b : ∀ p ∈ ([
      (0x4696DC00, .vcmpeq 5 22 27 4), (0x4A96DC00, .vcmplt 5 22 27 4), (0x4E96DC00, .vcmple 5 22 27 4),
      (0x53B6DC07, .vsel 29 22 27 4 7), (0x57B60000, .vmov 29 22), (0x5BB2EEEC, .vsplat 29 4 48059), (0x5FB6044A, .vext 29 22 4 37),
      (0x63B6044A, .vins 29 22 4 37), (0x67B600A0, .vcvt 29 22 0 5), (0x6BA00400, .vidx 29 4), (0x6EEE0000, .mand 5 6 7),
      (0x72EE0000, .mor 5 6 7), (0x76EE0000, .mxor 5 6 7), (0x7AE00000, .mnot 5 6), (0x7C516000, .mpop 5 22),
      (0x80516000, .mfirst 5 22)] : List (SlotWord × Instr)),
    decodeSlot 3 p.1 = some p.2 := by decide

/-- Slot 4, vector B: words of its instructions, the fields at the bits of the encoding tables, each with a value of its own. -/
theorem test_decode_slot4a : ∀ p ∈ ([
      (0x07B60100, .vexp 29 22 1), (0x0BB60100, .vexp2 29 22 1), (0x0FB60100, .vlog2 29 22 1), (0x13B60100, .vrcp 29 22 1),
      (0x17B60100, .vrsqrt 29 22 1), (0x1BB60100, .vsqrt 29 22 1), (0x1FB6D900, .vdiv 29 22 27 1), (0x23B60100, .vtanh 29 22 1),
      (0x27B60100, .vsigm 29 22 1), (0x2BB60400, .vredsum 29 22 4), (0x2FB60400, .vredmax 29 22 4)] : List (SlotWord × Instr)),
    decodeSlot 4 p.1 = some p.2 := by decide

/-- Slot 4, vector B: words of its instructions, the fields at the bits of the encoding tables, each with a value of its own. -/
theorem test_decode_slot4b : ∀ p ∈ ([
      (0x33B60400, .vredmin 29 22 4), (0x37B60400, .vscan 29 22 4), (0x3BB604A8, .vsortk 29 22 4 21),
      (0x3FB6DC00, .vperm 29 22 27 4), (0x43B6044A, .vrotl 29 22 4 37), (0x47B6DC60, .vpack 29 22 27 4 3 0),
      (0x4BB60390, .vunpack 29 22 3 4 1 0), (0x4FB6DE00, .vrnd 29 22 27 6), (0x53B6DCD8, .vbVfma 29 22 27 4 27),
      (0x57B6DC00, .vbVadd 29 22 27 4), (0x5BB6DC00, .vbVmul 29 22 27 4)] : List (SlotWord × Instr)),
    decodeSlot 4 p.1 = some p.2 := by decide

/-- Slot 5, vector memory and tiles: words of its instructions, the fields at the bits of the encoding tables, each with a value of its own. -/
theorem test_decode_slot5 : ∀ p ∈ ([
      (0x07BDDE1B, .vld 29 14 59 3 27), (0x0BBDDFF9, .vst 29 14 59 3 1 7 25), (0x0FBDDE18, .vlds 29 14 59 3 3),
      (0x13BDDFF8, .vsts 29 14 59 3 1 7 3), (0x17BDDE1B, .vgath 29 14 59 3 27), (0x1BBDDFF9, .vscat 29 14 59 3 1 7 25),
      (0x1FBDDFF3, .vldb 29 14 59 3 3 115), (0x42F30000, .tcfg 5 230), (0x46F77800, .tld 5 14 59 3), (0x4AF77800, .tst 5 14 59 3),
      (0x4FBAE000, .trowv 29 6 11 1), (0x53BAE000, .tvrow 29 6 11 1), (0x57BAE000, .tcolv 29 6 11 1), (0x5BBAE000, .tvcol 29 6 11 1),
      (0x5E800000, .tzero 5), (0x62F76000, .tsave 5 14 59), (0x66F76000, .trest 5 14 59)] : List (SlotWord × Instr)),
    decodeSlot 5 p.1 = some p.2 := by decide

/-- Slot 6, matrix: words of its instructions, the fields at the bits of the encoding tables, each with a value of its own. -/
theorem test_decode_slot6 : ∀ p ∈ ([
      (0x075EA000, .mnest 1 5 3 53), (0x0B57B000, .mfmt 13 5 59), (0x0FD00000, .mspar 61), (0x0C080000, .msparOff),
      (0x13D00000, .mtree 61), (0x10080000, .mtreeOff), (0x17A00000, .msel 3 0 4), (0x14000000, .mselOff), (0x1A000000, .mgo 1),
      (0x1F9BB900, .macc 3 38 59 4 1), (0x23400000, .mzero 13), (0x27026700, .mret 3 38 3 1), (0x2803D000, .mstat 61),
      (0x2C000000, .mabort), (0x30000000, .mrest)] : List (SlotWord × Instr)),
    decodeSlot 6 p.1 = some p.2 := by decide

/-- Slot 7, transfers, ring and system: words of its instructions, the fields at the bits of the encoding tables, each with a value of its own. -/
theorem test_decode_slot7a : ∀ p ∈ ([
      (0x07DDEB7E, .cpy 1 14 59 53 47 3), (0x0BDDEB7E, .cpy2 1 14 59 53 47 3), (0x0EE80000, .mwait 93),
      (0x1366EC00, .cflush 13 38 59), (0x1766EC00, .cinv 13 38 59), (0x1BB7BD40, .send 3 22 123 53), (0x1FB5DDD8, .recv 3 22 48059),
      (0x23E60003, .rget 3 230 3), (0x27E66C03, .rput 3 230 27 3), (0x2BE6EF03, .radd 3 230 59 3 3),
      (0x2FE6EF03, .rmax 3 230 59 3 3), (0x33E6EF03, .rmin 3 230 59 3 3), (0x37E6EF03, .rand 3 230 59 3 3),
      (0x3BE6EF03, .ror 3 230 59 3 3)] : List (SlotWord × Instr)),
    decodeSlot 7 p.1 = some p.2 := by decide

/-- Slot 7, transfers, ring and system: words of its instructions, the fields at the bits of the encoding tables, each with a value of its own. -/
theorem test_decode_slot7b : ∀ p ∈ ([
      (0x3FE6EFBF, .rcas 3 230 59 3 47 3), (0x43E66C03, .rboard 3 230 27 3), (0x47E60003, .ralight 3 230 3),
      (0x4BDB0000, .rcol 61 2 3), (0x4BD88000, .rcolRev 61 2), (0x4F7BBD6F, .gpass 13 14 59 53 47), (0x5366EC00, .kvcommit 13 38 59),
      (0x57664800, .coll 13 38 2 1), (0x5BD00000, .cwait 61), (0x5FB6BBD0, .fxcall 29 22 187 13), (0x6366EF50, .iload 13 38 59 53),
      (0x6766EC00, .ovpload 13 38 59), (0x6BD00000, .gcommit 61), (0x73D9A000, .dbgrd 61 38 2)] : List (SlotWord × Instr)),
    decodeSlot 7 p.1 = some p.2 := by decide

/-! ## Reads by the host -/

/-- CQCFG of a function at reset reads with PHASE = 1 in bit 29 and zeros elsewhere (R43). -/
theorem test_cqcfg_read : ((List.range 4).map fun k => State.reset.vfBarByte 3 0 (0x308 + k)) = [0, 0, 0, 0x20] := by decide

/-- VFBIND of virtual function 5 reads with WORLD 7, VALID in bit 31 and PARTS from bit 64 on (R41). -/
theorem test_vfbind_read :
    (State.reset.onVf 5 fun f => { f with bound := true, world := 7, parts := 3 }).pfRead 0x10050 16
      = [7, 0, 0, 0x80, 0, 0, 0, 0, 3, 0, 0, 0, 0, 0, 0, 0] := by decide

end Sys2Proof.Tests
end

section
/-! What a scratchpad read leaves of its core, and bytes as numbers in the byte order of R3. -/

namespace Sys2Proof.Machine

/-! ## Scratchpad reads (R163, R166, R270) -/

/-- The checks of plates set CHECKED in tags and note them, and leave all else of the core. -/
theorem Core.checkPlates_frame {c k : Core} {layout : Option Nat} {plates : List Nat} (h : c.checkPlates layout plates = .ok k) :
    ∃ tags noted, k = { c with plates := tags, checkedNow := noted } := by
  unfold Core.checkPlates at h
  split at h
  · cases h
  · cases h
    refine foldl_keeps (fun d : Core => ∃ tags noted, d = { c with plates := tags, checkedNow := noted }) _ ?_ _ _ ⟨_, _, rfl⟩
    rintro d p ⟨tags, noted, rfl⟩
    exact ⟨_, _, rfl⟩

theorem Core.readPlates_frame {c k : Core} {layout : Option Nat} {places : List Nat} (h : c.readPlates layout places = .ok k) :
    ∃ tags noted, k = { c with plates := tags, checkedNow := noted } := by
  unfold Core.readPlates at h
  split at h
  · cases h
  · cases h
  · next d hd _ =>
    cases h
    exact Core.checkPlates_frame hd

/-- A scratchpad read that passes its checks changes the tags of plates, and what is noted of them, alone. -/
theorem Core.lclRead_frame {c k : Core} {off len align : Nat} {layout : Option Nat} {cause : Cause}
    (h : c.lclRead off len align layout cause = .ok k) : ∃ tags noted, k = { c with plates := tags, checkedNow := noted } := by
  unfold Core.lclRead at h
  split at h
  · cases h
  · split at h
    · cases h
    · exact Core.readPlates_frame h

/-! ## A port-S access that is no sweep (R158, R159) -/

theorem Core.portS_free {c : Core} {at' : Nat} {places : List Nat}
    (h : c.busyBank false at' (distinct (places.map bankOf)) = none) (slot : Nat) (f : Core → Core) :
    c.portS slot at' places f = f (c.usePort .S slot c.ccy at' false (distinct (places.map bankOf))) := by
  simp only [Core.portS, Core.portAccess, h]

theorem Core.portS_held {c : Core} {at' b : Nat} {places : List Nat}
    (h : c.busyBank false at' (distinct (places.map bankOf)) = some b) (slot : Nat) (f : Core → Core) :
    c.portS slot at' places f = c.raiseAt slot at' .portCollision (some (portTval .S b)) := by
  simp only [Core.portS, Core.portAccess, h]

/-! ## Numbers of bytes (R3) -/

/-- The bytes of a number stand for its low part. -/
theorem leNat_leBytes (n x : Nat) : leNat (leBytes n x) = x % 256 ^ n := by
  induction n generalizing x with
  | zero => exact (Nat.mod_one x).symm
  | succ n ih => rw [leBytes, leNat, ih, BitVec.toNat_ofNat, pow_succ' 256 n, Nat.mod_mul]

/-- A first byte is the low end of the word that the bytes make. -/
theorem ofNat_leNat_cons (w : Nat) (b : Byte) (bs : List Byte) :
    BitVec.ofNat (w + 8) (leNat (b :: bs)) = BitVec.ofNat w (leNat bs) ++ b := by
  apply BitVec.eq_of_toNat_eq
  have hb : b.toNat < 256 := b.isLt
  rw [Laws.toNat_append, BitVec.toNat_ofNat, BitVec.toNat_ofNat, leNat, Nat.pow_add, Nat.mul_comm (2 ^ w), Nat.mod_mul]
  simp only [Nat.reducePow]
  rw [Nat.add_mul_mod_self_left, Nat.mod_eq_of_lt hb, Nat.add_mul_div_left _ _ (by decide), Nat.div_eq_of_lt hb, Nat.zero_add]
  omega

theorem ofNat_leNat_single (b : Byte) : BitVec.ofNat 8 (leNat [b]) = b := by
  rw [leNat, leNat, Nat.mul_zero, Nat.add_zero, BitVec.ofNat_toNat, BitVec.setWidth_eq]

end Sys2Proof.Machine
end

section
/-! Scalar loads (R300): what `State.loadScalar` does in each of its cases, and that each load is a use of it. -/

namespace Sys2Proof.Cert

open Sys2Proof.Machine

/-! ## The value of a load -/

theorem loadValue_one (b : Byte) (signed : Bool) :
    loadValue 1 signed [b] = if signed then b.signExtend 64 else b.setWidth 64 :=
  congrArg (fun v : BitVec 8 => if signed then v.signExtend 64 else v.setWidth 64) (ofNat_leNat_single b)

theorem loadValue_two (a b : Byte) (signed : Bool) :
    loadValue 2 signed [a, b] = if signed then (b ++ a).signExtend 64 else (b ++ a).setWidth 64 := by
  have word : BitVec.ofNat 16 (leNat [a, b]) = b ++ a := by
    rw [ofNat_leNat_cons 8, ofNat_leNat_single]
  exact congrArg (fun v : BitVec 16 => if signed then v.signExtend 64 else v.setWidth 64) word

theorem loadValue_four (a b c f : Byte) (signed : Bool) :
    loadValue 4 signed [a, b, c, f] =
      if signed then (f ++ c ++ b ++ a).signExtend 64 else (f ++ c ++ b ++ a).setWidth 64 := by
  have word : BitVec.ofNat 32 (leNat [a, b, c, f]) = f ++ c ++ b ++ a := by
    rw [ofNat_leNat_cons 24, ofNat_leNat_cons 16, ofNat_leNat_cons 8, ofNat_leNat_single]
  exact congrArg (fun v : BitVec 32 => if signed then v.signExtend 64 else v.setWidth 64) word

theorem loadValue_leBytes (w : Word) : loadValue 8 false (leBytes 8 w.toNat) = w := by
  have whole : leNat (leBytes 8 w.toNat) = w.toNat := (leNat_leBytes 8 _).trans (Nat.mod_eq_of_lt w.isLt)
  unfold loadValue
  rw [whole, BitVec.ofNat_toNat]
  simp

/-! ## The cases of a load -/

/-- An instruction that no check of issue stops has its own effect. -/
theorem Issues.run_eq {i : Instr} {s : State} (h : Issues i s) (f : State → State) : s.run i f = f s := by
  obtain ⟨noFault, notStruck, notDead⟩ := h
  exact State.run_of_issues noFault notStruck notDead f

section
variable {i : Instr} {s : State} (hi : Issues i s) (d x : BitVec 6) {e : BitVec 4} (imm : BitVec 10) (size : Nat) (signed : Bool)
include hi

theorem loadScalar_lcl_free {k : Core} (he : e = lclCode)
    (hr : s.core.lclRead (s.core.offset x (size * imm.toNat)) size size none .sealedLoad = .ok k)
    (hb : k.busyBank false s.core.ccy (banks (s.core.offset x (size * imm.toNat)) size) = none) :
    s.loadScalar i d e x imm size signed =
      later (withCore s (k.usePort .S 2 k.ccy s.core.ccy false (banks (s.core.offset x (size * imm.toNat)) size))) 2 (s.lat 6)
        (.sreg d (loadValue size signed (s.core.lclAt (offsets (s.core.offset x (size * imm.toNat)) size)))) := by
  obtain ⟨tags, noted, frame⟩ := Core.lclRead_frame hr
  have lcl : k.lcl = s.core.lcl := by rw [frame]
  simp only [State.loadScalar, hi.run_eq, if_pos he, hr, Core.portS_free hb, Core.lclAt, Core.usePort, lcl]
  rfl

theorem loadScalar_lcl_held {k : Core} {b : Nat} (he : e = lclCode)
    (hr : s.core.lclRead (s.core.offset x (size * imm.toNat)) size size none .sealedLoad = .ok k)
    (hb : k.busyBank false s.core.ccy (banks (s.core.offset x (size * imm.toNat)) size) = some b) :
    s.loadScalar i d e x imm size signed = lateFault s k 2 s.core.ccy .portCollision (some (portTval .S b)) := by
  simp only [State.loadScalar, hi.run_eq, if_pos he, hr, Core.portS_held hb]
  rfl

theorem loadScalar_lcl_fault {f : Cause × Option Word} (he : e = lclCode)
    (hr : s.core.lclRead (s.core.offset x (size * imm.toNat)) size size none .sealedLoad = .error f) :
    s.loadScalar i d e x imm size signed = faulted s 2 f.1 f.2 := by
  simp only [State.loadScalar, hi.run_eq, if_pos he, hr]
  rfl

theorem loadScalar_extent_fault {f : Cause × Option Word} (he : e ≠ lclCode)
    (hx : s.core.extFault e (s.core.offset x (size * imm.toNat)) size size .load acceptDevice = some f) :
    s.loadScalar i d e x imm size signed = faulted s 2 f.1 f.2 := by
  simp only [State.loadScalar, hi.run_eq, if_neg he, hx]
  rfl

theorem loadScalar_device {y : Extent} (he : e ≠ lclCode)
    (hx : s.core.extFault e (s.core.offset x (size * imm.toNat)) size size .load acceptDevice = none)
    (hy : s.core.extent e = some y) :
    s.loadScalar i d e x imm size signed = s.loadDevice d y (s.core.offset x (size * imm.toNat)) size signed := by
  simp only [State.loadScalar, hi.run_eq, if_neg he, hx, hy]

end

theorem loadDevice_of_bytes {s : State} {y : Extent} {off size : Nat} {bs : List Byte} (h : s.deviceBytes y off size = .ok bs)
    (d : BitVec 6) (signed : Bool) : s.loadDevice d y off size signed = later s 2 1 (.sreg d (loadValue size signed bs)) := by
  unfold State.loadDevice; rw [h]; rfl

theorem loadDevice_of_poison {s : State} {y : Extent} {off size u : Nat} (h : s.deviceBytes y off size = .error u)
    (d : BitVec 6) (signed : Bool) : s.loadDevice d y off size signed = later (s.reportPoison u).draw.2 2 1
      (.sreg d (loadValue size signed (leBytes size (s.reportPoison u).draw.1.toNat))) := by
  unfold State.loadDevice; rw [h]; rfl

/-- Every instruction whose meaning is `State.loadScalar` loads as R300 says. -/
theorem loadResult_of_exec {i : Instr} {d x : BitVec 6} {e : BitVec 4} {imm : BitVec 10} {size : Nat} {signed : Bool}
    (h : ∀ s, exec i s = .next (s.loadScalar i d e x imm size signed)) : LoadResult i d x e imm size signed := by
  intro s hi
  simp only [h]
  refine ⟨?free, ?held, ?refused, ?extentFault, ?device⟩
  case free => exact fun k he hr hb => congrArg _ (loadScalar_lcl_free hi d x imm size signed he hr hb)
  case held => exact fun k b he hr hb => congrArg _ (loadScalar_lcl_held hi d x imm size signed he hr hb)
  case refused => exact fun f he hr => congrArg _ (loadScalar_lcl_fault hi d x imm size signed he hr)
  case extentFault => exact fun f he hx => congrArg _ (loadScalar_extent_fault hi d x imm size signed he hx)
  case device =>
    intro y he hx hy
    rw [loadScalar_device hi d x imm size signed he hx hy]
    exact ⟨fun bs hb => congrArg _ (loadDevice_of_bytes hb d signed), fun u hu => congrArg _ (loadDevice_of_poison hu d signed)⟩

/-- Settles O11: the meaning of every load is `State.loadScalar`, and a word of bytes has its first byte at the low end. -/
theorem loadsReadLittleEndian : Obligations.LoadsReadLittleEndian := by
  unfold Obligations.LoadsReadLittleEndian
  intro d x e imm
  refine ⟨loadResult_of_exec fun _ => rfl, loadResult_of_exec fun _ => rfl, loadResult_of_exec fun _ => rfl,
    loadResult_of_exec fun _ => rfl, loadResult_of_exec fun _ => rfl, loadResult_of_exec fun _ => rfl,
    loadResult_of_exec fun _ => rfl, ?one, ?two, ?four, loadValue_leBytes⟩
  case one => exact fun b => ⟨loadValue_one b true, loadValue_one b false⟩
  case two => exact fun a b => ⟨loadValue_two a b true, loadValue_two a b false⟩
  case four => exact fun a b c f => ⟨loadValue_four a b c f true, loadValue_four a b c f false⟩

end Sys2Proof.Cert
end

section
/-! Lists without repetitions, and link ports (R13-R18): what an update of a port leaves in it, the fields of a flit, and the flit that a port
sends. -/

namespace Sys2Proof.Machine

/-! ## Lists without repetitions -/

theorem distinct_concat (l : List Nat) (x : Nat) :
    distinct (l ++ [x]) = if (distinct l).contains x then distinct l else distinct l ++ [x] := by
  rw [distinct, List.foldl_append]
  rfl

theorem mem_distinct {l : List Nat} {x : Nat} : x ∈ distinct l ↔ x ∈ l := by
  induction l using List.reverseRecOn with
  | nil => exact Iff.rfl
  | append_singleton l y ih =>
    rw [distinct_concat, List.mem_append, ← ih]
    split
    · next h =>
      have old : y ∈ distinct l := List.contains_iff_mem.mp h
      simp only [List.mem_singleton]
      exact ⟨Or.inl, fun h => h.elim id fun e => e ▸ old⟩
    · exact List.mem_append

/-! ## A port after an update -/

theorem State.link_onLink {n : Nat} (hn : n < 16) (s : State) {f : Link → Link} (h : f (s.link n) ≠ Link.reset) :
    (s.onLink n f).link n = f (s.link n) := by
  unfold State.onLink
  rw [if_pos hn]
  exact SMap.get_put_same_of_ne _ n _ s.links h

/-- An update of a port is what it makes of that port. -/
theorem State.onLink_congr {n : Nat} {s : State} {f g : Link → Link} (h : f (s.link n) = g (s.link n)) : s.onLink n f = s.onLink n g := by
  unfold State.onLink SMap.modify
  exact congrArg (fun l => if n < 16 then { s with links := SMap.put Link.reset n l s.links } else s) h

/-- An abort of collectives leaves the links, and which groups are cut. -/
theorem State.abortGroups_frame (s : State) (groups : List Nat) (status : BitVec 8) :
    (groups.foldl (fun s g => s.abortGroup g status) s).links = s.links ∧
      (groups.foldl (fun s g => s.abortGroup g status) s).cutGroups = s.cutGroups :=
  foldl_keeps (fun t : State => t.links = s.links ∧ t.cutGroups = s.cutGroups) (fun s g => s.abortGroup g status) (fun _ _ h => h) groups s
    ⟨rfl, rfl⟩

/-- Every collective of a cut group has a status. -/
theorem State.collEnd_of_cut {s : State} {g : Nat} (h : g ∈ s.cutGroups) (k : Nat) : s.collEnd g k ≠ none := by
  unfold State.collEnd
  split
  · exact Option.some_ne_none _
  · rw [if_pos (List.contains_iff_mem.mpr h)]
    exact Option.some_ne_none _

/-! ## The fields of a flit (R14) -/

theorem leBytes_length (n x : Nat) : (leBytes n x).length = n := by
  induction n generalizing x with
  | zero => rfl
  | succ n ih => rw [leBytes, List.length_cons, ih]

theorem padTo_length (n : Nat) (bs : List Byte) : (padTo n bs).length = n := by
  rw [padTo, List.length_append, List.length_take, List.length_replicate]
  omega

/-- The part of a flit that its CRC covers. -/
def flitBody (seq ack : BitVec 16) (vl kind mask win : Nat) (payload : List Byte) : List Byte :=
  leBytes 2 seq.toNat ++ leBytes 2 ack.toNat ++ leBytes 1 vl ++ leBytes 1 kind ++ leBytes 1 mask ++ leBytes 1 win ++ padTo 240 payload

section
variable (seq ack : BitVec 16) (vl kind mask win : Nat) (payload : List Byte)

theorem flitBytes_eq : flitBytes seq ack vl kind mask win payload =
    flitBody seq ack vl kind mask win payload ++ leBytes 8 (crc64 (flitBody seq ack vl kind mask win payload)).toNat := rfl

theorem flitBody_length : (flitBody seq ack vl kind mask win payload).length = 248 := by
  simp only [flitBody, List.length_append, leBytes_length, padTo_length]

theorem flitBytes_length : (flitBytes seq ack vl kind mask win payload).length = 256 := by
  rw [flitBytes_eq, List.length_append, flitBody_length, leBytes_length]

theorem flitBytes_body : (flitBytes seq ack vl kind mask win payload).take 248 = flitBody seq ack vl kind mask win payload :=
  List.take_left' (flitBody_length ..)

/-- The CRC field of a flit is the CRC of its body. -/
theorem flitBytes_crc : fieldAt (flitBytes seq ack vl kind mask win payload) 248 8 =
    (crc64 ((flitBytes seq ack vl kind mask win payload).take 248)).toNat := by
  rw [flitBytes_body, fieldAt, flitBytes_eq, List.drop_left' (flitBody_length ..),
    List.take_of_length_le (leBytes_length ..).le, leNat_leBytes]
  exact Nat.mod_eq_of_lt (BitVec.isLt _)

theorem flitBytes_seq : BitVec.ofNat 16 (fieldAt (flitBytes seq ack vl kind mask win payload) 0 2) = seq := by
  have field : fieldAt (flitBytes seq ack vl kind mask win payload) 0 2 = leNat (leBytes 2 seq.toNat) := rfl
  rw [field, leNat_leBytes, Nat.mod_eq_of_lt (b := 256 ^ 2) seq.isLt, BitVec.ofNat_toNat, BitVec.setWidth_eq]

theorem flitBytes_ack : BitVec.ofNat 16 (fieldAt (flitBytes seq ack vl kind mask win payload) 2 2) = ack := by
  have field : fieldAt (flitBytes seq ack vl kind mask win payload) 2 2 = leNat (leBytes 2 ack.toNat) := rfl
  rw [field, leNat_leBytes, Nat.mod_eq_of_lt (b := 256 ^ 2) ack.isLt, BitVec.ofNat_toNat, BitVec.setWidth_eq]

theorem flitBytes_vl (h : vl < 256) : fieldAt (flitBytes seq ack vl kind mask win payload) 4 1 = vl :=
  (leNat_leBytes 1 vl).trans (Nat.mod_eq_of_lt h)

theorem flitBytes_kind (h : kind < 256) : fieldAt (flitBytes seq ack vl kind mask win payload) 5 1 = kind :=
  (leNat_leBytes 1 kind).trans (Nat.mod_eq_of_lt h)

theorem flitBytes_pause : (flitBytes seq ack vl kind mask win payload).getD 6 0 = BitVec.ofNat 8 mask ∧
    (flitBytes seq ack vl kind mask win payload).getD 7 0 = BitVec.ofNat 8 win := ⟨rfl, rfl⟩

theorem flitBytes_payload : ((flitBytes seq ack vl kind mask win payload).drop 8).take 240 = padTo 240 payload :=
  List.take_left' (padTo_length 240 payload)

end

/-! ## Sending and receiving (R14, R16, R18) -/

section
variable {l : Link} {gcy : Nat} (noTime : l.timeQueued = false) (noRetry : l.retry = none) (noReplay : l.resend = none)
include noTime noRetry noReplay

/-- A port with no link control and no replay to send takes the data that waits, where its lane is open and the replay buffer has room. -/
theorem Link.next_data {vl : Nat} (payload : List Byte) (first : 1 ≤ vl) (last : vl ≤ 4) (isOpen : l.paused gcy vl = false)
    (room : l.replay.length < 128) :
    l.next gcy (some (vl, payload)) = (some (l.nextSeq, vl, 1, padTo 240 payload),
      { l with nextSeq := l.nextSeq + 1, replay := l.replay ++ [⟨l.nextSeq, vl, padTo 240 payload⟩] }) := by
  have taken : ¬(vl = 0 ∨ 4 < vl ∨ l.paused gcy vl = true ∨ 128 ≤ l.replay.length) := by
    rw [isOpen, Bool.false_eq_true, false_or]
    omega
  simp only [Link.next, noTime, noRetry, noReplay, if_neg taken, Bool.false_and, Bool.false_eq_true, if_false, ite_self]

/-- With no data it sends an idle flit. -/
theorem Link.next_idle (isOpen : l.paused gcy 0 = false) : l.next gcy none = (some (l.nextSeq, 0, 0, []), l) := by
  simp only [Link.next, noTime, noRetry, noReplay, isOpen, Bool.false_and, Bool.false_eq_true, if_false, ite_self, Bool.not_false, if_true]

end

section
variable {s : State} {n : Nat} (up : (s.link n).up = true) (stays : (s.link n).removed = false)
include up stays

/-- What a port that asks for no pause puts on its link. -/
theorem execFlitSend_sent {data : Option (Nat × List Byte)} {seq : BitVec 16} {vl kind : Nat} {payload : List Byte} {l : Link}
    (noPause : (s.link n).pauseMask = 0) (next : (s.link n).next s.time.gcy data = (some (seq, vl, kind, payload), l)) :
    execFlitSend n data s = .next { s.onLink n (fun _ => l) with
      out := s.out ++ [.flit n (flitBytes seq ((s.link n).expected - 1) vl kind 0 0 payload)] } := by
  simp only [execFlitSend, up, stays, next, noPause, Bool.not_true, Bool.or_false, Bool.false_eq_true, if_false, if_true]

/-- A data flit that arrives whole on a lane is acknowledged, its pauses are set, and its data are taken. -/
theorem execFlitReceive_data (seq ack : BitVec 16) {vl : Nat} (mask win : Nat) (payload : List Byte) (taken : List Nat) (lane : vl ≤ 4) :
    execFlitReceive n (flitBytes seq ack vl 1 mask win payload) taken s =
      .next (((s.onLink n fun l => l.take taken).onLink n
        fun l => (l.acked ack).pauseBy s.time.gcy (BitVec.ofNat 8 mask) (BitVec.ofNat 8 win)).onLink n
          fun l => l.data ⟨seq, vl, padTo 240 payload⟩) := by
  have known : ¬(4 < vl ∨ 3 < 1) := by omega
  have vlField := flitBytes_vl seq ack vl 1 mask win payload (by omega)
  have kindField := flitBytes_kind seq ack vl 1 mask win payload (by decide)
  obtain ⟨maskField, winField⟩ := flitBytes_pause seq ack vl 1 mask win payload
  simp only [execFlitReceive, up, stays, flitBytes_length, flitBytes_crc, flitBytes_seq, flitBytes_ack, flitBytes_payload, vlField,
    kindField, maskField, winField, if_neg known, State.onLink_time, bne_self_eq_false, Bool.not_true, Bool.or_false,
    Bool.false_eq_true, if_false, ne_eq, not_true_eq_false]

end

/-! ## Loss and retraining (R17) -/

/-- The state with a port removed and the groups that cross it cut. -/
def State.cutLink (n : Nat) (crossing : List Nat) (s : State) : State :=
  let t := crossing.foldl (fun s g => s.abortGroup g 0x71) (s.onLink n fun l => { l with up := false, removed := true })
  { t with cutGroups := distinct (t.cutGroups ++ crossing) }

theorem State.cutLink_link {n : Nat} (hn : n < 16) (crossing : List Nat) (s : State) :
    (s.cutLink n crossing).link n = { s.link n with up := false, removed := true } := by
  have links := (State.abortGroups_frame (s.onLink n fun l => { l with up := false, removed := true }) crossing 0x71).1
  have port := congrArg (SMap.get Link.reset n) links
  exact port.trans (State.link_onLink hn s fun e => Bool.noConfusion (congrArg Link.removed e))

theorem State.cutLink_cutGroups (n : Nat) (crossing : List Nat) (s : State) :
    (s.cutLink n crossing).cutGroups = distinct (s.cutGroups ++ crossing) := by
  have cut := (State.abortGroups_frame (s.onLink n fun l => { l with up := false, removed := true }) crossing 0x71).2
  rw [State.onLink_cutGroups] at cut
  exact congrArg (fun gs => distinct (gs ++ crossing)) cut

/-- A port that works, or has run out of retries, retrains: it resumes from the first flit of its replay buffer, or it is removed. -/
theorem execLinkRetrain_due {s : State} {n : Nat} (hn : n < 16) (stays : (s.link n).removed = false)
    (due : (s.link n).up = true ∨ 8 ≤ (s.link n).asks) (ok : Bool) (crossing : List Nat) :
    execLinkRetrain n ok crossing s = .next (if ok then
      s.onLink n fun l => { l with up := true, asks := 0, resend := l.replay.head?.map (·.seq) } else s.cutLink n crossing) := by
  have waits : ((s.link n).removed || !(s.link n).up && decide ((s.link n).asks < 8)) = false := by
    rcases due with up | asks
    · rw [stays, up]; rfl
    · rw [stays, decide_eq_false (by omega), Bool.and_false]; rfl
  refine congrArg Host.Outcome.next (if_neg ?_)
  rintro (past | late)
  · omega
  · exact Bool.false_ne_true (waits.symm.trans late)

end Sys2Proof.Machine
end

section
/-! The links (R13-R18). -/

namespace Sys2Proof.Cert

open Sys2Proof.Machine

/-- Settles O41: each operation of a link is an update of its port, and the fields of a flit read back what it was built from. -/
theorem linksCarryFlits : Obligations.LinksCarryFlits := by
  unfold Obligations.LinksCarryFlits
  intro s n hn
  refine ⟨?train, fun _ => rfl, ?down, ?sendData, ?receive, ?sendIdle, ?retrain⟩
  case train =>
    intro d down stays
    exact congrArg _ (State.onLink_congr (by simp only [down, stays]; rfl))
  case down =>
    intro up asks
    change Host.Outcome.next _ = _
    rw [if_pos (by rw [up, decide_eq_true asks]; rfl)]
  case sendData =>
    intro vl payload up stays noTime noRetry noReplay noPause first last isOpen room
    exact execFlitSend_sent up stays noPause (Link.next_data noTime noRetry noReplay payload first last isOpen room)
  case receive => exact fun seq ack vl payload up stays lane => execFlitReceive_data up stays seq ack 0 0 payload [] lane
  case sendIdle =>
    intro up stays noTime noRetry noReplay noPause isOpen
    exact execFlitSend_sent up stays noPause (Link.next_idle noTime noRetry noReplay isOpen)
  case retrain =>
    intro crossing stays due
    have port := State.cutLink_link hn crossing s
    have cut := State.cutLink_cutGroups n crossing s
    refine ⟨execLinkRetrain_due hn stays due true crossing, s.cutLink n crossing, execLinkRetrain_due hn stays due false crossing,
      congrArg Link.up port, congrArg Link.removed port, cut, fun g crosses k => State.collEnd_of_cut ?_ k⟩
    rw [cut]
    exact mem_distinct.mpr (List.mem_append_right _ crosses)

end Sys2Proof.Cert
end

section
/-! Regulators and the switch matrix (R27-R32): what is read of a regulator after an update, the fields of a map word, and what a write of one
field of the map does. -/

namespace Sys2Proof.Machine

/-! ## Vectors -/

/-- Reading a vector with a default is its optional element. -/
theorem vector_getD_eq {α : Type} {n : Nat} (xs : Vector α n) (i : Nat) (d : α) : xs.getD i d = xs[i]?.getD d := by
  rcases xs with ⟨xs, rfl⟩
  exact Array.getD_eq_getD_getElem?

theorem vector_getD_of_lt {α : Type} {n i : Nat} (xs : Vector α n) (d : α) (h : i < n) : xs.getD i d = xs[i] := by
  rw [vector_getD_eq, Vector.getElem?_eq_getElem h, Option.getD_some]

theorem vector_getD_set_same {α : Type} {n i : Nat} (xs : Vector α n) (x d : α) (h : i < n) : (xs.setIfInBounds i x).getD i d = x := by
  rw [vector_getD_eq, Vector.getElem?_setIfInBounds_self_of_lt h, Option.getD_some]

theorem vector_getD_set_other {α : Type} {n i j : Nat} (xs : Vector α n) (x d : α) (h : i ≠ j) :
    (xs.setIfInBounds i x).getD j d = xs.getD j d := by
  rw [vector_getD_eq, vector_getD_eq, Vector.getElem?_setIfInBounds_ne h]

/-- Vectors whose elements read the same are the same. -/
theorem vector_ext_getD {α : Type} {n : Nat} {xs ys : Vector α n} (d : α) (h : ∀ i, i < n → xs.getD i d = ys.getD i d) : xs = ys := by
  ext i hi
  rw [← vector_getD_of_lt xs d hi, ← vector_getD_of_lt ys d hi]
  exact h i hi

/-! ## A regulator after an update -/

theorem State.reg_onReg_same {n : Nat} (hn : n < 4) (s : State) (f : Regulator → Regulator) : (s.onReg n f).reg n = f (s.reg n) :=
  vector_getD_set_same s.regs _ _ hn

theorem State.reg_onReg_other {n m : Nat} (h : n ≠ m) (s : State) (f : Regulator → Regulator) : (s.onReg n f).reg m = s.reg m :=
  vector_getD_set_other s.regs _ _ h

/-- An update of a regulator is what it makes of that regulator. -/
theorem State.onReg_congr {n : Nat} {s : State} {f g : Regulator → Regulator} (h : f (s.reg n) = g (s.reg n)) :
    s.onReg n f = s.onReg n g := by
  unfold State.onReg
  rw [h]

/-! ## The fields of a map word (R29) -/

/-- Field k of a word of the map: the regulator of the cluster at place k. -/
def mapField (x : BitVec 32) (k : Nat) : BitVec 2 := (x >>> (2 * k)).extractLsb' 0 2

/-- A word of the map with field k changed. -/
def setMapField (x : BitVec 32) (k : Nat) (f : BitVec 2) : BitVec 32 :=
  (x &&& ~~~((3 : BitVec 32) <<< (2 * k))) ||| (BitVec.ofNat 32 f.toNat <<< (2 * k))

theorem mapField_getLsbD (x : BitVec 32) (k : Nat) {i : Nat} (h : i < 2) : (mapField x k).getLsbD i = x.getLsbD (2 * k + i) := by
  rw [mapField, BitVec.getLsbD_extractLsb', BitVec.getLsbD_ushiftRight, decide_eq_true h, Bool.true_and, Nat.zero_add]

/-- The bits of a field that is written, and those beside it. -/
theorem setMapField_getLsbD (x : BitVec 32) (k : Nat) (f : BitVec 2) {b : Nat} (h : b < 32) : (setMapField x k f).getLsbD b =
    if 2 * k ≤ b ∧ b < 2 * k + 2 then f.getLsbD (b - 2 * k) else x.getLsbD b := by
  have three : ∀ i, (3 : BitVec 32).getLsbD i = decide (i < 2)
    | 0 => rfl
    | 1 => rfl
    | i + 2 => (Nat.testBit_add 3 i 2).trans (Nat.zero_testBit i) |>.trans (decide_eq_false (by omega)).symm
  simp only [setMapField, BitVec.getLsbD_or, BitVec.getLsbD_and, BitVec.getLsbD_not, BitVec.getLsbD_shiftLeft, three,
    BitVec.ofNat_toNat, BitVec.getLsbD_setWidth, decide_eq_true h, decide_eq_true (show b - 2 * k < 32 by omega), Bool.true_and]
  by_cases below : b < 2 * k
  · rw [if_neg (by omega), decide_eq_true below]
    simp only [Bool.not_true, Bool.false_and, Bool.not_false, Bool.and_true, Bool.or_false]
  · by_cases inside : b < 2 * k + 2
    · rw [if_pos ⟨by omega, inside⟩, decide_eq_false below, decide_eq_true (show b - 2 * k < 2 by omega)]
      simp only [Bool.not_false, Bool.true_and, Bool.not_true, Bool.and_false, Bool.false_or]
    · rw [if_neg (by omega), decide_eq_false (show ¬b - 2 * k < 2 by omega), f.getLsbD_of_ge _ (show 2 ≤ b - 2 * k by omega)]
      simp only [Bool.not_false, Bool.and_false, Bool.and_true, Bool.or_false]

theorem mapField_setMapField_same (x : BitVec 32) {k : Nat} (hk : k < 16) (f : BitVec 2) : mapField (setMapField x k f) k = f := by
  refine BitVec.eq_of_getLsbD_eq fun i hi => ?_
  rw [mapField_getLsbD _ k hi, setMapField_getLsbD x k f (by omega), if_pos (by omega), Nat.add_sub_cancel_left]

theorem mapField_setMapField_other (x : BitVec 32) {j k : Nat} (hj : j < 16) (h : j ≠ k) (f : BitVec 2) :
    mapField (setMapField x k f) j = mapField x j := by
  refine BitVec.eq_of_getLsbD_eq fun i hi => ?_
  rw [mapField_getLsbD _ j hi, mapField_getLsbD _ j hi, setMapField_getLsbD x k f (by omega), if_neg (by omega)]

/-- A word of the map is its sixteen fields. -/
theorem mapField_ext {x y : BitVec 32} (h : ∀ k, k < 16 → mapField x k = mapField y k) : x = y := by
  refine BitVec.eq_of_getLsbD_eq fun b hb => ?_
  have bit := congrArg (·.getLsbD (b % 2)) (h (b / 2) (by omega))
  simpa only [mapField_getLsbD _ _ (Nat.mod_lt b Nat.two_pos), Nat.div_add_mod] using bit

/-! ## A write of the map (R29) -/

theorem State.regOf_eq (s : State) (c : Nat) {k : Nat} (hk : k < 16) : s.regOf (16 * c + k) = (mapField (s.pwrmap.getD c 0) k).toNat := by
  unfold State.regOf
  rw [show (16 * c + k) / 16 = c by omega, show (16 * c + k) % 16 = k by omega]
  rfl

/-- The write of field k of word c. -/
def State.writeMapField (c : Nat) (val : BitVec 32) (s : State) (k : Nat) : State :=
  if s.regOf (16 * c + k) = (mapField val k).toNat then s
  else if s.clusterBusy (16 * c + k) then s.onReg (s.regOf (16 * c + k)) fun r => { r with mapRefused := true }
  else { s with pwrmap := s.pwrmap.setIfInBounds c (setMapField (s.pwrmap.getD c 0) k (mapField val k)) }

theorem State.writePwrmap_eq {c : Nat} (hc : c < 4) (val : BitVec 32) (s : State) :
    s.writePwrmap c val = (List.range 16).foldl (State.writeMapField c val) s := if_neg (Nat.not_le.mpr hc)

/-- The write of one field is refused where it would move a cluster that holds a task from the domain n. -/
def State.mapRefuses (s : State) (c : Nat) (val : BitVec 32) (n k : Nat) : Bool :=
  s.clusterBusy (16 * c + k) && s.regOf (16 * c + k) == n && (mapField val k).toNat != n

section
variable (s : State) (c : Nat) (val : BitVec 32) (k : Nat)

theorem State.writeMapField_frame : s.writeMapField c val k =
    { s with pwrmap := (s.writeMapField c val k).pwrmap, regs := (s.writeMapField c val k).regs } := by
  unfold State.writeMapField
  split
  · rfl
  · split <;> rfl

theorem State.reg_writeMapField {n : Nat} (hn : n < 4) : (s.writeMapField c val k).reg n =
    { s.reg n with mapRefused := (s.reg n).mapRefused || s.mapRefuses c val n k } := by
  have stays : s.mapRefuses c val n k = false →
      s.reg n = { s.reg n with mapRefused := (s.reg n).mapRefused || s.mapRefuses c val n k } := fun h => by
    rw [h, Bool.or_false]
  unfold State.writeMapField
  split
  · next same =>
    refine stays ?_
    simp only [State.mapRefuses, ← same]
    by_cases e : s.regOf (16 * c + k) = n <;> simp [e]
  · next moves =>
    split
    · next busy =>
      by_cases e : s.regOf (16 * c + k) = n
      · have refuses : s.mapRefuses c val n k = true := by
          subst e
          simp [State.mapRefuses, busy, Ne.symm moves]
        rw [refuses, Bool.or_true, e]
        exact State.reg_onReg_same hn s _
      · rw [State.reg_onReg_other e]
        exact stays (by simp [State.mapRefuses, e])
    · next idle => exact stays (by simp [State.mapRefuses, idle])

theorem State.regOf_writeMapField (hc : c < 4) (hk : k < 16) (g : Nat) : (s.writeMapField c val k).regOf g =
    if g = 16 * c + k ∧ s.clusterBusy g = false then (mapField val k).toNat else s.regOf g := by
  unfold State.writeMapField
  split
  · next same =>
    split
    · next h => rw [h.1, same]
    · rfl
  · split
    · next busy =>
      rw [if_neg (by rintro ⟨rfl, idle⟩; rw [busy] at idle; cases idle)]
      rfl
    · next idle =>
      obtain ⟨d, j, hj, rfl⟩ : ∃ d j, j < 16 ∧ g = 16 * d + j := ⟨g / 16, g % 16, by omega, by omega⟩
      rw [State.regOf_eq _ d hj]
      by_cases word : c = d
      · subst word
        rw [vector_getD_set_same s.pwrmap _ _ hc]
        by_cases field : j = k
        · subst field
          rw [if_pos ⟨rfl, by simpa using idle⟩, mapField_setMapField_same _ hj]
        · rw [if_neg (by omega), mapField_setMapField_other _ hj field, State.regOf_eq s c hj]
      · rw [if_neg (by omega), vector_getD_set_other s.pwrmap _ _ word, State.regOf_eq s d hj]

end

/-- What a write of word c has done once its first j fields are written: those of idle clusters have changed, and each domain that a busy one
would leave is marked. -/
structure MapWritten (s t : State) (c : Nat) (val : BitVec 32) (j : Nat) : Prop where
  frame : t = { s with pwrmap := t.pwrmap, regs := t.regs }
  fields : ∀ g, t.regOf g =
    if (g / 16 = c ∧ g % 16 < j) ∧ s.clusterBusy g = false then (mapField val (g % 16)).toNat else s.regOf g
  refused : ∀ n, n < 4 → t.reg n = { s.reg n with mapRefused := (s.reg n).mapRefused || (List.range j).any (s.mapRefuses c val n) }

theorem MapWritten.clusterBusy {s t : State} {c j : Nat} {val : BitVec 32} (h : MapWritten s t c val j) (g : Nat) :
    t.clusterBusy g = s.clusterBusy g := by
  rw [h.frame]
  rfl

theorem MapWritten.step {s t : State} {c j : Nat} {val : BitVec 32} (hc : c < 4) (hj : j < 16) (h : MapWritten s t c val j) :
    MapWritten s (t.writeMapField c val j) c val (j + 1) where
  frame := (t.writeMapField_frame c val j).trans (congrArg (fun u : State => { u with
    pwrmap := (t.writeMapField c val j).pwrmap, regs := (t.writeMapField c val j).regs }) h.frame)
  fields g := by
    rw [State.regOf_writeMapField t c val j hc hj, h.clusterBusy, h.fields]
    by_cases written : g = 16 * c + j
    · subst written
      by_cases idle : s.clusterBusy (16 * c + j) = false
      · rw [if_pos ⟨rfl, idle⟩, if_pos ⟨by omega, idle⟩, show (16 * c + j) % 16 = j by omega]
      · rw [if_neg fun h => idle h.2, if_neg fun h => idle h.2, if_neg fun h => idle h.2]
    · rw [if_neg fun h => written h.1]
      have later : (g / 16 = c ∧ g % 16 < j + 1) ↔ (g / 16 = c ∧ g % 16 < j) := by omega
      simp only [later]
  refused n hn := by
    have same : t.mapRefuses c val n j = s.mapRefuses c val n j := by
      have own : t.regOf (16 * c + j) = s.regOf (16 * c + j) := by
        rw [h.fields, if_neg (by omega)]
      simp only [State.mapRefuses, h.clusterBusy, own]
    rw [State.reg_writeMapField t c val j hn, h.refused n hn, same, List.range_succ, List.any_append, List.any_cons, List.any_nil,
      Bool.or_false, Bool.or_assoc]

/-- A write of the map, field by field. -/
theorem State.writePwrmap_written {c : Nat} (hc : c < 4) (val : BitVec 32) (s : State) : MapWritten s (s.writePwrmap c val) c val 16 := by
  suffices ∀ j, j ≤ 16 → MapWritten s ((List.range j).foldl (State.writeMapField c val) s) c val j by
    rw [State.writePwrmap_eq hc]
    exact this 16 le_rfl
  intro j
  induction j with
  | zero => exact fun _ => ⟨rfl, fun g => by rw [if_neg (by omega)]; rfl, fun n _ => by rw [List.range_zero, List.any_nil, Bool.or_false]; rfl⟩
  | succ j ih =>
    intro hj
    rw [List.range_succ, List.foldl_append]
    exact (ih (by omega)).step hc (by omega)

/-- With no cluster busy the word is written whole. -/
theorem State.writePwrmap_idle {c : Nat} (hc : c < 4) (val : BitVec 32) {s : State} (idle : ∀ g, s.clusterBusy g = false) :
    s.writePwrmap c val = { s with pwrmap := s.pwrmap.setIfInBounds c val } := by
  have h := State.writePwrmap_written hc val s
  have regs : (s.writePwrmap c val).regs = s.regs := by
    refine vector_ext_getD Regulator.reset fun n hn => ?_
    have unmarked : (List.range 16).any (s.mapRefuses c val n) = false :=
      List.any_eq_false.mpr fun k _ => by rw [State.mapRefuses, idle, Bool.false_and, Bool.false_and]; exact Bool.false_ne_true
    have reg := h.refused n hn
    rw [unmarked, Bool.or_false] at reg
    exact reg
  have words : (s.writePwrmap c val).pwrmap = s.pwrmap.setIfInBounds c val := by
    refine vector_ext_getD 0 fun d hd => mapField_ext fun k hk => BitVec.eq_of_toNat_eq ?_
    rw [← State.regOf_eq _ d hk, h.fields]
    by_cases word : c = d
    · subst word
      rw [if_pos ⟨by omega, idle _⟩, vector_getD_set_same s.pwrmap _ _ hc, show (16 * c + k) % 16 = k by omega]
    · rw [if_neg (by omega), vector_getD_set_other s.pwrmap _ _ word, State.regOf_eq s d hk]
  rw [h.frame, regs, words]

end Sys2Proof.Machine
end

section
/-! The power controller (R33-R35): the grants of an interval, the levels that it decides, and the changes that it orders; and what the other
operations of time and power do. -/

namespace Sys2Proof.Machine

/-! ## Sharing a budget in tier order (R33) -/

/-- What is left of a budget before tier t, where each tier takes its share of what the tiers before it have left. -/
def leftFor (share : Nat → Nat → Nat) (budget : Nat) : Nat → Nat
  | 0 => budget
  | t + 1 => leftFor share budget t - share t (leftFor share budget t)

/-- A pass over the tiers gives each its share of what is left, and leaves the rest. -/
theorem foldl_shares (share : Nat → Nat → Nat) (given : Nat → Nat → Nat) (budget n : Nat) :
    (List.range n).foldl (fun (a : List Nat × Nat) t => (a.1 ++ [given t (share t a.2)], a.2 - share t a.2)) ([], budget) =
      ((List.range n).map fun t => given t (share t (leftFor share budget t)), leftFor share budget n) := by
  induction n with
  | zero => rfl
  | succ n ih => rw [List.range_succ, List.foldl_append, ih, List.map_append]; rfl

/-- The share of tier t in the floors, of what is left of the cap. -/
def floorShare (demand floor : Nat → Nat) (t left : Nat) : Nat := min (min (demand t) (4 * floor t)) left

/-- What tier t is granted after the floors. -/
def floorGrant (cap : Nat) (demand floor : Nat → Nat) (t : Nat) : Nat :=
  floorShare demand floor t (leftFor (floorShare demand floor) (min cap 800) t)

/-- The share of tier t in the surplus, of what is left of it. -/
def surplusShare (cap : Nat) (demand floor : Nat → Nat) (t left : Nat) : Nat := min (demand t - floorGrant cap demand floor t) left

/-- The grant of tier t. -/
def grantOf (cap : Nat) (demand floor : Nat → Nat) (t : Nat) : Nat :=
  floorGrant cap demand floor t +
    surplusShare cap demand floor t (leftFor (surplusShare cap demand floor) (leftFor (floorShare demand floor) (min cap 800) 8) t)

theorem grants_eq (cap : Nat) (demand floor : Nat → Nat) :
    grants cap ((List.range 8).map demand) ((List.range 8).map floor) = (List.range 8).map (grantOf cap demand floor) := by
  have floors := foldl_shares (floorShare demand floor) (fun _ x => x) (min cap 800) 8
  have surplus := foldl_shares (surplusShare cap demand floor) (fun t x => floorGrant cap demand floor t + x)
    (leftFor (floorShare demand floor) (min cap 800) 8) 8
  unfold grants
  simp only [floorShare] at floors
  simp only [List.zip_map', List.foldl_map, floors]
  exact congrArg Prod.fst surplus

/-! ## The levels (R34) -/

theorem Regulator.levelOf_lt (r : Regulator) (t : Nat) : r.levelOf t < 4 := BitVec.isLt _

theorem nextLevel_lt {level : Nat} (h : level < 4) (demand down grant : Nat) : nextLevel level demand down grant < 4 := by
  unfold nextLevel
  split
  · omega
  · split <;> omega

/-- The levels of the first n tiers, two bits each. -/
def packedLevels (level : Nat → Nat) : Nat → Nat
  | 0 => 0
  | n + 1 => packedLevels level n + level n * 4 ^ n

theorem foldl_levels (level : Nat → Nat) (n : Nat) :
    ((List.range n).map level).zipIdx.foldl (fun x p => x + p.1 * 4 ^ p.2) 0 = packedLevels level n := by
  induction n with
  | zero => rfl
  | succ n ih =>
    rw [List.range_succ, List.map_append, List.zipIdx_append, List.foldl_append, ih, List.length_map, List.length_range, Nat.zero_add]
    rfl

section
variable {level : Nat → Nat} (small : ∀ t, level t < 4)
include small

theorem packedLevels_lt (n : Nat) : packedLevels level n < 4 ^ n := by
  induction n with
  | zero => exact Nat.one_pos
  | succ n ih =>
    have top : level n * 4 ^ n ≤ 3 * 4 ^ n := Nat.mul_le_mul_right _ (Nat.le_of_lt_succ (small n))
    rw [packedLevels, pow_succ]
    omega

theorem packedLevels_digit {n t : Nat} (h : t < n) : packedLevels level n / 4 ^ t % 4 = level t := by
  induction n with
  | zero => omega
  | succ n ih =>
    rw [packedLevels]
    rcases Nat.lt_succ_iff_lt_or_eq.mp h with below | rfl
    · obtain ⟨k, rfl⟩ : ∃ k, n = t + 1 + k := ⟨n - (t + 1), by omega⟩
      rw [show level (t + 1 + k) * 4 ^ (t + 1 + k) = 4 ^ t * (4 * (level (t + 1 + k) * 4 ^ k)) by ring,
        Nat.add_mul_div_left _ _ (Nat.pow_pos (by decide)), Nat.add_mul_mod_self_left, ih below]
    · rw [Nat.add_mul_div_right _ _ (Nat.pow_pos (by decide)), Nat.div_eq_of_lt (packedLevels_lt small t), Nat.zero_add,
        Nat.mod_eq_of_lt (small t)]

/-- A register of eight levels reads each of them back. -/
theorem Regulator.levelOf_packed (r : Regulator) (packed : r.levels =
    BitVec.ofNat 16 (((List.range 8).map level).zipIdx.foldl (fun x p => x + p.1 * 4 ^ p.2) 0)) {t : Nat} (ht : t < 8) :
    r.levelOf t = level t := by
  rw [Regulator.levelOf, packed, foldl_levels, BitVec.extractLsb'_toNat, BitVec.toNat_ushiftRight, BitVec.toNat_ofNat,
    Nat.shiftRight_zero, Nat.mod_eq_of_lt (b := 2 ^ 16) (packedLevels_lt small 8), Nat.shiftRight_eq_div_pow, pow_mul]
  exact packedLevels_digit small ht

end

/-! ## An interval (R33-R35, R38) -/

/-- The demand of tier t: its estimate, or 0 for a tier without cohorts. -/
def State.demandOf (s : State) (n : Nat) (est : List TierEstimate) (t : Nat) : Nat :=
  if !(s.tierCohorts n t).isEmpty then (est.getD t ⟨0, 0⟩).demand else 0

/-- Its demand at the next level down, likewise. -/
def State.demandDownOf (s : State) (n : Nat) (est : List TierEstimate) (t : Nat) : Nat :=
  if !(s.tierCohorts n t).isEmpty then (est.getD t ⟨0, 0⟩).demandDown else 0

theorem State.demandOf_eq (s : State) (n : Nat) (est : List TierEstimate) (t : Nat) :
    (if s.tierCohorts n t = [] then 0 else (est.getD t ⟨0, 0⟩).demand) = s.demandOf n est t := by
  unfold State.demandOf
  cases s.tierCohorts n t <;> rfl

theorem State.demandDownOf_eq (s : State) (n : Nat) (est : List TierEstimate) (t : Nat) :
    (if s.tierCohorts n t = [] then 0 else (est.getD t ⟨0, 0⟩).demandDown) = s.demandDownOf n est t := by
  unfold State.demandDownOf
  cases s.tierCohorts n t <;> rfl

/-- The floor of tier t of a regulator. -/
def Regulator.floorOf (r : Regulator) (t : Nat) : Nat := ((r.floors >>> (8 * t)).extractLsb' 0 8).toNat

theorem Regulator.floorOf_eq (r : Regulator) (t : Nat) : (r.floors.extractLsb' (8 * t) 8).toNat = r.floorOf t := by
  rw [Regulator.floorOf, BitVec.extractLsb'_toNat, BitVec.extractLsb'_toNat, BitVec.toNat_ushiftRight, Nat.shiftRight_zero]

/-- The level that an interval decides for tier t. -/
def State.decidedLevel (s : State) (n : Nat) (est : List TierEstimate) (t : Nat) : Nat :=
  nextLevel ((s.reg n).levelOf t) (s.demandOf n est t) (s.demandDownOf n est t)
    (grantOf (s.reg n).cap.toNat (s.demandOf n est) (s.reg n).floorOf t)

theorem State.decidedLevel_lt (s : State) (n : Nat) (est : List TierEstimate) (t : Nat) : s.decidedLevel n est t < 4 :=
  nextLevel_lt (Regulator.levelOf_lt (s.reg n) t) _ _ _

/-- The change that a level decided for a cohort orders, where it is another than the cohort has or waits for. -/
def State.orderFor (s : State) (level coh : Nat) : Option (Nat × Nat × Nat) :=
  (s.strands.find? fun c => c.coh == coh).bind fun c =>
    let last := ((s.pendLevel.filter fun p => p.1 == coh).getLast?.map (·.2.1)).getD c.level
    if last = level then none else some (coh, level, c.ccy + 8)

/-- The changes that the levels decided for the tiers of a domain order. -/
def State.ordersOf (s : State) (n : Nat) (levels : List Nat) : List (Nat × Nat × Nat) :=
  (List.range 8).flatMap fun t => (s.tierCohorts n t).filterMap (s.orderFor (levels.getD t 0))

/-- What an interval that decides these levels makes of the regulator. -/
def State.intervalReg (s : State) (n power : Nat) (levels : List Nat) (r : Regulator) : Regulator :=
  { r with
    levels := BitVec.ofNat 16 (levels.zipIdx.foldl (fun x p => x + p.1 * 4 ^ p.2) 0)
    power := BitVec.ofNat 16 (min 65535 power)
    overRuns := if 800 < power ∧ (List.range 8).all (fun t => !(!(s.tierCohorts n t).isEmpty) || (s.reg n).levelOf t == 3)
      then r.overRuns + 1 else 0
    lastRun := s.time.gcy }

/-- The state after such an interval. -/
def State.afterInterval (s : State) (n power : Nat) (levels : List Nat) : State :=
  { s.onReg n (s.intervalReg n power levels) with pendLevel := s.pendLevel ++ s.ordersOf n levels }

theorem State.reg_afterInterval {n : Nat} (hn : n < 4) (s : State) (power : Nat) (levels : List Nat) :
    (s.afterInterval n power levels).reg n = s.intervalReg n power levels (s.reg n) := State.reg_onReg_same hn s _

/-- Every tier with cohorts is at level 3. -/
theorem State.all_level_three_iff (s : State) (n : Nat) :
    (List.range 8).all (fun t => !(!(s.tierCohorts n t).isEmpty) || (s.reg n).levelOf t == 3) = true ↔
      ∀ t, t < 8 → s.tierCohorts n t ≠ [] → (s.reg n).levelOf t = 3 := by
  simp only [List.all_eq_true, List.mem_range, Bool.not_not, Bool.or_eq_true, List.isEmpty_iff, beq_iff_eq, or_iff_not_imp_left, ne_eq]

theorem getD_map_range (f : Nat → Nat) {t : Nat} (h : t < 8) : ((List.range 8).map f).getD t 0 = f t := by
  rw [List.getD_eq_getElem?_getD, List.getElem?_map, List.getElem?_range h]
  rfl

/-- An interval that is due decides a level for each tier by its grant. -/
theorem execPowerInterval_due {n : Nat} (hn : n < 4) (est : List TierEstimate) (power : Nat) {s : State}
    (due : (s.reg n).lastRun + 2048 ≤ s.time.gcy) :
    execPowerInterval n est power s = .next (s.afterInterval n power ((List.range 8).map (s.decidedLevel n est))) := by
  have levels : ((List.range 8).map fun t => nextLevel ((s.reg n).levelOf t)
      (((List.range 8).map (s.demandOf n est)).getD t 0) (((List.range 8).map (s.demandDownOf n est)).getD t 0)
      ((grants (s.reg n).cap.toNat ((List.range 8).map (s.demandOf n est)) ((List.range 8).map (s.reg n).floorOf)).getD t 0)) =
      (List.range 8).map (s.decidedLevel n est) := by
    rw [grants_eq]
    refine List.map_congr_left fun t ht => ?_
    have tier := List.mem_range.mp ht
    rw [getD_map_range _ tier, getD_map_range _ tier, getD_map_range _ tier]
    rfl
  rw [← levels]
  exact if_neg (by omega)

section
variable {s : State} {n : Nat}

theorem State.strand_of_tierCohorts {t coh : Nat} (h : coh ∈ s.tierCohorts n t) : ∃ c ∈ s.strands, c.coh = coh := by
  obtain ⟨c, hc, e⟩ := List.mem_map.mp (mem_distinct.mp h)
  exact ⟨c, (List.mem_filter.mp hc).1, e⟩

theorem State.orderFor_some {level coh : Nat} {p : Nat × Nat × Nat} (h : s.orderFor level coh = some p) :
    p.1 = coh ∧ p.2.1 = level ∧ ∃ c ∈ s.strands, c.coh = coh ∧ p.2.2 = c.ccy + 8 := by
  obtain ⟨c, found, ordered⟩ := Option.bind_eq_some_iff.mp h
  dsimp only at ordered
  split at ordered
  · cases ordered
  · cases ordered
    exact ⟨rfl, rfl, c, List.mem_of_find?_eq_some found, by simpa using List.find?_some found, rfl⟩

/-- A cohort that waits for no change, with none of its strands at the level, is ordered to it. -/
theorem State.orderFor_moves {level coh : Nat} (strand : ∃ c ∈ s.strands, c.coh = coh) (noWait : ∀ p ∈ s.pendLevel, p.1 ≠ coh)
    (moves : ∀ c ∈ s.strands, c.coh = coh → c.level ≠ level) : ∃ x, s.orderFor level coh = some (coh, level, x) := by
  obtain ⟨c, hc, own⟩ := strand
  obtain ⟨d, found⟩ := Option.isSome_iff_exists.mp (List.find?_isSome (p := fun c : Core => c.coh == coh).mpr ⟨c, hc, by simpa using own⟩)
  have other := moves d (List.mem_of_find?_eq_some found) (by simpa using List.find?_some found)
  have noOrder : (s.pendLevel.filter fun p => p.1 == coh) = [] :=
    List.filter_eq_nil_iff.mpr fun p hp => by simpa using noWait p hp
  refine ⟨d.ccy + 8, ?_⟩
  rw [State.orderFor, found, Option.bind_some, noOrder]
  exact if_neg other

theorem State.mem_ordersOf {levels : List Nat} {p : Nat × Nat × Nat} : p ∈ s.ordersOf n levels ↔
    ∃ t, t < 8 ∧ ∃ coh ∈ s.tierCohorts n t, s.orderFor (levels.getD t 0) coh = some p := by
  simp only [State.ordersOf, List.mem_flatMap, List.mem_range, List.mem_filterMap]

end

/-! ## Time flits, slew steps, REGCTL and level changes (R21, R22, R31, R32, R35) -/

/-- Queueing time flits touches the links alone. -/
theorem queueTimeFlits_time (s : State) : ((List.range 16).foldl (fun s n => s.onLink n fun l =>
    if l.up then { l with timeQueued := true } else l) s).time = s.time :=
  foldl_keeps (fun t : State => t.time = s.time) _ (fun t n h => (State.onLink_time t n _).trans h) _ s rfl

theorem execSlewStep_ahead {s : State} (h : 0 < s.time.pending) : execSlewStep s = .next { s with time := { s.time with
    pending := s.time.pending - 1, doubled := true, slewDone := s.time.gcy + 1 } } := by
  simp only [execSlewStep, if_pos h]

theorem execSlewStep_behind {s : State} (h : s.time.pending < 0) : execSlewStep s = .next { s with time := { s.time with
    pending := s.time.pending + 1, slewDone := s.time.gcy + 1 } } := by
  simp only [execSlewStep, if_neg (Int.not_lt.mpr h.le), if_pos h]

/-- The sum of the caps that a write of REGCTL n would leave. -/
def State.capSum (s : State) (n : Nat) (val : BitVec 32) : Nat :=
  ((List.range 4).filter (· != n)).foldl (fun t k => t + (s.reg k).cap.toNat) 0 + (val.extractLsb' 16 10 : BitVec 10).toNat

/-- A write of REGCTL from a control core takes the cap where the sum of the caps allows it, and else sets CAP_ERR. -/
theorem execRegctl_eq {who : Nat} (hw : 512 ≤ who) (n : Nat) (val : BitVec 32) (s : State) {refused : Bool}
    (h : decide (2600 < s.capSum n val) = refused) : execRegctl who n val s = .next (s.onReg n fun r => { r with
      capErr := r.capErr && !val.getLsbD 31 || refused
      mapRefused := r.mapRefused && !val.getLsbD 30
      cap := if refused then r.cap else val.extractLsb' 16 10
      slotmask := val.extractLsb' 8 8 &&& 0xFE
      vtrim := if who = 514 then val.extractLsb' 0 6 else r.vtrim }) := by
  subst h
  exact congrArg Host.Outcome.next (if_pos hw)

/-- The first change that waits for a cohort is made once every strand of it goes and has come to its core cycle. -/
theorem execLevelChange_due {s : State} {coh : Nat} {p : Nat × Nat × Nat} (found : s.pendLevel.find? (fun p => p.1 == coh) = some p)
    (strands : s.cohort coh ≠ []) (ready : ∀ c ∈ s.cohort coh, c.goes = true ∧ p.2.2 ≤ c.ccy) :
    execLevelChange coh s = .next { s.mapCores (fun c => if c.coh = coh ∧ !c.isControl then { c with level := p.2.1 } else c) with
      pendLevel := s.pendLevel.eraseP fun x => x.1 == coh } := by
  have own : p.1 = coh := by simpa using List.find?_some found
  have due : s.levelDue p = true := by
    rw [State.levelDue, own, Bool.and_eq_true, Bool.not_eq_true', List.isEmpty_eq_false_iff, List.all_eq_true]
    exact ⟨strands, fun c hc => by rw [(ready c hc).1, decide_eq_true (ready c hc).2]; rfl⟩
  simp only [execLevelChange, found, due, if_true]

end Sys2Proof.Machine
end

section
/-! Time and power (R20-R38). -/

namespace Sys2Proof.Cert

open Sys2Proof.Machine

theorem granted_grantOf (cap : Nat) (demand floor : Nat → Nat) : Granted cap demand floor (grantOf cap demand floor) :=
  ⟨floorGrant cap demand floor, leftFor (floorShare demand floor) (min cap 800),
    leftFor (surplusShare cap demand floor) (leftFor (floorShare demand floor) (min cap 800) 8), rfl, rfl,
    fun _ _ => ⟨min_assoc _ _ _, rfl, rfl, rfl⟩⟩

/-- What an interval decides: the grants, the levels, the count of over-runs, and the changes. -/
theorem decides_afterInterval (s : State) {n : Nat} (hn : n < 4) (est : List TierEstimate) (power : Nat) :
    Decides s (s.afterInterval n power ((List.range 8).map (s.decidedLevel n est))) n est power := by
  have own := State.reg_afterInterval hn s power ((List.range 8).map (s.decidedLevel n est))
  have level : ∀ t, t < 8 → ((s.afterInterval n power ((List.range 8).map (s.decidedLevel n est))).reg n).levelOf t =
      s.decidedLevel n est t := fun t ht =>
    Regulator.levelOf_packed (s.decidedLevel_lt n est) _ (congrArg Regulator.levels own) ht
  unfold Decides
  simp only [State.demandOf_eq, State.demandDownOf_eq, Regulator.floorOf_eq]
  refine ⟨⟨_, granted_grantOf _ _ _, level⟩, ?overRuns, _, rfl, ?orders, ?covers⟩
  case overRuns =>
    rw [own]
    simp only [State.intervalReg, State.all_level_three_iff]
  case orders =>
    intro p hp
    obtain ⟨t, ht, coh, hcoh, ordered⟩ := State.mem_ordersOf.mp hp
    obtain ⟨rfl, decided, strand⟩ := State.orderFor_some ordered
    exact ⟨t, ht, hcoh, by rw [decided, getD_map_range _ ht, level t ht], strand⟩
  case covers =>
    intro t ht coh hcoh noWait moves
    rw [level t ht, ← getD_map_range (s.decidedLevel n est) ht] at moves
    obtain ⟨x, ordered⟩ := State.orderFor_moves (State.strand_of_tierCohorts hcoh) noWait moves
    exact ⟨_, State.mem_ordersOf.mpr ⟨t, ht, coh, hcoh, ordered⟩, rfl⟩

/-- Settles O42: each register and event is an update of the part of the state that it names; the map goes field by field, and an interval by
its grants. -/
theorem timeAndPower : Obligations.TimeAndPower := by
  unfold Obligations.TimeAndPower
  intro s
  refine ⟨?queue, execSlewStep_ahead, execSlewStep_behind, ?align, ?mapIdle, ?map, ?control, ?interval, fun _ _ => execLevelChange_due, ?report⟩
  case queue =>
    intro enabled
    refine congrArg Host.Outcome.next ((if_pos enabled).trans ?_)
    dsimp only
    rw [queueTimeFlits_time]
  case align =>
    intro val idle
    refine congrArg Host.Outcome.next ((if_pos (by decide)).trans (if_neg ?_))
    rw [idle, Bool.and_false]
    exact Bool.false_ne_true
  case mapIdle =>
    intro who c val hw hc idle
    refine ⟨_, congrArg Host.Outcome.next (if_pos hw), ?_⟩
    rw [State.writePwrmap_idle hc val idle]
    exact ⟨rfl, Vector.toList_setIfInBounds⟩
  case map =>
    intro who c val hw hc
    have written := State.writePwrmap_written hc val s
    refine ⟨_, congrArg Host.Outcome.next (if_pos hw), written.frame, fun k hk => ?own, ?others, written.refused⟩
    case own =>
      rw [written.fields, show (16 * c + k) % 16 = k by omega]
      cases s.clusterBusy (16 * c + k) with
      | false => rw [if_pos ⟨⟨by omega, hk⟩, rfl⟩, if_neg Bool.false_ne_true]; rfl
      | true => rw [if_neg fun h => Bool.noConfusion h.2, if_pos rfl]
    case others => exact fun g other => (written.fields g).trans (if_neg fun h => other h.1.1)
  case control =>
    intro who n val hw hn
    refine ⟨fun fits => ?fits, fun exceeds => ?exceeds⟩
    case fits =>
      refine (execRegctl_eq hw n val s (decide_eq_false (Nat.not_lt.mpr fits))).trans (congrArg _ (State.onReg_congr ?_))
      simp only [Bool.or_false, Bool.false_eq_true, if_false]
    case exceeds =>
      refine (execRegctl_eq hw n val s (decide_eq_true exceeds)).trans (congrArg _ (State.onReg_congr ?_))
      simp only [Bool.or_true, if_true]
  case interval =>
    intro n est power hn due
    have own := State.reg_afterInterval hn s power ((List.range 8).map (s.decidedLevel n est))
    exact ⟨_, execPowerInterval_due hn est power due, congrArg Regulator.lastRun own, congrArg Regulator.power own,
      decides_afterInterval s hn est power, rfl, fun m other => State.reg_onReg_other other.symm s _⟩
  case report =>
    intro n hn long
    exact congrArg Host.Outcome.next (if_pos ⟨long, hn⟩)

end Sys2Proof.Cert
end

section
/-! The state after package reset. -/

namespace Sys2Proof.Machine

/-! ## Tables that nothing has been written to -/

theorem State.owner_below_fot {s : State} {frame : Nat} (h : frame < fotFirst) : s.owner frame = SMap.get 0xFE frame s.fot :=
  if_neg (Nat.not_le.mpr h)

theorem State.owner_from_fot {s : State} {frame : Nat} (h : fotFirst ≤ frame) : s.owner frame = 0xFD := if_pos h

theorem State.reset_tableEntry (core e : Nat) : State.reset.tableEntry core e = entryA0 e := rfl

theorem State.reset_reg {n : Nat} (h : n < 4) : State.reset.reg n = Regulator.reset :=
  (vector_getD_of_lt _ _ h).trans (Vector.getElem_replicate h)

/-- A control core after reset has no handler, no loop, nothing in flight, and every plate of its scratchpad CHECKED. -/
theorem Core.control_reset (id : Nat) (run : RunState) :
    (Core.control id run).r.tvec = 0 ∧ (Core.control id run).loops = [] ∧ (Core.control id run).ccy = 0 ∧
      (Core.control id run).late = [] ∧ ∀ p, ((Core.control id run).plate p).checked = true :=
  ⟨rfl, rfl, rfl, rfl, fun _ => rfl⟩

end Sys2Proof.Machine
end

section
/-! What the spec states for reset. -/

namespace Sys2Proof.Cert

open Sys2Proof.Machine

/-- Settles O60: the tables are empty at reset, so that every entry has its default, and the four cores are control cores. -/
theorem resetState : Obligations.ResetState := by
  unfold Obligations.ResetState
  refine ⟨by unfold MemoriesWf; decide, State.reset_memWf, rfl, rfl, ?cores, fun _ h => State.owner_below_fot h,
    fun _ h => State.owner_from_fot h, fun _ => rfl, ?timing, ?regulators, fun _ => ⟨rfl, rfl, rfl, rfl⟩, rfl, rfl⟩
  case cores =>
    have each : ∀ c ∈ State.reset.cores, ∃ id run, c = Core.control id run := by
      simp [State.cores, State.reset]
    intro c hc
    obtain ⟨id, run, rfl⟩ := each c hc
    exact Core.control_reset id run
  case timing =>
    exact fun core => ⟨State.reset_tableEntry core 0, State.reset_tableEntry core 28, State.reset_tableEntry core 29⟩
  case regulators =>
    intro n hn
    rw [State.reset_reg hn]
    exact ⟨rfl, rfl⟩

end Sys2Proof.Cert
end

section
/-! Virtual functions and their queues (R41-R49): what is read of a function after an update, register writes with every byte enabled, and the
row of each queue register at a function that takes writes. -/

namespace Sys2Proof.Machine

/-! ## A virtual function after an update -/

section
variable {v : Nat} {s : State}

/-- An update of a function is what it makes of that function. -/
theorem State.onVf_congr {f g : Vf → Vf} (h : f (s.vf v) = g (s.vf v)) : s.onVf v f = s.onVf v g := by
  unfold State.onVf SMap.modify
  exact congrArg (fun x => if v < 128 then { s with vfs := SMap.put Vf.reset v x s.vfs } else s) h

/-- An update of a queue is what it makes of that queue. -/
theorem State.onQueue_congr {q : Nat} {f g : LaunchQueue → LaunchQueue} (h : f ((s.vf v).queue q) = g ((s.vf v).queue q)) :
    s.onQueue v q f = s.onQueue v q g :=
  State.onVf_congr (congrArg (fun l => { s.vf v with lq := (s.vf v).lq.setIfInBounds q l }) h)

theorem State.vf_onVf_of_ne (hv : v < 128) {f : Vf → Vf} (h : f (s.vf v) ≠ Vf.reset) : (s.onVf v f).vf v = f (s.vf v) := by
  unfold State.onVf
  rw [if_pos hv]
  exact SMap.get_put_same_of_ne _ v _ s.vfs h

theorem State.vf_onVf_other {u : Nat} (h : u ≠ v) (f : Vf → Vf) : (s.onVf v f).vf u = s.vf u := by
  unfold State.onVf
  split
  · exact SMap.get_put_other _ _ _ _ _ h
  · rfl

end

/-! ## Writes with byte enables -/

/-- The bits that byte k of a register covers. -/
theorem getLsbD_byteMask {w i : Nat} (hi : i < w) (k : Nat) : ((BitVec.ofNat w 0xFF) <<< (8 * k)).getLsbD i = decide (i / 8 = k) := by
  have low : Nat.testBit 0xFF (i - 8 * k) = decide (i - 8 * k < 8) := Nat.testBit_two_pow_sub_one 8 _
  rw [BitVec.getLsbD_shiftLeft, BitVec.getLsbD_ofNat, low, decide_eq_true hi, decide_eq_true (show i - 8 * k < w by omega)]
  by_cases below : i < 8 * k
  · rw [decide_eq_true below, decide_eq_false (show ¬i / 8 = k by omega)]
    rfl
  · rw [decide_eq_false below, Bool.true_and, Bool.true_and, Bool.not_false, Bool.true_and]
    exact decide_eq_decide.mpr (by omega)

/-- A bit of a merged register is that of the write where its byte is enabled. -/
theorem getLsbD_mergeBytes {w : Nat} (old val : BitVec w) (be : Nat → Bool) {i : Nat} (hi : i < w) : (mergeBytes old val be).getLsbD i =
    if i / 8 < w / 8 ∧ be (i / 8) = true then val.getLsbD i else old.getLsbD i := by
  unfold mergeBytes
  generalize w / 8 = n
  induction n with
  | zero => rw [if_neg (by omega)]; rfl
  | succ n ih =>
    rw [List.range_succ, List.foldl_append, List.foldl_cons, List.foldl_nil]
    by_cases own : i / 8 = n
    · rw [if_neg fun before => by omega] at ih
      by_cases enabled : be n = true
      · rw [if_pos enabled, if_pos ⟨by omega, own ▸ enabled⟩]
        simp only [BitVec.getLsbD_or, BitVec.getLsbD_and, BitVec.getLsbD_not, getLsbD_byteMask hi, own, decide_true, Bool.not_true,
          Bool.and_false, Bool.and_true, Bool.false_or]
      · rw [if_neg enabled, if_neg fun h => enabled (own ▸ h.2), ih]
    · have same : (i / 8 < n + 1 ∧ be (i / 8) = true) ↔ (i / 8 < n ∧ be (i / 8) = true) :=
        and_congr_left fun _ => by omega
      simp only [same, ← ih]
      split
      · simp only [BitVec.getLsbD_or, BitVec.getLsbD_and, BitVec.getLsbD_not, getLsbD_byteMask hi, own, decide_false, Bool.not_false,
          Bool.and_true, Bool.and_false, Bool.or_false, decide_eq_true hi]
      · rfl

/-- With every byte enabled a register takes the value of the write. -/
theorem mergeBytes_all {w : Nat} (old val : BitVec w) {be : Nat → Bool} (whole : 8 ∣ w) (h : ∀ k, k < w / 8 → be k = true) :
    mergeBytes old val be = val := by
  refine BitVec.eq_of_getLsbD_eq fun i hi => ?_
  have place : i / 8 < w / 8 := by omega
  rw [getLsbD_mergeBytes old val be hi, if_pos ⟨place, h _ place⟩]

theorem mergeBytes_word (old val : Word) : mergeBytes old val (0xFF : BitVec 8).getLsbD = val :=
  mergeBytes_all old val (by decide) (by decide)

theorem mergeBytes_half (old val : BitVec 32) : mergeBytes old val (0xF : BitVec 4).getLsbD = val :=
  mergeBytes_all old val (by decide) (by decide)

end Sys2Proof.Machine
end

section
/-! Queue registers (R43-R49). -/

namespace Sys2Proof.Cert

open Sys2Proof.Machine

section
variable {s : State} {v : Nat} (h : TakesWrites s v)
include h

/-- A write of a register of a function that takes writes reaches the register. -/
theorem TakesWrites.barWrite_eq (f : State → State) : s.barWrite v f = f s := by
  obtain ⟨_, finished, accepted⟩ := h
  simp only [State.barWrite, State.atVf, State.orUnsupported, finished, accepted, Bool.false_eq_true, if_false, if_true]

/-- A row of the function is the write of its register. -/
theorem TakesWrites.row {f : State → State} {t : State} (write : f s = t) :
    Host.Outcome.next (φ := Fault) (ρ := Refusal) (s.barWrite v f) = .next t :=
  congrArg _ ((h.barWrite_eq f).trans write)

/-- A row of a queue is the write of its register. -/
theorem TakesWrites.queueRow {q : Nat} (hq : q < 8) {f : State → State} {t : State} (write : f s = t) :
    Host.Outcome.next (φ := Fault) (ρ := Refusal) (if 8 ≤ q then s else s.barWrite v f) = .next t :=
  congrArg _ ((if_neg (Nat.not_le.mpr hq)).trans ((h.barWrite_eq f).trans write))

end

section
variable {s : State} {v q : Nat}

/-! ## A doorbell (R45, R49) -/

theorem ringDoorbell_disabled (disabled : ((s.vf v).queue q).enable = false) (val : BitVec 32) : s.ringDoorbell v q val = s := by
  simp only [State.ringDoorbell, disabled, Bool.not_false, if_true]

theorem ringDoorbell_inside (enabled : ((s.vf v).queue q).enable = true) {val : BitVec 32}
    (inside : (val.extractLsb' 0 16 : BitVec 16).toNat < 2 ^ ((s.vf v).queue q).log2.toNat) :
    s.ringDoorbell v q val = s.onQueue v q fun l => { l with tail := val.extractLsb' 0 16, kick := some s.time.gcy } := by
  simp only [State.ringDoorbell, enabled, Bool.not_true, Bool.false_eq_true, if_false, if_neg (Nat.not_le.mpr inside)]

theorem ringDoorbell_outside (enabled : ((s.vf v).queue q).enable = true) {val : BitVec 32}
    (outside : 2 ^ ((s.vf v).queue q).log2.toNat ≤ (val.extractLsb' 0 16 : BitVec 16).toNat) :
    s.ringDoorbell v q val = s.stopQueue v q := by
  simp only [State.ringDoorbell, enabled, Bool.not_true, Bool.false_eq_true, if_false, if_pos outside]

/-! ## LQBASE and CQBASE (R44) -/

theorem writeLqbase_disabled (disabled : ((s.vf v).queue q).enable = false) (val : Word) :
    s.writeLqbase v q val 0xFF = s.onQueue v q fun l => { l with base := val &&& ~~~(0x7F : Word) } := by
  simp only [State.writeLqbase, mergeBytes_word, disabled, Bool.false_and, Bool.false_eq_true, if_false]

theorem writeLqbase_refused (enabled : ((s.vf v).queue q).enable = true) {val : Word}
    (moves : val &&& ~~~(0x7F : Word) ≠ ((s.vf v).queue q).base) :
    s.writeLqbase v q val 0xFF = s.onVf v fun f => { f with cfgErr := true } := by
  simp only [State.writeLqbase, mergeBytes_word, enabled, bne_iff_ne.mpr moves, Bool.true_and, if_true]
  rfl

theorem writeCqbase_disabled (disabled : (s.vf v).cqEnable = false) (val : Word) :
    s.writeCqbase v val 0xFF = s.onVf v fun f => { f with cqBase := val &&& ~~~(0x1F : Word) } := by
  simp only [State.writeCqbase, mergeBytes_word, disabled, Bool.false_and, Bool.false_eq_true, if_false]

theorem writeCqbase_refused (enabled : (s.vf v).cqEnable = true) {val : Word} (moves : val &&& ~~~(0x1F : Word) ≠ (s.vf v).cqBase) :
    s.writeCqbase v val 0xFF = s.onVf v fun f => { f with cfgErr := true } := by
  simp only [State.writeCqbase, mergeBytes_word, enabled, bne_iff_ne.mpr moves, Bool.true_and, if_true]
  rfl

/-! ## LQCFG (R44; log 80) -/

theorem writeLqcfg_resized (enabled : ((s.vf v).queue q).enable = true) {val : BitVec 32}
    (resized : (val.extractLsb' 16 4 : BitVec 4) ≠ ((s.vf v).queue q).log2) :
    s.writeLqcfg v q val 0xF = s.onVf v fun f => { f with cfgErr := true } := by
  simp only [State.writeLqcfg, mergeBytes_half, enabled, bne_iff_ne.mpr resized, Bool.true_and, if_true]
  rfl

theorem writeLqcfg_enabled (enabled : ((s.vf v).queue q).enable = true) {val : BitVec 32}
    (same : (val.extractLsb' 16 4 : BitVec 4) = ((s.vf v).queue q).log2) :
    s.writeLqcfg v q val 0xF = s.onQueue v q fun l => { l with enable := val.getLsbD 31 } := by
  simp only [State.writeLqcfg, mergeBytes_half, enabled, same, bne_self_eq_false, Bool.not_true, Bool.and_false, Bool.false_and,
    Bool.false_eq_true, if_false]
  exact State.onQueue_congr (by simp only [enabled, Bool.not_true, Bool.and_false, Bool.false_eq_true, if_false])

theorem writeLqcfg_illegal (disabled : ((s.vf v).queue q).enable = false) {val : BitVec 32} (enables : val.getLsbD 31 = true)
    (illegal : sizeLegal (val.extractLsb' 16 4) = false) : s.writeLqcfg v q val 0xF =
      (s.onQueue v q fun l => { l with log2 := val.extractLsb' 16 4 }).onVf v fun f => { f with cfgErr := true } := by
  simp only [State.writeLqcfg, mergeBytes_half, disabled, enables, illegal, Bool.false_and, Bool.not_false, Bool.and_true,
    Bool.false_eq_true, if_false, if_true]
  rfl

theorem writeLqcfg_enables (disabled : ((s.vf v).queue q).enable = false) {val : BitVec 32} (enables : val.getLsbD 31 = true)
    (legal : sizeLegal (val.extractLsb' 16 4) = true) : s.writeLqcfg v q val 0xF =
      s.onQueue v q fun l => { l with enable := true, log2 := val.extractLsb' 16 4, head := 0 } := by
  simp only [State.writeLqcfg, mergeBytes_half, disabled, enables, legal, Bool.false_and, Bool.not_true, Bool.and_false,
    Bool.false_eq_true, if_false]
  exact State.onQueue_congr (by simp only [disabled, Bool.not_false, Bool.and_true, if_true])

theorem writeLqcfg_disabled (disabled : ((s.vf v).queue q).enable = false) {val : BitVec 32} (stays : val.getLsbD 31 = false) :
    s.writeLqcfg v q val 0xF = s.onQueue v q fun l => { l with log2 := val.extractLsb' 16 4 } := by
  simp only [State.writeLqcfg, mergeBytes_half, disabled, stays, Bool.false_and, Bool.false_eq_true, if_false]
  exact State.onQueue_congr (by simp only [← disabled])

/-! ## CQCFG (R44, R47; log 80) -/

theorem writeCqcfg_resized (enabled : (s.vf v).cqEnable = true) {val : BitVec 32} (resized : (val.extractLsb' 16 4 : BitVec 4) ≠ (s.vf v).cqLog2) :
    s.writeCqcfg v val 0xF = s.onVf v fun f => { f with cfgErr := true } := by
  simp only [State.writeCqcfg, mergeBytes_half, enabled, bne_iff_ne.mpr resized, Bool.true_and, if_true]
  rfl

/-- A function after a write of CQCFG that changes no size in use. -/
def withCqcfg (val : BitVec 32) (f : Vf) : Vf :=
  let sets := val.getLsbD 31 && !f.cqEnable
  let bad := sets && !sizeLegal (val.extractLsb' 16 4)
  { f with
    cqEnable := val.getLsbD 31 && !bad
    cfgErr := f.cfgErr || bad
    intMask := val.getLsbD 30
    cqLog2 := val.extractLsb' 16 4
    cqTail := if sets && !bad then 0 else f.cqTail
    phase := (sets && !bad) || f.phase }

/-- Such a write is an update of the function, after which the records that are held go as far as they can. -/
theorem writeCqcfg_taken {val : BitVec 32} (same : (s.vf v).cqEnable = true → (val.extractLsb' 16 4 : BitVec 4) = (s.vf v).cqLog2)
    {g : Vf → Vf} (update : withCqcfg val (s.vf v) = g (s.vf v)) :
    s.writeCqcfg v val 0xF = (s.onVf v g).drainRecords v ((s.onVf v g).vf v).heldRecs.length := by
  have stays : ¬((s.vf v).cqEnable && (val.extractLsb' 16 4 : BitVec 4) != (s.vf v).cqLog2) = true := by simpa using same
  rw [← State.onVf_congr update]
  simp only [State.writeCqcfg, mergeBytes_half, if_neg stays]
  rfl

theorem writeCqcfg_sized (enabled : (s.vf v).cqEnable = true) {val : BitVec 32}
    (same : (val.extractLsb' 16 4 : BitVec 4) = (s.vf v).cqLog2) :
    s.writeCqcfg v val 0xF =
      let t := s.onVf v fun f => { f with cqEnable := val.getLsbD 31, intMask := val.getLsbD 30 }
      t.drainRecords v (t.vf v).heldRecs.length :=
  writeCqcfg_taken (fun _ => same) (by simp [withCqcfg, enabled, same])

section
variable (disabled : (s.vf v).cqEnable = false) {val : BitVec 32}
include disabled

theorem writeCqcfg_illegal (enables : val.getLsbD 31 = true) (illegal : sizeLegal (val.extractLsb' 16 4) = false) :
    s.writeCqcfg v val 0xF =
      let t := s.onVf v fun f => { f with intMask := val.getLsbD 30, cqLog2 := val.extractLsb' 16 4, cfgErr := true }
      t.drainRecords v (t.vf v).heldRecs.length :=
  writeCqcfg_taken (by simp [disabled]) (by simp [withCqcfg, disabled, enables, illegal])

theorem writeCqcfg_disabled (stays : val.getLsbD 31 = false) :
    s.writeCqcfg v val 0xF =
      let t := s.onVf v fun f => { f with intMask := val.getLsbD 30, cqLog2 := val.extractLsb' 16 4 }
      t.drainRecords v (t.vf v).heldRecs.length :=
  writeCqcfg_taken (by simp [disabled]) (by simp only [withCqcfg, disabled, stays, Bool.false_and, Bool.not_false,
    Bool.or_false, Bool.false_or, Bool.false_eq_true, if_false])

theorem writeCqcfg_enables (enables : val.getLsbD 31 = true) (legal : sizeLegal (val.extractLsb' 16 4) = true) :
    s.writeCqcfg v val 0xF =
      let t := s.onVf v fun f => { f with
        cqEnable := true, intMask := val.getLsbD 30, cqLog2 := val.extractLsb' 16 4, cqTail := 0, phase := true }
      t.drainRecords v (t.vf v).heldRecs.length :=
  writeCqcfg_taken (by simp [disabled]) (by simp [withCqcfg, disabled, enables, legal])

end

end

/-- Settles O43: at a function that takes writes each row is the write of its register, which has one case for each clause. -/
theorem queueRegisters : Obligations.QueueRegisters := by
  unfold Obligations.QueueRegisters
  intro s v q h hq
  exact ⟨fun _ on inside => h.queueRow hq (ringDoorbell_inside on inside),
    fun val off => h.queueRow hq (ringDoorbell_disabled off val),
    fun _ on outside => h.queueRow hq (ringDoorbell_outside on outside),
    fun val off => h.queueRow hq (writeLqbase_disabled off val),
    fun _ on moves => h.queueRow hq (writeLqbase_refused on moves),
    fun _ off enables legal => h.queueRow hq (writeLqcfg_enables off enables legal),
    fun _ on resized => h.queueRow hq (writeLqcfg_resized on resized),
    fun _ on same => h.queueRow hq (writeLqcfg_enabled on same),
    fun _ off enables illegal => h.queueRow hq (writeLqcfg_illegal off enables illegal),
    fun _ off stays => h.queueRow hq (writeLqcfg_disabled off stays),
    fun _ on moves => h.row (writeCqbase_refused on moves),
    fun _ on resized => h.row (writeCqcfg_resized on resized),
    fun _ on same => h.row (writeCqcfg_sized on same),
    fun _ off enables illegal => h.row (writeCqcfg_illegal off enables illegal),
    fun _ off stays => h.row (writeCqcfg_disabled off stays),
    fun val off => h.row (writeCqbase_disabled off val),
    fun _ off enables legal => h.row (writeCqcfg_enables off enables legal),
    fun _ => h.row rfl,
    fun w val hw => congrArg Host.Outcome.next (if_pos ⟨le_rfl, hw⟩)⟩

end Sys2Proof.Cert
end

section
/-! The end of tasks and the resets of virtual functions (R51, R54, R56, R123): what they leave of the part, and of each function. -/

namespace Sys2Proof.Machine

/-! ## What they leave of the part -/

/-- The part has stayed, but for its cores and tasks, its collectives, and its functions with their mailboxes. -/
def State.TaskFrame (s t : State) : Prop :=
  t = { s with
    core := t.core, others := t.others, released := t.released, tasks := t.tasks, fresh := t.fresh, orphans := t.orphans
    pendLevel := t.pendLevel, collEnds := t.collEnds, collWrites := t.collWrites, colls := t.colls, vfs := t.vfs, doe := t.doe }

theorem State.TaskFrame.trans {s t u : State} (h : State.TaskFrame s t) (k : State.TaskFrame t u) : State.TaskFrame s u :=
  Eq.trans k (congrArg (fun x : State => { x with
    core := u.core, others := u.others, released := u.released, tasks := u.tasks, fresh := u.fresh, orphans := u.orphans
    pendLevel := u.pendLevel, collEnds := u.collEnds, collWrites := u.collWrites, colls := u.colls, vfs := u.vfs, doe := u.doe }) h)

/-- The part has stayed, but for its cores and tasks. -/
def State.CoreFrame (s t : State) : Prop :=
  t = { s with
    core := t.core, others := t.others, released := t.released, tasks := t.tasks, fresh := t.fresh, orphans := t.orphans
    pendLevel := t.pendLevel }

theorem State.CoreFrame.trans {s t u : State} (h : State.CoreFrame s t) (k : State.CoreFrame t u) : State.CoreFrame s u :=
  Eq.trans k (congrArg (fun x : State => { x with
    core := u.core, others := u.others, released := u.released, tasks := u.tasks, fresh := u.fresh, orphans := u.orphans
    pendLevel := u.pendLevel }) h)

theorem State.CoreFrame.vfs {s t : State} (h : State.CoreFrame s t) : t.vfs = s.vfs := by
  unfold State.CoreFrame at h
  rw [h]

theorem State.CoreFrame.taskFrame {s t : State} (h : State.CoreFrame s t) : State.TaskFrame s t := by
  unfold State.CoreFrame at h
  rw [h]
  rfl

theorem State.TaskFrame.primer {s t : State} (h : State.TaskFrame s t) :
    t.tdiEvt = s.tdiEvt ∧ t.tdiQueue = s.tdiQueue ∧ t.tdiRsp = s.tdiRsp := by
  unfold State.TaskFrame at h
  rw [h]
  exact ⟨rfl, rfl, rfl⟩

theorem State.TaskFrame.pf {s t : State} (h : State.TaskFrame s t) : t.pf = s.pf := by
  unfold State.TaskFrame at h
  rw [h]

/-- What keeps the frame at each element keeps it over a list. -/
theorem State.TaskFrame.foldl {α : Type} {f : State → α → State} (h : ∀ s a, State.TaskFrame s (f s a)) (l : List α) (s : State) :
    State.TaskFrame s (l.foldl f s) :=
  foldl_keeps (State.TaskFrame s) f (fun t a k => k.trans (h t a)) l s rfl

theorem State.onVf_taskFrame (s : State) (v : Nat) (f : Vf → Vf) : State.TaskFrame s (s.onVf v f) := by
  unfold State.onVf
  split <;> rfl

theorem State.abortAfter_taskFrame (s : State) (v : Nat) : State.TaskFrame s (s.abortAfter v) := by
  have aborts := State.TaskFrame.foldl (f := fun s g => s.abortGroup g 0x71) (fun _ _ => rfl) (SMap.get Vf.reset v s.vfs).aborts s
  unfold State.abortAfter
  dsimp only
  split
  · rfl
  · split
    · exact aborts
    · exact aborts.trans rfl

/-- The end of a task changes cores and tasks alone before the collectives of its function are aborted. -/
theorem State.endTask_eq_abortAfter (s : State) (task status cause : Nat) (tval : Word) :
    ∃ t x, s.endTask task status cause tval = State.abortAfter x t ∧ State.CoreFrame s t := by
  have settled : ∀ (u : State) ids, State.CoreFrame u (u.settle ids) := fun _ _ => rfl
  have handed : ∀ (u : State) cores, State.CoreFrame u (u.handOver task false cores) := fun _ _ => rfl
  have cleared : ∀ u : State, State.CoreFrame u (u.unsealPartners task) := fun _ => rfl
  have drawn : ∀ u : State, State.CoreFrame u u.draw.2 := fun _ => rfl
  have freed : ∀ (u : State) f, State.CoreFrame u (u.mapCores f) := fun _ _ => rfl
  have noted : ∀ (u : State) o p k, State.CoreFrame u { u with orphans := o, pendLevel := p, tasks := k } := fun _ _ _ _ => rfl
  exact ⟨_, _, rfl, (((((settled s _).trans (handed _ _)).trans (cleared _)).trans (drawn _)).trans (freed _ _)).trans (noted _ _ _ _)⟩

theorem State.endTask_taskFrame (s : State) (task status cause : Nat) (tval : Word) :
    State.TaskFrame s (s.endTask task status cause tval) := by
  obtain ⟨t, x, ends, frame⟩ := s.endTask_eq_abortAfter task status cause tval
  exact ends ▸ frame.taskFrame.trans (t.abortAfter_taskFrame x)

/-- A pre-emption request, whatever the dispatcher's pause. -/
def State.pressPreempt (s : State) (id : Nat) : State :=
  (s.onTask id fun k => { k with asked := true }).mapCores fun c =>
    if c.task = id ∧ !c.isControl ∧ c.run ≠ .ended ∧ c.preempt.isNone then { c with preempt := some s.time.gcy, pbFrom := c.ccy } else c

/-- The tasks of a function are dropped in three steps: those that do not run end, those that run are asked to, and the collectives noted are
aborted once none runs. -/
theorem State.dropTasks_eq (s : State) (v : Nat) : ∃ groups gone runs, s.dropTasks v =
    State.abortAfter v (List.foldl State.pressPreempt
      (List.foldl (fun s id => State.endTask id 9 0 0 s) (s.onVf v fun f => { f with aborts := groups }) gone) runs) :=
  ⟨_, _, _, rfl⟩

theorem State.dropTasks_taskFrame (s : State) (v : Nat) : State.TaskFrame s (s.dropTasks v) := by
  obtain ⟨groups, gone, runs, drops⟩ := s.dropTasks_eq v
  have ended := State.TaskFrame.foldl (f := fun s id => State.endTask id 9 0 0 s) (fun s id => s.endTask_taskFrame id 9 0 0) gone
  have asked := State.TaskFrame.foldl (f := State.pressPreempt) (fun _ _ => rfl) runs
  exact drops ▸ (((s.onVf_taskFrame v _).trans (ended _)).trans (asked _)).trans (State.abortAfter_taskFrame _ v)

theorem State.enterError_taskFrame (s : State) (v : Nat) : State.TaskFrame s (s.enterError v) :=
  (s.onVf_taskFrame v _).trans (State.dropTasks_taskFrame _ v)

theorem State.beginVfReset_taskFrame (s : State) (v : Nat) : State.TaskFrame s (s.beginVfReset v) := by
  unfold State.beginVfReset
  dsimp only
  refine State.TaskFrame.trans ?_ (rfl : State.TaskFrame _ (State.wipeRemains v _))
  exact State.TaskFrame.trans (State.TaskFrame.trans (rfl : State.TaskFrame s (s.setMailbox _ _)) (State.onVf_taskFrame _ v _))
    (State.dropTasks_taskFrame _ v)

theorem State.tdiPush_pf (s : State) (e : TdiEvt) : (s.tdiPush e).pf = s.pf := by
  unfold State.tdiPush
  split <;> rfl

theorem State.lockedHit_pf (s : State) (v info : Nat) : (s.lockedHit v info).pf = s.pf :=
  (State.tdiPush_pf _ _).trans (s.enterError_taskFrame v).pf

theorem State.resetVf_pf (s : State) (v : Nat) : (s.resetVf v).pf = s.pf :=
  (State.tdiPush_pf _ _).trans (s.beginVfReset_taskFrame v).pf

/-! ## What they leave of a function -/

/-- A function that is not as at reset, whichever collectives it notes: an update of the collectives keeps it in the table. -/
def Vf.InUse (f : Vf) : Prop := ∀ groups, { f with aborts := groups } ≠ Vf.reset

theorem Vf.inUse_of_resetting {f : Vf} (h : f.resetting = true) : f.InUse := fun _ e =>
  Bool.noConfusion (h.symm.trans (congrArg Vf.resetting e :))

theorem Vf.inUse_of_tdi {f : Vf} (h : f.tdi ≠ 0) : f.InUse := fun _ e => h (congrArg Vf.tdi e :)

/-- Function v has stayed, but for the collectives that it notes. -/
def State.KeepsVf (v : Nat) (s t : State) : Prop := ∃ groups, t.vf v = { s.vf v with aborts := groups }

section
variable {v : Nat} {s t u : State}

theorem State.KeepsVf.of_eq (h : t.vf v = s.vf v) : State.KeepsVf v s t := ⟨_, h⟩

theorem State.KeepsVf.trans (h : State.KeepsVf v s t) (k : State.KeepsVf v t u) : State.KeepsVf v s u := by
  obtain ⟨_, h⟩ := h
  obtain ⟨groups, k⟩ := k
  exact ⟨groups, k.trans (by rw [h])⟩

theorem State.KeepsVf.inUse (h : State.KeepsVf v s t) (used : (s.vf v).InUse) : (t.vf v).InUse := by
  obtain ⟨_, h⟩ := h
  exact fun groups => h ▸ used groups

/-- Noting collectives keeps a function that is in use, and every other one. -/
theorem State.onVf_aborts_keepsVf (used : (s.vf v).InUse) (x : Nat) (groups : List Nat) :
    State.KeepsVf v s (s.onVf x fun f => { f with aborts := groups }) := by
  by_cases own : v = x
  · subst own
    by_cases hv : v < 128
    · exact ⟨groups, State.vf_onVf_of_ne hv (used groups)⟩
    · exact .of_eq (congrArg (State.vf · v) (if_neg hv))
  · exact .of_eq (State.vf_onVf_other own _)

theorem State.abortGroups_vfs (s : State) (groups : List Nat) : (groups.foldl (fun s g => s.abortGroup g 0x71) s).vfs = s.vfs :=
  foldl_keeps (fun t : State => t.vfs = s.vfs) (fun s g => s.abortGroup g 0x71) (fun _ _ h => h) groups s rfl

theorem State.abortAfter_keepsVf (used : (s.vf v).InUse) (x : Nat) : State.KeepsVf v s (s.abortAfter x) := by
  have vfs := s.abortGroups_vfs (SMap.get Vf.reset x s.vfs).aborts
  unfold State.abortAfter
  dsimp only
  split
  · exact .of_eq rfl
  · split
    · exact .of_eq (congrArg (SMap.get Vf.reset v) vfs)
    · by_cases own : v = x
      · subst own
        exact ⟨[], SMap.get_put_same_of_ne _ v _ _ (used [])⟩
      · exact .of_eq ((SMap.get_put_other _ _ _ _ _ own).trans (congrArg (SMap.get Vf.reset v) vfs))

theorem State.endTask_keepsVf (used : (s.vf v).InUse) (task status cause : Nat) (tval : Word) :
    State.KeepsVf v s (s.endTask task status cause tval) := by
  obtain ⟨t, x, ends, frame⟩ := s.endTask_eq_abortAfter task status cause tval
  have kept : State.KeepsVf v s t := .of_eq (congrArg (SMap.get Vf.reset v) frame.vfs)
  exact ends ▸ kept.trans (State.abortAfter_keepsVf (kept.inUse used) x)

theorem State.dropTasks_keepsVf (used : (s.vf v).InUse) (x : Nat) : State.KeepsVf v s (s.dropTasks x) := by
  obtain ⟨groups, gone, runs, drops⟩ := s.dropTasks_eq x
  have noted := State.onVf_aborts_keepsVf used x groups
  have ended := foldl_keeps (State.KeepsVf v s) (fun s id => s.endTask id 9 0 0)
    (fun t id kept => kept.trans (State.endTask_keepsVf (kept.inUse used) id 9 0 0)) gone _ noted
  have asked := foldl_keeps (State.KeepsVf v s) State.pressPreempt (fun _ _ kept => kept) runs _ ended
  exact drops ▸ asked.trans (State.abortAfter_keepsVf (asked.inUse used) x)

/-- A function in ERROR. -/
theorem State.vf_enterError {v : Nat} (hv : v < 128) (s : State) : ∃ groups, (s.enterError v).vf v = { s.vf v with tdi := 3, aborts := groups } := by
  have moved : (s.onVf v fun f => { f with tdi := 3 }).vf v = { s.vf v with tdi := 3 } :=
    State.vf_onVf_of_ne hv fun e => (by decide : (3 : BitVec 2) ≠ 0) (congrArg Vf.tdi e :)
  have used : ((s.onVf v fun f => { f with tdi := 3 }).vf v).InUse := moved ▸ Vf.inUse_of_tdi (by decide : (3 : BitVec 2) ≠ 0)
  obtain ⟨groups, kept⟩ := State.dropTasks_keepsVf used v
  exact ⟨groups, kept.trans (by rw [moved])⟩

/-- A function whose reset begins. -/
theorem State.vf_beginVfReset {v : Nat} (hv : v < 128) (s : State) : ∃ groups, (s.beginVfReset v).vf v = { s.vf v with
    tdi := 0, nfw := false, condemned := [], nonce := 0, report := [], resetting := true, scrubbing := false, heldRecs := []
    aborts := groups } := by
  obtain ⟨t, begins, moved⟩ : ∃ t : State, s.beginVfReset v = (t.dropTasks v).wipeRemains v ∧ t.vf v = { s.vf v with
      tdi := 0, nfw := false, condemned := [], nonce := 0, report := [], resetting := true, scrubbing := false, heldRecs := [] } :=
    ⟨_, rfl, State.vf_onVf_of_ne (s := s.setMailbox _ _) hv fun e => Bool.noConfusion (congrArg Vf.resetting e :)⟩
  have used : (t.vf v).InUse := moved ▸ Vf.inUse_of_resetting rfl
  obtain ⟨groups, kept⟩ := State.dropTasks_keepsVf used v
  exact ⟨groups, begins ▸ kept.trans (by rw [moved])⟩

end

end Sys2Proof.Machine
end

section
/-! TDISP requests (R51, R53, R55, R391, R392): what the Primer's firmware serves, and the answer that goes out. -/

namespace Sys2Proof.Machine

/-- What the lock of a TDI leaves of its function. -/
theorem State.vf_tdiLock {v : Nat} (hv : v < 128) (nfw : Bool) (s : State) : ∃ nonce report frozen,
    (s.tdiLock v nfw).vf v = { s.vf v with tdi := 1, nfw := nfw, nonce := nonce, report := report, frozen := frozen } :=
  ⟨_, _, _, State.vf_onVf_of_ne (s := s.drawRandom.2) hv fun e => absurd (congrArg Vf.tdi e :) (by decide : (1 : BitVec 2) ≠ 0)⟩

/-! ## What each request is served with -/

section
variable {s : State} {v : Nat}

theorem tdispServe_lock_locked (locked : (s.vf v).tdi ≠ 0) (flags : BitVec 16) :
    s.tdispServe v (.lock flags) = (tdispFails 0x0004, s) := if_pos locked

theorem tdispServe_lock_unfit (unlocked : (s.vf v).tdi = 0) {flags : BitVec 16} (unfit : s.tdichk v ≠ 0x3F ∨ flags &&& 0xFFFE ≠ 0) :
    s.tdispServe v (.lock flags) = (tdispFails 0x0001, s) := (if_neg (not_not.mpr unlocked)).trans (if_pos unfit)

theorem tdispServe_lock_fit (unlocked : (s.vf v).tdi = 0) {flags : BitVec 16} (checked : s.tdichk v = 0x3F) (plain : flags &&& 0xFFFE = 0) :
    s.tdispServe v (.lock flags) =
      ((0x03, leBytes 32 ((s.tdiLock v (flags.getLsbD 0)).vf v).nonce.toNat), s.tdiLock v (flags.getLsbD 0)) :=
  (if_neg (not_not.mpr unlocked)).trans (if_neg (not_or.mpr ⟨not_not.mpr checked, not_not.mpr plain⟩))

theorem tdispServe_report_unlocked (unlocked : (s.vf v).isLocked = false) (o n : BitVec 16) :
    s.tdispServe v (.report o n) = (tdispFails 0x0004, s) := by
  simp only [State.tdispServe, unlocked, Bool.not_false, if_true]

theorem tdispServe_report_past (locked : (s.vf v).isLocked = true) {o : BitVec 16} (past : (s.vf v).report.length ≤ o.toNat) (n : BitVec 16) :
    s.tdispServe v (.report o n) = (tdispFails 0x0001, s) := by
  simp only [State.tdispServe, locked, Bool.not_true, Bool.false_eq_true, if_false, if_pos past]

theorem tdispServe_report_inside (locked : (s.vf v).isLocked = true) {o : BitVec 16} (inside : o.toNat < (s.vf v).report.length)
    (n : BitVec 16) : s.tdispServe v (.report o n) = ((0x04, reportPortion (s.vf v).report o.toNat n.toNat), s) := by
  simp only [State.tdispServe, locked, Bool.not_true, Bool.false_eq_true, if_false, if_neg (Nat.not_le.mpr inside)]

theorem tdispServe_start_elsewhere (elsewhere : (s.vf v).tdi ≠ 1) (x : Payload) :
    s.tdispServe v (.start x) = (tdispFails 0x0004, s) := if_pos elsewhere

theorem tdispServe_start_known (locked : (s.vf v).tdi = 1) :
    s.tdispServe v (.start (s.vf v).nonce) = ((0x06, []), s.onVf v fun f => { f with tdi := 2 }) :=
  (if_neg (not_not.mpr locked)).trans (if_pos rfl)

theorem tdispServe_start_unknown (locked : (s.vf v).tdi = 1) {x : Payload} (unknown : x ≠ (s.vf v).nonce) :
    s.tdispServe v (.start x) = (tdispFails 0x0102, s.enterError v) := (if_neg (not_not.mpr locked)).trans (if_neg unknown)

end

end Sys2Proof.Machine
end

section
/-! The answers to TDISP requests. -/

namespace Sys2Proof.Cert

open Sys2Proof.Machine

section
variable {s : State} {v : Nat} (h : TakesMessages s v)
include h

/-- A message for a mailbox that takes messages is processed. -/
theorem TakesMessages.atDoe_eq (f : State → State) : s.atDoe v f = f s := by
  obtain ⟨hv, free, stays, up⟩ := h
  simp only [State.atDoe, free, stays, decide_eq_false (Nat.not_le.mpr hv), up, Bool.or_self, Bool.not_true, Bool.false_eq_true, if_false]

/-- A request that begins no reset is answered at once. -/
theorem TakesMessages.answers {r : TdispReq} {code : Nat} {body : List Byte} {t : State} (serves : s.tdispServe v r = ((code, body), t))
    (stays : (t.vf v).resetting = false) :
    Host.Outcome.next (φ := Fault) (ρ := Refusal) (s.tdisp v r) = .next (t.respond v (tdispMsg v code body)) := by
  simp only [State.tdisp, h.atDoe_eq, serves, stays, Bool.false_eq_true, if_false]

/-- A request that changes nothing is answered at once. -/
theorem TakesMessages.answersUnchanged {r : TdispReq} {code : Nat} {body : List Byte} (serves : s.tdispServe v r = ((code, body), s)) :
    Host.Outcome.next (φ := Fault) (ρ := Refusal) (s.tdisp v r) = .next (s.respond v (tdispMsg v code body)) := by
  obtain ⟨_, _, stays, _⟩ := id h
  exact h.answers serves stays

end

/-- Settles O45: the answer is what the firmware serves; that to STOP waits, since it alone leaves the function in a reset. -/
theorem tdispRequests : Obligations.TdispRequests := by
  unfold Obligations.TdispRequests
  intro s v h
  obtain ⟨hv, _, stays, _⟩ := id h
  refine ⟨h.answersUnchanged rfl, h.answersUnchanged rfl, h.answersUnchanged rfl,
    fun flags locked => h.answersUnchanged (tdispServe_lock_locked locked flags),
    fun _ unlocked unfit => h.answersUnchanged (tdispServe_lock_unfit unlocked unfit), ?lock,
    fun o n unlocked => h.answersUnchanged (tdispServe_report_unlocked unlocked o n),
    fun _ n locked inside => h.answersUnchanged (tdispServe_report_inside locked inside n),
    fun _ n locked past => h.answersUnchanged (tdispServe_report_past locked past n),
    fun x elsewhere => h.answersUnchanged (tdispServe_start_elsewhere elsewhere x), ?start, ?refuse, ?stop,
    h.answersUnchanged rfl, h.answersUnchanged rfl, h.answersUnchanged rfl, h.answersUnchanged rfl⟩
  case lock =>
    intro flags unlocked checked plain
    obtain ⟨_, _, _, locked⟩ := State.vf_tdiLock hv (flags.getLsbD 0) s
    exact h.answers (tdispServe_lock_fit unlocked checked plain) (locked ▸ stays)
  case start =>
    intro locked
    have runs : (s.onVf v fun f => { f with tdi := 2 }).vf v = { s.vf v with tdi := 2 } :=
      State.vf_onVf_of_ne hv fun e => absurd (congrArg Vf.tdi e :) (by decide : (2 : BitVec 2) ≠ 0)
    exact h.answers (tdispServe_start_known locked) (runs ▸ stays)
  case refuse =>
    intro x locked unknown
    obtain ⟨_, error⟩ := State.vf_enterError hv s
    exact h.answers (tdispServe_start_unknown locked unknown) (error ▸ stays)
  case stop =>
    obtain ⟨_, resets⟩ := State.vf_beginVfReset hv s
    have waits : ((s.beginVfReset v).vf v).resetting = true := resets ▸ rfl
    exact congrArg Host.Outcome.next ((h.atDoe_eq _).trans (if_pos waits))

end Sys2Proof.Cert
end

section
/-! What the Primer's firmware sends and receives (R58-R60, R387-R392): bytes that a memory gives back, the moves of TDICTL, TDIDONE, the task on
a message, and the layouts of SPDM. -/

namespace Sys2Proof.Machine

/-! ## Bytes written and read back -/

theorem cellsAt_fst (a : Nat) (bs : List Byte) : (cellsAt a bs).map (·.1) = List.range' a bs.length := by
  induction bs generalizing a with
  | nil => rfl
  | cons b bs ih => exact congrArg (a :: ·) (ih (a + 1))

theorem mem_cellsAt (a : Nat) {bs : List Byte} {i : Nat} (h : i < bs.length) : (a + i, bs[i]) ∈ cellsAt a bs := by
  induction bs generalizing a i with
  | nil => exact absurd h (Nat.not_lt_zero i)
  | cons b bs ih =>
    cases i with
    | zero => exact List.mem_cons_self
    | succ i =>
      have later := ih (a + 1) (Nat.lt_of_succ_lt_succ h)
      rw [Nat.add_right_comm] at later
      exact List.mem_cons_of_mem _ later

/-- Bytes written into a canonical memory read back. -/
theorem Memory.readBytes_writeBytes {m : Memory} (h : m.wf = true) (a : Nat) (bs : List Byte) :
    (m.writeBytes a bs).readBytes a bs.length = bs := by
  have distinct : ((cellsAt a bs).map (·.1)).Nodup := cellsAt_fst a bs ▸ List.nodup_range'
  unfold Memory.readBytes
  refine List.ext_getElem (by rw [List.length_map, List.length_range]) fun i _ hi => ?_
  rw [List.getElem_map, List.getElem_range]
  exact Memory.read_writeCells_same _ m h distinct _ (mem_cellsAt a hi)

/-! ## TDICTL and TDIDONE (R388, R389) -/

/-- A move that a write of TDICTL asks for. -/
theorem State.tdiMove_eq {s : State} {v : Nat} {val : Word} {d : BitVec 2} (asks : (val.extractLsb' 0 2 : BitVec 2) = d)
    {src : Option Nat} (stands : ∀ x, src = some x → (s.vf v).tdi.toNat = x) : s.tdiMove 515 v val src d.toNat = true := by
  unfold State.tdiMove
  rw [asks]
  cases src with
  | none => simp only [beq_self_eq_true, Bool.and_self]
  | some x => simp only [stands x rfl, beq_self_eq_true, Bool.and_self]

section
variable {s : State} {v : Nat} (hv : v < 128) {val : Word}
include hv

theorem State.writeTdictl_lock (asks : (val.extractLsb' 0 2 : BitVec 2) = 1) (unlocked : (s.vf v).tdi = 0) :
    s.writeTdictl v val = s.tdiLock v (val.getLsbD 7) := by
  simp only [State.writeTdictl, if_neg (Nat.not_le.mpr hv), unlocked, asks]
  rfl

theorem State.writeTdictl_run (asks : (val.extractLsb' 0 2 : BitVec 2) = 2) (locked : (s.vf v).tdi = 1) :
    s.writeTdictl v val = s.onVf v fun f => { f with tdi := 2 } := by
  simp only [State.writeTdictl, if_neg (Nat.not_le.mpr hv), locked, asks]
  rfl

theorem State.writeTdictl_error (asks : (val.extractLsb' 0 2 : BitVec 2) = 3) (locked : (s.vf v).tdi = 1) :
    s.writeTdictl v val = s.enterError v := by
  simp only [State.writeTdictl, if_neg (Nat.not_le.mpr hv), locked, asks]
  rfl

theorem State.writeTdictl_unlock (asks : (val.extractLsb' 0 2 : BitVec 2) = 0) : s.writeTdictl v val = s.beginVfReset v := by
  simp only [State.writeTdictl, if_neg (Nat.not_le.mpr hv), asks]
  rfl

end

/-- The end of a TDISP message: its response of 16 to 2,048 bytes goes out, or waits for the end of the reset of its function. -/
theorem State.writeTdidone_message {s : State} {e : TdiEvt} (shown : s.tdiEvt = some e) (message : e.kind = 1) {n : Nat} (first : 16 ≤ n)
    (last : n ≤ 2048) : s.writeTdidone (BitVec.ofNat 64 n) =
      let t := { s with tdiEvt := s.tdiQueue.head?, tdiQueue := s.tdiQueue.drop 1 }
      if (s.vf e.vf).resetting then t.onVf e.vf fun f => { f with stopRsp := some (s.tdiRsp.readBytes 0 n) }
      else t.respond e.vf (s.tdiRsp.readBytes 0 n) := by
  have high : (BitVec.ofNat 64 n).extractLsb' 16 48 = (0 : BitVec 48) :=
    BitVec.eq_of_toNat_eq (by
      simp only [BitVec.extractLsb'_toNat, BitVec.toNat_ofNat, Nat.shiftRight_eq_div_pow, Nat.reducePow, BitVec.ofNat_eq_ofNat]
      omega)
  have low : ((BitVec.ofNat 64 n).extractLsb' 0 16 : BitVec 16).toNat = n := by
    simp only [BitVec.extractLsb'_toNat, BitVec.toNat_ofNat, Nat.shiftRight_eq_div_pow]
    omega
  have inside : 16 ≤ n ∧ n ≤ 2048 := ⟨first, last⟩
  simp only [State.writeTdidone, shown, high, low, message, if_pos inside, ne_eq, not_true_eq_false, if_false]

/-- The end of another arrival. -/
theorem State.writeTdidone_notice {s : State} {e : TdiEvt} (shown : s.tdiEvt = some e) (notice : e.kind ≠ 1) {val : Word}
    (high : (val.extractLsb' 16 48 : BitVec 48) = 0) :
    s.writeTdidone val = { s with tdiEvt := s.tdiQueue.head?, tdiQueue := s.tdiQueue.drop 1 } := by
  simp only [State.writeTdidone, shown, high, notice, ne_eq, not_true_eq_false, not_false_eq_true, if_false, if_true]

/-! ## The Primer's task on a TDISP message (R391, R392) -/

theorem tdispParse_other {msg : List Byte} (h : fieldAt msg 1 1 < 0x81 ∨ 0x87 < fieldAt msg 1 1) : tdispParse msg = .other := by
  unfold tdispParse
  split
  case h_8 => rfl
  all_goals omega

theorem tdispParse_version {msg : List Byte} (h : fieldAt msg 1 1 = 0x81) : tdispParse msg = .version := by
  simp only [tdispParse, h]

theorem tdispParse_state {msg : List Byte} (h : fieldAt msg 1 1 = 0x85) : tdispParse msg = .state := by
  simp only [tdispParse, h]

theorem tdispParse_stop {msg : List Byte} (h : fieldAt msg 1 1 = 0x87) : tdispParse msg = .stop := by
  simp only [tdispParse, h]

/-! ## SPDM (R59, R60) -/

theorem spdmResponse_versions {msg : List Byte} (code : fieldAt msg 1 1 = 0x84) (s : State) :
    s.spdmResponse msg = ([0x10, 0x04, 0, 0, 0, 1, 0, 0x13], s) := if_pos code

theorem spdmResponse_otherVersion {msg : List Byte} (code : fieldAt msg 1 1 ≠ 0x84) (version : fieldAt msg 0 1 ≠ 0x13) (s : State) :
    s.spdmResponse msg = ([0x13, 0x7F, 0x41, 0], s) := (if_neg code).trans (if_pos version)

theorem spdmResponse_measurements {msg : List Byte} (code : fieldAt msg 1 1 = 0xE0) (version : fieldAt msg 0 1 = 0x13) (s : State) :
    s.spdmResponse msg = s.measurements (fieldAt msg 3 1) (fieldAt msg 2 1 % 2 == 1) := by
  simp only [State.spdmResponse, code, version]
  rfl

theorem measuredBlocks_one {index : Nat} (first : 1 ≤ index) (last : index ≤ 6) : measuredBlocks index = [index] :=
  (if_neg (by omega)).trans (if_pos ⟨first, last⟩)

theorem State.measurementBlock_length (s : State) (n : Nat) : (s.measurementBlock n).length = 7 + (s.measurement n).length := by
  simp only [State.measurementBlock, List.length_append, leBytes_length, List.length_cons, List.length_nil]

/-- The signed measurement of one block: its bytes, then a nonce, an empty field and a signature, of 130 bytes. -/
theorem State.measurements_one (s : State) {index : Nat} (first : 1 ≤ index) (last : index ≤ 6) : ∃ tail, tail.length = 130 ∧
    (s.measurements index true).1 =
      [0x13, 0x60, 0, 0] ++ leBytes 1 1 ++ leBytes 3 (7 + (s.measurement index).length) ++ leBytes 1 index ++ [1] ++ leBytes 2 51 ++
        [if index = 4 then 2 else if index ≤ 3 then 1 else 3] ++ leBytes 2 48 ++ s.measurement index ++ tail := by
  obtain ⟨nonce, signature, seed, layout⟩ : ∃ nonce signature seed, (s.measurements index true).1 =
      spdmMsg 0x60 (if index = 0 then 6 else 0) 0 (leBytes 1 (measuredBlocks index).length ++
        leBytes 3 ((measuredBlocks index).flatMap s.measurementBlock).length ++ (measuredBlocks index).flatMap s.measurementBlock) ++
        leBytes 32 nonce ++ leBytes 2 0 ++ (leBytes 32 seed ++ leBytes 64 signature) := ⟨_, _, _, rfl⟩
  refine ⟨leBytes 32 nonce ++ leBytes 2 0 ++ (leBytes 32 seed ++ leBytes 64 signature), ?_, ?_⟩
  · simp only [List.length_append, leBytes_length]
  · rw [layout, if_neg (by omega), measuredBlocks_one first last, List.flatMap_singleton, State.measurementBlock_length]
    simp only [spdmMsg, State.measurementBlock, List.length_singleton, List.append_assoc]

end Sys2Proof.Machine
end

section
/-! The Primer's services. -/

namespace Sys2Proof.Cert

open Sys2Proof.Machine

section
variable {s : State} {v : Nat} (h : TakesMessages s v)
include h

theorem TakesMessages.takesSpdm : s.takesSpdm v = true := by
  obtain ⟨_, free, stays, up⟩ := h
  rw [State.takesSpdm, up, free, stays]
  rfl

theorem TakesMessages.mailboxOf_eq : mailboxOf v = some v := if_pos h.1

theorem TakesMessages.measures (index : Nat) :
    exec (.getMeasurements v index) s = .next (State.respond v (s.measurements index true).1 (s.measurements index true).2) := by
  change execGetMeasurements v index s = _
  simp only [execGetMeasurements, h.takesSpdm, h.mailboxOf_eq, Bool.not_true, Bool.false_eq_true, if_false]
  rfl

theorem TakesMessages.answersSpdm (msg : List Byte) :
    exec (.spdmRequest v false msg) s = .next (State.respond v (s.spdmResponse msg).1 (s.spdmResponse msg).2) := by
  change execSpdmRequest v false msg s = _
  simp only [execSpdmRequest, h.takesSpdm, h.mailboxOf_eq, Bool.not_true, Bool.false_eq_true, if_false]
  rfl

/-- A TDISP message for a mailbox that takes messages is not the one that TDIEVT shows. -/
theorem TakesMessages.notShown (msg : List Byte) : s.tdiEvt ≠ some ⟨1, v, 0, msg.length, msg⟩ := by
  obtain ⟨_, free, _, _⟩ := h
  intro shown
  rw [State.withPrimer, shown] at free
  simp at free

end

theorem echoed_length {msg : List Byte} (long : 16 ≤ msg.length) (code : Nat) (body : List Byte) :
    (echoed msg code body).length = 16 + body.length := by
  simp only [echoed, List.length_append, List.length_take, List.length_drop, List.length_singleton]
  omega

/-- What the Primer's task serves a message with. -/
def taskServes (v : Nat) (msg : List Byte) (s : State) : (Nat × List Byte) × State :=
  if fieldAt msg 0 1 ≠ 0x10 then (tdispFails 0x0041, s) else s.tdispServe v (tdispParse msg)

/-- The task's response goes through TDIRSP, where nothing that it serves with touches the Primer's registers: it is sent, or waits for the end
of a reset. -/
theorem answerTdisp_eq {s t : State} {v : Nat} {msg : List Byte} (shown : s.tdiEvt = some ⟨1, v, 0, msg.length, msg⟩)
    (long : 16 ≤ msg.length) (canonical : s.tdiRsp.wf = true) {code : Nat} {body : List Byte}
    (serves : taskServes v msg s = ((code, body), t)) (short : body.length ≤ 2032)
    (primer : t.tdiEvt = s.tdiEvt ∧ t.tdiQueue = s.tdiQueue ∧ t.tdiRsp = s.tdiRsp) :
    s.answerTdisp v msg =
      let bytes := echoed msg code body
      if (t.vf v).resetting then (answeredWith bytes t).onVf v fun f => { f with stopRsp := some bytes }
      else (answeredWith bytes t).respond v bytes := by
  obtain ⟨evt, _, rsp⟩ := primer
  have size := echoed_length long code body
  have done := State.writeTdidone_message (s := { t with tdiRsp := t.tdiRsp.writeBytes 0 (echoed msg code body) })
    (evt.trans shown) rfl (n := (echoed msg code body).length) (by omega) (by omega)
  have sent : (t.tdiRsp.writeBytes 0 (echoed msg code body)).readBytes 0 (echoed msg code body).length = echoed msg code body :=
    Memory.readBytes_writeBytes (rsp ▸ canonical) 0 _
  simp only [sent] at done
  unfold taskServes at serves
  simp only [State.answerTdisp, serves]
  exact done

/-- The task's answer to each message that the statement names. -/
theorem taskAnswers (s : State) {v : Nat} (hv : v < 128) (msg : List Byte) : TaskAnswers s v msg := by
  intro shown long stays canonical
  have row : exec (.spdmRequest v true msg) s = .next (s.answerTdisp v msg) := congrArg Host.Outcome.next (if_pos shown)
  have unchanged : ∀ {code body}, taskServes v msg s = ((code, body), s) → body.length ≤ 2032 →
      exec (.spdmRequest v true msg) s = .next ((answeredWith (echoed msg code body) s).respond v (echoed msg code body)) :=
    fun serves short => row.trans (congrArg _ ((answerTdisp_eq shown long canonical serves short ⟨rfl, rfl, rfl⟩).trans
      (if_neg (stays ▸ Bool.false_ne_true))))
  have parsed : fieldAt msg 0 1 = 0x10 → ∀ {r}, tdispParse msg = r → taskServes v msg s = s.tdispServe v r :=
    fun version _ code => (if_neg (not_not.mpr version)).trans (congrArg (State.tdispServe v · s) code)
  refine ⟨fun version => unchanged (if_pos version) (by decide), fun version code => unchanged (parsed version (tdispParse_other code)) (by decide),
    fun version code => unchanged (parsed version (tdispParse_version code)) (by decide),
    fun version code => unchanged (parsed version (tdispParse_state code)) (by simp), ?stop⟩
  intro version code
  obtain ⟨_, resets⟩ := State.vf_beginVfReset hv s
  have waits : ((s.beginVfReset v).vf v).resetting = true := resets ▸ rfl
  have answer := answerTdisp_eq (code := 0x07) (body := []) shown long canonical (parsed version (tdispParse_stop code)) (Nat.zero_le _) (s.beginVfReset_taskFrame v).primer
  exact row.trans (congrArg _ (answer.trans (if_pos waits)))

theorem execIdeKm_function {s : State} {v : Nat} (hv : v < 128) (up : s.primerUp = true) (b : Bool) :
    exec (.ideKm (v + 1) b) s = .next (
      let random := leBytes 64 (Config.free s.fresh).toNat
      let t := { s with fresh := s.fresh + 1, drbg := s.drbg + 1 }
      State.send none (.spdm none random) random
        (if b then State.onVf v (fun f => { f with secure := true }) t else State.streamLost v t)) := by
  have present : ¬(!s.primerUp || decide (128 < v + 1)) = true := by
    rw [up, decide_eq_false (by omega)]
    exact Bool.false_ne_true
  exact congrArg Host.Outcome.next (if_neg present)

theorem execIdeKm_port {s : State} (up : s.primerUp = true) (b : Bool) :
    exec (.ideKm 0 b) s = .next (
      let random := leBytes 64 (Config.free s.fresh).toNat
      State.send none (.spdm none random) random { s with fresh := s.fresh + 1, drbg := s.drbg + 1, pf := { s.pf with secure := b } }) := by
  have present : ¬(!s.primerUp || decide (128 < 0)) = true := by
    rw [up]
    exact Bool.false_ne_true
  exact congrArg Host.Outcome.next (if_neg present)

/-- Settles O46: each row is one of the moves, answers or layouts above, once the function is known to take the message. -/
theorem primerServices : Obligations.PrimerServices := by
  unfold Obligations.PrimerServices
  intro s v hv
  refine ⟨?lock, ?run, ?error, ?unlock, ?respond, ?notice, fun index h => h.measures index, fun _ => s.measurements_one, ?queued, ?size, ?interface,
    taskAnswers s hv, fun msg h => h.answersSpdm msg, ?spdmAnswers, fun up b => ⟨execIdeKm_function hv up b, execIdeKm_port up b⟩⟩
  case lock =>
    intro val asks unlocked
    have move : s.tdiMove 515 v val (some 0) 1 = true := State.tdiMove_eq asks (by rintro _ ⟨⟩; rw [unlocked]; rfl)
    exact congrArg Host.Outcome.next ((if_pos move).trans (State.writeTdictl_lock hv asks unlocked))
  case run =>
    intro val asks locked
    have move : s.tdiMove 515 v val (some 1) 2 = true := State.tdiMove_eq asks (by rintro _ ⟨⟩; rw [locked]; rfl)
    exact congrArg Host.Outcome.next ((if_pos move).trans (State.writeTdictl_run hv asks locked))
  case error =>
    intro val asks locked
    have move : s.tdiMove 515 v val (some 1) 3 = true := State.tdiMove_eq asks (by rintro _ ⟨⟩; rw [locked]; rfl)
    exact congrArg Host.Outcome.next ((if_pos move).trans (State.writeTdictl_error hv asks locked))
  case unlock =>
    intro val asks
    have move : s.tdiMove 515 v val none 0 = true := State.tdiMove_eq asks (by rintro _ ⟨⟩)
    exact congrArg Host.Outcome.next ((if_pos move).trans (State.writeTdictl_unlock hv asks))
  case respond =>
    intro e n shown message first last stays
    have word : n.setWidth 64 = BitVec.ofNat 64 n.toNat := (BitVec.ofNat_toNat 64 n).symm
    refine congrArg Host.Outcome.next ((if_pos rfl).trans ?_)
    rw [word, State.writeTdidone_message shown message first last]
    exact if_neg (stays ▸ Bool.false_ne_true)
  case notice =>
    exact fun e val shown notice high => congrArg Host.Outcome.next ((if_pos rfl).trans (State.writeTdidone_notice shown notice high))
  case queued =>
    intro msg h long short own
    exact congrArg Host.Outcome.next ((if_neg (h.notShown msg)).trans ((h.atDoe_eq _).trans
      ((if_neg (by omega)).trans (if_neg (by omega)))))
  case size =>
    exact fun msg h outside => congrArg Host.Outcome.next ((if_neg (h.notShown msg)).trans ((h.atDoe_eq _).trans (if_pos outside)))
  case interface =>
    intro msg h long short other
    exact congrArg Host.Outcome.next ((if_neg (h.notShown msg)).trans ((h.atDoe_eq _).trans
      ((if_neg (by omega)).trans (if_pos (by omega)))))
  case spdmAnswers =>
    exact fun msg => ⟨fun code => spdmResponse_versions code s, fun code version => spdmResponse_otherVersion code version s,
      fun code version => spdmResponse_measurements code version s⟩

end Sys2Proof.Cert
end

section
/-! Registers written byte by byte (R8), and the operations on functions (R41, R47, R50, R51, R56, R111, R123). -/

namespace Sys2Proof.Machine

/-! ## Registers written byte by byte -/

/-- Byte j of a number's bytes. -/
theorem leBytes_getD (n x j : Nat) (h : j < n) : (leBytes n x).getD j 0 = BitVec.ofNat 8 (x / 256 ^ j) := by
  induction n generalizing x j with
  | zero => exact absurd h (Nat.not_lt_zero j)
  | succ n ih =>
    cases j with
    | zero => rw [pow_zero, Nat.div_one]; rfl
    | succ j =>
      rw [leBytes, List.getD_cons_succ, ih _ _ (Nat.lt_of_succ_lt_succ h), pow_succ', Nat.div_div_eq_div_mul]

/-- A bit of the byte in which it lies. -/
theorem getLsbD_byte (x i : Nat) : (BitVec.ofNat 8 (x / 256 ^ (i / 8))).getLsbD (i % 8) = x.testBit i := by
  have small : i % 8 < 8 := Nat.mod_lt i (by decide)
  rw [BitVec.getLsbD_ofNat, decide_eq_true small, Bool.true_and, show (256 : Nat) = 2 ^ 8 from rfl, ← pow_mul, Nat.testBit_div_two_pow,
    Nat.mod_add_div]

section
variable {w : Nat}

/-- One byte merged into a register. -/
theorem getLsbD_mergeCells_one (old : BitVec w) (base : Nat) {k : Nat} (hk : k < w / 8) (b : Byte) {i : Nat} (hi : i < w) :
    (mergeCells old base [(base + k, b)]).getLsbD i = if i / 8 = k then b.getLsbD (i % 8) else old.getLsbD i := by
  have inside : base ≤ base + k ∧ base + k < base + w / 8 := by omega
  have merged : mergeCells old base [(base + k, b)] =
      mergeBytes old (BitVec.ofNat w (b.toNat * 256 ^ (base + k - base))) (· == base + k - base) := if_pos inside
  rw [merged, Nat.add_sub_cancel_left, getLsbD_mergeBytes _ _ _ hi]
  by_cases own : i / 8 = k
  · rw [if_pos own, if_pos ⟨by omega, beq_iff_eq.mpr own⟩, BitVec.getLsbD_ofNat, decide_eq_true hi, Bool.true_and,
      show (256 : Nat) = 2 ^ 8 from rfl, ← pow_mul, Nat.testBit_mul_two_pow, decide_eq_true (show 8 * k ≤ i by omega), Bool.true_and,
      show i - 8 * k = i % 8 by omega]
    rfl
  · rw [if_neg own, if_neg fun h => own (beq_iff_eq.mp h.2)]

/-- Consecutive bytes merged into a register from its byte j on. -/
theorem getLsbD_mergeCells (old : BitVec w) (base j : Nat) (bs : List Byte) (fits : j + bs.length ≤ w / 8) {i : Nat} (hi : i < w) :
    (mergeCells old base (cellsAt (base + j) bs)).getLsbD i =
      if j ≤ i / 8 ∧ i / 8 < j + bs.length then (bs.getD (i / 8 - j) 0).getLsbD (i % 8) else old.getLsbD i := by
  induction bs generalizing old j with
  | nil => rw [if_neg (by simp only [List.length_nil]; omega)]; rfl
  | cons b bs ih =>
    rw [List.length_cons] at fits ⊢
    have rest : mergeCells old base (cellsAt (base + j) (b :: bs)) =
        mergeCells (mergeCells old base [(base + j, b)]) base (cellsAt (base + (j + 1)) bs) := rfl
    rw [rest, ih _ _ (by omega), getLsbD_mergeCells_one old base (by omega) b hi]
    by_cases own : i / 8 = j
    · rw [if_neg (by omega), if_pos own, if_pos (by omega), show i / 8 - j = 0 by omega, List.getD_cons_zero]
    · rw [if_neg own]
      by_cases later : j + 1 ≤ i / 8 ∧ i / 8 < j + 1 + bs.length
      · rw [if_pos later, if_pos (by omega), show i / 8 - j = i / 8 - (j + 1) + 1 by omega, List.getD_cons_succ]
      · rw [if_neg later, if_neg (by omega)]

/-- All bytes of a register written at once. -/
theorem mergeCells_whole (whole : 8 ∣ w) (old : BitVec w) (base x : Nat) :
    mergeCells old base (cellsAt base (leBytes (w / 8) x)) = BitVec.ofNat w x := by
  refine BitVec.eq_of_getLsbD_eq fun i hi => ?_
  have place : i / 8 < w / 8 := by omega
  have bits := getLsbD_mergeCells old base 0 (leBytes (w / 8) x) (by rw [leBytes_length, Nat.zero_add]) hi
  rw [Nat.add_zero] at bits
  rw [bits, leBytes_length, if_pos (by omega), Nat.sub_zero, leBytes_getD _ _ _ place, getLsbD_byte, BitVec.getLsbD_ofNat,
    decide_eq_true hi, Bool.true_and]

end

/-- The byte that a write of consecutive bytes has at one of its places. -/
theorem find?_cellsAt (a : Nat) {k : Nat} {bs : List Byte} (h : k < bs.length) :
    ((cellsAt a bs).find? fun p => p.1 == a + k) = some (a + k, bs.getD k 0) := by
  induction bs generalizing a k with
  | nil => exact absurd h (Nat.not_lt_zero k)
  | cons b bs ih =>
    cases k with
    | zero => exact List.find?_cons_of_pos (beq_self_eq_true a)
    | succ k =>
      have later := ih (a + 1) (Nat.lt_of_succ_lt_succ h)
      rw [Nat.add_right_comm] at later
      exact (List.find?_cons_of_neg (by simp)).trans later

/-- Byte k of a register's value with some of its bytes written. -/
def writtenByte (old w1c base : Nat) (bytes : List (Nat × Byte)) (k : Nat) : Byte :=
  match bytes.find? fun p => p.1 == base + k with
  | some p => p.2
  | none => byteOf old k &&& ~~~(byteOf w1c k)

theorem mergeReg_eq (old w1c base width : Nat) (bytes : List (Nat × Byte)) : mergeReg old w1c base width bytes =
    BitVec.ofNat 64 ((List.range width).foldl (fun x k => x + 256 ^ k * (writtenByte old w1c base bytes k).toNat) 0) := rfl

/-- The value of a register of which every byte is written. -/
theorem mergeReg_whole (old w1c base width x : Nat) :
    mergeReg old w1c base width (cellsAt base (leBytes width x)) = BitVec.ofNat 64 (x % 256 ^ width) := by
  have written : ∀ k, k < width → writtenByte old w1c base (cellsAt base (leBytes width x)) k = BitVec.ofNat 8 (x / 256 ^ k) := by
    intro k hk
    rw [writtenByte, find?_cellsAt base (by rwa [leBytes_length])]
    exact leBytes_getD width x k hk
  suffices ∀ n, n ≤ width → (List.range n).foldl
      (fun y k => y + 256 ^ k * (writtenByte old w1c base (cellsAt base (leBytes width x)) k).toNat) 0 = x % 256 ^ n from
    (mergeReg_eq _ _ _ _ _).trans (congrArg (BitVec.ofNat 64) (this width le_rfl))
  intro n
  induction n with
  | zero => exact fun _ => (Nat.mod_one x).symm
  | succ n ih =>
    intro hn
    rw [List.range_succ, List.foldl_append, List.foldl_cons, List.foldl_nil, ih (by omega), written n hn, Nat.mod_pow_succ,
      BitVec.toNat_ofNat]

end Sys2Proof.Machine
end

section
/-! The operations on functions (R41, R47, R50, R51, R56, R111, R123). -/

namespace Sys2Proof.Machine

/-! ## The state of a TDI -/

theorem Vf.isLocked_of_unlocked {f : Vf} (h : f.tdi = 0) : f.isLocked = false := by
  rw [Vf.isLocked, h]
  rfl

section
variable {s : State} {v : Nat} (unlocked : (s.vf v).tdi = 0)
include unlocked

/-- A locked-set write is applied in CONFIG_UNLOCKED. -/
theorem State.lockedWrite_unlocked (info : Nat) (f : State → State) : s.lockedWrite v info f = f s := by
  have notError : (s.vf v).tdi ≠ 3 := by
    rw [unlocked]
    decide
  simp only [State.lockedWrite, Vf.isLocked_of_unlocked unlocked, Bool.false_eq_true, if_false, if_neg notError]

theorem State.coveredWrite_unlocked (reg : LockedReg) (be : BitVec 8) (f : State → State) : s.coveredWrite v reg be f = f s := by
  unfold State.coveredWrite
  split
  · exact State.lockedWrite_unlocked unlocked _ f
  · rfl

end

theorem State.lockedWrite_locked {s : State} {v : Nat} (locked : (s.vf v).isLocked = true) (info : Nat) (f : State → State) :
    s.lockedWrite v info f = s.lockedHit v info := if_pos locked

theorem State.coveredWrite_locked {s : State} {v : Nat} (locked : (s.vf v).isLocked = true) {reg : LockedReg} {be : BitVec 8}
    (covers : LockedReg.covers reg be = true) (f : State → State) : s.coveredWrite v reg be f = s.lockedHit v (LockedReg.info reg) :=
  (if_pos covers).trans (State.lockedWrite_locked locked _ f)

/-- A write at the PF that does not wait is processed. -/
theorem State.atPf_eq {s : State} {touched : List Nat} (free : s.pfWaits touched = false) (f : State → State) : s.atPf touched f = f s :=
  if_neg (free ▸ Bool.false_ne_true)

/-- An arrival at a function whose last one is processed completely. -/
theorem State.atVf_eq {s : State} {v : Nat} (finished : s.unfinished v = false) (f : State → State) : s.atVf v f = f s :=
  if_neg (finished ▸ Bool.false_ne_true)

/-- VFBIND takes a binding to partitions of its world. -/
theorem State.setVfbind_owned {s : State} {v : Nat} {val : BitVec 128}
    (owned : ∀ p, p < 64 → (val.extractLsb' 64 64 : Word).getLsbD p = true → s.worldOf p = some (val.extractLsb' 0 6 : BitVec 6).toNat) :
    s.setVfbind v val = s.onVf v fun f => { f with
      parts := val.extractLsb' 64 64, bound := val.getLsbD 31, world := val.extractLsb' 0 6 } := by
  refine if_pos (List.all_eq_true.mpr fun p hp => ?_)
  cases bound : (val.extractLsb' 64 64 : Word).getLsbD p with
  | false => rfl
  | true => exact beq_iff_eq.mpr (owned p (List.mem_range.mp hp) bound)

/-! ## Registers that govern every function (R50, R51) -/

theorem State.foldl_pf {f : State → Nat → State} (h : ∀ t v, (f t v).pf = t.pf) (l : List Nat) (s : State) : (l.foldl f s).pf = s.pf :=
  foldl_keeps (fun t : State => t.pf = s.pf) f (fun t v kept => (h t v).trans kept) l s rfl

theorem State.setPfReg_pf (s : State) (covers : Bool) (g : Pf → Pf) (thaw : Frozen → Frozen) : (s.setPfReg covers g thaw).pf = g s.pf := by
  unfold State.setPfReg
  refine Eq.trans (State.foldl_pf ?_ _ _) rfl
  intro t v
  split
  · exact t.resetVf_pf v
  · rfl

theorem State.pfLocked_pf (s : State) (covers : Bool) (info : Nat) (g : Pf → Pf) (thaw : Frozen → Frozen) :
    (s.pfLocked covers info g thaw).pf = g s.pf := by
  unfold State.pfLocked
  rw [State.setPfReg_pf]
  refine congrArg g (State.foldl_pf ?_ _ s)
  intro t v
  split
  · exact t.lockedHit_pf v info
  · rfl

/-- A write that is not held back takes its value, whichever locked bits it covers. -/
theorem State.atPf_pfLocked {s : State} (free : s.pfWaits (List.range 128) = false) (covers : Bool) (info : Nat) (g : Pf → Pf)
    (thaw : Frozen → Frozen) :
    (s.atPf (if covers then List.range 128 else []) (State.pfLocked covers info g thaw)).pf = g s.pf := by
  have goes : s.pfWaits (if covers then List.range 128 else []) = false := by
    cases covers with
    | false => rfl
    | true => exact free
  rw [State.atPf_eq goes]
  exact s.pfLocked_pf covers info g thaw

/-! ## The end of a reset (R56, R123) -/

/-- The reset of a function's registers, with the scrub of its slots begun. -/
def State.scrubFrom (v : Nat) (s : State) : State :=
  let t := s.onVf v Vf.afterReset
  { t with
    tasks := t.tasks.filter fun k => k.vf != v
    slotScrub := t.slotScrub ++ (s.vfSlots v).filter fun x => !t.slotScrub.contains x }

/-- The end of a reset once the slots that it had to scrub are scrubbed: a STOP response that waits is sent. -/
def State.endScrub (slots : List (Nat × Nat)) (v : Nat) (s : State) : State :=
  if (s.vf v).scrubbing && !(s.slotScrub.any fun x => slots.contains x) then
    (s.vf v).stopRsp.toList.foldl (fun t b => t.respond v b)
      (s.onVf v fun f => { f with resetting := false, scrubbing := false, stopRsp := none })
  else s

theorem execVfResetDone_eq (v : Nat) (s : State) : execVfResetDone v s = .next (if !(s.vf v).resetting then s
    else State.endScrub (s.vfSlots v) v
      (if !(s.vf v).scrubbing && (s.tasks.filter fun k => k.vf == v).all fun k => k.phase == .ended && s.effectsDone k.id then s.scrubFrom v
       else s)) := rfl

section
variable {s : State} {v : Nat} (resets : (s.vf v).resetting = true)
include resets

theorem execVfResetDone_scrubbed (scrubs : (s.vf v).scrubbing = true)
    (clean : (s.slotScrub.any fun x => (s.vfSlots v).contains x) = false) : execVfResetDone v s =
      .next ((s.vf v).stopRsp.toList.foldl (fun t b => t.respond v b)
        (s.onVf v fun f => { f with resetting := false, scrubbing := false, stopRsp := none })) := by
  simp only [execVfResetDone_eq, State.endScrub, resets, scrubs, clean, Bool.not_true, Bool.not_false, Bool.false_and, Bool.and_self,
    Bool.false_eq_true, if_false, if_true]

theorem execVfResetDone_idle (waits : (s.vf v).scrubbing = false)
    (idle : ∀ k ∈ s.tasks, k.vf = v → k.phase = .ended ∧ s.effectsDone k.id = true) (bound : s.vfSlots v ≠ []) :
    execVfResetDone v s = .next (s.scrubFrom v) := by
  have ended : ((s.tasks.filter fun k => k.vf == v).all fun k => k.phase == .ended && s.effectsDone k.id) = true := by
    refine List.all_eq_true.mpr fun k hk => ?_
    obtain ⟨mem, own⟩ := List.mem_filter.mp hk
    obtain ⟨isEnded, done⟩ := idle k mem (beq_iff_eq.mp own)
    rw [isEnded, done]
    rfl
  have dirty : ((s.scrubFrom v).slotScrub.any fun x => (s.vfSlots v).contains x) = true := by
    obtain ⟨x, hx⟩ := List.exists_mem_of_ne_nil _ bound
    refine List.any_eq_true.mpr ⟨x, ?_, List.contains_iff_mem.mpr hx⟩
    by_cases old : x ∈ (s.onVf v Vf.afterReset).slotScrub
    · exact List.mem_append_left _ old
    · exact List.mem_append_right _ (List.mem_filter.mpr ⟨hx, by simpa using old⟩)
  simp only [execVfResetDone_eq, State.endScrub, resets, waits, ended, dirty, Bool.not_true, Bool.not_false, Bool.and_false, Bool.and_self,
    Bool.false_eq_true, if_false, if_true]

end

/-! ## Registers without a row of their own (R8, R42, R109) -/

/-- A write of LSWIN. -/
theorem vfBar0Bytes_lswin (s : State) (v : Nat) (val : Word) :
    s.vfBar0Bytes v (cellsAt 0x108 (leBytes 4 val.toNat)) = s.onVf v fun f => { f with lswin := val.extractLsb' 0 15 } := by
  have value : ((mergeReg (s.vf v).lswin.toNat 0 0x108 4 (cellsAt 0x108 (leBytes 4 val.toNat))).extractLsb' 0 15 : BitVec 15) =
      val.extractLsb' 0 15 := by
    rw [mergeReg_whole]
    refine BitVec.eq_of_toNat_eq ?_
    simp only [BitVec.extractLsb'_toNat, BitVec.toNat_ofNat, Nat.shiftRight_zero]
    omega
  have write : s.vfBar0Bytes v (cellsAt 0x108 (leBytes 4 val.toNat)) =
      s.writeVfBar0 v 0x108 (mergeReg (s.vf v).lswin.toNat 0 0x108 4 (cellsAt 0x108 (leBytes 4 val.toNat))) := rfl
  rw [write, ← value]
  rfl

/-- A write of the bytes of the Write Data Mailbox of a function. -/
theorem writeDoeBytes_mailbox (s : State) (fn : Nat) (val : Word) :
    s.writeDoeBytes fn (cellsAt 16 (leBytes 4 val.toNat)) =
      s.setMailbox fn { s.mailbox fn with writes := (s.mailbox fn).writes ++ [val.extractLsb' 0 32] } := by
  have word : mergeCells (0 : BitVec 32) 16 (cellsAt 16 (leBytes 4 val.toNat)) = val.extractLsb' 0 32 :=
    (mergeCells_whole (w := 32) (by decide) 0 16 val.toNat).trans
      (BitVec.eq_of_toNat_eq (by rw [BitVec.extractLsb'_toNat, BitVec.toNat_ofNat, Nat.shiftRight_zero]))
  have write : s.writeDoeBytes fn (cellsAt 16 (leBytes 4 val.toNat)) =
      s.writeDoe fn 16 (mergeCells (0 : BitVec 32) 16 (cellsAt 16 (leBytes 4 val.toNat))) := rfl
  rw [write, word]
  rfl

theorem cellsFrom_cellsAt (base off : Nat) (bs : List Byte) : cellsFrom base (cellsAt (base + off) bs) = cellsAt off bs := by
  induction bs generalizing off with
  | nil => rfl
  | cons b bs ih =>
    have here : cellsFrom base (cellsAt (base + off) (b :: bs)) =
        (base + off - base, b) :: cellsFrom base (cellsAt (base + (off + 1)) bs) :=
      List.filterMap_cons_some (if_pos (Nat.le_add_right base off))
    rw [here, Nat.add_sub_cancel_left, ih]
    rfl

/-- One byte of a write of BAR 0 of the PF, where it lies in a VFS2ROOT. -/
def State.writeRootByte (s : State) (b : Nat × Byte) : State :=
  if 0x20000 ≤ b.1 ∧ b.1 < 0x20400 then
    let v := (b.1 - 0x20000) / 8
    { s with s2root := SMap.modify 0 v (fun x => mergeCells x (0x20000 + 8 * v) [b]) s.s2root }
  else s

theorem State.writePfBar0_eq (bytes : List (Nat × Byte)) (s : State) : s.writePfBar0 bytes =
    if bytes.any fun b => decide (0x30000 ≤ b.1) && decide (b.1 < 0x30010) then
      (bytes.foldl State.writeRootByte s).writeS2inv (mergeCells 0 0x30000 bytes)
    else bytes.foldl State.writeRootByte s := rfl

/-- What the bytes of VFS2ROOT v make of the roots: that of v takes them, the others stay. -/
structure RootWritten (s t : State) (v : Nat) (bytes : List (Nat × Byte)) : Prop where
  frame : t = { s with s2root := t.s2root }
  own : SMap.get 0 v t.s2root = mergeCells (SMap.get 0 v s.s2root) (0x20000 + 8 * v) bytes
  others : ∀ u, u ≠ v → SMap.get 0 u t.s2root = SMap.get 0 u s.s2root

theorem State.writeRootBytes_written {v : Nat} (hv : v < 128) (bytes : List (Nat × Byte))
    (inside : ∀ b ∈ bytes, 0x20000 + 8 * v ≤ b.1 ∧ b.1 < 0x20000 + 8 * v + 8) (s : State) (canonical : SMap.wfFrom 0 0 s.s2root = true) :
    RootWritten s (bytes.foldl State.writeRootByte s) v bytes := by
  induction bytes generalizing s with
  | nil => exact ⟨rfl, rfl, fun _ _ => rfl⟩
  | cons b bytes ih =>
    have place := inside b List.mem_cons_self
    have register : (b.1 - 0x20000) / 8 = v := by omega
    have first : s.writeRootByte b = { s with
        s2root := SMap.put 0 v (mergeCells (SMap.get 0 v s.s2root) (0x20000 + 8 * v) [b]) s.s2root } := by
      rw [State.writeRootByte, if_pos (by omega), register]
      rfl
    have root := congrArg State.s2root first
    obtain ⟨frame, own, others⟩ := ih (fun c hc => inside c (List.mem_cons_of_mem b hc)) (s.writeRootByte b)
      (root ▸ SMap.put_wfFrom 0 0 v _ _ canonical (Nat.zero_le v))
    refine ⟨frame.trans (congrArg (fun t : State => { t with s2root := (List.foldl State.writeRootByte (s.writeRootByte b) bytes).s2root }) first),
      own.trans ?_, fun u hu => (others u hu).trans ?_⟩
    · rw [root, SMap.get_put_same 0 0 v _ _ canonical]
      rfl
    · rw [root, SMap.get_put_other 0 v u _ _ hu]

theorem cellsAt_inside (a : Nat) (bs : List Byte) : ∀ b ∈ cellsAt a bs, a ≤ b.1 ∧ b.1 < a + bs.length := by
  intro b hb
  have place : b.1 ∈ (cellsAt a bs).map (·.1) := List.mem_map_of_mem hb
  rw [cellsAt_fst, List.mem_range'_1] at place
  exact place

/-- A write of the whole of VFS2ROOT v. -/
theorem State.writePfBar0_root {v : Nat} (hv : v < 128) (val : Word) (s : State) (canonical : SMap.wfFrom 0 0 s.s2root = true) :
    ∃ t, s.writePfBar0 (cellsAt (0x20000 + 8 * v) (leBytes 8 val.toNat)) = t ∧ t = { s with s2root := t.s2root } ∧
      SMap.get 0 v t.s2root = val ∧ ∀ u, u ≠ v → SMap.get 0 u t.s2root = SMap.get 0 u s.s2root := by
  have inside := cellsAt_inside (0x20000 + 8 * v) (leBytes 8 val.toNat)
  rw [leBytes_length] at inside
  have elsewhere : ((cellsAt (0x20000 + 8 * v) (leBytes 8 val.toNat)).any fun b => decide (0x30000 ≤ b.1) && decide (b.1 < 0x30010)) = false :=
    List.any_eq_false.mpr fun b hb => by
      have below := inside b hb
      simp only [Bool.and_eq_true, decide_eq_true_eq, not_and]
      omega
  obtain ⟨frame, own, others⟩ := State.writeRootBytes_written hv _ inside s canonical
  refine ⟨_, rfl, ?_⟩
  rw [State.writePfBar0_eq, if_neg (elsewhere ▸ Bool.false_ne_true)]
  refine ⟨frame, own.trans ?_, others⟩
  rw [mergeCells_whole (w := 64) (by decide), BitVec.ofNat_toNat, BitVec.setWidth_eq]

end Sys2Proof.Machine
end

section
/-! Completion records, bindings, resets and the locked set. -/

namespace Sys2Proof.Cert

open Sys2Proof.Machine

/-- The writes of the locked set that a function in CONFIG_UNLOCKED takes. -/
theorem lockedSetWrite_unlocked {s : State} {v : Nat} (hv : v < 128) (val : Word) (be : BitVec 8) (free : s.pfWaits [v] = false)
    (unlocked : (s.vf v).tdi = 0) :
    exec (.lockedSetWrite v .streamControl ⟨val, be⟩) s =
      .next (s.onVf v fun f => { f with ide := { f.ide with control := mergeBytes f.ide.control (val.extractLsb' 0 32) be.getLsbD } }) ∧
    (∀ k, k < 2 → exec (.lockedSetWrite v (.ridAssociation k) ⟨val, be⟩) s =
      .next (s.onVf v fun f => { f with ide := { f.ide with rid := putWord f.ide.rid (32 * k) val be } })) ∧
    (∀ k, k < 3 → exec (.lockedSetWrite v (.addressAssociation k) ⟨val, be⟩) s =
      .next (s.onVf v fun f => { f with ide := { f.ide with addr := putWord f.ide.addr (32 * k) val be } })) ∧
    exec (.lockedSetWrite v .vfbind ⟨val, be⟩) s = .next (s.setVfbind v ((s.vf v).parts ++
      mergeBytes (BitVec.ofNat 64 ((s.vf v).world.toNat + 2 ^ 31 * (s.vf v).bound.toNat)) val be.getLsbD)) := by
  have known : ¬128 ≤ v := Nat.not_le.mpr hv
  have applies : ∀ (reg : LockedReg) (f : State → State), (s.atPf [v] fun s => s.coveredWrite v reg be f) = f s :=
    fun reg f => (State.atPf_eq free _).trans (State.coveredWrite_unlocked unlocked reg be f)
  refine ⟨congrArg Host.Outcome.next ((if_neg known).trans (applies _ _)), fun k hk => ?rid, fun k hk => ?address,
    congrArg Host.Outcome.next ((if_neg known).trans
      ((State.atPf_eq free _).trans (State.coveredWrite_unlocked unlocked .vfbind be _)))⟩
  case rid =>
    refine congrArg Host.Outcome.next ((if_neg known).trans ((applies _ _).trans (State.onVf_congr ?_)))
    simp only [if_neg (Nat.not_le.mpr hk)]
  case address =>
    refine congrArg Host.Outcome.next ((if_neg known).trans ((applies _ _).trans (State.onVf_congr ?_)))
    simp only [if_neg (Nat.not_le.mpr hk)]

/-- Those that hit the lock. -/
theorem lockedSetWrite_locked {s : State} {v : Nat} (hv : v < 128) (val : Word) {be : BitVec 8} (k : Nat) (free : s.pfWaits [v] = false)
    (locked : (s.vf v).isLocked = true) (covers : (be.extractLsb' 0 4 : BitVec 4) ≠ 0) :
    exec (.lockedSetWrite v .streamControl ⟨val, be⟩) s = .next (s.lockedHit v 5) ∧
    exec (.lockedSetWrite v (.ridAssociation k) ⟨val, be⟩) s = .next (s.lockedHit v 5) ∧
    exec (.lockedSetWrite v (.addressAssociation k) ⟨val, be⟩) s = .next (s.lockedHit v 5) ∧
    exec (.lockedSetWrite v .vfbind ⟨val, be⟩) s = .next (s.lockedHit v 6) := by
  have known : ¬128 ≤ v := Nat.not_le.mpr hv
  have low : (be.extractLsb' 0 4 != (0 : BitVec 4)) = true := bne_iff_ne.mpr covers
  have some : (be != 0) = true := bne_iff_ne.mpr fun none => covers (by rw [none]; rfl)
  have hits : ∀ (reg : LockedReg) (f : State → State), LockedReg.covers reg be = true →
      (s.atPf [v] fun s => s.coveredWrite v reg be f) = s.lockedHit v (LockedReg.info reg) :=
    fun reg f covered => (State.atPf_eq free _).trans (State.coveredWrite_locked locked covered f)
  exact ⟨congrArg Host.Outcome.next ((if_neg known).trans (hits .streamControl _ low)),
    congrArg Host.Outcome.next ((if_neg known).trans (hits (.ridAssociation k) _ low)),
    congrArg Host.Outcome.next ((if_neg known).trans (hits (.addressAssociation k) _ low)),
    congrArg Host.Outcome.next ((if_neg known).trans
      ((State.atPf_eq free _).trans (State.coveredWrite_locked locked (reg := .vfbind) some _)))⟩

/-- Those of the registers that govern every function. -/
theorem lockedSetWrite_port {s : State} {v : Nat} (hv : v < 128) (val : Word) (be : BitVec 8) (free : s.pfWaits (List.range 128) = false) :
    (∃ t, exec (.lockedSetWrite v .bar0 ⟨val, be⟩) s = .next t ∧
      t.pf = { s.pf with vfBar0 := mergeBytes s.pf.vfBar0 val be.getLsbD &&& ~~~0xFFFF }) ∧
    (∃ t, exec (.lockedSetWrite v .bar2 ⟨val, be⟩) s = .next t ∧
      t.pf = { s.pf with vfBar2 := mergeBytes s.pf.vfBar2 val be.getLsbD &&& ~~~0xFFFFF }) ∧
    (∃ t, exec (.lockedSetWrite v .command ⟨val, be⟩) s = .next t ∧
      t.pf = { s.pf with command := mergeBytes s.pf.command (val.extractLsb' 0 16) be.getLsbD }) ∧
    (∃ t, exec (.lockedSetWrite v .sriovControl ⟨val, be⟩) s = .next t ∧
      t.pf = { s.pf with sriov := mergeBytes s.pf.sriov (val.extractLsb' 0 16) be.getLsbD }) := by
  have known : ¬128 ≤ v := Nat.not_le.mpr hv
  exact ⟨⟨_, congrArg Host.Outcome.next (if_neg known), State.atPf_pfLocked free _ 1 _ _⟩,
    ⟨_, congrArg Host.Outcome.next (if_neg known), State.atPf_pfLocked free _ 1 _ _⟩,
    ⟨_, congrArg Host.Outcome.next (if_neg known), State.atPf_pfLocked free _ 2 _ _⟩,
    ⟨_, congrArg Host.Outcome.next (if_neg known), State.atPf_pfLocked free _ 3 _ _⟩⟩

theorem msixControl_unlocked {s : State} {v : Nat} (hv : v < 128) (val : Word) (be : BitVec 8) (finished : s.unfinished v = false)
    (stays : (s.vf v).resetting = false) (unlocked : (s.vf v).tdi = 0) :
    exec (.lockedSetWrite v .msixControl ⟨val, be⟩) s = .next ((s.onVf v fun f => { f with
      msixCtl := (mergeBytes f.msixCtl (val.extractLsb' 0 16) be.getLsbD &&& 0xC000) ||| 1 }).msixUnmasked v) :=
  congrArg Host.Outcome.next ((if_neg (Nat.not_le.mpr hv)).trans ((State.atVf_eq finished _).trans
    ((if_neg (stays ▸ Bool.false_ne_true)).trans (State.coveredWrite_unlocked unlocked .msixControl be _))))

theorem msixEntry_unlocked {s : State} {v off : Nat} (hv : v < 128) (val : Word) (be : BitVec 8) (finished : s.unfinished v = false)
    (inside : off < 32) (unlocked : (s.vf v).tdi = 0) (accepted : s.vfAccepts v false = true) :
    exec (.lockedSetWrite v (.msixEntry off) ⟨val, be⟩) s = .next ((s.onVf v fun f => { f with
      msixTable := putWord f.msixTable (8 * (off / 4 * 4)) val be }).msixUnmasked v) := by
  have plain : s.vfAccepts v (decide ((s.vf v).tdi = 2)) = true := by
    rw [unlocked]
    exact accepted
  exact congrArg Host.Outcome.next ((if_neg (Nat.not_le.mpr hv)).trans ((State.atVf_eq finished _).trans
    ((if_neg (Nat.not_le.mpr inside)).trans ((if_pos plain).trans (State.coveredWrite_unlocked unlocked (.msixEntry off) be _)))))

/-- A write to BAR 0 of a function, outside the mirror of its mailbox, that carries the T bit and the stream which it asks for. -/
theorem TakesWrites.bar0_eq {s : State} {v : Nat} (h : TakesWrites s v) {w : RegWrite} (space : w.space = .vfBar0 v)
    (bit : w.tee = decide ((s.vf v).tdi = 2)) (own : w.tee = true → w.stream = some (1 + v)) (outside : inDoeMirror w.off = false) :
    exec (.registerWrite w) s = .next (s.vfBar0Bytes v (cellsAt w.off (leBytes (min 8 w.len) w.val.toNat))) := by
  obtain ⟨_, finished, accepted⟩ := h
  have stream : (!w.tee || w.stream == some (1 + v)) = true := by
    cases tee : w.tee with
    | false => rfl
    | true => rw [own tee]; exact beq_self_eq_true _
  rw [← bit] at accepted
  change execRegisterWrite w s = _
  simp only [execRegisterWrite, space, State.atVf_eq finished, State.writeBar0, outside, stream, State.orUnsupported, accepted,
    Bool.and_self, Bool.false_eq_true, if_false, if_true]

/-- Settles O44: each row is the update of its register once the function, or the PF, takes the write; what governs every function is written behind
the resets and hits that it brings, which leave the PF. -/
theorem functionsAndRecords : Obligations.FunctionsAndRecords := by
  unfold Obligations.FunctionsAndRecords
  intro s v hv
  have known : ¬128 ≤ v := Nat.not_le.mpr hv
  refine ⟨?record, ?held, ?bind, ?bindLocked, ?invalidate, ?ignored,
    fun val be free unlocked => lockedSetWrite_unlocked hv val be free unlocked,
    fun val be k free locked covers => lockedSetWrite_locked hv val k free locked covers,
    fun val be finished stays unlocked => msixControl_unlocked hv val be finished stays unlocked,
    fun val be off finished inside unlocked accepted => msixEntry_unlocked hv val be finished inside unlocked accepted,
    fun val be free => lockedSetWrite_port hv val be free, ?lost, ?lostLocked, ?flr, ?reset,
    fun resets scrubs clean => execVfResetDone_scrubbed resets scrubs clean, ?idle,
    fun w h space bit stream outside => h.bar0_eq space bit (fun _ => stream) outside, ?window, ?root, ?stretcher, ?mailbox, ?readOnly⟩
  case record =>
    intro k e stays noError found free
    change execCompletionRecordWrite v s = _
    simp only [execCompletionRecordWrite, stays, beq_eq_false_iff_ne.mpr noError, found, free, Bool.or_self, Bool.not_false, Bool.false_eq_true,
      if_false, if_true]
  case held =>
    intro k e stays noError found holding room
    change execCompletionRecordWrite v s = _
    simp only [execCompletionRecordWrite, stays, beq_eq_false_iff_ne.mpr noError, found, holding, room, Bool.or_self, Bool.not_true,
      Bool.false_eq_true, if_false, if_true]
    rfl
  case bind =>
    intro val free unlocked owned
    exact congrArg Host.Outcome.next ((if_neg known).trans ((State.atPf_eq free _).trans
      ((State.lockedWrite_unlocked unlocked 6 _).trans (State.setVfbind_owned owned))))
  case bindLocked =>
    exact fun val free locked => congrArg Host.Outcome.next ((if_neg known).trans ((State.atPf_eq free _).trans
      (State.lockedWrite_locked locked 6 _)))
  case invalidate =>
    intro val free asks
    refine congrArg Host.Outcome.next (if_neg ?_)
    rw [free, asks]
    exact Bool.false_ne_true
  case ignored =>
    intro val busy
    refine congrArg Host.Outcome.next (if_pos ?_)
    rcases busy with busy | plain
    · rw [Option.isSome_iff_ne_none.mpr busy, Bool.true_or]
    · rw [plain, Bool.not_false, Bool.or_true]
  case lost =>
    exact fun finished unlocked => congrArg Host.Outcome.next ((if_neg known).trans ((State.atVf_eq finished _).trans
      (if_neg (unlocked ▸ Bool.false_ne_true))))
  case lostLocked =>
    exact fun finished locked => congrArg Host.Outcome.next ((if_neg known).trans ((State.atVf_eq finished _).trans (if_pos locked)))
  case flr => exact fun finished => congrArg Host.Outcome.next ((if_neg known).trans (State.atVf_eq finished _))
  case reset =>
    refine ⟨_, rfl, congrArg (fun p : Pf => { p with command := 0, sriov := 0, vfBar0 := 0, vfBar2 := 0, msixCtl := 0 }) ?_⟩
    refine State.foldl_pf (fun t v => ?_) _ s
    exact (State.onVf_taskFrame _ v _).pf.trans (t.resetVf_pf v)
  case idle =>
    intro resets waits idle bound
    exact ⟨_, execVfResetDone_idle resets waits idle bound, congrArg (List.filter _) (s.onVf_tasks v _),
      State.vf_onVf_of_ne hv fun e => Bool.noConfusion (congrArg Vf.resetting e :),
      congrArg (fun done : List (Nat × Nat) => done ++ (s.vfSlots v).filter fun x => !done.contains x) (s.onVf_slotScrub v _)⟩
  case window =>
    intro val tee stream h bit own
    exact (h.bar0_eq (w := ⟨.vfBar0 v, 0, 0x108, 4, val, tee, stream⟩) rfl bit own rfl).trans
      (congrArg Host.Outcome.next (vfBar0Bytes_lswin s v val))
  case root =>
    intro val who tee stream canonical
    obtain ⟨t, write, root⟩ := State.writePfBar0_root hv val s canonical
    exact ⟨t, congrArg Host.Outcome.next write, root⟩
  case stretcher =>
    intro w space first last
    change execRegisterWrite w s = _
    simp only [execRegisterWrite, space, if_pos (And.intro first last)]
  case mailbox =>
    intro val who tee stream finished
    have bytes : cellsFrom Config.doeOffset (cellsAt (Config.doeOffset + 16) (leBytes 4 val.toNat)) = cellsAt 16 (leBytes 4 val.toNat) :=
      cellsFrom_cellsAt _ _ _
    exact congrArg Host.Outcome.next ((State.atVf_eq finished _).trans
      ((congrArg (State.writeDoeBytes (1 + v) · s) bytes).trans (writeDoeBytes_mailbox s (1 + v) val)))
  case readOnly =>
    intro w finished space tee stream
    have foreign : (!w.tee || w.stream == some (1 + v)) = false := by
      rw [tee, beq_eq_false_iff_ne.mpr stream]
      rfl
    change execRegisterWrite w s = _
    simp only [execRegisterWrite, space, State.atVf_eq finished, State.orUnsupported, foreign, Bool.false_and, Bool.false_eq_true, if_false]

end Sys2Proof.Cert
end

section
/-! A dispatch decision for a task whose function has been bound to another world (R41, R63, R110). -/

namespace Sys2Proof.Machine

/-- The launch moves to the world that its own function has now. -/
theorem execDispatchDecision_moved {s : State} {task : Nat} {k : Task} (found : s.task task = some k) (ph : k.phase = .ready)
    (running : s.cur.paused = false) (up : s.vfStopped k.vf = false) (bound : (s.vf k.vf).bound = true) (opens : s.openTo k = true)
    (moved : (s.vf k.vf).world.toNat ≠ k.world)
    (declared : tableFault k.exttab (k.field 11 1) (k.type == 3) k.sealId (s.compartments (s.vf k.vf).world.toNat) = none)
    (places : List Place) (anchor : Nat) :
    execDispatchDecision task places anchor s = .next (s.onTask k.id fun x =>
      { x with world := (s.vf k.vf).world.toNat, phase := .translating, exts := [], pages := [] }) := by
  simp only [execDispatchDecision, found, running, up, bound, ph, opens, if_pos moved, State.moveWorld, declared]
  rfl

end Sys2Proof.Machine
end

section
namespace Sys2Proof.Cert
open Sys2Proof.Machine

/-- A launch of a function that waits for its dispatch, translated in world 2. -/
def launchOf (v : Nat) : Task :=
  { id := 1, vf := v, lnum := 0, queue := 0, lidx := 0, record := [], image := [], exttab := [], fmttab := [], world := 2, gen := 0
    phase := .ready, exts := [], pages := [], built := 0, places := [], anchor := 0, slips := 0, slipped := false, since := 0
    asked := false, split := false, parkedCores := [], cohortsLeft := 1, haltGcy := 0, inval := none, partner := none, fin := none }

/-- A state in which launches of functions 0 and 1, of worlds 0 and 1, have one task number. -/
def sharedTaskNumber : State := { State.reset with
  tasks := [launchOf 0, launchOf 1]
  vfs := [(0, { Vf.reset with bound := true }), (1, { Vf.reset with world := 1 })] }

/-- Refutes O48: the clause on a task whose function has another world gives every task with the number of the task the world of that task's own
function (its inner `k` hides the outer one), where the model gives all of them the world of the function of the task that is decided. They differ
in `sharedTaskNumber`, where the model leaves worlds 0 and 0, and the clause 0 and 1. No hypothesis of the statement says that task numbers are
unique. -/
theorem not_launchesAndDispatch : ¬ Obligations.LaunchesAndDispatch := by
  unfold Obligations.LaunchesAndDispatch
  intro claims
  obtain ⟨-, -, -, -, -, -, -, moves, -⟩ := claims sharedTaskNumber 1 (launchOf 0) rfl
  have claimed := moves [] 0 rfl rfl rfl rfl rfl (by decide) rfl
  have model := execDispatchDecision_moved (s := sharedTaskNumber) (task := 1) (k := launchOf 0) rfl rfl rfl rfl rfl rfl (by decide) rfl [] 0
  have worlds := congrArg (fun t : State => t.tasks.map Task.world) (Host.Outcome.next.inj (model.symm.trans claimed))
  exact absurd worlds (by decide : ([0, 0] : List Nat) ≠ [0, 1])

end Sys2Proof.Cert
end

section
/-! Error reports, CORESTATE, the Conservator's requests, self-tests and the start of the part (R127-R142, R380): what each function of the
model answers. -/

namespace Sys2Proof.Machine

/-! ## Reports and what an error strikes (R127-R129) -/

section
variable {s : State} {e : UnitError}

theorem State.reportError_outside (h : unitOutside e.unit = true) :
    s.reportError e = s.report 0xFFFF e.unit.toNat e.kind e.detail e.info := if_pos h

theorem State.reportError_ignored (h : reportable e.unit = false) : s.reportError e = s := by
  obtain ⟨invalid, inside⟩ : unitValid e.unit = false ∧ unitOutside e.unit = false := Bool.or_eq_false_iff.mp h
  simp only [State.reportError, invalid, inside]
  rfl

section
variable (valid : unitValid e.unit = true) (inside : unitOutside e.unit = false) (core : e.core < 512)
include valid inside core

theorem State.reportError_inside : s.reportError e =
    if e.kind = 1 ∨ (s.report e.core e.unit.toNat e.kind e.detail e.info).suspects.contains (e.core, e.unit)
    then s.report e.core e.unit.toNat e.kind e.detail e.info
    else { s.report e.core e.unit.toNat e.kind e.detail e.info with
      suspects := (s.report e.core e.unit.toNat e.kind e.detail e.info).suspects ++ [(e.core, e.unit)] } := by
  simp only [State.reportError, valid, inside, decide_eq_false (Nat.not_le.mpr core)]
  rfl

theorem State.reportError_corrected (kind : e.kind = 1) :
    s.reportError e = s.report e.core e.unit.toNat e.kind e.detail e.info :=
  (State.reportError_inside valid inside core).trans (if_pos (.inl kind))

theorem State.reportError_suspects (kind : e.kind ≠ 1) : ∃ l,
    s.reportError e = { s.report e.core e.unit.toNat e.kind e.detail e.info with suspects := l } ∧ (e.core, e.unit) ∈ l := by
  rw [State.reportError_inside valid inside core]
  split
  · next h => exact ⟨_, rfl, List.contains_iff_mem.mp (h.resolve_left kind)⟩
  · exact ⟨_, rfl, List.mem_append_right _ (List.mem_singleton_self _)⟩

end

theorem execUnitErrorDetect_hbm {index : Nat} (place : e.place = .hbm index) : execUnitErrorDetect e s =
    .next (if e.kind = 1 ∨ e.kind = 2 then { s with walkEcc := SMap.put 0 index e.kind s.walkEcc } else s) := by
  simp only [execUnitErrorDetect, place]

section
variable (place : ∀ index, e.place ≠ .hbm index)
include place

theorem execUnitErrorDetect_inside (reported : ¬ (e.kind = 0 ∨ 5 < e.kind)) : execUnitErrorDetect e s =
    .next (if e.kind = 2 ∨ e.kind = 5 then (s.reportError e).strike e.core e.place
      else if e.kind = 3 ∧ s.twinUnit e.core e.unit = true then (s.reportError e).onCore e.core fun c => { c with twin := some e.unit }
      else s.reportError e) := by
  unfold execUnitErrorDetect
  split
  · next index h => exact absurd h (place index)
  · rw [if_neg reported]

theorem execUnitErrorDetect_reports (low : 1 ≤ e.kind) (high : e.kind ≤ 5) (whole : e.kind ≠ 2) (parity : e.kind ≠ 5)
    (single : e.kind = 3 → s.twinUnit e.core e.unit = false) : execUnitErrorDetect e s = .next (s.reportError e) := by
  rw [execUnitErrorDetect_inside place (by omega), if_neg (not_or.mpr ⟨whole, parity⟩),
    if_neg fun h => Bool.eq_false_iff.mp (single h.1) h.2]

theorem execUnitErrorDetect_strikes (kind : e.kind = 2 ∨ e.kind = 5) :
    execUnitErrorDetect e s = .next ((s.reportError e).strike e.core e.place) := by
  rw [execUnitErrorDetect_inside place (by omega), if_pos kind]

theorem execUnitErrorDetect_twin (kind : e.kind = 3) (twin : s.twinUnit e.core e.unit = true) : execUnitErrorDetect e s =
    .next ((s.reportError e).onCore e.core fun c => { c with twin := some e.unit }) := by
  rw [execUnitErrorDetect_inside place (by omega), if_neg (by omega), if_pos ⟨kind, twin⟩]

end

section
variable (core unit detail : Nat) (info : Word) {kind : Nat}

theorem State.report_admits : (if kind = 1 then decide (64 < s.errFree) else decide (0 < s.errFree)) =
    decide ((if kind = 1 then 64 else 0) < s.errFree) := by
  split <;> rfl

theorem State.report_admitted (room : (if kind = 1 then 64 else 0) < s.errFree) : s.report core unit kind detail info = { s with
    errRing := SMap.put [] s.errTail.toNat (errorRecord s.time.gcy core unit kind detail info) s.errRing
    errTail := s.errTail + 1 } := by
  simp only [State.report, State.report_admits, decide_eq_true room]
  rfl

theorem State.report_lost (full : s.errFree ≤ (if kind = 1 then 64 else 0)) :
    s.report core unit kind detail info =
      let t := { s with
        errLost := if s.errLost = 0xFFFF then 0xFFFF else s.errLost + 1, errOverflow := s.errOverflow || decide (kind ≠ 1) }
      if core < 512 then t.setCs core { s.cs core with errsum := true } else t := by
  have lost : (if s.errLost = 0xFFFF then s.errLost else s.errLost + 1) = if s.errLost = 0xFFFF then 0xFFFF else s.errLost + 1 := by
    split
    · assumption
    · rfl
  have flag : (kind != 1) = decide (kind ≠ 1) := by rw [decide_not]; rfl
  simp only [State.report, State.report_admits, decide_eq_false (Nat.not_lt.mpr full), lost, flag]
  rfl

end
end

/-! ## CORESTATE and timing tables (R133, R140, R142) -/

section
variable {s : State} {n : Nat} {val : Word}

theorem execCorestate_conservator (hn : n < 512) : execCorestate 514 n val s = .next (s.writeCorestate n val) :=
  congrArg _ (if_pos ⟨rfl, hn⟩)

theorem State.writeCorestate_moves (alive : (s.cs n).state ≠ 5) (low : 1 ≤ (val.extractLsb' 0 3 : BitVec 3).toNat)
    (high : (val.extractLsb' 0 3 : BitVec 3).toNat ≤ 4) : s.writeCorestate n val = s.setCs n { s.cs n with
      errsum := (s.cs n).errsum && !val.getLsbD 15, state := val.extractLsb' 0 3 } := by
  have some' : (val.extractLsb' 0 3 : BitVec 3) ≠ 0 := fun h => by rw [h] at low; exact absurd low (by decide)
  have other : (val.extractLsb' 0 3 : BitVec 3) ≠ 5 := fun h => by rw [h] at high; exact absurd high (by decide)
  have kept : ¬ (6 ≤ (val.extractLsb' 0 3 : BitVec 3).toNat ∨ ((s.cs n).state = 5 ∧ (val.extractLsb' 0 3 : BitVec 3) ≠ 5)) := by
    rintro (h | h)
    · omega
    · exact alive h.1
  simp only [State.writeCorestate, if_neg kept, if_neg some', if_neg other, if_neg fun h : _ ∧ _ => some' h.1]

theorem State.writeCorestate_operational (alive : (s.cs n).state ≠ 5) (zero : (val.extractLsb' 0 3 : BitVec 3) = 0) :
    ∃ m, s.writeCorestate n val = State.setCs { s with measured := m } n { s.cs n with
      errsum := (s.cs n).errsum && !val.getLsbD 15, state := 0, tclass := tableClass (s.tableOf n) } := by
  have kept : ¬ (6 ≤ (0 : BitVec 3).toNat ∨ ((s.cs n).state = 5 ∧ (0 : BitVec 3) ≠ 5)) := by
    rintro (h | h)
    · exact absurd h (by decide)
    · exact alive h.1
  refine ⟨SMap.put ((List.range 96).map plotDefault) n (s.coreMeasure n) s.measured, ?_⟩
  simp only [State.writeCorestate, zero, if_neg kept, if_pos (And.intro trivial alive), if_true]
  rfl

theorem State.writeCorestate_dropped (five : (val.extractLsb' 0 3 : BitVec 3) = 5) : s.writeCorestate n val = s.setCs n { s.cs n with
    errsum := (s.cs n).errsum && !val.getLsbD 15, state := 5, tclass := 0xFFFFFFFF } := by
  have kept : ¬ (6 ≤ (5 : BitVec 3).toNat ∨ ((s.cs n).state = 5 ∧ (5 : BitVec 3) ≠ 5)) := by
    rintro (h | h)
    · exact absurd h (by decide)
    · exact h.2 rfl
  simp only [State.writeCorestate, five, if_neg kept]
  rfl

/-- A core that is not to be used again stays so, and STATE 6 and 7 are refused: ERRSUM alone is written. -/
theorem State.writeCorestate_refused (refused : (s.cs n).state = 5 ∨ 6 ≤ (val.extractLsb' 0 3 : BitVec 3).toNat)
    (other : (val.extractLsb' 0 3 : BitVec 3) ≠ 5) :
    s.writeCorestate n val = s.setCs n { s.cs n with errsum := (s.cs n).errsum && !val.getLsbD 15 } := by
  have kept : 6 ≤ (val.extractLsb' 0 3 : BitVec 3).toNat ∨ ((s.cs n).state = 5 ∧ (val.extractLsb' 0 3 : BitVec 3) ≠ 5) :=
    refused.symm.imp_right fun h => ⟨h, other⟩
  have measured : ¬ ((val.extractLsb' 0 3 : BitVec 3) = 0 ∧ (s.cs n).state ≠ 5) := by
    rintro ⟨zero, alive⟩
    rw [zero] at refused
    exact absurd (refused.resolve_left alive) (by decide)
  simp only [State.writeCorestate, if_pos kept, if_neg measured]

theorem execTimingTableWrite_loading {e : Nat} {x : BitVec 16} (hn : n < 512) (he : e < 64) (loading : (s.cs n).state = 3) :
    execTimingTableWrite 514 n e x s = .next { s with tables := SMap.put (entryA0 e) (64 * n + e) (x &&& 0xFFF) s.tables } :=
  congrArg _ ((if_pos ⟨rfl, hn, he⟩).trans (if_pos loading))

theorem execTimingTableWrite_ignored {e : Nat} {x : BitVec 16} (loaded : (s.cs n).state ≠ 3) :
    execTimingTableWrite 514 n e x s = .next s := by
  unfold execTimingTableWrite State.writeTable
  rw [if_neg loaded, ite_self]

end

/-! ## The Conservator's requests (R142, R380, R424) -/

/-- The word of a request. -/
def consWord (op : Nat) (unit : BitVec 16) (core arg : Nat) : Word :=
  BitVec.ofNat 64 (2 ^ 48 * op + 2 ^ 32 * unit.toNat + 2 ^ 23 * core + arg)

section
variable {s : State} {op core arg : Nat} {unit : BitVec 16}

theorem consFields_consWord (low : 1 ≤ op) (high : op ≤ 4) (hc : core < 512) (ha : arg < 2 ^ 23) (detail : op = 4 → arg < 256)
    (bare : op = 2 ∨ op = 3 → arg = 0) : consFields (consWord op unit core arg) = some (op, unit, core, arg) := by
  have hu := unit.isLt
  have word : (consWord op unit core arg).toNat = 2 ^ 48 * op + 2 ^ 32 * unit.toNat + 2 ^ 23 * core + arg :=
    Nat.mod_eq_of_lt (by omega)
  have field : ∀ i w, ((consWord op unit core arg).extractLsb' i w).toNat =
      (2 ^ 48 * op + 2 ^ 32 * unit.toNat + 2 ^ 23 * core + arg) / 2 ^ i % 2 ^ w := fun i w => by
    rw [BitVec.extractLsb'_toNat, word, Nat.shiftRight_eq_div_pow]
  have hop : ((consWord op unit core arg).extractLsb' 48 8).toNat = op := (field 48 8).trans (by omega)
  have hcore : ((consWord op unit core arg).extractLsb' 23 9).toNat = core := (field 23 9).trans (by omega)
  have harg : ((consWord op unit core arg).extractLsb' 0 23).toNat = arg := (field 0 23).trans (by omega)
  have hunit : (consWord op unit core arg).extractLsb' 32 16 = unit := BitVec.eq_of_toNat_eq ((field 32 16).trans (by omega))
  have top : (consWord op unit core arg).extractLsb' 56 8 = 0 := BitVec.eq_of_toNat_eq ((field 56 8).trans (by omega : _ = 0))
  simp only [consFields, hop, hcore, harg, hunit, top]
  exact if_neg fun h => h.elim (fun h => h rfl) (by omega)

theorem consFields_op {w : Word} (fields : consFields w = some (op, unit, core, arg)) : (w.extractLsb' 48 8).toNat = op := by
  unfold consFields at fields
  dsimp only at fields
  split at fields
  · exact absurd fields (Option.some_ne_none _).symm
  · exact congrArg Prod.fst (Option.some.inj fields)

section
variable {w : Word} (free : s.selftest = none)
include free

theorem State.consRow_check (fields : consFields w = some (1, unit, core, arg)) : s.consRow 1 514 w = s.checkOverpaint core arg := by
  simp only [State.consRow, if_pos (consFields_op fields), State.writeConsreq, free, fields]
  rfl

theorem State.consRow_test (fields : consFields w = some (2, unit, core, arg)) :
    s.consRow 2 514 w = { s with selftest := some (core, unit), testFrom := s.time.gcy } := by
  simp only [State.consRow, if_pos (consFields_op fields), State.writeConsreq, free, fields]
  rfl

theorem State.consRow_drop (fields : consFields w = some (3, unit, core, arg)) (fresh : core ∉ s.detours) :
    s.consRow 3 514 w = { s with consResult := 0, detours := s.detours ++ [core] } := by
  have new : s.detours.contains core = false := Bool.eq_false_iff.mpr fun h => fresh (List.contains_iff_mem.mp h)
  simp only [State.consRow, if_pos (consFields_op fields), State.writeConsreq, free, fields, new]
  rfl

theorem State.consRow_outcome (fields : consFields w = some (4, unit, core, arg)) :
    s.consRow 4 514 w = { s.reportVerdict core unit 8 arg with consResult := 0 } := by
  simp only [State.consRow, if_pos (consFields_op fields), State.writeConsreq, free, fields]
  rfl

end
end

theorem State.checkOverpaint_unsigned {s : State} {core arg : Nat} (bad : ecdsaOk Config.firmwareKey
    ((s.flash.readBytes (32 * arg) 176).take 80) (((s.flash.readBytes (32 * arg) 176).drop 80).take 96) = false) :
    s.checkOverpaint core arg = { s with consResult := 1 } := by
  simp only [State.checkOverpaint, bad]
  rfl

/-! ## The verdict of a self-test (R130, R137, R139, R424) -/

section
variable {s : State} {core : Nat} {unit : BitVec 16} (test : s.selftest = some (core, unit)) (bad : List Nat)
include test

theorem execSelfTestDone_passed (path : s.testPath core unit ≠ .absent) : execSelfTestDone true bad s =
    .next (if s.suspects.contains (core, unit) then (Cert.tested s core unit true).transient core unit (s.testPath core unit)
      else Cert.tested s core unit true) := by
  have ok : (true && s.testPath core unit != .absent) = true := bne_iff_ne.mpr path
  simp only [execSelfTestDone, test, ok]
  rfl

theorem execSelfTestDone_native (path : s.testPath core unit = .native) :
    execSelfTestDone false bad s = .next ((Cert.tested s core unit false).condemn core unit) := by
  simp only [execSelfTestDone, test, path]
  rfl

theorem execSelfTestDone_overpaint {o : Overpaint} (path : s.testPath core unit = .overpaint o) : execSelfTestDone false bad s =
    .next (if s.suspects.contains (core, unit) && !o.twin then ((Cert.tested s core unit false).failPlots o bad).condemn core unit
      else (Cert.tested s core unit false).failPlots o bad) := by
  simp only [execSelfTestDone, test, path]
  rfl

theorem execSelfTestDone_absent (pass : Bool) (path : s.testPath core unit = .absent) :
    execSelfTestDone pass bad s = .next (Cert.tested s core unit false) := by
  have fails : (pass && TestPath.absent != .absent) = false := Bool.and_false pass
  simp only [execSelfTestDone, test, path, fails]
  rfl

end

/-! ## The debug port and firmware images (R53, R57, R80) -/

section
variable {s : State} {core off : Nat} {c : Core} (found : s.coreOf core = some c)
include found

theorem execDebugPortScan_scratchpad (pad : off < 0x80000) (plain : c.sealedOff [off, off + 7] = none) :
    execDebugPortScan core off s = .next { s with out := s.out ++ [.scan core off (c.lcl.readBytes off 8)] } := by
  simp only [execDebugPortScan, found, decide_eq_true pad, plain]
  rfl

theorem execDebugPortScan_sealed {o : Nat} (pad : off < 0x80000) (hidden : c.sealedOff [off, off + 7] = some o) :
    execDebugPortScan core off s = .next { s.coreFault core .sealedDebug (some (BitVec.ofNat 64 (4096 * plateOf o))) with
      out := s.out ++ [.scan core off (List.replicate 8 0)] } := by
  simp only [execDebugPortScan, found, decide_eq_true pad, hidden]
  rfl

theorem execDebugPortScan_bbuf (beyond : 0x80000 ≤ off) (plain : c.eng.bsealed = false) : execDebugPortScan core off s =
    .next { s with out := s.out ++ [.scan core off (c.eng.bbuf.readBytes (off - 0x80000) 8)] } := by
  simp only [execDebugPortScan, found, decide_eq_false (Nat.not_lt.mpr beyond), plain]
  rfl

end

section
variable {s : State} {image : BitVec 8} (copies : List (List Byte × List Byte))

theorem execFirmwareImageUpdate_stored (low : 1 ≤ image.toNat) (high : image.toNat ≤ 3)
    (free : image.toNat ≤ 2 → (s.vfs.any fun x => x.2.isLocked && x.2.nfw) = false) :
    execFirmwareImageUpdate image copies s =
      .next { s with firmware := SMap.put [] image.toNat (copies.take 2) s.firmware } := by
  refine congrArg _ (if_neg ?_)
  rintro (none' | many | ⟨two, held⟩)
  · omega
  · omega
  · exact Bool.eq_false_iff.mp (free two) held

theorem execFirmwareImageUpdate_refused (which : image.toNat = 1 ∨ image.toNat = 2)
    (held : (s.vfs.any fun x => x.2.isLocked && x.2.nfw) = true) : execFirmwareImageUpdate image copies s = .next s :=
  congrArg _ (if_pos (.inr (.inr ⟨by omega, held⟩)))

end

/-! ## The start of the part (R57, R103, R132) -/

theorem isSome_bind_const {α β : Type} (x : Option α) (y : Option β) : (x.bind fun _ => y).isSome = (x.isSome && y.isSome) := by
  cases x <;> rfl

/-- The part after a reset: the control cores with their images, the stacks that failed, and what a loss of power leaves. -/
theorem execPackageReset_next (damaged : List (Nat × Nat)) (failed : BitVec 8) (flit : Bool) (s : State) : ∃ t,
    ∃ p a k : Option (List Byte), execPackageReset damaged failed flit s = .next t ∧
      p = s.verified damaged 1 ∧ a = (p.bind fun _ => s.verified damaged 2) ∧ k = (p.bind fun _ => s.verified damaged 3) ∧
      t.core = startCore 512 a true ∧ t.others = [startCore 513 a false, startCore 514 k true, startCore 515 p true] ∧
      t.spdmOnly = !(a.isSome && k.isSome) ∧ t.pf = { s.dark.pf with fatal := p.isNone, flitMode := flit } ∧ t.stackBad = failed ∧
      t.time = s.dark.time ∧ t.fot = s.dark.fot ∧ t.vfs = s.dark.vfs ∧ t.tasks = s.dark.tasks ∧ t.hbm = s.dark.hbm ∧
      t.lines = s.dark.lines ∧ t.flash = s.dark.flash ∧ t.hostMem = s.dark.hostMem ∧ t.power = s.dark.power := by
  obtain ⟨_, _, _, _, _, _, trained⟩ := s.dark.trained_frame failed
  simp only [execPackageReset, trained]
  exact ⟨_, _, _, _, rfl, rfl, rfl, rfl, rfl, rfl, rfl, rfl, rfl, rfl, rfl, rfl, rfl, rfl, rfl, rfl, rfl, rfl⟩

end Sys2Proof.Machine
end

section
namespace Sys2Proof.Cert
open Sys2Proof.Machine

/-- What a package reset leaves, in the fields that R20, R57, R103 and R132 name. -/
theorem packageReset_outcome (s : State) (damaged : List (Nat × Nat)) (failed : BitVec 8) (flit : Bool) :
    ∃ t, ∃ p a k : Bool, exec (.packageReset damaged failed flit) s = .next t ∧
      p = (s.verified damaged 1).isSome ∧ a = (p && (s.verified damaged 2).isSome) ∧ k = (p && (s.verified damaged 3).isSome) ∧
      t.stackBad = failed ∧ t.pf.flitMode = flit ∧ t.core.id = 512 ∧ t.core.run = (if a then .running else .inReset) ∧ t.core.pc = 0 ∧
      (t.others.map fun c => (c.id, c.run)) = [(513, .inReset), (514, if k then .running else .inReset),
        (515, if p then .running else .inReset)] ∧ t.spdmOnly = !(a && k) ∧ t.pf.fatal = !p ∧ t.time.gcy = 0 ∧ t.fot = [] ∧
      t.vfs = [] ∧ t.tasks = [] ∧ t.hbm = [] ∧ t.lines = [] ∧ t.flash = s.flash ∧ t.hostMem = s.hostMem ∧ t.power = true := by
  obtain ⟨t, p, a, k, next, rfl, rfl, rfl, core, others, spdmOnly, pf, bad, time, fot, vfs, tasks, hbm, lines, flash, hostMem, power⟩ :=
    execPackageReset_next damaged failed flit s
  refine ⟨t, _, _, _, next, rfl, isSome_bind_const _ _, isSome_bind_const _ _, bad, ?_⟩
  rw [core, others, spdmOnly, pf, time, fot, vfs, tasks, hbm, lines, flash, hostMem, power]
  exact ⟨rfl, rfl, rfl, rfl, rfl, rfl, (Option.not_isSome ..).symm, rfl, rfl, rfl, rfl, rfl, rfl, rfl, rfl, rfl⟩

/-- Settles O52: each event is what one function of the model answers in the case that the clause describes; the words of CONSREQ are split into
their fields by arithmetic, and the start of the part rests on the frame of the training of HBM. -/
theorem serviceEvents : Obligations.ServiceEvents := by
  unfold Obligations.ServiceEvents
  intro s
  refine ⟨?reports, ?hbm, ?record, ?strikes, ?register, ?twin, ?admitted, ?lost, ?head, ?headRefused, ?moves, ?operational, ?dropped, ?refused,
    ?table, ?tableLoaded, ?check, ?unsigned, ?test, ?passed, ?transient, ?native, ?overpaint, ?behind, ?absent, ?drop, ?outcome, ?scan,
    ?scanSealed, ?scanB, ?image, ?imageHeld, rfl, packageReset_outcome s, ⟨_, rfl, rfl, rfl, rfl, rfl⟩⟩
  case reports =>
    exact fun e => ⟨State.reportError_corrected, State.reportError_suspects, State.reportError_outside, State.reportError_ignored⟩
  case hbm => exact fun e index => execUnitErrorDetect_hbm
  case record => exact fun e place low high whole parity => execUnitErrorDetect_reports place low high whole parity
  case strikes => exact fun e place => execUnitErrorDetect_strikes place
  case register => exact fun core w off => rfl
  case twin => exact fun e place => execUnitErrorDetect_twin place
  case admitted => exact fun core unit kind detail info => State.report_admitted core unit detail info
  case lost => exact fun core unit kind detail info => State.report_lost core unit detail info
  case head => exact fun val room => congrArg Host.Outcome.next (if_pos room)
  case headRefused => exact fun val past => congrArg Host.Outcome.next (if_neg (Nat.not_le.mpr past))
  case moves =>
    exact fun n val hn alive low high =>
      (execCorestate_conservator hn).trans (congrArg Host.Outcome.next (State.writeCorestate_moves alive low high))
  case operational =>
    intro n val hn alive zero
    obtain ⟨m, write⟩ := State.writeCorestate_operational alive zero
    exact ⟨m, (execCorestate_conservator hn).trans (congrArg Host.Outcome.next write)⟩
  case dropped =>
    exact fun n val hn five => (execCorestate_conservator hn).trans (congrArg Host.Outcome.next (State.writeCorestate_dropped five))
  case refused =>
    exact fun n val hn refused other =>
      (execCorestate_conservator hn).trans (congrArg Host.Outcome.next (State.writeCorestate_refused refused other))
  case table => exact fun n e val => execTimingTableWrite_loading
  case tableLoaded => exact fun n e val _ => execTimingTableWrite_ignored
  case check =>
    intro core arg hc ha free
    have word : BitVec.ofNat 64 (2 ^ 48 + 2 ^ 23 * core + arg) = consWord 1 0 core arg := rfl
    have fields := consFields_consWord (op := 1) (unit := 0) (by decide) (by decide) hc ha (by omega) (by omega)
    exact congrArg Host.Outcome.next (word ▸ State.consRow_check free fields)
  case unsigned => exact fun core arg => State.checkOverpaint_unsigned
  case test =>
    intro core unit hc free
    have word : BitVec.ofNat 64 (2 * 2 ^ 48 + 2 ^ 32 * unit.toNat + 2 ^ 23 * core) = consWord 2 unit core 0 := rfl
    have fields := consFields_consWord (op := 2) (unit := unit) (arg := 0) (by decide) (by decide) hc (by decide) (by decide) (by decide)
    exact congrArg Host.Outcome.next (word ▸ State.consRow_test free fields)
  case passed =>
    intro core unit bad test path clear
    rw [← List.contains_iff_mem, Bool.not_eq_true] at clear
    exact (execSelfTestDone_passed test bad path).trans (by rw [clear]; rfl)
  case transient =>
    exact fun core unit bad test path suspect =>
      (execSelfTestDone_passed test bad path).trans (congrArg _ (if_pos (List.contains_iff_mem.mpr suspect)))
  case native => exact fun core unit bad test => execSelfTestDone_native test bad
  case overpaint =>
    intro core unit bad o test path kept
    refine (execSelfTestDone_overpaint test bad path).trans (congrArg _ (if_neg ?_))
    rw [Bool.and_eq_true, List.contains_iff_mem, Bool.not_eq_true']
    rintro ⟨suspect, single⟩
    exact kept.elim (fun twin => Bool.noConfusion (twin.symm.trans single)) fun clear => clear suspect
  case behind =>
    intro core unit bad o test path single suspect
    refine (execSelfTestDone_overpaint test bad path).trans (congrArg _ (if_pos ?_))
    rw [List.contains_iff_mem.mpr suspect, single]
    rfl
  case absent => exact fun core unit pass bad test => execSelfTestDone_absent test bad pass
  case drop =>
    intro core hc free fresh
    have word : BitVec.ofNat 64 (3 * 2 ^ 48 + 2 ^ 23 * core) = consWord 3 0 core 0 := rfl
    have fields := consFields_consWord (op := 3) (unit := 0) (arg := 0) (by decide) (by decide) hc (by decide) (by decide) (by decide)
    exact congrArg Host.Outcome.next (word ▸ State.consRow_drop free fields fresh)
  case outcome =>
    intro core arg unit hc ha free
    have word : BitVec.ofNat 64 (4 * 2 ^ 48 + 2 ^ 32 * unit.toNat + 2 ^ 23 * core + arg) = consWord 4 unit core arg := rfl
    have fields := consFields_consWord (op := 4) (unit := unit) (by decide) (by decide) hc (by omega) (fun _ => ha) (by omega)
    exact congrArg Host.Outcome.next (word ▸ State.consRow_outcome free fields)
  case scan => exact fun core off c found pad plain => execDebugPortScan_scratchpad found pad plain
  case scanSealed => exact fun core off c o found pad hidden => ⟨_, execDebugPortScan_sealed found pad hidden, rfl⟩
  case scanB => exact fun core off c found beyond plain => execDebugPortScan_bbuf found beyond plain
  case image => exact fun image copies low high free => execFirmwareImageUpdate_stored copies low high free
  case imageHeld => exact fun image copies which held => execFirmwareImageUpdate_refused copies which held

end Sys2Proof.Cert
end

section
/-! Stores of elements (R80, R193, R220, R322, R325): the rows that they touch, and what `State.storeElems` does in each of its cases. -/

namespace Sys2Proof.Machine

section
variable (layout : Nat) (elems : List (Nat × List (Byte × Bool)))

/-- The row of the first byte of each element. -/
def firstRows : List Nat := elems.map fun x => rowOf ((physRange layout x.1 x.2.length).headD 0)

/-- The logical offsets of elements that are all as long as the first. -/
def elemOffsets : List Nat := elems.flatMap fun x => offsets x.1 ((elems.map (·.2.length)).headD 0)

/-- The rows of the bytes that may be written. -/
def writtenRows : List Nat :=
  elems.flatMap fun x => ((physRange layout x.1 x.2.length).zip x.2).filterMap fun p => if p.2.2 then some (rowOf p.1) else none

theorem firstRows_placed :
    ((elems.map fun x => (x.2, physRange layout x.1 x.2.length)).map fun x => rowOf (x.2.headD 0)) = firstRows layout elems :=
  List.map_map

theorem elemOffsets_mapped :
    ((elems.map (·.1)).flatMap fun o => offsets o ((elems.map (·.2.length)).headD 0)) = elemOffsets elems :=
  List.flatMap_map _ _ _

theorem writtenRows_placed :
    (((elems.map fun x => (x.2, physRange layout x.1 x.2.length)).flatMap fun x =>
      (x.2.zip x.1).filterMap fun p => if p.2.2 then some (p.1, p.2.1) else none).map fun b => rowOf b.1) = writtenRows layout elems := by
  rw [List.flatMap_map, List.map_flatMap]
  refine List.flatMap_congr fun x _ => ?_
  rw [List.map_filterMap]
  refine List.filterMap_congr fun p _ => ?_
  cases p.2.2 <;> rfl

end

end Sys2Proof.Machine
end

section
namespace Sys2Proof.Cert

open Sys2Proof.Machine

section
variable {s : State} {e : BitVec 4} {layout align : Nat} {accepts : Extent → Bool} {elems : List (Nat × List (Byte × Bool))}
  (swept : Bool) (slot lat : Nat)

theorem storeElems_refused {f : Cause × Option Word}
    (fails : s.core.elemFault e (elems.map (·.1)) ((elems.map (·.2.length)).headD 0) align .store accepts = some f) :
    s.storeElems swept slot lat e layout align accepts elems = faulted s slot f.1 f.2 := by
  simp only [State.storeElems, fails]
  rfl

section
variable (passes : s.core.elemFault e (elems.map (·.1)) ((elems.map (·.2.length)).headD 0) align .store accepts = none)
include passes

section
variable (inLcl : e = lclCode)
include inLcl

theorem storeElems_lcl_rank {f : Cause × Option Word} (fifth : rankFault (elems.map (·.1)) (firstRows layout elems) = some f) :
    s.storeElems swept slot lat e layout align accepts elems = faulted s slot f.1 f.2 := by
  simp only [State.storeElems, passes, if_pos inLcl, firstRows_placed, fifth]
  rfl

variable (ranks : rankFault (elems.map (·.1)) (firstRows layout elems) = none)
include ranks

theorem storeElems_lcl_sealed {o : Nat} (hidden : s.core.sealedOff (elemOffsets elems) = some o) :
    s.storeElems swept slot lat e layout align accepts elems = faulted s slot .sealedCopy (some (BitVec.ofNat 64 o)) := by
  simp only [State.storeElems, passes, if_pos inLcl, firstRows_placed, ranks, elemOffsets_mapped, hidden]
  rfl

variable (plain : s.core.sealedOff (elemOffsets elems) = none)
include plain

theorem storeElems_lcl_undo {row : Nat} (full : s.core.reserve (writtenRows layout elems) = .error row) :
    s.storeElems swept slot lat e layout align accepts elems = faulted s slot .undoFull (some (BitVec.ofNat 64 (row % 4096))) := by
  simp only [State.storeElems, passes, if_pos inLcl, firstRows_placed, ranks, elemOffsets_mapped, plain, writtenRows_placed, full]
  rfl

theorem storeElems_lcl_written {k : Core} (room : s.core.reserve (writtenRows layout elems) = .ok k) :
    s.storeElems swept slot lat e layout align accepts elems =
      withCore s (k.sweep swept slot (s.core.ccy + lat) (elems.map fun x => (x.2, physRange layout x.1 x.2.length)) fun t xs d =>
        d.at' slot t (.store .S (xs.flatMap fun x => (x.2.zip x.1).filterMap fun p => if p.2.2 then some (p.1, p.2.1) else none))) := by
  simp only [State.storeElems, passes, if_pos inLcl, firstRows_placed, ranks, elemOffsets_mapped, plain, writtenRows_placed, room]
  rfl

end

section
variable {y : Extent} (outside : e ≠ lclCode) (declared : s.core.extent e = some y)
include outside declared

theorem storeElems_extent_layout (swizzled : layout ≠ 0) :
    s.storeElems swept slot lat e layout align accepts elems =
      faulted s slot .misaligned (some (BitVec.ofNat 64 ((elems.map (·.1)).headD 0))) := by
  simp only [State.storeElems, passes, if_neg outside, declared, if_pos swizzled]
  rfl

variable (linear : layout = 0)
include linear

theorem storeElems_extent_sealed (hidden : y.sealed = true) :
    s.storeElems swept slot lat e layout align accepts elems =
      faulted s slot .sealedCopy (some (BitVec.ofNat 64 ((elems.map (·.1)).headD 0))) := by
  simp only [State.storeElems, passes, if_neg outside, declared, if_neg (not_not.mpr linear), if_pos hidden]
  rfl

/-- A store that passes the checks of its extent is one effect held back. -/
theorem storeElems_extent_gate (plain : y.sealed = false) :
    s.storeElems swept slot lat e layout align accepts elems = s.gate slot (y.classOf 0x02) 0 0
      (.write y.backing (y.key s.core.isControl) (elems.flatMap fun x => x.2.zipIdx.filterMap fun p =>
        if p.1.2 then some (y.address (x.1 + p.2), p.1.1) else none)) := by
  simp only [State.storeElems, passes, if_neg outside, declared, if_neg (not_not.mpr linear), plain, Bool.false_eq_true, if_false]

end
end
end

/-- Settles O23, case by case in the order of the checks. -/
theorem elementStores : Obligations.ElementStores := by
  unfold Obligations.ElementStores
  intro s swept slot lat e layout align accepts elems
  refine ⟨fun f fails => storeElems_refused swept slot lat fails,
    fun o inLcl passes ranks hidden => storeElems_lcl_sealed swept slot lat passes inLcl ranks hidden,
    fun k inLcl passes ranks plain room => storeElems_lcl_written swept slot lat passes inLcl ranks plain room, ?held,
    fun inLcl passes => ⟨fun f fifth => storeElems_lcl_rank swept slot lat passes inLcl fifth,
      fun row ranks plain full => storeElems_lcl_undo swept slot lat passes inLcl ranks plain full⟩,
    fun y outside passes declared =>
      ⟨storeElems_extent_layout swept slot lat passes outside declared,
        storeElems_extent_sealed swept slot lat passes outside declared, ?full⟩⟩
  case held =>
    intro y outside passes declared linear plain compute room
    rw [storeElems_extent_gate swept slot lat passes outside declared linear plain, compute]
    exact State.gate_held _ _ _ _ _ _ compute room
  case full =>
    intro linear plain compute full
    rw [storeElems_extent_gate swept slot lat passes outside declared linear plain]
    exact State.gate_full _ _ _ _ _ _ compute full

end Sys2Proof.Cert
end

section
/-! Retirements (R80, R163, R342): zeroing an accumulator bank, and what a retirement leaves of its core. -/

namespace Sys2Proof.Machine

/-- Zeroing banks leaves all else of the core, but for the bad words of those banks. -/
theorem Core.zeroBanks_eq (c : Core) (p : Nat → Bool) : ∃ bad, c.zeroBanks p =
    { c with eng := { c.eng with acc := c.eng.acc.filter fun x => !p (x.1 / 4096) }, bad := bad } :=
  Core.mend_eq { c with eng := { c.eng with acc := c.eng.acc.filter fun x => !p (x.1 / 4096) } } _

section
variable {g h : Engine} {bank : Nat} (acc : g.acc = h.acc.filter fun x => !(x.1 / 4096 == bank))
include acc

theorem Engine.bank_zeroed : g.bank bank = [] := by
  rw [Engine.bank, acc, List.filter_filter, List.map_eq_nil_iff, List.filter_eq_nil_iff]
  simp

theorem Engine.bank_kept {b : Nat} (other : b ≠ bank) : g.bank b = h.bank b := by
  rw [Engine.bank, Engine.bank, acc, List.filter_filter]
  congr 1
  refine List.filter_congr fun x _ => ?_
  by_cases hx : x.1 / 4096 = b
  · simp [hx, other]
  · simp [hx]

end

section
variable {c : Core} {bank : Nat} {f : BitVec 3} {dst : Nat} (slot op : Nat) (pc : BitVec 17) (sat : Bool) (layout lat : Nat)

theorem Core.retire_sealed {o : Nat} (hidden : c.sealedOff ((List.range (4096 * outBytes f.toNat)).map (dst + ·)) = some o) :
    c.retire slot op pc bank f sat dst layout lat =
      { c with faults := c.faults ++ [⟨.sealedCopy, some (BitVec.ofNat 64 o), slot, pc⟩] } := by
  simp only [Core.retire, hidden]
  rfl

theorem Core.retire_bad {z : Cause × Option Word}
    (plain : c.sealedOff ((List.range (4096 * outBytes f.toNat)).map (dst + ·)) = none) (bad : c.badAcc bank (fun _ => true) = some z) :
    c.retire slot op pc bank f sat dst layout lat = { c with faults := c.faults ++ [⟨z.1, z.2, slot, pc⟩] } := by
  simp only [Core.retire, plain, bad]
  rfl

/-- What a retirement leaves of its core once it has started (R342). -/
theorem Core.retire_started (plain : c.sealedOff ((List.range (4096 * outBytes f.toNat)).map (dst + ·)) = none)
    (sound : c.badAcc bank (fun _ => true) = none) : ∃ bad, c.retire slot op pc bank f sat dst layout lat = { c with
      eng := { c.eng with
        acc := c.eng.acc.filter fun x => !(x.1 / 4096 == bank)
        rets := c.eng.rets ++ [⟨c.ccy, op, c.eng.bank bank, c.eng.int32.getLsbD bank, f, sat, dst, layout, c.r.tree⟩]
        lastRet := some c.ccy }
      late := c.late ++ (List.range 64).map fun r => ⟨c.ccy + lat + r, c.ccy, slot, pc, .retRow r⟩
      bad := bad } := by
  obtain ⟨bad, zeroed⟩ := c.zeroBanks_eq (· == bank)
  refine ⟨bad, ?_⟩
  simp only [Core.retire, plain, sound, zeroed]
  rfl

end

end Sys2Proof.Machine
end

section
namespace Sys2Proof.Cert

open Sys2Proof.Machine

/-- Settles O30: what a retirement that starts leaves of its core is one record, whose bank is what the filter of the elements leaves. -/
theorem retirementPassesTheBank : Obligations.RetirementPassesTheBank := by
  unfold Obligations.RetirementPassesTheBank
  intro c slot op pc bank f sat dst layout lat
  refine ⟨fun plain => ⟨?started, fun z bad => Core.retire_bad slot op pc sat layout lat plain bad⟩,
    fun o hidden => Core.retire_sealed slot op pc sat layout lat hidden⟩
  case started =>
    intro sound
    obtain ⟨bad, starts⟩ := Core.retire_started slot op pc sat layout lat plain sound
    rw [starts]
    exact ⟨Engine.bank_zeroed (h := c.eng) rfl, fun b other => Engine.bank_kept (h := c.eng) rfl other, rfl, rfl, rfl⟩

end Sys2Proof.Cert
end

section
/-! The tags of the plates that a copy writes (R77, R165). -/

namespace Sys2Proof.Machine

theorem nodup_distinct (l : List Nat) : (distinct l).Nodup := by
  induction l using List.reverseRecOn with
  | nil => exact List.nodup_nil
  | append_singleton l x ih =>
    rw [distinct_concat]
    split
    · exact ih
    · next new => exact List.concat_eq_append ▸ ih.concat fun old => new (List.contains_iff_mem.mpr old)

/-- A tag as a copy from an extent that is not sealed leaves it at issue. -/
def PlateTag.opened (layout : Nat) (t : PlateTag) : PlateTag :=
  { t with expSeq := t.expSeq + 1, layout := BitVec.ofNat 2 layout, checked := false, poison := false, refused := false }

/-- The tag at reset has CHECKED set. -/
theorem PlateTag.opened_ne_reset (layout : Nat) (t : PlateTag) : t.opened layout ≠ PlateTag.reset :=
  fun h => Bool.false_ne_true (congrArg PlateTag.checked h)

/-- The note of what a copy has to write into a plate. -/
def plateNote (copy : Nat) (host : Bool) (cs : List Chunk) (late : Chunk → Bool) (c : Core) (p : Nat) : PlateCopy :=
  let live := cs.filter fun x => x.live && plateOf x.dst == p
  let dead := (cs.filter fun x => !x.live && plateOf x.dst == p && late x).length
  ⟨copy, p, (c.plate p).expSeq + 1, 16 * (live.length + dead), 16 * ((live.filter late).length + dead), false, host, false, c.ccy⟩

/-- The core with the tag of a plate so, and with a note of what the copy writes there. -/
def Core.openPlate (layout : Nat) (note : Core → Nat → PlateCopy) (c : Core) (p : Nat) : Core :=
  { c.setPlate p ((c.plate p).opened layout) with copies := c.copies ++ [note c p] }

/-- Such a copy opens each plate that it writes once. -/
theorem Core.openCopy_eq (c : Core) (copy layout : Nat) (host : Bool) (cs : List Chunk) (firsts : List (Nat × Nat)) (late : Chunk → Bool) :
    c.openCopy copy layout none host cs firsts late =
      (distinct (cs.map fun x => plateOf x.dst)).foldl (Core.openPlate layout (plateNote copy host cs late)) c := by
  simp only [Core.openCopy, Option.isSome_none, Bool.or_false, Bool.false_eq_true, if_false, Option.getD_none]
  rfl

section
variable (layout : Nat) (note : Core → Nat → PlateCopy)

theorem Core.openPlates_frame (plates : List Nat) (c : Core) : ∃ tags copies,
    plates.foldl (Core.openPlate layout note) c = { c with plates := tags, copies := copies } := by
  refine foldl_keeps (fun d => ∃ tags copies, d = { c with plates := tags, copies := copies }) _ ?_ plates c ⟨_, _, rfl⟩
  rintro _ p ⟨tags, copies, rfl⟩
  exact ⟨_, _, rfl⟩

theorem Core.openPlates_plate_other {plates : List Nat} {p : Nat} (apart : p ∉ plates) (c : Core) :
    (plates.foldl (Core.openPlate layout note) c).plate p = c.plate p := by
  induction plates generalizing c with
  | nil => rfl
  | cons q plates ih =>
    rw [List.mem_cons, not_or] at apart
    obtain ⟨other, apart⟩ := apart
    exact (ih apart _).trans (SMap.get_put_other _ _ _ _ _ other)

theorem Core.openPlates_plate_same {plates : List Nat} (once : plates.Nodup) {p : Nat} (opened : p ∈ plates) (c : Core) :
    (plates.foldl (Core.openPlate layout note) c).plate p = (c.plate p).opened layout := by
  induction plates generalizing c with
  | nil => cases opened
  | cons q plates ih =>
    obtain ⟨new, once⟩ := List.nodup_cons.mp once
    rcases List.mem_cons.mp opened with rfl | opened
    · exact (Core.openPlates_plate_other layout note new _).trans (SMap.get_put_same_of_ne _ _ _ _ (PlateTag.opened_ne_reset _ _))
    · have other : p ≠ q := fun e => new (e ▸ opened)
      exact (ih once opened _).trans (congrArg (PlateTag.opened layout) (SMap.get_put_other _ _ _ _ _ other))

end

end Sys2Proof.Machine
end

section
namespace Sys2Proof.Cert

open Sys2Proof.Machine

/-- Settles O33: a copy opens each plate that it writes once, and a tag that it leaves has CHECKED clear, so that it is never the tag at reset, which
a table does not list. -/
theorem copiesTagTheirPlates : Obligations.CopiesTagTheirPlates := by
  unfold Obligations.CopiesTagTheirPlates
  intro c copy layout host cs late p
  have writes : p ∈ distinct (cs.map fun x => plateOf x.dst) ↔ ∃ x ∈ cs, plateOf x.dst = p := mem_distinct.trans List.mem_map
  rw [Core.openCopy_eq]
  refine ⟨fun written => Core.openPlates_plate_same layout _ (nodup_distinct _) (writes.mpr written) c, ?apart, ?frame⟩
  case apart =>
    intro apart
    refine Core.openPlates_plate_other layout _ (fun written => ?_) c
    obtain ⟨x, hx, there⟩ := writes.mp written
    exact apart x hx there
  case frame =>
    obtain ⟨tags, copies, frame⟩ :=
      Core.openPlates_frame layout (plateNote copy host cs late) (distinct (cs.map fun x => plateOf x.dst)) c
    rw [frame]
    exact ⟨rfl, rfl, rfl⟩

end Sys2Proof.Cert
end

section
/-! Worlds and seals (R61-R72, R78): the table of worlds, which mailbox serves a request, and what each request and each step of a transition does. -/

namespace Sys2Proof.Machine

/-! ## The table of worlds (R61) -/

theorem State.world_onWorld {s : State} {w : Nat} {x : World} (found : s.world w = some x) (f : World → World) :
    (s.onWorld w f).world w = some (f x) := by
  obtain ⟨p, first, rfl⟩ := Option.map_eq_some_iff.mp found
  have key : p.1 = w := eq_of_beq (List.find?_some first :)
  have same : ∀ q : Nat × World, ((if q.1 = w then (q.1, f q.2) else q).1 == w) = (q.1 == w) := fun q => by split <;> rfl
  simp only [State.world, State.onWorld, List.find?_map, Function.comp_def, same, first, Option.map_some, if_pos key]

theorem State.world_congr {s t : State} (worlds : t.worlds = s.worlds) (w : Nat) : t.world w = s.world w := by
  rw [State.world, State.world, worlds]

/-! ## Answers (R61) -/

/-- A reply changes mailboxes and draws free values. -/
theorem State.reply_frame (fn : Nat) (bytes : List Byte) (s : State) : ∃ doe fresh drbg,
    s.reply fn bytes = { s with doe := doe, fresh := fresh, drbg := drbg } := by
  unfold State.reply
  dsimp only
  split
  · exact ⟨s.doe, s.fresh, s.drbg, rfl⟩
  · split <;> exact ⟨_, _, _, rfl⟩

theorem State.answer_frame (mb : Mailbox) (code status : Nat) (body : List Byte) (s : State) : ∃ doe fresh drbg,
    s.answer mb code status body =
      { s with doe := doe, fresh := fresh, drbg := drbg, out := s.out ++ [.service mb code status body] } :=
  State.reply_frame ((mb.vf.map (1 + ·)).getD 0) body { s with out := s.out ++ [.service mb code status body] }

/-! ## Which mailbox serves a request (R57, R61) -/

section
variable {s : State} (code : Nat) (body : State → State)

theorem State.pfService_eq (takes : s.serviceWaits ⟨none, true⟩ = false) {w : Nat} (hw : w < 64) :
    s.pfService ⟨none, true⟩ code w body = body s := by
  simp only [State.pfService, takes, Option.isSome_none, decide_eq_false (Nat.not_le.mpr hw), Bool.false_eq_true, if_false, Bool.not_true,
    Bool.or_self]

theorem State.pfService_elsewhere {v : Nat} (takes : s.serviceWaits ⟨some v, true⟩ = false) (w : Nat) :
    s.pfService ⟨some v, true⟩ code w body = s.answer ⟨some v, true⟩ code 2 [] := by
  simp only [State.pfService, takes, Option.isSome_some, Bool.true_or, Bool.not_true, Bool.false_eq_true, if_false, if_true]

theorem State.pfService_open (takes : s.serviceWaits ⟨none, false⟩ = false) (w : Nat) :
    s.pfService ⟨none, false⟩ code w body = s.answer ⟨none, false⟩ code 5 [] := by
  simp only [State.pfService, takes, Bool.not_false, Bool.false_eq_true, if_false, if_true]

variable (serve : Nat → World → State → State)

theorem State.vfService_eq {v : Nat} (takes : s.serviceWaits ⟨some v, true⟩ = false) (bound : (s.vf v).bound = true) {w : Nat}
    (member : (s.vf v).world.toNat = w) {x : World} (found : s.world w = some x) :
    s.vfService ⟨some v, true⟩ code serve = serve w x s := by
  simp only [State.vfService, takes, Bool.not_true, Bool.false_eq_true, if_false, bound, if_true, member, found]

theorem State.vfService_elsewhere (takes : s.serviceWaits ⟨none, true⟩ = false) :
    s.vfService ⟨none, true⟩ code serve = s.answer ⟨none, true⟩ code 2 [] := by
  simp only [State.vfService, takes, Bool.not_true, Bool.false_eq_true, if_false]

end

/-! ## Lines evicted and units re-encrypted (R66) -/

theorem State.dropLines_lines (s : State) (p : Line → Bool) : (s.dropLines p).lines = s.lines.filter fun l => !p l := by
  unfold State.dropLines
  dsimp only

theorem State.dropLines_worlds (s : State) (p : Line → Bool) : (s.dropLines p).worlds = s.worlds := by
  unfold State.dropLines
  dsimp only
  split <;> rfl

theorem State.hbmPut_worlds (s : State) (index : Nat) (cipher : Vec) (tag : Word) : (s.hbmPut index cipher tag).worlds = s.worlds := by
  unfold State.hbmPut
  rfl

theorem State.writeback_worlds (s : State) (l : Line) : (s.writeback l).worlds = s.worlds := by
  unfold State.writeback
  split
  · rfl
  · dsimp only
    split
    · rfl
    · exact State.hbmPut_worlds s _ _ _

theorem State.evictLines_worlds (s : State) (p : Line → Bool) : (s.evictLines p).worlds = s.worlds :=
  (State.dropLines_worlds _ p).trans
    (foldl_keeps (fun t : State => t.worlds = s.worlds) _ (fun t l h => (t.writeback_worlds l).trans h) (s.lines.filter p) s rfl)

theorem State.evictLines_gone {s : State} {p : Line → Bool} {l : Line} (left : l ∈ (s.evictLines p).lines) : p l = false := by
  rw [State.evictLines, State.dropLines_lines] at left
  obtain ⟨_, kept⟩ := List.mem_filter.mp left
  simpa using kept

theorem State.reencryptUnit_frame (world old new : Nat) (s : State) (index : Nat) : ∃ hbm tags,
    State.reencryptUnit world old new s index = { s with hbm := hbm, hbmTags := tags } := by
  unfold State.reencryptUnit
  dsimp only
  split
  · exact ⟨_, _, rfl⟩
  · exact ⟨_, _, rfl⟩

theorem State.reencryptUnits_frame (world old new : Nat) (units : List Nat) (s : State) : ∃ hbm tags,
    units.foldl (State.reencryptUnit world old new) s = { s with hbm := hbm, hbmTags := tags } := by
  refine foldl_keeps (fun t => ∃ hbm tags, t = { s with hbm := hbm, hbmTags := tags }) _ ?_ units s ⟨_, _, rfl⟩
  rintro _ index ⟨hbm, tags, rfl⟩
  obtain ⟨hbm', tags', same⟩ := State.reencryptUnit_frame world old new { s with hbm := hbm, hbmTags := tags } index
  exact ⟨hbm', tags', same⟩

/-! ## Worlds in transition (R62, R66, R67) -/

/-- The part without a world, its partitions free. -/
def State.dropWorld (w : Nat) (s : State) : State :=
  let gone := (s.partWorld.filter fun x => x.2 == some w).map (·.1)
  let mine := fun (x : Nat × Option Nat) => (x.2.map gone.contains).getD false
  { s with
    worlds := s.worlds.filter fun x => x.1 != w
    partOf := s.partOf.filter fun x => !mine x
    slotOwner := s.slotOwner.filter fun x => !mine x
    partWorld := s.partWorld.filter fun x => x.2 != some w }

theorem State.world_dropWorld (w : Nat) (s : State) : (s.dropWorld w).world w = none := by
  rw [State.world, Option.map_eq_none_iff, List.find?_eq_none]
  intro x hx
  obtain ⟨_, other⟩ := List.mem_filter.mp hx
  simpa using other

/-- A frame's lines evicted, and the frame written again under another generation. -/
def State.reencryptFrame (w old new frame : Nat) (s : State) : State :=
  let t := s.evictLines fun l => frameOfLine l.index == frame
  (t.listedUnits frame).foldl (State.reencryptUnit w old new) t

theorem State.reencryptFrame_frame (w old new frame : Nat) (s : State) : ∃ hbm tags, s.reencryptFrame w old new frame =
    { s.evictLines fun l => frameOfLine l.index == frame with hbm := hbm, hbmTags := tags } :=
  State.reencryptUnits_frame w old new _ _

theorem State.reencryptFrame_world (w old new frame : Nat) (s : State) : (s.reencryptFrame w old new frame).world w = s.world w := by
  obtain ⟨hbm, tags, rewritten⟩ := s.reencryptFrame_frame w old new frame
  rw [rewritten]
  exact State.world_congr (s.evictLines_worlds _) w

theorem State.reencryptFrame_gone {w old new frame : Nat} {s : State} {l : Line} (left : l ∈ (s.reencryptFrame w old new frame).lines) :
    frameOfLine l.index ≠ frame := by
  obtain ⟨hbm, tags, rewritten⟩ := s.reencryptFrame_frame w old new frame
  rw [rewritten] at left
  exact ne_of_beq_false (State.evictLines_gone (p := fun l => frameOfLine l.index == frame) left)

section
variable {s : State} {w : Nat} {x : World} (found : s.world w = some x)
include found

theorem execWorldDestroyDone_gone (destroying : x.destroying = true) (clean : ∀ f ∈ x.moved, s.owner f ≠ 0xFE) :
    execWorldDestroyDone w s = .next ((s.dropWorld w).answer ⟨none, true⟩ 3 0 []) := by
  have scrubbed : (x.destroying && x.moved.all fun f => s.owner f != 0xFE) = true := by
    simpa [destroying] using clean
  simp only [execWorldDestroyDone, found, scrubbed, if_true]
  rfl

theorem execWorldDestroyDone_early (early : x.destroying = false ∨ ∃ f ∈ x.moved, s.owner f = 0xFE) :
    execWorldDestroyDone w s = .next s := by
  have waits : (x.destroying && x.moved.all fun f => s.owner f != 0xFE) = false := by
    rw [Bool.and_eq_false_iff, List.all_eq_false]
    simpa using early
  simp only [execWorldDestroyDone, found, waits, Bool.false_eq_true, if_false]

variable {g : Nat} (old : x.prev = some g)
include old

theorem execFrameReencrypt_moved {f : Nat} (owned : (s.owner f).toNat = w) (stays : f ∉ x.moved)
    (trained : s.inTraining (512 * f) = false) (free : s.needsFrame w g f = false)
    (unpinned : (s.tasks.any fun k => s.usesGen w g k && (s.allExts k).pins f) = false) :
    execFrameReencrypt w f s = .next ((s.reencryptFrame w g x.gen f).onWorld w fun y => { y with moved := y.moved ++ [f] }) := by
  have moves : ¬((s.owner f).toNat ≠ w ∨ x.moved.contains f = true ∨ s.inTraining (512 * f) = true ∨ s.needsFrame w g f = true ∨
      (s.tasks.any fun k => s.usesGen w g k && (s.allExts k).pins f) = true) := by
    simp only [owned, trained, free, unpinned, List.contains_iff_mem, stays, ne_eq, not_true_eq_false, Bool.false_eq_true, or_self,
      not_false_eq_true]
  simp only [execFrameReencrypt, found, old, if_neg moves]
  rfl

theorem execGenerationRetire_done (moved : ∀ f ∈ s.framesOf w, f ∈ x.moved) (unused : (s.tasks.any (s.usesGen w g)) = false) :
    execGenerationRetire w s = .next ((s.onWorld w fun y =>
      { y with prev := none, keys := SMap.put [] g [] y.keys, moved := [] }).answer ⟨none, true⟩ 2 0 []) := by
  have retires : ((s.framesOf w).all x.moved.contains && !(s.tasks.any (s.usesGen w g))) = true := by
    simpa [unused] using moved
  simp only [execGenerationRetire, found, old, if_pos retires]

end

/-! ## The requests (R61, R65, R69-R71, R78) -/

/-- A world that is being destroyed, with the frames that it waits for. -/
def World.erased (frames : List Nat) (x : World) : World :=
  { x with policy := [], keys := [], seals := [], prev := none, moved := frames, destroying := true }

section
variable {s : State} {w : Nat} (hw : w < 64) (takes : s.serviceWaits ⟨none, true⟩ = false)
include hw takes

section
variable (absent : s.world w = none) {policy : List Byte}
include absent

theorem execWorldCreate_created (fit : policyOk policy = true) (parts : List Partition) :
    execWorldCreate ⟨none, true⟩ w policy parts s = .next (((s.drawKey.2.addWorld w
      ⟨policy, 1, none, [(1, s.drawKey.1)], [], [], false⟩).givePartitions w parts).answer ⟨none, true⟩ 1 0 []) := by
  simp only [execWorldCreate, State.pfService_eq _ _ takes hw, absent, fit, Option.isSome_none, Bool.not_true, Bool.false_eq_true, if_false]

theorem execWorldCreate_unfit (unfit : policyOk policy = false) (parts : List Partition) :
    execWorldCreate ⟨none, true⟩ w policy parts s = .next (s.answer ⟨none, true⟩ 1 2 []) := by
  simp only [execWorldCreate, State.pfService_eq _ _ takes hw, absent, unfit, Option.isSome_none, Bool.not_false, Bool.false_eq_true,
    if_false, if_true]

end

theorem execWorldCreate_present {x : World} (found : s.world w = some x) (policy : List Byte) (parts : List Partition) :
    execWorldCreate ⟨none, true⟩ w policy parts s = .next (s.answer ⟨none, true⟩ 1 1 []) := by
  simp only [execWorldCreate, State.pfService_eq _ _ takes hw, found, Option.isSome_some, if_true]

section
variable {x : World} (found : s.world w = some x)
include found

/-- While the former generation lives, the world neither moves on nor leaves the part. -/
theorem execWorldRekey_moving {g : Nat} (moving : x.prev = some g) :
    execWorldRekey ⟨none, true⟩ w s = .next (s.answer ⟨none, true⟩ 2 1 []) ∧
      execWorldExport ⟨none, true⟩ w s = .next (s.answer ⟨none, true⟩ 4 1 []) := by
  simp only [execWorldRekey, execWorldExport, State.pfService_eq _ _ takes hw, found, moving, Option.isSome_some, if_true, and_self]

theorem execWorldRekey_last (settled : x.prev = none) (last : x.gen = 0xFFFF) :
    execWorldRekey ⟨none, true⟩ w s = .next (s.answer ⟨none, true⟩ 2 4 []) := by
  simp only [execWorldRekey, State.pfService_eq _ _ takes hw, found, settled, Option.isSome_none, Bool.false_eq_true, if_false, if_pos last]

theorem execWorldRekey_moved (settled : x.prev = none) (more : x.gen ≠ 0xFFFF) :
    execWorldRekey ⟨none, true⟩ w s = .next ((s.drawKey.2.onWorld w fun y => { y with
      gen := y.gen + 1, prev := some y.gen, keys := SMap.put [] (y.gen + 1) s.drawKey.1 y.keys, moved := [] }).answer ⟨none, true⟩ 2 0 []) := by
  simp only [execWorldRekey, State.pfService_eq _ _ takes hw, found, settled, Option.isSome_none, Bool.false_eq_true, if_false, if_neg more]

theorem execWorldExport_wrapped (settled : x.prev = none) :
    execWorldExport ⟨none, true⟩ w s = .next (s.answer ⟨none, true⟩ 4 0
      (keyWrap (s.kek w x.policy 0 x.gen) (SMap.get [] x.gen x.keys) ++ x.seals.flatMap fun y =>
        leBytes 1 y.1 ++ y.2.1 ++ keyWrap (s.kek w x.policy 1 y.1) (leBytes 64 y.2.2.toNat))) := by
  simp only [execWorldExport, State.pfService_eq _ _ takes hw, found, settled, Option.isSome_none, Bool.false_eq_true, if_false]

theorem execWorldDestroy_busy (busy : (s.tasks.any fun k => k.world == w && k.dispatched) = true ∨
    (s.vfs.any fun p => p.2.bound && p.2.world.toNat == w) = true) :
    execWorldDestroy ⟨none, true⟩ w s = .next (s.answer ⟨none, true⟩ 3 1 []) := by
  simp only [execWorldDestroy, State.pfService_eq _ _ takes hw, found, Bool.or_eq_true, if_pos busy]

theorem execWorldDestroy_begins (idle : (s.tasks.any fun k => k.world == w && k.dispatched) = false)
    (unbound : (s.vfs.any fun p => p.2.bound && p.2.world.toNat == w) = false) : ∃ slots,
    execWorldDestroy ⟨none, true⟩ w s = .next { s.onWorld w (World.erased (s.framesOf w)) with
      fot := s.fot.filter fun x => x.2.toNat != w, slotScrub := slots } := by
  refine ⟨s.slotScrub ++ (s.worldSlots w).filter fun x => !s.slotScrub.contains x, ?_⟩
  simp only [execWorldDestroy, State.pfService_eq _ _ takes hw, found, idle, unbound, Bool.or_self, Bool.false_eq_true, if_false]
  rfl

theorem execWorldImport_present (policy : List Byte) (wrapped : WrappedKeys) (parts : List Partition) :
    execWorldImport ⟨none, true⟩ w policy wrapped parts s = .next (s.answer ⟨none, true⟩ 5 1 []) := by
  simp only [execWorldImport, State.pfService_eq _ _ takes hw, found, Option.isSome_some, if_true]

end

/-- The seals of an import as they unwrap, none for one that does not. -/
def State.unwrapSeals (s : State) (w : Nat) (policy : List Byte) (wrapped : WrappedKeys) : List (Option (Nat × List Byte × BitVec 512)) :=
  wrapped.seals.map fun x => (keyUnwrap (s.kek w policy 1 x.1) 8 x.2.2).map fun k => (x.1, x.2.1, BitVec.ofNat 512 (leNat k))

section
variable (absent : s.world w = none) {policy : List Byte} (fit : policyOk policy = true) {wrapped : WrappedKeys} (parts : List Partition)
include absent fit

theorem execWorldImport_lostKey (lost : keyUnwrap (s.kek w policy 0 wrapped.gen) 4 wrapped.worldKey = none) :
    execWorldImport ⟨none, true⟩ w policy wrapped parts s = .next (s.answer ⟨none, true⟩ 5 3 []) := by
  simp only [execWorldImport, State.pfService_eq _ _ takes hw, absent, fit, lost, Option.isSome_none, Bool.not_true, Bool.false_eq_true,
    if_false]

variable {key : List Byte} (unwraps : keyUnwrap (s.kek w policy 0 wrapped.gen) 4 wrapped.worldKey = some key)
include unwraps

theorem execWorldImport_lostSeal (lost : none ∈ s.unwrapSeals w policy wrapped) :
    execWorldImport ⟨none, true⟩ w policy wrapped parts s = .next (s.answer ⟨none, true⟩ 5 3 []) := by
  have fails : ((s.unwrapSeals w policy wrapped).any (·.isNone)) = true := List.any_eq_true.mpr ⟨none, lost, rfl⟩
  rw [State.unwrapSeals] at fails
  simp only [execWorldImport, State.pfService_eq _ _ takes hw, absent, fit, unwraps, Option.isSome_none, Bool.not_true, Bool.false_eq_true,
    if_false, if_pos fails]

theorem execWorldImport_installed (kept : none ∉ s.unwrapSeals w policy wrapped) :
    execWorldImport ⟨none, true⟩ w policy wrapped parts s = .next (((s.addWorld w ⟨policy, 1, none, [(1, key)],
      sortBy (·.1) ((s.unwrapSeals w policy wrapped).filterMap id), [], false⟩).givePartitions w parts).answer ⟨none, true⟩ 5 0 []) := by
  have holds : ¬((s.unwrapSeals w policy wrapped).any (·.isNone)) = true := by
    rw [List.any_eq_true]
    rintro ⟨x, hx, lost⟩
    exact kept (Option.isNone_iff_eq_none.mp lost ▸ hx)
  rw [State.unwrapSeals] at holds
  simp only [execWorldImport, State.pfService_eq _ _ takes hw, absent, fit, unwraps, Option.isSome_none, Bool.not_true, Bool.false_eq_true,
    if_false, if_neg holds]
  rfl

end
end

section
variable {s : State} {v n : Nat} {x : World} (takes : s.serviceWaits ⟨some v, true⟩ = false) (bound : (s.vf v).bound = true)
  {w : Nat} (member : (s.vf v).world.toNat = w) (found : s.world w = some x)
include takes bound member found

theorem execSealInstall_installed (free : (x.seals.any fun y => y.1 == n) = false) (first : 1 ≤ n) (last : n ≤ 8) {policy : List Byte}
    (fit : sealPolicyOk (policyComps x.policy) policy = true) (key : BitVec 512) :
    execSealInstall ⟨some v, true⟩ n policy key s = .next ((s.onWorld w fun y => { y with
      seals := sortBy (·.1) (y.seals ++ [(n, policy, key)]) }).answer ⟨some v, true⟩ 6 0 []) := by
  have valid : ¬(n < 1 ∨ 8 < n ∨ (!sealPolicyOk (policyComps x.policy) policy) = true) := by
    simp [fit, Nat.not_lt.mpr first, Nat.not_lt.mpr last]
  simp only [execSealInstall, State.vfService_eq _ _ takes bound member found, free, Bool.false_eq_true, if_false, if_neg valid]

theorem execSealRemove_removed (installed : (x.seals.any fun y => y.1 == n) = true)
    (unnamed : (s.tasks.any fun k => k.world == w && k.sealId == n && (k.dispatched || k.phase == .preempted)) = false) :
    execSealRemove ⟨some v, true⟩ n s = .next ((s.onWorld w fun y => { y with
      seals := y.seals.filter fun z => z.1 != n }).answer ⟨some v, true⟩ 7 0 []) := by
  simp only [execSealRemove, State.vfService_eq _ _ takes bound member found, installed, unnamed, Bool.not_true, Bool.or_self,
    Bool.false_eq_true, if_false]

end

end Sys2Proof.Machine
end

section
namespace Sys2Proof.Cert

open Sys2Proof.Machine

theorem inTransition {s : State} {w : Nat} {x : World} (found : s.world w = some x) : InTransition s w x := by
  refine ⟨fun destroying clean => ?gone, fun early => execWorldDestroyDone_early found early, ?frame,
    fun g old moved unused => execGenerationRetire_done found old moved unused⟩
  case gone =>
    obtain ⟨doe, fresh, drbg, answered⟩ := State.answer_frame ⟨none, true⟩ 3 0 [] (s.dropWorld w)
    exact ⟨_, (execWorldDestroyDone_gone found destroying clean).trans (congrArg _ answered), State.world_dropWorld w s, rfl⟩
  case frame =>
    intro g f old owned stays trained free unpinned
    exact ⟨_, execFrameReencrypt_moved found old owned stays trained free unpinned,
      State.world_onWorld ((State.reencryptFrame_world w g x.gen f s).trans found) _, fun l left => State.reencryptFrame_gone left⟩

/-- Settles O47: a request on the mailbox that serves it is its body, and on any other it is refused. -/
theorem worldsAndSeals : Obligations.WorldsAndSeals := by
  unfold Obligations.WorldsAndSeals
  intro s w hw
  refine ⟨fun x found => inTransition found, fun takes => ?_⟩
  refine ⟨fun policy parts absent fit => execWorldCreate_created hw takes absent fit parts,
    fun policy parts x found => execWorldCreate_present hw takes found policy parts,
    fun policy parts absent unfit => execWorldCreate_unfit hw takes absent unfit parts,
    fun x found settled more => execWorldRekey_moved hw takes found settled more,
    fun x found settled last => execWorldRekey_last hw takes found settled last,
    fun x g found moving => execWorldRekey_moving hw takes found moving, ?destroy,
    fun x found busy => execWorldDestroy_busy hw takes found busy,
    fun x found settled => execWorldExport_wrapped hw takes found settled, ?imports, ?imported, ?install, ?remove, ?elsewhere, ?insecure⟩
  case destroy =>
    intro x found idle unbound
    obtain ⟨slots, begins⟩ := execWorldDestroy_begins hw takes found idle unbound
    exact ⟨_, begins, State.world_onWorld found (World.erased (s.framesOf w)), rfl, rfl⟩
  case imports =>
    intro policy wrapped parts absent fit
    dsimp only
    split
    · next key unwraps =>
      split
      · next lost => exact execWorldImport_lostSeal hw takes absent fit parts unwraps lost
      · next kept => exact execWorldImport_installed hw takes absent fit parts unwraps kept
    · next lost => exact execWorldImport_lostKey hw takes absent fit parts lost
  case imported =>
    rintro policy wrapped parts ⟨x, found⟩
    exact execWorldImport_present hw takes found policy wrapped parts
  case install =>
    intro v x n policy key takes bound member found free first last fit
    exact execSealInstall_installed takes bound member found free first last fit key
  case remove =>
    intro v x n takes bound member found installed unnamed
    exact execSealRemove_removed takes bound member found installed unnamed
  case elsewhere =>
    intro policy wrapped parts v n key elsewhere
    have refused (code : Nat) (body : State → State) :=
      congrArg (Host.Outcome.next (φ := Fault) (ρ := Refusal)) (State.pfService_elsewhere code body elsewhere w)
    have port (code : Nat) (serve : Nat → World → State → State) :=
      congrArg (Host.Outcome.next (φ := Fault) (ρ := Refusal)) (State.vfService_elsewhere code serve takes)
    exact ⟨refused 1 _, refused 2 _, refused 3 _, refused 4 _, refused 5 _, port 6 _, port 7 _⟩
  case insecure =>
    intro policy wrapped parts insecure
    have refused (code : Nat) (body : State → State) :=
      congrArg (Host.Outcome.next (φ := Fault) (ρ := Refusal)) (State.pfService_open code body insecure w)
    exact ⟨refused 1 _, refused 2 _, refused 3 _, refused 4 _, refused 5 _⟩

end Sys2Proof.Cert
end

section
/-! The memories outside the cores, and the operations that leave them as they are. -/

namespace Sys2Proof.Machine

/-- The memories outside the cores: HBM, host memory, the flash, the response buffer, the two mirrors of the journal, the shadow and the active
configuration. -/
def State.memories : State → List Memory
  | { hbm, hostMem, flash, tdiRsp, cur, shadow, active, .. } => [hbm, hostMem, flash, tdiRsp, cur.journal0, cur.journal1, shadow, active]

/-- The memories of a state given field by field, so that an update of other fields is seen to leave them. -/
@[simp] theorem State.memories_mk : type_of% @State.memories.eq_1 := @State.memories.eq_1

variable {s : State}

@[simp] theorem State.memories_eta :
    [s.hbm, s.hostMem, s.flash, s.tdiRsp, s.cur.journal0, s.cur.journal1, s.shadow, s.active] = s.memories := rfl

@[simp] theorem State.memories_ite {p : Prop} [Decidable p] {t : State} :
    (if p then s else t).memories = if p then s.memories else t.memories := apply_ite State.memories p s t

@[simp] theorem State.memories_foldl {α : Type} {f : State → α → State} {l : List α} (hf : ∀ t a, (f t a).memories = t.memories) :
    (l.foldl f s).memories = s.memories :=
  foldl_keeps (fun t : State => t.memories = s.memories) f (fun t a h => (hf t a).trans h) l s rfl

/-- The state of a pair that a call answers. -/
theorem State.memories_of_pair {α : Type} {p : α × State} {a : α} {t : State} (h : p = (a, t)) (hp : p.2.memories = s.memories) :
    t.memories = s.memories := by
  subst h; exact hp

theorem State.memories_foldl_pair {α β : Type} {f : β × State → α → β × State} {l : List α} {p : β × State}
    (hf : ∀ q a, (f q a).2.memories = q.2.memories) : (l.foldl f p).2.memories = p.2.memories :=
  foldl_keeps (fun q : β × State => q.2.memories = p.2.memories) f (fun q a h => (hf q a).trans h) l p rfl

/-! ### Cores and free values -/

@[simp] theorem State.memories_mapCores {f} : (s.mapCores f).memories = s.memories := by simp [State.mapCores]

@[simp] theorem State.memories_onCore {id f} : (s.onCore id f).memories = s.memories := by simp [State.onCore]

@[simp] theorem State.memories_upd {f} : (s.upd f).memories = s.memories := by simp [State.upd]

@[simp] theorem State.memories_draw : s.draw.2.memories = s.memories := by simp [State.draw]

/-! ### Operations and what they share -/

@[simp] theorem State.memories_issue {i f} (hf : ∀ t, (f t).memories = t.memories) : (s.issue i f).memories = s.memories := by
  unfold State.issue; (repeat' split) <;> simp [hf]

/-! ### Error records and the L2 -/

@[simp] theorem State.memories_setCs {core x} : (s.setCs core x).memories = s.memories := by simp [State.setCs]

@[simp] theorem State.memories_report {core unit kind detail info} :
    (s.report core unit kind detail info).memories = s.memories := by simp [State.report]

@[simp] theorem State.memories_reportFree {core unit kind detail} :
    (s.reportFree core unit kind detail).memories = s.memories := by simp [State.reportFree]

@[simp] theorem State.memories_reportUnit {kind index} : (s.reportUnit kind index).memories = s.memories := by simp [State.reportUnit]

@[simp] theorem State.memories_reportPoison {index} : (s.reportPoison index).memories = s.memories := by simp [State.reportPoison]

@[simp] theorem State.memories_onLine {cluster index key f} : (s.onLine cluster index key f).memories = s.memories := by simp [State.onLine]

@[simp] theorem State.memories_touch {cluster index key} : (s.touch cluster index key).memories = s.memories := by simp [State.touch]

@[simp] theorem State.memories_mergeLine {cluster index key bytes} :
    (s.mergeLine cluster index key bytes).memories = s.memories := by simp [State.mergeLine]

@[simp] theorem State.memories_dropLines {p} : (s.dropLines p).memories = s.memories := by simp [State.dropLines]

@[simp] theorem State.memories_requestFill {cluster index key ctx use} :
    (s.requestFill cluster index key ctx use).memories = s.memories := by simp [State.requestFill]

/-! ### Operations in flight -/

@[simp] theorem State.memories_fillEffect {effect dst bs} : (s.fillEffect effect dst bs).memories = s.memories := by simp [State.fillEffect]

@[simp] theorem State.memories_readC {id l} : (s.readC id l).memories = s.memories := by
  unfold State.readC; (repeat' split) <;> simp

@[simp] theorem State.memories_readOrWait {id l src} : (s.readOrWait id l src).memories = s.memories := by
  unfold State.readOrWait; split <;> simp

@[simp] theorem State.memories_perform {id l} : (s.perform id l).memories = s.memories := by
  unfold State.perform; dsimp only; (repeat' split) <;> simp

@[simp] theorem State.memories_goReads {id ds} : (s.goReads id ds).memories = s.memories := by
  refine State.memories_foldl fun t d => ?_
  split <;> simp

@[simp] theorem State.memories_goWrites {id ds} : (s.goWrites id ds).memories = s.memories := by simp [State.goWrites]

/-! ### Operations and what they share -/

@[simp] theorem State.memories_run {i f} (hf : ∀ t, (f t).memories = t.memories) : (s.run i f).memories = s.memories := by
  unfold State.run; split <;> simp [hf]

@[simp] theorem State.memories_runCore {i f} : (s.runCore i f).memories = s.memories := by simp [State.runCore]

@[simp] theorem State.memories_gate {slot cls reserved reads eff} :
    (s.gate slot cls reserved reads eff).memories = s.memories := by simp [State.gate]

@[simp] theorem State.memories_release {ids} : (s.release ids).memories = s.memories := by simp [State.release]

@[simp] theorem State.memories_countFences : s.countFences.memories = s.memories := by simp [State.countFences]

@[simp] theorem State.memories_unsealPartners {task} : (s.unsealPartners task).memories = s.memories := by simp [State.unsealPartners]

@[simp] theorem State.memories_handOver {task stays cores} : (s.handOver task stays cores).memories = s.memories := by simp [State.handOver]

@[simp] theorem State.memories_performRank {losers id rank} : (s.performRank losers id rank).memories = s.memories := by
  unfold State.performRank
  split
  · rfl
  · refine (State.memories_foldl fun t l => ?_).trans State.memories_onCore
    split <;> simp

@[simp] theorem State.memories_performDue {losers id} : (s.performDue losers id).memories = s.memories := by
  unfold State.performDue; split <;> simp

@[simp] theorem State.memories_drainStanding {id} : (s.drainStanding id).memories = s.memories := by
  unfold State.drainStanding; split <;> simp

@[simp] theorem State.memories_performFencing {id} : (s.performFencing id).memories = s.memories := by simp [State.performFencing]

@[simp] theorem State.memories_settle {ids} : (s.settle ids).memories = s.memories := by simp [State.settle]

@[simp] theorem State.memories_onGroup {group f} : (s.onGroup group f).memories = s.memories := by simp [State.onGroup]

@[simp] theorem State.memories_endColls {group k status} : (s.endColls group k status).memories = s.memories := by simp [State.endColls]

@[simp] theorem State.memories_abortGroup {group status} : (s.abortGroup group status).memories = s.memories := by simp [State.abortGroup]

@[simp] theorem State.memories_abortAfter {v} : (s.abortAfter v).memories = s.memories := by simp [State.abortAfter]

@[simp] theorem State.memories_endTask {task status cause tval} :
    (s.endTask task status cause tval).memories = s.memories := by simp [State.endTask]

@[simp] theorem State.memories_faultTval {f} : (s.faultTval f).2.memories = s.memories := by
  unfold State.faultTval; split <;> simp

@[simp] theorem State.memories_takeException {id f esc resume} : (s.takeException id f esc resume).memories = s.memories := by
  unfold State.takeException; split <;> simp

@[simp] theorem State.memories_enterCalls {coh} : (s.enterCalls coh).memories = s.memories := by
  unfold State.enterCalls; dsimp only
  split
  · rfl
  · refine (State.memories_foldl fun t c => ?_).trans State.memories_mapCores
    split <;> simp

/-! ### The mesh -/

@[simp] theorem State.memories_meetOnMesh {coh} : (s.meetOnMesh coh).memories = s.memories := by simp [State.meetOnMesh]

/-! ### Functions and tasks -/

@[simp] theorem State.memories_onVf {v f} : (s.onVf v f).memories = s.memories := by simp [State.onVf]

@[simp] theorem State.memories_onQueue {v q g} : (s.onQueue v q g).memories = s.memories := by simp [State.onQueue]

@[simp] theorem State.memories_onTask {id f} : (s.onTask id f).memories = s.memories := by simp [State.onTask]

@[simp] theorem State.memories_keepWord {v w} : (s.keepWord v w).memories = s.memories := by simp [State.keepWord]

/-! ### Mailboxes -/

@[simp] theorem State.memories_setMailbox {fn d} : (s.setMailbox fn d).memories = s.memories := by simp [State.setMailbox]

/-! ### The end of a core cycle and of a clock -/

@[simp] theorem State.memories_landPreempt {coh} : (s.landPreempt coh).memories = s.memories := by
  unfold State.landPreempt; split <;> simp

@[simp] theorem State.memories_checkpoint {coh stamp p} : (s.checkpoint coh stamp p).memories = s.memories := by simp [State.checkpoint]

@[simp] theorem State.memories_controlVerdict {id} : (s.controlVerdict id).memories = s.memories := by
  unfold State.controlVerdict; (repeat' split) <;> simp

@[simp] theorem State.memories_rebaseLevels {coh f} : (s.rebaseLevels coh f).memories = s.memories := by simp [State.rebaseLevels]

@[simp] theorem State.memories_leaveHandlers {coh} : (s.leaveHandlers coh).memories = s.memories := by simp [State.leaveHandlers]

@[simp] theorem State.memories_exchange {coh} : (s.exchange coh).memories = s.memories := by simp [State.exchange]

@[simp] theorem State.memories_atMarkers {coh members} : (s.atMarkers coh members).memories = s.memories := by simp [State.atMarkers]

@[simp] theorem State.memories_cohortVerdict {coh} : (s.cohortVerdict coh).memories = s.memories := by simp [State.cohortVerdict]

@[simp] theorem State.memories_tickServed {n} : (s.tickServed n).memories = s.memories := by simp [State.tickServed]

@[simp] theorem State.memories_endClock : s.endClock.memories = s.memories := by simp [State.endClock]

@[simp] theorem State.memories_endTurn : s.endTurn.memories = s.memories := by
  unfold State.endTurn; split <;> simp

@[simp] theorem State.memories_endOp : s.endOp.memories = s.memories := by
  unfold State.endOp; split <;> simp

/-! ### Pre-emption, resets and mailboxes -/

@[simp] theorem State.memories_msix {v vec} : (s.msix v vec).memories = s.memories := by simp [State.msix]

@[simp] theorem State.memories_msixUnmasked {v} : (s.msixUnmasked v).memories = s.memories := by simp [State.msixUnmasked]

@[simp] theorem State.memories_askPreempt {id} : (s.askPreempt id).memories = s.memories := by
  unfold State.askPreempt; split <;> simp

@[simp] theorem State.memories_dropTasks {v} : (s.dropTasks v).memories = s.memories := by simp [State.dropTasks]

@[simp] theorem State.memories_tdiPush {e} : (s.tdiPush e).memories = s.memories := by
  unfold State.tdiPush; split <;> simp

@[simp] theorem State.memories_notice {kind v info} : (s.notice kind v info).memories = s.memories := by simp [State.notice]

@[simp] theorem State.memories_atVf {v f} (hf : ∀ t, (f t).memories = t.memories) : (s.atVf v f).memories = s.memories := by simp [State.atVf, hf]

@[simp] theorem State.memories_atDoe {v f} (hf : ∀ t, (f t).memories = t.memories) :
    (s.atDoe v f).memories = s.memories := by simp [State.atDoe, hf]

@[simp] theorem State.memories_enterError {v} : (s.enterError v).memories = s.memories := by simp [State.enterError]

@[simp] theorem State.memories_wipeRemains {v} : (s.wipeRemains v).memories = s.memories := by simp [State.wipeRemains]

@[simp] theorem State.memories_beginVfReset {v} : (s.beginVfReset v).memories = s.memories := by simp [State.beginVfReset]

@[simp] theorem State.memories_lockedHit {v info} : (s.lockedHit v info).memories = s.memories := by simp [State.lockedHit]

@[simp] theorem State.memories_lockedWrite {v info f} (hf : ∀ t, (f t).memories = t.memories) :
    (s.lockedWrite v info f).memories = s.memories := by simp [State.lockedWrite, hf]

@[simp] theorem State.memories_orUnsupported {v ok f} (hf : ∀ t, (f t).memories = t.memories) :
    (s.orUnsupported v ok f).memories = s.memories := by simp [State.orUnsupported, hf]

@[simp] theorem State.memories_barWrite {v f} (hf : ∀ t, (f t).memories = t.memories) :
    (s.barWrite v f).memories = s.memories := by simp [State.barWrite, hf]

@[simp] theorem State.memories_drawRandom : s.drawRandom.2.memories = s.memories := by simp [State.drawRandom]

@[simp] theorem State.memories_reply {fn bytes} : (s.reply fn bytes).memories = s.memories := by
  unfold State.reply; dsimp only; (repeat' split) <;> simp

@[simp] theorem State.memories_send {mb m bytes} : (s.send mb m bytes).memories = s.memories := by simp [State.send]

@[simp] theorem State.memories_respond {v bytes} : (s.respond v bytes).memories = s.memories := by simp [State.respond]

@[simp] theorem State.memories_doeGo {fn d} : (s.doeGo fn d).memories = s.memories := by simp [State.doeGo]

@[simp] theorem State.memories_writeDoe {fn off val} : (s.writeDoe fn off val).memories = s.memories := by
  unfold State.writeDoe; split <;> simp

/-! ### Links and the global cycle count -/

@[simp] theorem State.memories_onLink {n f} : (s.onLink n f).memories = s.memories := by simp [State.onLink]

@[simp] theorem State.memories_reportDomain {number} : (s.reportDomain number).memories = s.memories := by simp [State.reportDomain]

@[simp] theorem State.memories_writeGcyalign {val} : (s.writeGcyalign val).memories = s.memories := by simp [State.writeGcyalign]

/-! ### Regulators -/

@[simp] theorem State.memories_onReg {n f} : (s.onReg n f).memories = s.memories := by simp [State.onReg]

@[simp] theorem State.memories_writePwrmap {c val} : (s.writePwrmap c val).memories = s.memories := by simp [State.writePwrmap]

@[simp] theorem State.memories_writeRegctl {who n val} : (s.writeRegctl who n val).memories = s.memories := by simp [State.writeRegctl]

/-! ### What the host writes -/

@[simp] theorem State.memories_stopQueue {v q} : (s.stopQueue v q).memories = s.memories := by simp [State.stopQueue]

@[simp] theorem State.memories_ringDoorbell {v q val} : (s.ringDoorbell v q val).memories = s.memories := by simp [State.ringDoorbell]

@[simp] theorem State.memories_clearKicks {w val} : (s.clearKicks w val).memories = s.memories := by simp [State.clearKicks]

@[simp] theorem State.memories_cfgErr {v} : (s.cfgErr v).memories = s.memories := by simp [State.cfgErr]

@[simp] theorem State.memories_writeLqbase {v q val be} : (s.writeLqbase v q val be).memories = s.memories := by simp [State.writeLqbase]

@[simp] theorem State.memories_writeLqcfg {v q val be} : (s.writeLqcfg v q val be).memories = s.memories := by simp [State.writeLqcfg]

@[simp] theorem State.memories_writeCqbase {v val be} : (s.writeCqbase v val be).memories = s.memories := by simp [State.writeCqbase]

@[simp] theorem State.memories_retireTask {k} : (s.retireTask k).memories = s.memories := by simp [State.retireTask]

@[simp] theorem State.memories_atPf {touched f} (hf : ∀ t, (f t).memories = t.memories) :
    (s.atPf touched f).memories = s.memories := by simp [State.atPf, hf]

@[simp] theorem State.memories_setVfbind {v val} : (s.setVfbind v val).memories = s.memories := by simp [State.setVfbind]

@[simp] theorem State.memories_unpin {id} : (s.unpin id).memories = s.memories := by
  unfold State.unpin; (repeat' split) <;> simp

@[simp] theorem State.memories_invalidate {stage2 v addr pages} :
    (s.invalidate stage2 v addr pages).2.memories = s.memories := by simp [State.invalidate]

@[simp] theorem State.memories_writeS2inv {val} : (s.writeS2inv val).memories = s.memories := by simp [State.writeS2inv]

@[simp] theorem State.memories_resetVf {v} : (s.resetVf v).memories = s.memories := by simp [State.resetVf]

@[simp] theorem State.memories_setPfReg {covers g thaw} : (s.setPfReg covers g thaw).memories = s.memories := by simp [State.setPfReg]

@[simp] theorem State.memories_pfLocked {covers info g thaw} : (s.pfLocked covers info g thaw).memories = s.memories := by simp [State.pfLocked]

@[simp] theorem State.memories_coveredWrite {v reg be f} (hf : ∀ t, (f t).memories = t.memories) :
    (s.coveredWrite v reg be f).memories = s.memories := by simp [State.coveredWrite, hf]

@[simp] theorem State.memories_streamLost {v} : (s.streamLost v).memories = s.memories := by simp [State.streamLost]

@[simp] theorem State.memories_writeVfBar0 {v off val} : (s.writeVfBar0 v off val).memories = s.memories := by
  unfold State.writeVfBar0; split <;> simp

@[simp] theorem State.memories_writePfBar0 {bytes} : (s.writePfBar0 bytes).memories = s.memories := by simp [State.writePfBar0]

@[simp] theorem State.memories_writeDoeBytes {fn bytes} : (s.writeDoeBytes fn bytes).memories = s.memories := by simp [State.writeDoeBytes]

@[simp] theorem State.memories_writePfConfig {bytes} : (s.writePfConfig bytes).memories = s.memories := by simp [State.writePfConfig]

/-! ### TDISP and SPDM -/

@[simp] theorem State.memories_tdiLock {v nfw} : (s.tdiLock v nfw).memories = s.memories := by simp [State.tdiLock]

@[simp] theorem State.memories_writeTdictl {v val} : (s.writeTdictl v val).memories = s.memories := by
  unfold State.writeTdictl; (repeat' split) <;> simp

@[simp] theorem State.memories_writeTdidone {val} : (s.writeTdidone val).memories = s.memories := by
  unfold State.writeTdidone; split <;> simp

@[simp] theorem State.memories_tdispServe {v r} : (s.tdispServe v r).2.memories = s.memories := by
  unfold State.tdispServe; dsimp only; (repeat' split) <;> simp

@[simp] theorem State.memories_tdisp {v r} : (s.tdisp v r).memories = s.memories := by simp [State.tdisp]

@[simp] theorem State.memories_measurements {index signed} : (s.measurements index signed).2.memories = s.memories := by simp [State.measurements]

@[simp] theorem State.memories_spdmResponse {msg} : (s.spdmResponse msg).2.memories = s.memories := by
  unfold State.spdmResponse; dsimp only; (repeat' split) <;> simp

/-! ### Worlds and services -/

@[simp] theorem State.memories_onWorld {w f} : (s.onWorld w f).memories = s.memories := by simp [State.onWorld]

@[simp] theorem State.memories_addWorld {w x} : (s.addWorld w x).memories = s.memories := by simp [State.addWorld]

@[simp] theorem State.memories_givePartitions {w parts} : (s.givePartitions w parts).memories = s.memories := by simp [State.givePartitions]

@[simp] theorem State.memories_answer {mb code status body} : (s.answer mb code status body).memories = s.memories := by simp [State.answer]

@[simp] theorem State.memories_drawKey : s.drawKey.2.memories = s.memories := by simp [State.drawKey]

@[simp] theorem State.memories_pfService {mb code world f} (hf : ∀ t, (f t).memories = t.memories) :
    (s.pfService mb code world f).memories = s.memories := by simp [State.pfService, hf]

@[simp] theorem State.memories_vfService {mb code f} (hf : ∀ a b t, (f a b t).memories = t.memories) :
    (s.vfService mb code f).memories = s.memories := by
  unfold State.vfService; dsimp only; (repeat' split) <;> simp [hf]

/-! ### Translation -/

@[simp] theorem State.memories_useEntry {key} : (s.useEntry key).2.memories = s.memories := by
  unfold State.useEntry; split <;> simp

theorem State.memories_walkFrom {stage2 v addr read n table} (hread : ∀ a t, (read a t).2.memories = t.memories) :
    (s.walkFrom stage2 v addr read n table).2.memories = s.memories := by
  induction n generalizing s table with
  | zero => rfl
  | succ n ih =>
    unfold State.walkFrom; dsimp only
    split
    · next entry => exact State.memories_of_pair entry (hread _ _)
    · next raw t entry =>
      generalize gathering : (List.range 16).foldl _ (true, t) = gathered
      have reads : gathered.2.memories = s.memories := by
        rw [← gathering]
        refine (State.memories_foldl_pair fun p i => ?_).trans (State.memories_of_pair entry (hread _ _))
        split
        · split
          · next word => exact State.memories_of_pair word (hread _ _)
          · next word => exact State.memories_of_pair word (hread _ _)
        · rfl
      split
      · exact State.memories_useEntry.trans reads
      · exact State.memories_useEntry.trans reads
      · exact ih.trans (State.memories_useEntry.trans reads)

@[simp] theorem State.memories_walk2 {v gpa} : (s.walk2 v gpa).2.memories = s.memories := by
  unfold State.walk2
  split
  · rfl
  · exact State.memories_walkFrom fun _ _ => rfl

@[simp] theorem State.memories_walked {index poison} : (s.walked index poison).memories = s.memories := by simp [State.walked]

@[simp] theorem State.memories_readStage1 {v world gpa} : (s.readStage1 v world gpa).2.memories = s.memories := by
  unfold State.readStage1
  split
  · next walk => exact State.memories_of_pair walk State.memories_walk2
  · next t walk =>
    have walked : t.memories = s.memories := State.memories_of_pair walk State.memories_walk2
    dsimp only
    (repeat' split) <;> simp [walked]

@[simp] theorem State.memories_walk1 {v world root dva} : (s.walk1 v world root dva).2.memories = s.memories := by
  unfold State.walk1
  split
  · rfl
  · split
    · rfl
    · exact State.memories_walkFrom fun _ _ => State.memories_readStage1

@[simp] theorem State.memories_buildRuns {v world root d room fuel off runs pages} :
    (s.buildRuns v world root d room fuel off runs pages).2.memories = s.memories := by
  induction fuel generalizing s off runs pages with
  | zero => rfl
  | succ fuel ih =>
    unfold State.buildRuns; dsimp only
    split
    · rfl
    · split
      · next walk => exact State.memories_of_pair walk State.memories_walk1
      · next t walk =>
        have first : t.memories = s.memories := State.memories_of_pair walk State.memories_walk1
        split
        · next walk => exact (State.memories_of_pair walk State.memories_walk2).trans first
        · next u walk =>
          have second : u.memories = s.memories := (State.memories_of_pair walk State.memories_walk2).trans first
          (repeat' split) <;> simp [second, ih]

@[simp] theorem State.memories_buildExtents {k gen ds xs pages} : (s.buildExtents k gen ds xs pages).2.memories = s.memories := by
  induction ds generalizing s xs pages with
  | nil => rfl
  | cons d ds ih =>
    unfold State.buildExtents; dsimp only
    split
    · split
      · rfl
      · exact ih
    · split
      · next built => exact State.memories_of_pair built State.memories_buildRuns
      · next built => exact ih.trans (State.memories_of_pair built State.memories_buildRuns)

@[simp] theorem State.memories_translate {k} : (s.translate k).2.memories = s.memories := by
  unfold State.translate; dsimp only
  split
  · next built => exact State.memories_of_pair built State.memories_buildExtents
  · next built => exact State.memories_of_pair built State.memories_buildExtents

/-! ### Launches -/

@[simp] theorem State.memories_launchDone {result} : (s.launchDone result).memories = s.memories := by simp [State.launchDone]

@[simp] theorem State.memories_writeLaunchctl {who w} : (s.writeLaunchctl who w).memories = s.memories := by simp [State.writeLaunchctl]

@[simp] theorem State.memories_issueLaunch {v q lnum idx record} :
    (s.issueLaunch v q lnum idx record).2.memories = s.memories := by simp [State.issueLaunch]

@[simp] theorem State.memories_admitLaunch {k dma} : (s.admitLaunch k dma).memories = s.memories := by
  unfold State.admitLaunch; (repeat' split) <;> simp

/-! ### The frame ownership table -/

@[simp] theorem State.memories_setOwner {frame o} : (s.setOwner frame o).memories = s.memories := by simp [State.setOwner]

@[simp] theorem State.memories_fotCommand {op frame owner} : (s.fotCommand op frame owner).2.memories = s.memories := by
  unfold State.fotCommand; dsimp only; (repeat' split) <;> simp

/-! ### Fills and released effects -/

@[simp] theorem State.memories_onCopy {copy f} : (s.onCopy copy f).memories = s.memories := by simp [State.onCopy]

@[simp] theorem State.memories_closeColls : s.closeColls.memories = s.memories := by simp [State.closeColls]

@[simp] theorem State.memories_dropEffect {id} : (s.dropEffect id).memories = s.memories := by simp [State.dropEffect]

@[simp] theorem State.memories_setEffect {id e} : (s.setEffect id e).memories = s.memories := by simp [State.setEffect]

@[simp] theorem State.memories_strandFault {strand cause tval} :
    (s.strandFault strand cause tval).memories = s.memories := by simp [State.strandFault]

@[simp] theorem State.memories_ckptFault {g cause tval} : (s.ckptFault g cause tval).memories = s.memories := by simp [State.ckptFault]

@[simp] theorem State.memories_lineDone {g index} : (s.lineDone g index).memories = s.memories := by
  unfold State.lineDone; (repeat' split) <;> simp

@[simp] theorem State.memories_mergeEffect {id index} : (s.mergeEffect id index).memories = s.memories := by
  unfold State.mergeEffect; (repeat' split) <;> simp

@[simp] theorem State.memories_poisonEffect {id index} : (s.poisonEffect id index).memories = s.memories := by
  unfold State.poisonEffect; (repeat' split) <;> simp

@[simp] theorem State.memories_deliverFill {f x} : (s.deliverFill f x).memories = s.memories :=
  State.memories_foldl fun t u => by cases u <;> simp

@[simp] theorem State.memories_poisonFill {f} : (s.poisonFill f).memories = s.memories :=
  State.memories_foldl fun t u => by cases u <;> simp

@[simp] theorem State.memories_setCol {g x} : (s.setCol g x).memories = s.memories := by simp [State.setCol]

@[simp] theorem State.memories_writeL2col {g val} : (s.writeL2col g val).memories = s.memories := by simp [State.writeL2col]

/-! ### Service life -/

@[simp] theorem State.memories_coreFault {core cause tval} : (s.coreFault core cause tval).memories = s.memories := by simp [State.coreFault]

@[simp] theorem State.memories_reportError {e} : (s.reportError e).memories = s.memories := by simp [State.reportError]

@[simp] theorem State.memories_reportVerdict {core unit kind detail} :
    (s.reportVerdict core unit kind detail).memories = s.memories := by simp [State.reportVerdict]

@[simp] theorem State.memories_loseLine {cluster slice set way} : (s.loseLine cluster slice set way).memories = s.memories := by
  unfold State.loseLine; split <;> simp

@[simp] theorem State.memories_strike {core p} : (s.strike core p).memories = s.memories := by
  unfold State.strike; split <;> simp

@[simp] theorem State.memories_writeErrhead {val} : (s.writeErrhead val).memories = s.memories := by simp [State.writeErrhead]

@[simp] theorem State.memories_writeErrstat {val} : (s.writeErrstat val).memories = s.memories := by simp [State.writeErrstat]

@[simp] theorem State.memories_writeCorestate {n val} : (s.writeCorestate n val).memories = s.memories := by simp [State.writeCorestate]

@[simp] theorem State.memories_writeTable {n e val} : (s.writeTable n e val).memories = s.memories := by simp [State.writeTable]

@[simp] theorem State.memories_setPlot {core p b} : (s.setPlot core p b).memories = s.memories := by simp [State.setPlot]

@[simp] theorem State.memories_checkOverpaint {core arg} : (s.checkOverpaint core arg).memories = s.memories := by simp [State.checkOverpaint]

@[simp] theorem State.memories_writeConsreq {who w} : (s.writeConsreq who w).memories = s.memories := by
  unfold State.writeConsreq; (repeat' split) <;> simp

@[simp] theorem State.memories_consRow {op who w} : (s.consRow op who w).memories = s.memories := by simp [State.consRow]

@[simp] theorem State.memories_markPlot {core b p} : (s.markPlot core b p).memories = s.memories := by simp [State.markPlot]

@[simp] theorem State.memories_failPlots {o badPlots} : (s.failPlots o badPlots).memories = s.memories := by simp [State.failPlots]

@[simp] theorem State.memories_condemn {core unit} : (s.condemn core unit).memories = s.memories := by simp [State.condemn]

@[simp] theorem State.memories_lasting {core unit p} : (s.lasting core unit p).memories = s.memories := by
  unfold State.lasting; split <;> simp

@[simp] theorem State.memories_transient {core unit p} : (s.transient core unit p).memories = s.memories := by simp [State.transient]

@[simp] theorem State.memories_trained {failed} : (s.trained failed).memories = s.memories := by simp [State.trained]

/-! ### Registers of the functions -/

@[simp] theorem State.memories_vfBar0Bytes {v bytes} : (s.vfBar0Bytes v bytes).memories = s.memories := by simp [State.vfBar0Bytes]

@[simp] theorem State.memories_writeBar0 {v w bytes} : (s.writeBar0 v w bytes).memories = s.memories := by simp [State.writeBar0]

/-! ### Sources of released effects -/

@[simp] theorem State.memories_gatherLines {g key sink src rest got} :
    (s.gatherLines g key sink src rest got).memories = s.memories := by
  induction rest generalizing s got with
  | nil => exact State.memories_setEffect
  | cons i rest ih =>
    unfold State.gatherLines
    split
    · exact ih.trans State.memories_touch
    · split <;> simp

@[simp] theorem State.memories_gatherDirect {g b key sink src} : (s.gatherDirect g b key sink src).memories = s.memories := by
  unfold State.gatherDirect; (repeat' split) <;> simp

@[simp] theorem State.memories_performSink {g got sink} : (s.performSink g got sink).memories = s.memories := by
  unfold State.performSink; split <;> simp

/-! ### Operand forms -/

@[simp] theorem State.memories_scalarOp {i e d f} : (s.scalarOp i e d f).memories = s.memories := by simp [State.scalarOp]

@[simp] theorem State.memories_scalarFlags {i e d f} : (s.scalarFlags i e d f).memories = s.memories := by simp [State.scalarFlags]

@[simp] theorem State.memories_vectorOp {i e d f} : (s.vectorOp i e d f).memories = s.memories := by simp [State.vectorOp]

@[simp] theorem State.memories_maskOp {i e d f} : (s.maskOp i e d f).memories = s.memories := by simp [State.maskOp]

@[simp] theorem State.memories_storeElems {swept slot lat e layout align accepts elems} :
    (s.storeElems swept slot lat e layout align accepts elems).memories = s.memories := by
  unfold State.storeElems; dsimp only; (repeat' split) <;> simp

/-! ### Scalar memory -/

@[simp] theorem State.memories_loadDevice {d x off size signed} : (s.loadDevice d x off size signed).memories = s.memories := by
  unfold State.loadDevice; split <;> simp

@[simp] theorem State.memories_loadScalar {i d e x imm size signed} : (s.loadScalar i d e x imm size signed).memories = s.memories := by
  refine State.memories_run fun t => ?_
  dsimp only
  (repeat' split) <;> simp

@[simp] theorem State.memories_atomicOp {i fn d x v cmp g} : (s.atomicOp i fn d x v cmp g).memories = s.memories := by simp [State.atomicOp]

@[simp] theorem State.memories_csrOp {i n f} : (s.csrOp i n f).memories = s.memories := by simp [State.csrOp]

/-! ### Copies -/

@[simp] theorem State.memories_copyMiss {copy key cs index} : (s.copyMiss copy key cs index).memories = s.memories := by simp [State.copyMiss]

@[simp] theorem State.memories_copyL2 {copy key cs} : (s.copyL2 copy key cs).memories = s.memories := by simp [State.copyL2]

@[simp] theorem State.memories_copyIn {f rows} : (s.copyIn f rows).memories = s.memories := by
  unfold State.copyIn; dsimp only; (repeat' split) <;> simp

@[simp] theorem State.memories_onLines {i e x n f} (hf : ∀ a t, (f a t).memories = t.memories) :
    (s.onLines i e x n f).memories = s.memories := by
  refine State.memories_run fun t => ?_
  dsimp only
  (repeat' split) <;> simp [hf]

/-! ### The dispatcher -/

@[simp] theorem State.memories_noteServed {part tier v} : (s.noteServed part tier v).memories = s.memories := by simp [State.noteServed]

@[simp] theorem State.memories_addCores {cs} : (s.addCores cs).memories = s.memories := by simp [State.addCores]

@[simp] theorem State.memories_reanchor {k} : (s.reanchor k).memories = s.memories := by simp [State.reanchor]

@[simp] theorem State.memories_startTask {k} : (s.startTask k).memories = s.memories := by
  unfold State.startTask; dsimp only; split <;> simp

@[simp] theorem State.memories_moveWorld {k} : (s.moveWorld k).memories = s.memories := by
  unfold State.moveWorld; dsimp only; split <;> simp

@[simp] theorem State.memories_enterCallsOf {cores} : (s.enterCallsOf cores).memories = s.memories := by simp [State.enterCallsOf]

@[simp] theorem State.memories_resumeAt {k places} : (s.resumeAt k places).memories = s.memories := by simp [State.resumeAt]

@[simp] theorem State.memories_unpark {k} : (s.unpark k).memories = s.memories := by simp [State.unpark]

@[simp] theorem State.memories_resumeApart {k places} : (s.resumeApart k places).memories = s.memories := by
  unfold State.resumeApart
  split
  · next built => exact State.memories_endTask.trans (State.memories_of_pair built State.memories_translate)
  · next t built =>
    have translated : t.memories = s.memories := State.memories_of_pair built State.memories_translate
    split <;> simp [translated]

/-! ### Gates and collectives -/

@[simp] theorem State.memories_gatePassLcl {x g layout} : (s.gatePassLcl x g layout).memories = s.memories := by simp [State.gatePassLcl]

@[simp] theorem State.memories_descriptor7 {off len f} (hf : ∀ a t, (f a t).memories = t.memories) :
    (s.descriptor7 off len f).memories = s.memories := by
  unfold State.descriptor7; split <;> simp [hf]

@[simp] theorem State.memories_deliverResult {bs x} : (s.deliverResult bs x).memories = s.memories := by simp [State.deliverResult]

@[simp] theorem State.memories_reduceColl {group d remote xs} : (s.reduceColl group d remote xs).memories = s.memories := by simp [State.reduceColl]

/-! ### Slot 6 -/

@[simp] theorem State.memories_matrixOp {i f} : (s.matrixOp i f).memories = s.memories := by simp [State.matrixOp]

/-! ### Slot 0 -/

@[simp] theorem State.memories_branch {target} : (s.branch target).memories = s.memories := by simp [State.branch]

@[simp] theorem State.memories_branchTo {x} : (s.branchTo x).memories = s.memories := by simp [State.branchTo]

@[simp] theorem State.memories_openLoop {n len} : (s.openLoop n len).memories = s.memories := by simp [State.openLoop]

@[simp] theorem State.memories_marker {i stamp p} : (s.marker i stamp p).memories = s.memories := by simp [State.marker]

@[simp] theorem State.memories_callEntry {i cause code} : (s.callEntry i cause code).memories = s.memories := by simp [State.callEntry]

/-! ### Vector memory -/

@[simp] theorem State.memories_loadWhole {i v e off len align layout lat f} :
    (s.loadWhole i v e off len align layout lat f).memories = s.memories := by simp [State.loadWhole]

@[simp] theorem State.memories_loadSweep {i v e offs len layout lat} :
    (s.loadSweep i v e offs len layout lat).memories = s.memories := by simp [State.loadSweep]

/-! ### Holds and rollback -/

@[simp] theorem State.memories_stopCohort {coh} : (s.stopCohort coh).memories = s.memories := by simp [State.stopCohort]

@[simp] theorem State.memories_finishHold {c} : (s.finishHold c).memories = s.memories := by simp [State.finishHold]

@[simp] theorem State.memories_rollCohort {coh acted} : (s.rollCohort coh acted).memories = s.memories := by
  unfold State.rollCohort; split <;> simp

/-! ### The roundel -/

@[simp] theorem State.memories_ringOp {i kind q slot k word x cmp payload} :
    (s.ringOp i kind q slot k word x cmp payload).memories = s.memories := by simp [State.ringOp]

@[simp] theorem State.memories_rcolOp {i d q word rev} : (s.rcolOp i d q word rev).memories = s.memories := by simp [State.rcolOp]

@[simp] theorem State.memories_onRingCore {id p f} : (s.onRingCore id p f).memories = s.memories := by simp [State.onRingCore]

@[simp] theorem State.memories_actOn {e id} : (s.actOn e id).2.memories = s.memories := by simp [State.actOn]

/-! ### Guards -/

@[simp] theorem State.memories_guardOp {i mask f} : (s.guardOp i mask f).memories = s.memories := by simp [State.guardOp]

/-! ### Images -/

@[simp] theorem State.memories_unitBytes {index} : (s.unitBytes index).2.memories = s.memories := by
  unfold State.unitBytes; split <;> simp

@[simp] theorem State.memories_imageBytes {e off n} : (s.imageBytes e off n).2.memories = s.memories := by
  unfold State.imageBytes
  split
  · rfl
  split
  · rfl
  split
  · exact State.memories_foldl_pair fun _ _ => State.memories_unitBytes
  · exact State.memories_foldl_pair fun _ _ => State.memories_unitBytes
  · rfl
  · rfl

@[simp] theorem State.memories_loadImem {core at' bs} : (s.loadImem core at' bs).memories = s.memories := by
  unfold State.loadImem; split <;> simp

end Sys2Proof.Machine
end

section
/-! The operations that write a memory outside the cores keep its canonical form. -/

namespace Sys2Proof.Machine

variable {s : State}

/-- Every memory of a list has its canonical form. -/
def Canonical (ms : List Memory) : Prop := ∀ m ∈ ms, m.wf = true

/-- The canonical form of the memories of a state, one by one. -/
theorem canonical_memories_iff : Canonical s.memories ↔ Cert.MemoriesWf s := by
  rw [← State.memories_eta]
  simp only [Canonical, Cert.MemoriesWf, List.forall_mem_cons, List.not_mem_nil, IsEmpty.forall_iff, implies_true, and_true]

@[simp] theorem canonical_ite {p : Prop} [Decidable p] {a b : List Memory} (ha : Canonical a) (hb : Canonical b) :
    Canonical (if p then a else b) := by
  split
  · exact ha
  · exact hb

theorem State.canonical_foldl {α : Type} {f : State → α → State} {l : List α}
    (hf : ∀ t a, Canonical t.memories → Canonical (f t a).memories) (h : Canonical s.memories) :
    Canonical (l.foldl f s).memories :=
  foldl_keeps (fun t : State => Canonical t.memories) f hf l s h

theorem State.canonical_issue {i f} (h : Canonical s.memories) (hf : Canonical (f s).memories) : Canonical (s.issue i f).memories := by
  unfold State.issue; (repeat' split) <;> simp [h, hf]

theorem State.canonical_run {i f} (h : Canonical s.memories) (hf : Canonical (f s).memories) : Canonical (s.run i f).memories := by
  unfold State.run; dsimp only; split
  · simp [h]
  · exact State.canonical_issue h hf

/-! ## HBM -/

theorem State.canonical_withHbm {m tags} (h : Canonical s.memories) (wf : m.wf = true) :
    Canonical (State.memories { s with hbm := m, hbmTags := tags }) := by
  obtain ⟨-, rest⟩ := canonical_memories_iff.mp h
  exact canonical_memories_iff.mpr ⟨wf, rest⟩

@[simp] theorem State.canonical_hbmPut {i x w} (h : Canonical s.memories) : Canonical (s.hbmPut i x w).memories :=
  State.canonical_withHbm h (Memory.writeBytes_wf _ _ _ (canonical_memories_iff.mp h).1)

@[simp] theorem State.canonical_hbmWrite {i k x} (h : Canonical s.memories) : Canonical (s.hbmWrite i k x).memories :=
  State.canonical_hbmPut h

@[simp] theorem State.canonical_hbmStore {k bytes} (h : Canonical s.memories) : Canonical (s.hbmStore k bytes).memories :=
  State.canonical_foldl (fun _ _ => State.canonical_hbmWrite) h

@[simp] theorem State.canonical_writeback {l} (h : Canonical s.memories) : Canonical (s.writeback l).memories := by
  unfold State.writeback; dsimp only
  (repeat' split) <;> simp [h]

@[simp] theorem State.canonical_drainWb (h : Canonical s.memories) : Canonical s.drainWb.memories := by
  refine State.canonical_foldl (fun t w ht => ?_) (by simpa using h)
  split <;> simp [ht]

@[simp] theorem State.canonical_install {c i k x v d} (h : Canonical s.memories) : Canonical (s.install c i k x v d).memories := by
  unfold State.install; dsimp only
  (repeat' split) <;> simp [h]

@[simp] theorem State.canonical_flushLines {c is} (h : Canonical s.memories) : Canonical (s.flushLines c is).memories := by
  simpa [State.flushLines] using State.canonical_foldl (fun _ _ => State.canonical_writeback) h

@[simp] theorem State.canonical_evictLines {p} (h : Canonical s.memories) : Canonical (s.evictLines p).memories := by
  simpa [State.evictLines] using State.canonical_foldl (fun _ _ => State.canonical_writeback) h

@[simp] theorem State.canonical_reencryptUnit {w old new i} (h : Canonical s.memories) :
    Canonical (s.reencryptUnit w old new i).memories := by
  unfold State.reencryptUnit; dsimp only
  split <;> simp [h]

@[simp] theorem State.canonical_blankFrame {f} (h : Canonical s.memories) : Canonical (s.blankFrame f).memories :=
  State.canonical_withHbm h (Memory.clear_wf _ _ _ (canonical_memories_iff.mp h).1)

/-! ## Host memory: completion records -/

@[simp] theorem State.canonical_writeRecord {v rec} (h : Canonical s.memories) : Canonical (s.writeRecord v rec).memories := by
  have written (a : Nat) (bytes : List Byte) : Canonical (State.memories { s with hostMem := s.hostMem.writeBytes a bytes }) := by
    obtain ⟨hbm, host, rest⟩ := canonical_memories_iff.mp h
    exact canonical_memories_iff.mpr ⟨hbm, Memory.writeBytes_wf _ _ _ host, rest⟩
  unfold State.writeRecord; dsimp only
  split
  · simpa using written _ _
  · simpa using written _ _

@[simp] theorem State.canonical_drainRecords {v n} (h : Canonical s.memories) : Canonical (s.drainRecords v n).memories := by
  induction n generalizing s with
  | zero => exact h
  | succ n ih =>
    unfold State.drainRecords
    (repeat' split) <;> simp [h, ih]

@[simp] theorem State.canonical_deliver {v rec} (h : Canonical s.memories) : Canonical (s.deliver v rec).memories := by
  simp [State.deliver, h]

@[simp] theorem State.canonical_writeCqcfg {v val be} (h : Canonical s.memories) : Canonical (s.writeCqcfg v val be).memories := by
  unfold State.writeCqcfg; dsimp only
  split <;> simp [h]

@[simp] theorem State.canonical_writeCqhead {v val} (h : Canonical s.memories) : Canonical (s.writeCqhead v val).memories := by
  simp [State.writeCqhead, h]

/-! ## The Curator's registers -/

@[simp] theorem State.memories_writeJcommit {who val} : (s.writeJcommit who val).memories = s.memories := by
  simp [State.writeJcommit, State.onCur]

@[simp] theorem State.memories_resumeDispatch {who} : (s.resumeDispatch who).memories = s.memories := by
  simp [State.resumeDispatch, State.onCur]

@[simp] theorem State.memories_fotRun {who op frame owner} : (s.fotRun who op frame owner).memories = s.memories := by
  simp [State.fotRun, State.onCur]

@[simp] theorem State.memories_writeFotcmd {who val} : (s.writeFotcmd who val).memories = s.memories := by
  simp [State.writeFotcmd, State.onCur]

theorem State.canonical_withJournals {cur : Curator} (h : Canonical s.memories) (wf0 : cur.journal0.wf = true)
    (wf1 : cur.journal1.wf = true) : Canonical (State.memories { s with cur := cur }) := by
  obtain ⟨hbm, host, flash, rsp, -, -, rest⟩ := canonical_memories_iff.mp h
  exact canonical_memories_iff.mpr ⟨hbm, host, flash, rsp, wf0, wf1, rest⟩

theorem Curator.seal_journals_wf {c : Curator} (pos : Nat) (wf0 : c.journal0.wf = true) (wf1 : c.journal1.wf = true) :
    (c.seal pos).journal0.wf = true ∧ (c.seal pos).journal1.wf = true := by
  unfold Curator.seal; dsimp only
  split
  · exact ⟨ringWrite_wf _ _ _ wf0, ringWrite_wf _ _ _ wf1⟩
  · exact ⟨wf0, wf1⟩

@[simp] theorem State.canonical_writeJcrc {who val} (h : Canonical s.memories) : Canonical (s.writeJcrc who val).memories := by
  obtain ⟨-, -, -, -, wf0, wf1, -⟩ := canonical_memories_iff.mp h
  unfold State.writeJcrc; dsimp only
  split
  · split
    · obtain ⟨sealed0, sealed1⟩ := Curator.seal_journals_wf (val.extractLsb' 0 12).toNat wf0 wf1
      exact State.canonical_withJournals h sealed0 sealed1
    · exact State.canonical_withJournals h wf0 wf1
  · exact h

@[simp] theorem State.canonical_releaseRecords {who} (h : Canonical s.memories) : Canonical (s.releaseRecords who).memories := by
  have freed : Canonical (s.onCur fun c => { c with hold := [] }).memories := by simpa [State.onCur] using h
  have delivered : Canonical (s.cur.hold.foldl (fun t p => if t.vfStopped p.1 then t else t.deliver p.1 p.2)
      (s.onCur fun c => { c with hold := [] })).memories :=
    State.canonical_foldl (fun t p ht => by split <;> simp [ht]) freed
  unfold State.releaseRecords; dsimp only
  split
  · exact h
  · split
    · simp only [State.onCur, State.memories_mk, State.memories_eta]
      refine State.canonical_foldl (fun t k ht => ?_) delivered
      (repeat' split) <;> simp [ht]
    · simpa [State.onCur] using delivered

@[simp] theorem State.canonical_writeCurctl {who val} (h : Canonical s.memories) : Canonical (s.writeCurctl who val).memories := by
  unfold State.writeCurctl; dsimp only
  (repeat' split) <;> simp [h]

/-! ## The response buffer -/

theorem State.canonical_withRsp {m} (h : Canonical s.memories) (wf : m.wf = true) :
    Canonical (State.memories { s with tdiRsp := m }) := by
  obtain ⟨hbm, host, flash, -, rest⟩ := canonical_memories_iff.mp h
  exact canonical_memories_iff.mpr ⟨hbm, host, flash, wf, rest⟩

theorem State.rsp_wf (h : Canonical s.memories) : s.tdiRsp.wf = true := by
  obtain ⟨-, -, -, rsp, -⟩ := canonical_memories_iff.mp h
  exact rsp

@[simp] theorem State.canonical_answerTdisp {v msg} (h : Canonical s.memories) : Canonical (s.answerTdisp v msg).memories := by
  unfold State.answerTdisp
  simp only [State.memories_writeTdidone]
  split
  · exact State.canonical_withRsp h (Memory.writeBytes_wf _ _ _ (State.rsp_wf h))
  · have served : Canonical (s.tdispServe v (tdispParse msg)).2.memories := by simpa using h
    exact State.canonical_withRsp served (Memory.writeBytes_wf _ _ _ (State.rsp_wf served))

/-! ## The register space of the stretcher die -/

@[simp] theorem State.canonical_writeReg {who r val} (h : Canonical s.memories) : Canonical (s.writeReg who r val).memories := by
  cases r <;> simp [State.writeReg, h]

@[simp] theorem State.canonical_writeArray {who a b} (h : Canonical s.memories) : Canonical (s.writeArray who a b).memories := by
  obtain ⟨-, -, -, -, wf0, wf1, -⟩ := canonical_memories_iff.mp h
  unfold State.writeArray
  split
  · exact State.canonical_withRsp h (Memory.write_wf _ _ _ (State.rsp_wf h))
  · split
    · simpa using h
    · split
      · exact State.canonical_withJournals h (Memory.write_wf _ _ _ wf0) (Memory.write_wf _ _ _ wf1)
      · exact h

@[simp] theorem State.canonical_writeStretcher {who n bytes} (h : Canonical s.memories) :
    Canonical (s.writeStretcher who n bytes).memories := by
  induction n generalizing s bytes with
  | zero => exact h
  | succ n ih =>
    cases bytes with
    | nil => exact h
    | cons b bytes =>
      unfold State.writeStretcher; dsimp only
      (repeat' split) <;> simp [h, ih]

@[simp] theorem State.canonical_storeStretcher {who bytes} (h : Canonical s.memories) :
    Canonical (s.storeStretcher who bytes).memories := State.canonical_writeStretcher h

/-! ## Released effects -/

@[simp] theorem State.canonical_performLine {g key i bytes} (h : Canonical s.memories) :
    Canonical (s.performLine g key i bytes).memories := by
  unfold State.performLine; dsimp only
  (repeat' split) <;> simp [h]

@[simp] theorem State.canonical_performL2 {g key bytes} (h : Canonical s.memories) : Canonical (s.performL2 g key bytes).memories := by
  unfold State.performL2
  split
  · simpa using h
  · exact State.canonical_foldl (fun _ _ => State.canonical_performLine) h

@[simp] theorem State.canonical_performNc {g key bytes} (h : Canonical s.memories) : Canonical (s.performNc g key bytes).memories := by
  unfold State.performNc
  split
  · exact h
  · rw [State.memories_dropEffect]
    refine State.canonical_foldl (fun t i ht => ?_) h
    dsimp only
    split <;> simp [ht]

@[simp] theorem State.canonical_performEffect {g} (h : Canonical s.memories) : Canonical (s.performEffect g).memories := by
  have written (bytes : List (Nat × Byte)) : Canonical (State.memories { s with hostMem := s.hostMem.writeCells bytes }) := by
    obtain ⟨hbm, host, rest⟩ := canonical_memories_iff.mp h
    exact canonical_memories_iff.mpr ⟨hbm, Memory.writeCells_wf _ _ host, rest⟩
  unfold State.performEffect
  split
  case h_3 => split <;> simp [h, written, -State.memories_mk]
  all_goals (repeat' split) <;> simp [h]

@[simp] theorem State.canonical_leaveNow {before} (h : Canonical s.memories) : Canonical (s.leaveNow before).memories := by
  unfold State.leaveNow
  (repeat' split) <;> simp [h]

@[simp] theorem State.canonical_storeScalar {i v e x g imm size} (h : Canonical s.memories) :
    Canonical (s.storeScalar i v e x g imm size).memories := by
  refine State.canonical_run h ?_
  dsimp only
  split <;> simp [h]

@[simp] theorem State.canonical_copyOut {f rows} (h : Canonical s.memories) : Canonical (s.copyOut f rows).memories := by
  unfold State.copyOut; dsimp only
  (repeat' split) <;> simp [h]

@[simp] theorem State.canonical_copy {f rows} (h : Canonical s.memories) : Canonical (s.copy f rows).memories := by
  unfold State.copy; dsimp only
  (repeat' split) <;> simp [h]

/-! ## Columns of configuration -/

theorem State.canonical_withShadow {m shifted} (h : Canonical s.memories) (wf : m.wf = true) :
    Canonical (State.memories { s with shadow := m, shifted := shifted }) := by
  obtain ⟨hbm, host, flash, rsp, journal0, journal1, -, active⟩ := canonical_memories_iff.mp h
  exact canonical_memories_iff.mpr ⟨hbm, host, flash, rsp, journal0, journal1, wf, active⟩

theorem State.shadow_wf (h : Canonical s.memories) : s.shadow.wf = true := by
  obtain ⟨-, -, -, -, -, -, shadow, -⟩ := canonical_memories_iff.mp h
  exact shadow

@[simp] theorem State.canonical_shiftUnit {base place index} (h : Canonical s.memories) :
    Canonical (s.shiftUnit base place index).memories := by
  have filled : Canonical (s.unitBytes index).2.memories := by simpa using h
  unfold State.shiftUnit; dsimp only
  split
  · exact h
  · exact State.canonical_withShadow filled (Memory.writeCells_wf _ _ (State.shadow_wf filled))

@[simp] theorem State.canonical_shiftColumn {x off column} (h : Canonical s.memories) :
    Canonical (s.shiftColumn x off column).memories := by
  have cleared : (s.shadow.clear (6291456 * column) 6291456).wf = true := Memory.clear_wf _ _ _ (State.shadow_wf h)
  unfold State.shiftColumn; dsimp only
  split
  · exact State.canonical_foldl (fun _ _ => State.canonical_shiftUnit) (State.canonical_withShadow h cleared)
  · exact State.canonical_withShadow h (Memory.copyRange_wf _ _ _ _ _ cleared)

@[simp] theorem State.canonical_commitRegion {core} (h : Canonical s.memories) : Canonical (s.commitRegion core).memories := by
  obtain ⟨hbm, host, flash, rsp, journal0, journal1, shadow, active⟩ := canonical_memories_iff.mp h
  exact canonical_memories_iff.mpr ⟨hbm, host, flash, rsp, journal0, journal1, shadow, s.commitRegion_wf core active⟩

/-! ## Loss of power -/

@[simp] theorem State.canonical_dark (h : Canonical s.memories) : Canonical s.dark.memories := by
  obtain ⟨-, host, flash, -⟩ := canonical_memories_iff.mp h
  exact canonical_memories_iff.mpr ⟨rfl, host, flash, rfl, rfl, rfl, rfl, rfl⟩

end Sys2Proof.Machine
end

section
/-! The rows of the opcode table: most leave the memories outside the cores, the others keep their canonical form, and so does a step. -/

namespace Sys2Proof.Machine

/-- A condition on the state that an outcome has, if it has one. -/
def Ends (P : State → Prop) : Host.Outcome State Fault Refusal → Prop
  | .next t => P t
  | .fault _ | .refused _ => True

@[simp] theorem ends_next {P : State → Prop} {t : State} : Ends P (.next t) ↔ P t := Iff.rfl

/-- An outcome whose memories are those of a state. -/
abbrev Leaves (s : State) : Host.Outcome State Fault Refusal → Prop := Ends fun t => t.memories = s.memories

@[simp] theorem ends_ite {P : State → Prop} {p : Prop} [Decidable p] {a b : Host.Outcome State Fault Refusal} :
    Ends P (if p then a else b) ↔ if p then Ends P a else Ends P b := by split <;> rfl

variable {s : State}

/-! ### Links and the global cycle count -/

theorem execFlitSend_leaves {n data} : Leaves s (execFlitSend n data s) := by
  unfold execFlitSend; dsimp only; (repeat' split) <;> simp

theorem execFlitReceive_leaves {n flit taken} : Leaves s (execFlitReceive n flit taken s) := by
  unfold execFlitReceive; dsimp only; (repeat' split) <;> simp

theorem execLinkDown_leaves {n} : Leaves s (execLinkDown n s) := by simp [execLinkDown]

theorem execTimeFlitQueue_leaves : Leaves s (execTimeFlitQueue s) := by simp [execTimeFlitQueue]

theorem execGcyalign_leaves {who val} : Leaves s (execGcyalign who val s) := by simp [execGcyalign]

/-! ### Regulators -/

theorem execPwrmap_leaves {who c val} : Leaves s (execPwrmap who c val s) := by simp [execPwrmap]

theorem execRegctl_leaves {who n val} : Leaves s (execRegctl who n val s) := by simp [execRegctl]

theorem execPowerInterval_leaves {n est power} : Leaves s (execPowerInterval n est power s) := by simp [execPowerInterval]

theorem execLevelChange_leaves {coh} : Leaves s (execLevelChange coh s) := by
  unfold execLevelChange; split <;> simp

theorem execDomainReport_leaves {n} : Leaves s (execDomainReport n s) := by simp [execDomainReport]

/-! ### What the host writes -/

theorem execDoorbell_leaves {v q val} : Leaves s (execDoorbell v q val s) := by simp [execDoorbell]

theorem execKickmapClear_leaves {who w val} : Leaves s (execKickmapClear who w val s) := by simp [execKickmapClear]

theorem execLqbaseWrite_leaves {v q val be} : Leaves s (execLqbaseWrite v q val be s) := by simp [execLqbaseWrite]

theorem execLqcfgWrite_leaves {v q val be} : Leaves s (execLqcfgWrite v q val be s) := by simp [execLqcfgWrite]

theorem execCqbaseWrite_leaves {v val be} : Leaves s (execCqbaseWrite v val be s) := by simp [execCqbaseWrite]

theorem execVfbindWrite_leaves {v val} : Leaves s (execVfbindWrite v val s) := by simp [execVfbindWrite]

theorem execVfFlr_leaves {v} : Leaves s (execVfFlr v s) := by simp [execVfFlr]

theorem execPfReset_leaves : Leaves s (execPfReset s) := by simp [execPfReset]

theorem execVfResetDone_leaves {v} : Leaves s (execVfResetDone v s) := by
  unfold execVfResetDone; dsimp only
  change State.memories _ = _
  (repeat' split) <;> simp [-Option.foldl_toList]

theorem execLockedSetWrite_leaves {v reg w} : Leaves s (execLockedSetWrite v reg w s) := by
  unfold execLockedSetWrite
  change State.memories _ = _
  split
  · rfl
  · cases reg
    case msixEntry =>
      refine State.memories_atVf fun t => ?_
      split <;> simp
    all_goals simp

theorem execIdeStreamLoss_leaves {v} : Leaves s (execIdeStreamLoss v s) := by simp [execIdeStreamLoss]

/-! ### TDISP and SPDM -/

theorem execTdictlLock_leaves {who v val} : Leaves s (execTdictlLock who v val s) := by simp [execTdictlLock]

theorem execTdictlRun_leaves {who v val} : Leaves s (execTdictlRun who v val s) := by simp [execTdictlRun]

theorem execTdictlError_leaves {who v val} : Leaves s (execTdictlError who v val s) := by simp [execTdictlError]

theorem execTdictlUnlock_leaves {who v val} : Leaves s (execTdictlUnlock who v val s) := by simp [execTdictlUnlock]

theorem execTdidone_leaves {who val} : Leaves s (execTdidone who val s) := by simp [execTdidone]

theorem execGetMeasurements_leaves {v index} : Leaves s (execGetMeasurements v index s) := by simp [execGetMeasurements]

theorem execIdeKm_leaves {stream secure} : Leaves s (execIdeKm stream secure s) := by simp [execIdeKm]

/-! ### Worlds and services -/

theorem execWorldCreate_leaves {mb world policy parts} : Leaves s (execWorldCreate mb world policy parts s) := by simp [execWorldCreate]

theorem execWorldRekey_leaves {mb world} : Leaves s (execWorldRekey mb world s) := by
  refine State.memories_pfService fun t => ?_
  split
  · simp
  · split
    · simp
    · split <;> simp

theorem execWorldDestroy_leaves {mb world} : Leaves s (execWorldDestroy mb world s) := by
  refine State.memories_pfService fun t => ?_
  (repeat' split) <;> simp

theorem execWorldDestroyDone_leaves {world} : Leaves s (execWorldDestroyDone world s) := by
  unfold execWorldDestroyDone; split <;> simp

theorem execWorldExport_leaves {mb world} : Leaves s (execWorldExport mb world s) := by
  refine State.memories_pfService fun t => ?_
  (repeat' split) <;> simp

theorem execWorldImport_leaves {mb world policy wrapped parts} : Leaves s (execWorldImport mb world policy wrapped parts s) := by
  refine State.memories_pfService fun t => ?_
  dsimp only
  (repeat' split) <;> simp

theorem execSealInstall_leaves {mb sealId policy key} : Leaves s (execSealInstall mb sealId policy key s) := by simp [execSealInstall]

theorem execSealRemove_leaves {mb sealId} : Leaves s (execSealRemove mb sealId s) := by simp [execSealRemove]

theorem execGenerationRetire_leaves {world} : Leaves s (execGenerationRetire world s) := by
  unfold execGenerationRetire; (repeat' split) <;> simp

/-! ### Translation -/

theorem execTranslation_leaves {task} : Leaves s (execTranslation task s) := by
  unfold execTranslation
  change State.memories _ = _
  split
  · rfl
  · next k _ =>
    split
    · rfl
    · split
      · next built => exact State.memories_endTask.trans (State.memories_of_pair built State.memories_translate)
      · next t built =>
        have translated : t.memories = s.memories := State.memories_of_pair built State.memories_translate
        split
        · rfl
        · simpa using translated

theorem execInvalidationComplete_leaves {stage2 task} : Leaves s (execInvalidationComplete stage2 task s) := by
  unfold execInvalidationComplete; dsimp only; (repeat' split) <;> simp

/-! ### Launches -/

theorem execFetch_leaves {who v q arg dmaOk} : Leaves s (execFetch who v q arg dmaOk s) := by simp [execFetch]

theorem execStart_leaves {who v q arg dma} : Leaves s (execStart who v q arg dma s) := by
  unfold execStart; dsimp only; (repeat' split) <;> simp

/-! ### Fills and released effects -/

theorem execL2col_leaves {who g val} : Leaves s (execL2col who g val s) := by simp [execL2col]

/-! ### Service life -/

theorem execUnitErrorDetect_leaves {e} : Leaves s (execUnitErrorDetect e s) := by
  unfold execUnitErrorDetect; split <;> simp

theorem execErrhead_leaves {who val} : Leaves s (execErrhead who val s) := by simp [execErrhead]

theorem execCorestate_leaves {who n val} : Leaves s (execCorestate who n val s) := by simp [execCorestate]

theorem execTimingTableWrite_leaves {who n e val} : Leaves s (execTimingTableWrite who n e val s) := by simp [execTimingTableWrite]

theorem execSelfTestDone_leaves {pass badPlots} : Leaves s (execSelfTestDone pass badPlots s) := by
  unfold execSelfTestDone; dsimp only; (repeat' split) <;> simp

theorem execDebugPortScan_leaves {core off} : Leaves s (execDebugPortScan core off s) := by
  unfold execDebugPortScan; split <;> simp

theorem execFirmwareImageUpdate_leaves {image copies} : Leaves s (execFirmwareImageUpdate image copies s) := by simp [execFirmwareImageUpdate]

/-! ### Sources of released effects -/

theorem execUncachedCopySourceArrival_leaves {core copy} : Leaves s (execUncachedCopySourceArrival core copy s) := by
  unfold execUncachedCopySourceArrival; dsimp only; split <;> simp

/-! ### Scalar memory -/

theorem execCsrr_leaves {d n} : Leaves s (execCsrr d n s) := by simp [execCsrr]

/-! ### Copies -/

theorem execCflush_leaves {e x n} : Leaves s (execCflush e x n s) := by simp [execCflush]

theorem execCinv_leaves {e x n} : Leaves s (execCinv e x n s) := by simp [execCinv]

theorem execSend_leaves {l a r t} : Leaves s (execSend l a r t s) := by
  refine State.memories_run fun u => ?_
  dsimp only
  (repeat' split) <;> simp

/-! ### The dispatcher -/

theorem execTaskStart_leaves {task} : Leaves s (execTaskStart task s) := by
  unfold execTaskStart; (repeat' split) <;> simp

theorem execDispatchDecision_leaves {task places anchor} : Leaves s (execDispatchDecision task places anchor s) := by
  unfold execDispatchDecision; (repeat' split) <;> simp

theorem execDispatchWindow_leaves : Leaves s (execDispatchWindow s) := by simp [execDispatchWindow]

theorem execQuantumExpire_leaves {task other} : Leaves s (execQuantumExpire task other s) := by
  unfold execQuantumExpire; split <;> simp

theorem execPreemptRequest_leaves {task} : Leaves s (execPreemptRequest task s) := by
  unfold execPreemptRequest; split <;> simp

theorem execPboundKill_leaves {task} : Leaves s (execPboundKill task s) := by simp [execPboundKill]

theorem execTaskResume_leaves {task places} : Leaves s (execTaskResume task places s) := by
  unfold execTaskResume; dsimp only
  change State.memories _ = _
  split
  · rfl
  split
  · rfl
  split
  · split <;> simp
  split
  · split <;> simp
  split
  · rfl
  split
  · simp
  rw [State.memories_ite]
  refine ite_eq_left_iff.mpr fun _ => ?_
  split
  · next built => exact State.memories_endTask.trans (State.memories_of_pair built State.memories_translate)
  · next t built =>
    have translated : t.memories = s.memories := State.memories_of_pair built State.memories_translate
    split
    · rfl
    · simpa using translated

theorem execCohortEnd_leaves {core} : Leaves s (execCohortEnd core s) := by
  unfold execCohortEnd; dsimp only; (repeat' split) <;> simp

/-! ### Gates and collectives -/

theorem execGpass_leaves {d e o p n} : Leaves s (execGpass d e o p n s) := by
  refine State.memories_run fun u => ?_
  dsimp only
  (repeat' split) <;> simp

theorem execKvcommit_leaves {e p n} : Leaves s (execKvcommit e p n s) := by
  refine State.memories_run fun t => ?_
  dsimp only
  split
  · rfl
  · split
    · simp
    · refine State.memories_descriptor7 fun bs u => ?_
      (repeat' split) <;> simp

theorem execColl_leaves {e p o t} : Leaves s (execColl e p o t s) := by
  refine State.memories_run fun u => ?_
  split
  · simp
  · refine State.memories_descriptor7 fun bs u => ?_
    dsimp only
    (repeat' split) <;> simp

theorem execCollectiveStatusArrive_leaves {group status remote} : Leaves s (execCollectiveStatusArrive group status remote s) := by
  unfold execCollectiveStatusArrive; dsimp only; (repeat' split) <;> simp

theorem execLinkRetrain_leaves {n ok crossing} : Leaves s (execLinkRetrain n ok crossing s) := by simp [execLinkRetrain]

/-! ### Slot 0 -/

theorem execBr_leaves {g t} : Leaves s (execBr g t s) := by simp [execBr]

theorem execJmpr_leaves {a} : Leaves s (execJmpr a s) := by simp [execJmpr]

theorem execRet_leaves : Leaves s (execRet s) := by simp [execRet]

theorem execLoop_leaves {c l} : Leaves s (execLoop c l s) := by simp [execLoop]

theorem execLoopr_leaves {a l} : Leaves s (execLoopr a l s) := by simp [execLoopr]

theorem execLbrk_leaves {g} : Leaves s (execLbrk g s) := by
  refine State.memories_run fun u => ?_
  (repeat' split) <;> simp

/-! ### Vector memory -/

theorem execVst_leaves {v e x l g m i} : Leaves s (execVst v e x l g m i s) := by simp [execVst]

theorem execVsts_leaves {v e x l g m z} : Leaves s (execVsts v e x l g m z s) := by simp [execVsts]

theorem execVscat_leaves {v e x l g m b} : Leaves s (execVscat v e x l g m b s) := by simp [execVscat]

/-! ### Tiles -/

theorem execTst_leaves {t e x l} : Leaves s (execTst t e x l s) := by
  refine State.memories_run fun u => ?_
  dsimp only
  (repeat' split) <;> simp

/-! ### Holds and rollback -/

theorem execHoldTakeEffect_leaves {core} : Leaves s (execHoldTakeEffect core s) := by
  unfold execHoldTakeEffect; split <;> simp

theorem execHoldEnd_leaves {core} : Leaves s (execHoldEnd core s) := by
  unfold execHoldEnd; split <;> simp

theorem execLockExpire_leaves {core} : Leaves s (execLockExpire core s) := by
  unfold execLockExpire; (repeat' split) <;> simp

theorem execNestStep_leaves {core} : Leaves s (execNestStep core s) := by
  unfold execNestStep; (repeat' split) <;> simp

theorem execRollback_leaves {core} : Leaves s (execRollback core s) := by
  unfold execRollback; dsimp only; (repeat' split) <;> simp

theorem execRollbackResume_leaves {core} : Leaves s (execRollbackResume core s) := by
  unfold execRollbackResume
  change State.memories _ = _
  split
  · rfl
  · dsimp only
    split
    · rfl
    · split
      · refine (State.memories_foldl fun t a => ?_).trans State.memories_mapCores
        (repeat' split) <;> simp
      · (repeat' split) <;> simp

/-! ### The roundel -/

theorem execRingOpPerform_leaves {core q} : Leaves s (execRingOpPerform core q s) := by
  unfold execRingOpPerform; dsimp only; (repeat' split) <;> simp

theorem execRoundelScrub_leaves {canvas slot} : Leaves s (execRoundelScrub canvas slot s) := by simp [execRoundelScrub]

/-! ### Images -/

theorem execFxcall_leaves {d a i f} : Leaves s (execFxcall d a i f s) := by
  refine State.memories_run fun u => ?_
  dsimp only
  (repeat' split) <;> simp

theorem execIload_leaves {e x c n} : Leaves s (execIload e x c n s) := by
  refine State.memories_run fun t => ?_
  dsimp only
  split
  · simp
  · split
    · simp
    · simp

/-- An outcome whose memories are those of a state keeps their canonical form. -/
theorem Leaves.canonical {o : Host.Outcome State Fault Refusal} (h : Canonical s.memories) (leaves : Leaves s o) :
    Ends (fun t => Canonical t.memories) o := by
  cases o with
  | next t => exact (congrArg Canonical leaves).mpr h
  | fault => trivial
  | refused => trivial

/-! ## Rows that write no memory, though their operations can -/

theorem execJcommit_leaves {who val} : Leaves s (execJcommit who val s) := State.memories_writeJcommit
theorem execResume_leaves {who} : Leaves s (execResume who s) := State.memories_resumeDispatch
theorem execAssign_leaves {who frame owner} : Leaves s (execAssign who frame owner s) := State.memories_fotRun
theorem execRelease_leaves {who frame} : Leaves s (execRelease who frame s) := State.memories_fotRun
theorem execRead_leaves {who frame} : Leaves s (execRead who frame s) := State.memories_fotRun
theorem execFotNop_leaves {who} : Leaves s (execFotNop who s) := State.memories_fotRun

theorem execTakeover_leaves : Leaves s (execTakeover s) := by
  unfold execTakeover; dsimp only
  change State.memories _ = _
  (repeat' split) <;> simp [State.onCur]

/-! ## Rows that write a memory -/

theorem execStB_canonical {v e x g i} (h : Canonical s.memories) : Ends (fun t => Canonical t.memories) (execStB v e x g i s) :=
  State.canonical_storeScalar h
theorem execStH_canonical {v e x g i} (h : Canonical s.memories) : Ends (fun t => Canonical t.memories) (execStH v e x g i s) :=
  State.canonical_storeScalar h
theorem execStW_canonical {v e x g i} (h : Canonical s.memories) : Ends (fun t => Canonical t.memories) (execStW v e x g i s) :=
  State.canonical_storeScalar h
theorem execStD_canonical {v e x g i} (h : Canonical s.memories) : Ends (fun t => Canonical t.memories) (execStD v e x g i s) :=
  State.canonical_storeScalar h

theorem execCpy_canonical {f e l x n y} (h : Canonical s.memories) :
    Ends (fun t => Canonical t.memories) (execCpy f e l x n y s) := by
  refine State.canonical_run h ?_
  dsimp only
  split <;> simp [h]

theorem execCpy2_canonical {f e l x n y} (h : Canonical s.memories) :
    Ends (fun t => Canonical t.memories) (execCpy2 f e l x n y s) := by
  refine State.canonical_run h ?_
  dsimp only
  split <;> simp [h]

theorem execOvpload_canonical {e x c} (h : Canonical s.memories) : Ends (fun t => Canonical t.memories) (execOvpload e x c s) := by
  refine State.canonical_run h ?_
  dsimp only
  (repeat' split) <;> simp [h]

theorem execGcommit_canonical {c} (h : Canonical s.memories) : Ends (fun t => Canonical t.memories) (execGcommit c s) := by
  refine State.canonical_run h ?_
  simp [h]

theorem State.canonical_barWrite {v} {f : State → State} (h : Canonical s.memories) (hf : Canonical (f s).memories) :
    Canonical (s.barWrite v f).memories := by
  unfold State.barWrite State.atVf State.orUnsupported
  simp [h, hf]

theorem execCqcfgWrite_canonical {v val be} (h : Canonical s.memories) :
    Ends (fun t => Canonical t.memories) (execCqcfgWrite v val be s) := State.canonical_barWrite h (State.canonical_writeCqcfg h)

theorem execCqheadWrite_canonical {v val} (h : Canonical s.memories) :
    Ends (fun t => Canonical t.memories) (execCqheadWrite v val s) := State.canonical_barWrite h (State.canonical_writeCqhead h)

theorem execCompletionRecordWrite_canonical {v} (h : Canonical s.memories) :
    Ends (fun t => Canonical t.memories) (execCompletionRecordWrite v s) := by
  unfold execCompletionRecordWrite
  change Canonical (State.memories _)
  (repeat' split) <;> simp [h]

theorem execSpdmRequest_canonical {v tdisp msg} (h : Canonical s.memories) :
    Ends (fun t => Canonical t.memories) (execSpdmRequest v tdisp msg s) := by
  unfold execSpdmRequest
  change Canonical (State.memories _)
  split
  · split
    · simp [h]
    · rw [State.memories_atDoe fun t => by (repeat' split) <;> simp]
      exact h
  · split <;> simp [h]

theorem execFrameReencrypt_canonical {world frame} (h : Canonical s.memories) :
    Ends (fun t => Canonical t.memories) (execFrameReencrypt world frame s) := by
  unfold execFrameReencrypt
  change Canonical (State.memories _)
  split
  · exact h
  split
  · exact h
  split
  · exact h
  rw [State.memories_onWorld]
  exact State.canonical_foldl (fun _ _ => State.canonical_reencryptUnit) (State.canonical_evictLines h)

theorem execJcrcSeal_canonical {who pos} (h : Canonical s.memories) : Ends (fun t => Canonical t.memories) (execJcrcSeal who pos s) :=
  State.canonical_writeJcrc h
theorem execJcrcCheck_canonical {who pos} (h : Canonical s.memories) : Ends (fun t => Canonical t.memories) (execJcrcCheck who pos s) :=
  State.canonical_writeJcrc h
theorem execCurctlRelease_canonical {who} (h : Canonical s.memories) : Ends (fun t => Canonical t.memories) (execCurctlRelease who s) :=
  State.canonical_releaseRecords h

theorem execScrubComplete_canonical {frame} (h : Canonical s.memories) :
    Ends (fun t => Canonical t.memories) (execScrubComplete frame s) := by
  unfold execScrubComplete
  change Canonical (State.memories _)
  (repeat' split) <;> simp [h]

theorem execFillInstall_canonical {fill ecc} (h : Canonical s.memories) :
    Ends (fun t => Canonical t.memories) (execFillInstall fill ecc s) := by
  refine State.canonical_drainWb ?_
  dsimp only
  (repeat' split) <;> simp [h]

theorem execCinvPerform_canonical (h : Canonical s.memories) : Ends (fun t => Canonical t.memories) (execCinvPerform s) := by
  unfold execCinvPerform
  change Canonical (State.memories _)
  (repeat' split) <;> simp [h]

theorem execColumnChangeDone_canonical {g} (h : Canonical s.memories) :
    Ends (fun t => Canonical t.memories) (execColumnChangeDone g s) := by
  unfold execColumnChangeDone
  change Canonical (State.memories _)
  (repeat' split) <;> simp [h]

theorem execHbmRetrain_canonical {stack ok} (h : Canonical s.memories) :
    Ends (fun t => Canonical t.memories) (execHbmRetrain stack ok s) := by
  unfold execHbmRetrain
  change Canonical (State.memories _)
  dsimp only
  (repeat' split) <;> simp [h]

theorem execReleasedEffectPerform_canonical (h : Canonical s.memories) :
    Ends (fun t => Canonical t.memories) (execReleasedEffectPerform s) := by
  unfold execReleasedEffectPerform
  change Canonical (State.memories _)
  split <;> simp [h]

theorem execRegisterWrite_canonical {w} (h : Canonical s.memories) : Ends (fun t => Canonical t.memories) (execRegisterWrite w s) := by
  unfold execRegisterWrite
  change Canonical (State.memories _)
  (repeat' split) <;> simp [h]

theorem execPackageReset_canonical {damaged failed flit} (h : Canonical s.memories) :
    Ends (fun t => Canonical t.memories) (execPackageReset damaged failed flit s) := by
  have trained : Canonical (s.dark.trained failed).draw.2.memories := by simp [h]
  exact trained

theorem execModulePowerOff_canonical (h : Canonical s.memories) : Ends (fun t => Canonical t.memories) (execModulePowerOff s) :=
  State.canonical_dark (s := s) h

/-- Every instruction keeps the canonical form of the memories. -/
theorem exec_canonical {i} (h : Canonical s.memories) : Ends (fun t => Canonical t.memories) (exec i s) := by
  cases i with
  | nop | slewStep | drbgReseed =>
    exact Leaves.canonical h rfl
  | jmp | call | rswap | latq | vsortk | tld | trowv | tvrow | tcolv | tvcol | tzero | tsave | trest | mstat | recv | dbgrd =>
    exact Leaves.canonical h (State.memories_run fun _ => State.memories_upd)
  | ckpt | ckptP =>
    exact Leaves.canonical h State.memories_marker
  | halt | tret | wgcy | idle | gmovToGuards | lockb | fence | tcfg | mwait | cwait =>
    exact Leaves.canonical h State.memories_runCore
  | trap | scall | brk =>
    exact Leaves.canonical h State.memories_callEntry
  | add | sub | and | or | xor | andn | orn | shl | shr | sra | rotl | rotr | slt | sltu | seq | sne | min | max | minu | maxu | mul | mulh
  | mulhu | div | divu | rem | remu | clz | ctz | popc | bext | bdep | addi | andi | ori | xori | slti | shli | shri | srai | lui | sel
  | gmovToScalar | idr =>
    exact Leaves.canonical h State.memories_scalarOp
  | gset | glog =>
    exact Leaves.canonical h State.memories_guardOp
  | fadd | fsub | fmul | fdiv | fsqrt | fmin | fmax | fcmp | fcvt | fclass | fmadd =>
    exact Leaves.canonical h State.memories_scalarFlags
  | ldB | ldBz | ldH | ldHz | ldW | ldWz | ldD =>
    exact Leaves.canonical h State.memories_loadScalar
  | aadd | aand | aor | axor | amin | amax | aminu | amaxu | aswap | acas =>
    exact Leaves.canonical h State.memories_atomicOp
  | csrw | csrs | csrc =>
    exact Leaves.canonical h State.memories_csrOp
  | vadd | vsub | vmul | vfma | vfms | vmin | vmax | vabs | vneg | vand | vor | vxor | vnot | vshl | vshr | vsra | vsel | vmov | vsplat
  | vext | vins | vcvt | vidx | mpop | mfirst | vexp | vexp2 | vlog2 | vrcp | vrsqrt | vsqrt | vdiv | vtanh | vsigm | vredsum | vredmax
  | vredmin | vscan | vperm | vrotl | vpack | vunpack | vrnd | vbVfma | vbVadd | vbVmul =>
    exact Leaves.canonical h State.memories_vectorOp
  | vcmpeq | vcmplt | vcmple | mand | mor | mxor | mnot =>
    exact Leaves.canonical h State.memories_maskOp
  | vld | vldb =>
    exact Leaves.canonical h State.memories_loadWhole
  | vlds | vgath =>
    exact Leaves.canonical h State.memories_loadSweep
  | mnest | mfmt | mspar | msparOff | mtree | mtreeOff | msel | mselOff | mgo | macc | mzero | mret | mabort | mrest =>
    exact Leaves.canonical h State.memories_matrixOp
  | rget | rput | radd | rmax | rmin | rand | ror | rcas | rboard | ralight =>
    exact Leaves.canonical h State.memories_ringOp
  | rcol | rcolRev =>
    exact Leaves.canonical h State.memories_rcolOp
  | pauseExpire | linkTrain =>
    exact Leaves.canonical h State.memories_onLink
  | ringResultArrive =>
    exact Leaves.canonical h State.memories_onRingCore
  | s2inv =>
    exact Leaves.canonical h State.memories_writeS2inv
  | getTdispVersion | getTdispCapabilities | getDeviceInterfaceState | lockInterfaceRequest | getDeviceInterfaceReport
  | startInterfaceRequest | stopInterfaceRequest | bindP2pStreamRequest | unbindP2pStreamRequest | setMmioAttributeRequest
  | tdispVendorRequest =>
    exact Leaves.canonical h State.memories_tdisp
  | checkOverpaint | selfTest | dropCore | postLoadOutcome =>
    exact Leaves.canonical h State.memories_consRow
  | br => exact Leaves.canonical h execBr_leaves
  | jmpr => exact Leaves.canonical h execJmpr_leaves
  | ret => exact Leaves.canonical h execRet_leaves
  | loop => exact Leaves.canonical h execLoop_leaves
  | loopr => exact Leaves.canonical h execLoopr_leaves
  | lbrk => exact Leaves.canonical h execLbrk_leaves
  | csrr => exact Leaves.canonical h execCsrr_leaves
  | vst => exact Leaves.canonical h execVst_leaves
  | vsts => exact Leaves.canonical h execVsts_leaves
  | vscat => exact Leaves.canonical h execVscat_leaves
  | tst => exact Leaves.canonical h execTst_leaves
  | cflush => exact Leaves.canonical h execCflush_leaves
  | cinv => exact Leaves.canonical h execCinv_leaves
  | send => exact Leaves.canonical h execSend_leaves
  | gpass => exact Leaves.canonical h execGpass_leaves
  | kvcommit => exact Leaves.canonical h execKvcommit_leaves
  | coll => exact Leaves.canonical h execColl_leaves
  | fxcall => exact Leaves.canonical h execFxcall_leaves
  | iload => exact Leaves.canonical h execIload_leaves
  | linkDown => exact Leaves.canonical h execLinkDown_leaves
  | timeFlitQueue => exact Leaves.canonical h execTimeFlitQueue_leaves
  | levelChange => exact Leaves.canonical h execLevelChange_leaves
  | domainReport => exact Leaves.canonical h execDomainReport_leaves
  | dispatchWindow => exact Leaves.canonical h execDispatchWindow_leaves
  | taskStart => exact Leaves.canonical h execTaskStart_leaves
  | pboundKill => exact Leaves.canonical h execPboundKill_leaves
  | takeover => exact Leaves.canonical h execTakeover_leaves
  | holdTakeEffect => exact Leaves.canonical h execHoldTakeEffect_leaves
  | holdEnd => exact Leaves.canonical h execHoldEnd_leaves
  | lockExpire => exact Leaves.canonical h execLockExpire_leaves
  | nestStep => exact Leaves.canonical h execNestStep_leaves
  | rollback => exact Leaves.canonical h execRollback_leaves
  | rollbackResume => exact Leaves.canonical h execRollbackResume_leaves
  | cohortEnd => exact Leaves.canonical h execCohortEnd_leaves
  | ringOpPerform => exact Leaves.canonical h execRingOpPerform_leaves
  | roundelScrub => exact Leaves.canonical h execRoundelScrub_leaves
  | flitSend => exact Leaves.canonical h execFlitSend_leaves
  | flitReceive => exact Leaves.canonical h execFlitReceive_leaves
  | linkRetrain => exact Leaves.canonical h execLinkRetrain_leaves
  | gcyalign => exact Leaves.canonical h execGcyalign_leaves
  | pwrmap => exact Leaves.canonical h execPwrmap_leaves
  | regctl => exact Leaves.canonical h execRegctl_leaves
  | powerInterval => exact Leaves.canonical h execPowerInterval_leaves
  | doorbell => exact Leaves.canonical h execDoorbell_leaves
  | kickmapClear => exact Leaves.canonical h execKickmapClear_leaves
  | lqbaseWrite => exact Leaves.canonical h execLqbaseWrite_leaves
  | lqcfgWrite => exact Leaves.canonical h execLqcfgWrite_leaves
  | cqbaseWrite => exact Leaves.canonical h execCqbaseWrite_leaves
  | vfbindWrite => exact Leaves.canonical h execVfbindWrite_leaves
  | lockedSetWrite => exact Leaves.canonical h execLockedSetWrite_leaves
  | ideStreamLoss => exact Leaves.canonical h execIdeStreamLoss_leaves
  | vfFlr => exact Leaves.canonical h execVfFlr_leaves
  | pfReset => exact Leaves.canonical h execPfReset_leaves
  | vfResetDone => exact Leaves.canonical h execVfResetDone_leaves
  | tdidone => exact Leaves.canonical h execTdidone_leaves
  | tdictlLock => exact Leaves.canonical h execTdictlLock_leaves
  | tdictlRun => exact Leaves.canonical h execTdictlRun_leaves
  | tdictlError => exact Leaves.canonical h execTdictlError_leaves
  | tdictlUnlock => exact Leaves.canonical h execTdictlUnlock_leaves
  | getMeasurements => exact Leaves.canonical h execGetMeasurements_leaves
  | ideKm => exact Leaves.canonical h execIdeKm_leaves
  | worldCreate => exact Leaves.canonical h execWorldCreate_leaves
  | worldRekey => exact Leaves.canonical h execWorldRekey_leaves
  | worldDestroy => exact Leaves.canonical h execWorldDestroy_leaves
  | worldDestroyDone => exact Leaves.canonical h execWorldDestroyDone_leaves
  | worldExport => exact Leaves.canonical h execWorldExport_leaves
  | worldImport => exact Leaves.canonical h execWorldImport_leaves
  | sealInstall => exact Leaves.canonical h execSealInstall_leaves
  | sealRemove => exact Leaves.canonical h execSealRemove_leaves
  | generationRetire => exact Leaves.canonical h execGenerationRetire_leaves
  | fetch => exact Leaves.canonical h execFetch_leaves
  | start => exact Leaves.canonical h execStart_leaves
  | invalidationComplete => exact Leaves.canonical h execInvalidationComplete_leaves
  | translation => exact Leaves.canonical h execTranslation_leaves
  | dispatchDecision => exact Leaves.canonical h execDispatchDecision_leaves
  | quantumExpire => exact Leaves.canonical h execQuantumExpire_leaves
  | preemptRequest => exact Leaves.canonical h execPreemptRequest_leaves
  | taskResume => exact Leaves.canonical h execTaskResume_leaves
  | jcommit => exact Leaves.canonical h execJcommit_leaves
  | resume => exact Leaves.canonical h execResume_leaves
  | assign => exact Leaves.canonical h execAssign_leaves
  | release => exact Leaves.canonical h execRelease_leaves
  | read => exact Leaves.canonical h execRead_leaves
  | fotNop => exact Leaves.canonical h execFotNop_leaves
  | l2col => exact Leaves.canonical h execL2col_leaves
  | unitErrorDetect => exact Leaves.canonical h execUnitErrorDetect_leaves
  | errhead => exact Leaves.canonical h execErrhead_leaves
  | corestate => exact Leaves.canonical h execCorestate_leaves
  | timingTableWrite => exact Leaves.canonical h execTimingTableWrite_leaves
  | selfTestDone => exact Leaves.canonical h execSelfTestDone_leaves
  | collectiveStatusArrive => exact Leaves.canonical h execCollectiveStatusArrive_leaves
  | debugPortScan => exact Leaves.canonical h execDebugPortScan_leaves
  | uncachedCopySourceArrival => exact Leaves.canonical h execUncachedCopySourceArrival_leaves
  | firmwareImageUpdate => exact Leaves.canonical h execFirmwareImageUpdate_leaves
  | stB => exact execStB_canonical h
  | stH => exact execStH_canonical h
  | stW => exact execStW_canonical h
  | stD => exact execStD_canonical h
  | cpy => exact execCpy_canonical h
  | cpy2 => exact execCpy2_canonical h
  | ovpload => exact execOvpload_canonical h
  | gcommit => exact execGcommit_canonical h
  | registerWrite => exact execRegisterWrite_canonical h
  | packageReset => exact execPackageReset_canonical h
  | cqcfgWrite => exact execCqcfgWrite_canonical h
  | cqheadWrite => exact execCqheadWrite_canonical h
  | completionRecordWrite => exact execCompletionRecordWrite_canonical h
  | spdmRequest => exact execSpdmRequest_canonical h
  | frameReencrypt => exact execFrameReencrypt_canonical h
  | jcrcSeal => exact execJcrcSeal_canonical h
  | jcrcCheck => exact execJcrcCheck_canonical h
  | curctlRelease => exact execCurctlRelease_canonical h
  | scrubComplete => exact execScrubComplete_canonical h
  | fillInstall => exact execFillInstall_canonical h
  | releasedEffectPerform => exact execReleasedEffectPerform_canonical h
  | cinvPerform => exact execCinvPerform_canonical h
  | columnChangeDone => exact execColumnChangeDone_canonical h
  | hbmRetrain => exact execHbmRetrain_canonical h
  | modulePowerOff => exact execModulePowerOff_canonical h

/-! ## A step -/

/-- An action whose state, where it has one, has the memories of a state. -/
def Action.Carries (s : State) : Action → Prop
  | .stop => True
  | .event _ t | .word _ t => t.memories = s.memories

theorem State.skip_carries {turn} : (s.skip turn).Carries s := by
  change State.memories _ = _
  simp

theorem State.fetch_carries : s.fetch.Carries s := by
  unfold State.fetch; dsimp only
  (repeat' split) <;> (change State.memories _ = _; simp)

theorem State.startTurn_carries : s.startTurn.Carries s := by
  have waited : State.memories { s with core := s.waitOver } = s.memories := by simp
  have carried {a : Action} (h : a.Carries { s with core := s.waitOver }) : a.Carries s := by
    cases a with
    | stop => trivial
    | event i t => exact Eq.trans h waited
    | word i t => exact Eq.trans h waited
  unfold State.startTurn; dsimp only
  split
  case h_6 => split <;> exact State.skip_carries
  case h_7 =>
    split
    · exact State.skip_carries
    split
    · exact carried State.skip_carries
    split
    · exact carried State.skip_carries
    · exact carried State.fetch_carries
  all_goals exact State.skip_carries

theorem State.nextAction_carries : s.nextAction.Carries s := by
  unfold State.nextAction
  split
  · split
    · change State.memories _ = _
      simp
    · trivial
  split
  · split
    · change State.memories _ = _
      simp
    · split
      · exact rfl
      · exact State.startTurn_carries
  split
  · split
    · split <;> (change State.memories _ = _; simp)
    · exact State.skip_carries
  · exact State.startTurn_carries

/-- A step from a state whose memories have their canonical form ends in one. -/
theorem step_canonical (h : Canonical s.memories) : Ends (fun t => Canonical t.memories) (step s) := by
  have carried : s.nextAction.Carries s := State.nextAction_carries
  cases action : s.nextAction with
  | stop => rw [step_of_stop action]; trivial
  | event i t =>
    rw [action] at carried
    rw [step_of_event action]
    exact exec_canonical ((congrArg Canonical carried).mpr h)
  | word i t =>
    rw [action] at carried
    have ran : Ends (fun u => Canonical u.memories) (exec i t) := exec_canonical ((congrArg Canonical carried).mpr h)
    rw [step_of_word action]
    cases outcome : exec i t with
    | next u =>
      rw [outcome] at ran
      change Canonical u.endOp.memories
      simpa using ran
    | fault => trivial
    | refused => trivial

end Sys2Proof.Machine
end

section
namespace Sys2Proof.Cert

open Sys2Proof.Machine

/-- Settles O59: an instruction leaves the memories as they are or writes them by operations that keep the canonical form, and neither the choice
of what comes next nor the end of an operation changes them. -/
theorem stepKeepsTheMemories : Obligations.StepKeepsTheMemories := by
  unfold Obligations.StepKeepsTheMemories
  intro s t wf steps
  have ends : Ends (fun t => Canonical t.memories) (step s) := step_canonical (canonical_memories_iff.mpr wf)
  rw [steps] at ends
  exact canonical_memories_iff.mp ends

end Sys2Proof.Cert
end

section
/-! The Curator's registers, the commands of the frame ownership table, and the scrub of a frame (R98-R103, R124-R126, R402). -/

namespace Sys2Proof.Machine

variable {s : State}

/-! ## The journal and CURCTL -/

theorem State.writeJcommit_active {val} : s.writeJcommit s.activeCurator val =
    s.onCur fun c => { c with commitSeq := val.extractLsb' 32 32, commitPos := val.extractLsb' 0 12 } := if_pos rfl

theorem State.writeJcommit_other {who val} (other : who ≠ s.activeCurator) : s.writeJcommit who val = s := if_neg other

/-- What a write of JCRC by a control core does, by its SEAL bit and its POS field. -/
theorem State.writeJcrc_control {who pos : Nat} {val : Word} (low : 512 ≤ who) (high : who < 516)
    (field : (val.extractLsb' 0 12).toNat = pos) :
    s.writeJcrc who val = s.onCur fun c => if val.getLsbD 63 then c.seal pos else c.check pos := by
  have control : controlCore who = true := by simp [controlCore, low, high]
  simp only [State.writeJcrc, control, field, if_true]

/-- POS of a word whose bits 11:0 are a position, whatever stands at bit 63. -/
theorem jcrc_pos {pos : Nat} (small : pos < 4096) (k : Nat) :
    ((BitVec.ofNat 64 (2 ^ 63 * k + pos % 4096)).extractLsb' 0 12 : BitVec 12).toNat = pos := by
  simp only [BitVec.extractLsb'_toNat, BitVec.toNat_ofNat, Nat.shiftRight_zero]
  omega

theorem execJcrcSeal_control {who pos : Nat} (low : 512 ≤ who) (high : who < 516) (small : pos < 4096) :
    execJcrcSeal who pos s = .next (s.onCur fun c => c.seal pos) := by
  have bit : (BitVec.ofNat 64 (2 ^ 63 + pos % 4096)).getLsbD 63 = true := by
    rw [BitVec.getLsbD_ofNat, Nat.testBit_two_pow_add_eq, Nat.testBit_lt_two_pow (by omega)]
    rfl
  have field := jcrc_pos small 1
  rw [Nat.mul_one] at field
  simp only [execJcrcSeal, State.writeJcrc_control low high field, bit, if_true]

theorem execJcrcCheck_control {who pos : Nat} (low : 512 ≤ who) (high : who < 516) (small : pos < 4096) :
    execJcrcCheck who pos s = .next (s.onCur fun c => c.check pos) := by
  have field := jcrc_pos small 0
  rw [Nat.mul_zero, Nat.zero_add] at field
  have bit : (BitVec.ofNat 64 (pos % 4096)).getLsbD 63 = false := by
    rw [BitVec.getLsbD_ofNat, Nat.testBit_lt_two_pow (by omega), Bool.and_false]
  simp only [execJcrcCheck, State.writeJcrc_control low high field, bit, if_false, Bool.false_eq_true]

theorem Curator.seal_long {c : Curator} {pos : Nat} (long : 1008 < entryLen c.journal0 pos) : c.seal pos = c := by
  unfold Curator.seal
  exact if_neg (by omega)

/-- The RELEASE write of CURCTL where the buffer is not full: no task waits for room. -/
theorem State.releaseRecords_room (holding : s.cur.holding = true) (room : s.cur.hold.length < 256) :
    s.releaseRecords s.activeCurator = State.onCur (fun c => { c with holding := false })
      (s.cur.hold.foldl (fun t p => if t.vfStopped p.1 then t else t.deliver p.1 p.2) (s.onCur fun c => { c with hold := [] })) := by
  have served : ¬(s.activeCurator ≠ s.activeCurator ∨ (!s.cur.holding) = true) := by simp [holding]
  unfold State.releaseRecords
  rw [if_neg served]
  dsimp only
  rw [if_neg (by omega)]

/-- The takeover of a Curator A that has faulted. -/
theorem execTakeover_faulted {a : Core} (found : s.coreOf 512 = some a) (faulted : a.run = .faulted) :
    execTakeover s = .next (State.onCur (fun c => { c with takeover := true, holding := true, activeB := true, paused := true })
      ((s.onCore 512 fun c => { Core.control 512 .inReset with imem := c.imem, turn := c.turn, started := c.started }).onCore 513
        fun c => if c.run = .inReset then { c with run := .running } else c)) := by
  simp only [execTakeover, found, faulted, ne_eq, not_true_eq_false, if_false]

/-! ## The frame ownership table -/

/-- The state after a FOT command of the active Curator with its result. -/
theorem State.fotRun_active {op frame owner : Nat} {r : BitVec 3} {t : State} (ran : s.fotCommand op frame owner = (r, t)) :
    s.fotRun s.activeCurator op frame owner = t.onCur fun c => { c with fotResult := r, fotOwner := t.owner frame } := by
  unfold State.fotRun
  rw [if_neg (not_not_intro rfl), ran]

theorem ownerValid_world {w : Nat} (small : w < 64) : ownerValid (BitVec.ofNat 8 w) = true := by
  have le : (BitVec.ofNat 8 w).toNat ≤ 0x3F := by rw [BitVec.toNat_ofNat]; omega
  rw [ownerValid, decide_eq_true le, Bool.true_or]

section
variable {frame : Nat} (listed : frame < fotFirst)
include listed

/-- ASSIGN by the state of its frame. -/
theorem State.fotCommand_assign {w : Nat} (small : w < 64) : s.fotCommand 1 frame w =
    if s.owner frame = ownScrub then (1, s)
    else if s.owner frame = ownFree then
      (0, (s.setOwner frame (BitVec.ofNat 8 w)).onWorld w fun x =>
        { x with moved := if x.prev.isSome then x.moved ++ [frame] else x.moved })
    else (2, s) := by
  simp only [State.fotCommand, Nat.not_le.mpr listed, if_false, ownerValid_world small, Bool.not_true, Bool.false_eq_true]

/-- RELEASE by the state of its frame. -/
theorem State.fotCommand_release : s.fotCommand 2 frame 0 =
    if ownerValid (s.owner frame) then (if s.pinnedFrame frame then (3, s) else (0, s.setOwner frame ownScrub)) else (2, s) := by
  simp only [State.fotCommand, Nat.not_le.mpr listed, if_false]

theorem State.fotCommand_read : s.fotCommand 3 frame 0 = (0, s) := by
  simp only [State.fotCommand, Nat.not_le.mpr listed, if_false]

theorem State.owner_setOwner {o : BitVec 8} (stored : o ≠ ownScrub) : (s.setOwner frame o).owner frame = o :=
  (State.owner_below_fot listed).trans (SMap.get_put_same_of_ne _ _ _ _ stored)
end

theorem State.fotCommand_nop : s.fotCommand 0 0 0 = (0, s) := rfl

theorem State.fotCommand_beyond {op frame owner : Nat} (beyond : fotFirst ≤ frame) : s.fotCommand op frame owner = (4, s) := if_pos beyond

theorem State.world_onWorld_other {w x : Nat} (other : x ≠ w) (f : World → World) : (s.onWorld w f).world x = s.world x := by
  unfold State.world State.onWorld
  induction s.worlds with
  | nil => rfl
  | cons p ps ih =>
    by_cases at' : p.1 = w
    · have left : (p.1 == x) = false := by rw [at']; simpa using other.symm
      simpa [List.find?_cons, at', left, other.symm] using ih
    · cases here : p.1 == x with
      | true => simp [at', here]
      | false => simpa [List.find?_cons, at', here] using ih

theorem State.execAssign_world {frame w : Nat} {r : BitVec 3} {t : State} (small : w < 64) (ran : s.fotCommand 1 frame w = (r, t)) :
    execAssign s.activeCurator frame w s = .next (t.onCur fun c => { c with fotResult := r, fotOwner := t.owner frame }) := by
  rw [execAssign, Nat.mod_eq_of_lt (by omega), State.fotRun_active ran]

/-! ## The scrub of a frame -/

/-- Lines that are dropped leave the lists of reads in flight as long as they were, with their data where a read needs it. -/
theorem State.dropLines_frame (p : Line → Bool) : ∃ g : Core → Core,
    s.dropLines p = { s.mapCores g with lines := s.lines.filter fun l => !p l } ∧
    ∀ c, ∃ late parked, g c = { c with late := late, parkedLate := parked } ∧
      late.length = c.late.length ∧ parked.length = c.parkedLate.length := by
  unfold State.dropLines; dsimp only
  split
  · exact ⟨_, rfl, fun c => ⟨_, _, rfl, List.length_map _, List.length_map _⟩⟩
  · refine ⟨id, ?_, fun c => ⟨_, _, rfl, rfl, rfl⟩⟩
    simp only [State.mapCores, id_eq, List.map_id]

theorem execScrubComplete_scrubs {frame : Nat} (listed : frame < fotFirst) (scrub : s.owner frame = ownScrub)
    (trained : s.inTraining (512 * frame) = false) (idle : (s.fills.any fun f => frameOfLine f.index == frame) = false) :
    execScrubComplete frame s =
      .next (((s.dropLines fun l => frameOfLine l.index == frame).blankFrame frame).setOwner frame ownFree) := by
  have admitted : ¬(fotFirst ≤ frame ∨ s.owner frame ≠ ownScrub ∨ s.inTraining (512 * frame) = true) := by
    simp [Nat.not_le.mpr listed, scrub, trained]
  simp only [execScrubComplete, if_neg admitted, idle, Bool.false_eq_true, if_false]

theorem State.read_blankFrame_inside {a frame : Nat} (inside : a / 65536 = frame) : (s.blankFrame frame).hbm.read a = 0 :=
  Memory.read_clear_inside _ _ _ _ (by omega)

theorem State.read_blankFrame_outside {a frame : Nat} (outside : a / 65536 ≠ frame) :
    (s.blankFrame frame).hbm.read a = s.hbm.read a :=
  Memory.read_clear_outside _ _ _ _ (by omega)

end Sys2Proof.Machine
end

section
namespace Sys2Proof.Cert

open Sys2Proof.Machine

section
variable {s : State} {frame : Nat} (listed : frame < fotFirst)
include listed

/-- ASSIGN gives a free frame to a world. -/
theorem assign_free {w : Nat} (small : w < 64) (free : s.owner frame = ownFree) :
    ∃ t, exec (.assign s.activeCurator frame w) s = .next t ∧
      t.fot = SMap.put 0xFE frame (BitVec.ofNat 8 w) s.fot ∧ t.owner frame = BitVec.ofNat 8 w ∧
      t = { s with fot := t.fot, worlds := t.worlds, cur := { s.cur with fotResult := 0, fotOwner := BitVec.ofNat 8 w } } ∧
      ∀ x, x ≠ w → t.world x = s.world x := by
  have stored : BitVec.ofNat 8 w ≠ ownScrub := fun same => by
    have value := congrArg BitVec.toNat same
    rw [BitVec.toNat_ofNat, Nat.mod_eq_of_lt (by omega)] at value
    have code : ownScrub.toNat = 254 := rfl
    omega
  have ran := State.fotCommand_assign (s := s) listed small
  rw [free, if_neg (by decide), if_pos rfl] at ran
  have owned := State.owner_setOwner (s := s) listed stored
  have run := State.execAssign_world small ran
  refine ⟨_, run, rfl, owned, ?_, fun x other => ?_⟩
  · exact congrArg (fun o => State.onCur (fun c => { c with fotResult := 0, fotOwner := o }) _) owned
  · exact State.world_onWorld_other (s := s.setOwner frame (BitVec.ofNat 8 w)) other
      fun x : World => { x with moved := if x.prev.isSome then x.moved ++ [frame] else x.moved }

/-- ASSIGN refuses a frame that is not free. -/
theorem assign_refused {w : Nat} {r : BitVec 3} (small : w < 64)
    (refused : s.owner frame = ownScrub ∧ r = 1 ∨ s.owner frame ≠ ownFree ∧ s.owner frame ≠ ownScrub ∧ r = 2) :
    exec (.assign s.activeCurator frame w) s = .next (s.onCur fun c => { c with fotResult := r, fotOwner := s.owner frame }) := by
  refine State.execAssign_world small ((State.fotCommand_assign listed small).trans ?_)
  obtain ⟨scrub, rfl⟩ | ⟨taken, settled, rfl⟩ := refused
  · exact if_pos scrub
  · exact (if_neg settled).trans (if_neg taken)

/-- RELEASE of a frame that has an owner and no pinned run. -/
theorem release_owned (valid : ownerValid (s.owner frame) = true) (loose : s.pinnedFrame frame = false) :
    ∃ t, exec (.release s.activeCurator frame) s = .next t ∧ t.fot = SMap.put 0xFE frame 0xFE s.fot ∧
      t = { s with fot := t.fot, cur := { s.cur with fotResult := 0, fotOwner := t.owner frame } } := by
  have ran := State.fotCommand_release (s := s) listed
  rw [valid, loose] at ran
  exact ⟨_, congrArg Host.Outcome.next (State.fotRun_active ran), rfl, rfl⟩

/-- RELEASE refuses a frame with a pinned run, and one without an owner. -/
theorem release_refused {r : BitVec 3}
    (refused : ownerValid (s.owner frame) = true ∧ s.pinnedFrame frame = true ∧ r = 3 ∨ ownerValid (s.owner frame) = false ∧ r = 2) :
    exec (.release s.activeCurator frame) s = .next (s.onCur fun c => { c with fotResult := r, fotOwner := s.owner frame }) := by
  refine congrArg Host.Outcome.next (State.fotRun_active ((State.fotCommand_release listed).trans ?_))
  obtain ⟨valid, pinned, rfl⟩ | ⟨invalid, rfl⟩ := refused
  · rw [valid, pinned]; rfl
  · rw [invalid]; rfl

/-- The scrub of a frame in SCRUB that nothing holds back. -/
theorem scrub_completes (scrub : s.owner frame = ownScrub) (trained : s.inTraining (512 * frame) = false)
    (idle : (s.fills.any fun f => frameOfLine f.index == frame) = false) :
    ∃ t, exec (.scrubComplete frame) s = .next t ∧ t.owner frame = 0xFF ∧
      (∀ l ∈ t.lines, frameOfLine l.index ≠ frame) ∧
      (∀ a, a / 65536 = frame → t.hbm.read a = 0) ∧ (∀ a, a / 65536 ≠ frame → t.hbm.read a = s.hbm.read a) ∧
      t = { s with
        core := t.core, others := t.others, lines := t.lines, hbm := t.hbm, hbmTags := t.hbmTags, fot := SMap.put 0xFE frame 0xFF s.fot } ∧
      ∃ g : Core → Core, t.cores = s.cores.map g ∧ ∀ c, ∃ late parked, g c = { c with late := late, parkedLate := parked } ∧
        late.length = c.late.length ∧ parked.length = c.parkedLate.length := by
  obtain ⟨g, dropped, kept⟩ := s.dropLines_frame fun l => frameOfLine l.index == frame
  have run := execScrubComplete_scrubs listed scrub trained idle
  rw [dropped] at run
  refine ⟨_, run, State.owner_setOwner listed (by decide), fun l left => ?_, fun a inside => State.read_blankFrame_inside inside,
    fun a outside => State.read_blankFrame_outside outside, rfl, g, rfl, kept⟩
  simpa using (List.mem_filter.mp left).2

end

/-- Settles O49: each row is the update of its register once its writer is known, a command of the table is what it answers for the state of its
frame, and a scrub is the lines dropped, the frame blanked and its owner set. -/
theorem curatorAndFrames : Obligations.CuratorAndFrames := by
  unfold Obligations.CuratorAndFrames
  intro s frame listed
  refine ⟨fun a found faulted => execTakeover_faulted found faulted, fun val => congrArg Host.Outcome.next State.writeJcommit_active,
    fun who val other => congrArg Host.Outcome.next (State.writeJcommit_other other), ?short, ?long,
    fun who pos low high small => execJcrcCheck_control low high small,
    congrArg Host.Outcome.next (if_pos rfl), fun holding room => congrArg Host.Outcome.next (State.releaseRecords_room holding room),
    fun w small free => assign_free listed small free, ?scrub, ?taken,
    fun valid loose => release_owned listed valid loose, fun valid pinned => release_refused listed (.inl ⟨valid, pinned, rfl⟩),
    fun invalid => release_refused listed (.inr ⟨invalid, rfl⟩),
    congrArg Host.Outcome.next (State.fotRun_active (State.fotCommand_read listed)), ?beyond,
    congrArg Host.Outcome.next (State.fotRun_active State.fotCommand_nop),
    fun scrub trained idle => scrub_completes listed scrub trained idle⟩
  case short =>
    intro who pos low high small short
    refine (execJcrcSeal_control low high small).trans (congrArg Host.Outcome.next ?_)
    simp only [State.onCur, Curator.seal, short, if_true]
  case long =>
    intro who pos low high small long
    refine (execJcrcSeal_control low high small).trans (congrArg Host.Outcome.next ?_)
    simp only [State.onCur, Curator.seal_long long]
  case scrub =>
    intro w small scrub
    have answered := assign_refused listed (r := 1) small (.inl ⟨scrub, rfl⟩)
    rwa [scrub] at answered
  case taken =>
    intro w small taken settled
    exact assign_refused listed small (.inr ⟨taken, settled, rfl⟩)
  case beyond =>
    intro f beyond
    have answered := State.fotRun_active (State.fotCommand_beyond (s := s) (op := 3) (owner := 0) beyond)
    rw [State.owner_from_fot beyond] at answered
    exact congrArg Host.Outcome.next answered

end Sys2Proof.Cert
end

section
/-! Fills, released effects, invalidations, column changes, the retraining of a stack, and the data of a HOST copy (R85-R97, R104, R193,
R194). -/

namespace Sys2Proof.Machine

variable {s : State}

/-! ## Fills

What a fill finds does not depend on the fills that wait. -/

section
variable {fills : List Fill}

theorem State.hit_fills {cluster index key} : State.hit { s with fills := fills } cluster index key = s.hit cluster index key := rfl

theorem State.lineData_fills {l : Line} : State.lineData { s with fills := fills } l = s.lineData l := rfl

theorem State.hbmRead_fills {index key} : State.hbmRead { s with fills := fills } index key = s.hbmRead index key := rfl

theorem State.hasRoom_fills {cluster index key ctx} :
    State.hasRoom { s with fills := fills } cluster index key ctx = s.hasRoom cluster index key ctx := rfl
end

section
variable {n : Nat} {f : Fill} (found : s.fills.find? (fun f => f.id == n) = some f) (ready : s.fillWaits f = false)
include found ready

theorem execFillInstall_uncorrectable : execFillInstall n .uncorrectable s =
    .next (State.drainWb (State.poisonFill f (State.reportUnit 2 f.index { s with fills := s.fills.filter fun g => g.id != n }))) := by
  simp [execFillInstall, found, ready]

variable (good : s.badStack f.index = false)
include good

/-- A fill whose line is there. -/
theorem execFillInstall_hit {l : Line} (hit : s.hit f.cluster f.index f.key = some l) : execFillInstall n .clean s =
    .next (State.drainWb (State.deliverFill f (s.lineData l)
      (State.touch { s with fills := s.fills.filter fun g => g.id != n } f.cluster f.index f.key))) := by
  simp [execFillInstall, found, ready, good, State.hit_fills, State.lineData_fills, hit]

/-- A fill of a line that is not there, under the key of the line. -/
theorem execFillInstall_room {x : Vec} (miss : s.hit f.cluster f.index f.key = none) (read : s.hbmRead f.index f.key = some x)
    (room : s.hasRoom f.cluster f.index f.key f.ctx = true) : execFillInstall n .clean s =
    .next (State.drainWb (State.deliverFill f x
      (State.install { s with fills := s.fills.filter fun g => g.id != n } f.cluster f.index f.key f.ctx x false))) := by
  simp [execFillInstall, found, ready, good, State.hit_fills, State.hbmRead_fills, State.hasRoom_fills, miss, read, room]

/-- A fill of a line that is not there, under another key. -/
theorem execFillInstall_foreign (miss : s.hit f.cluster f.index f.key = none) (unread : s.hbmRead f.index f.key = none) :
    execFillInstall n .clean s =
    .next (State.drainWb (State.poisonFill f (State.reportUnit 11 f.index { s with fills := s.fills.filter fun g => g.id != n }))) := by
  simp [execFillInstall, found, ready, good, State.hit_fills, State.hbmRead_fills, miss, unread]
end

/-! ## Writebacks -/

theorem State.writeback_training {l : Line} (dirty : l.dirty = true) (training : s.inTraining l.index = true) :
    s.writeback l = { s with heldWb := s.heldWb ++ [⟨l.index, l.data, l.tag, s.nextFill⟩] } := by
  simp [State.writeback, State.wbWaits, dirty, training]

theorem State.heldWb_eta {held : List HeldWrite} (same : s.heldWb = held) : { s with heldWb := held } = s := by
  subst same
  rfl

theorem State.drainWb_nil (empty : s.heldWb = []) : s.drainWb = s := by
  simp only [State.drainWb, empty, List.foldl_nil, State.heldWb_eta empty]

theorem State.drainWb_one {w : HeldWrite} (one : s.heldWb = [w]) :
    s.drainWb = if s.wbWaits w = true then s else State.hbmPut { s with heldWb := [] } w.index w.cipher w.tag := by
  simp only [State.drainWb, one, List.foldl_cons, List.foldl_nil, List.nil_append, State.heldWb_eta one]

theorem State.hbmPut_stackBad {index : Nat} {cipher : Vec} {tag : Word} : (s.hbmPut index cipher tag).stackBad = s.stackBad := by
  unfold State.hbmPut
  rfl

theorem State.drainWb_stackBad : s.drainWb.stackBad = s.stackBad :=
  foldl_keeps (fun t : State => t.stackBad = s.stackBad) _ (fun t w kept => by
    split
    · exact kept
    · exact State.hbmPut_stackBad.trans kept) s.heldWb _ rfl

/-! ## Released effects -/

section
variable {g : Gated} (next : s.nextEffect = some g)
include next

theorem execReleasedEffectPerform_next : execReleasedEffectPerform s = .next (s.performEffect g) := by
  simp only [execReleasedEffectPerform, next]

theorem execCinvPerform_inval {lines} (inval : g.eff = .inval lines) :
    execCinvPerform s = .next ((s.evictLines fun l => l.cluster == g.cluster && lines.contains l.index).dropEffect g.id) := by
  simp only [execCinvPerform, next, inval]
end

theorem distinct_same {l : List Nat} {i : Nat} (filled : l ≠ []) (same : ∀ x ∈ l, x = i) : distinct l = [i] := by
  have only : ∀ x, x ∈ distinct l ↔ x = i := fun x => mem_distinct.trans
    ⟨same x, fun at' => by obtain ⟨y, mem⟩ := List.exists_mem_of_ne_nil l filled; rwa [at', ← same y mem]⟩
  exact List.perm_singleton.mp ((List.perm_ext_iff_of_nodup (nodup_distinct l) (List.nodup_singleton i)).mpr (by simpa using only))

/-- A released write whose bytes are all in one line that is there. -/
theorem State.performEffect_l2_line {g : Gated} {key : MemKey} {bytes : List (Nat × Byte)} {i : Nat}
    (queued : s.released.find? (fun h => h.id == g.id) = some g) (write : g.eff = .write .l2 key bytes) (filled : bytes ≠ [])
    (inside : ∀ b ∈ bytes, b.1 / 128 = i) (hit : (s.hit g.cluster i key).isSome = true) :
    s.performEffect g = (s.mergeLine g.cluster i key bytes).dropEffect g.id := by
  have line : distinct (bytes.map fun b => b.1 / 128) = [i] := distinct_same (by simpa using filled) (List.forall_mem_map.mpr inside)
  have all : inLine i bytes = bytes := List.filter_eq_self.mpr fun b mem => by simpa using inside b mem
  have rest : notInLine i bytes = [] := List.filter_eq_nil_iff.mpr fun b mem => by simpa using inside b mem
  have queued' : (s.mergeLine g.cluster i key bytes).released.find? (fun h => h.id == g.id) = some g := queued
  simp [State.performEffect, write, State.performL2, filled, line, all, State.performLine, hit, queued', State.lineDone, rest]

theorem State.closeColls_frame : ∃ core others tasks ends writes colls,
    s.closeColls = { s with core := core, others := others, tasks := tasks, collEnds := ends, collWrites := writes, colls := colls } := by
  refine foldl_keeps (fun t : State => ∃ core others tasks ends writes colls,
    t = { s with core := core, others := others, tasks := tasks, collEnds := ends, collWrites := writes, colls := colls }) _ ?_
    s.collWrites s ⟨_, _, _, _, _, _, rfl⟩
  rintro t p ⟨core, others, tasks, ends, writes, colls, rfl⟩
  split
  · exact ⟨_, _, _, _, _, _, rfl⟩
  · exact ⟨_, _, _, _, _, _, rfl⟩

theorem State.dropEffect_lines {id : Nat} : (s.dropEffect id).lines = s.lines := by
  obtain ⟨_, _, _, _, _, _, closed⟩ := State.closeColls_frame (s := { s with released := s.released.filter fun g => g.id != id })
  rw [State.dropEffect, closed]

theorem State.dropEffect_released {id : Nat} : (s.dropEffect id).released = s.released.filter fun g => g.id != id := by
  obtain ⟨_, _, _, _, _, _, closed⟩ := State.closeColls_frame (s := { s with released := s.released.filter fun g => g.id != id })
  rw [State.dropEffect, closed]

/-! ## Lines evicted -/

theorem State.writeback_frame (l : Line) : ∃ hbm tags held,
    s.writeback l = { s with hbm := hbm, hbmTags := tags, heldWb := held } := by
  unfold State.writeback
  split
  · exact ⟨_, _, _, rfl⟩
  · dsimp only
    split
    · exact ⟨_, _, _, rfl⟩
    · exact ⟨_, _, _, rfl⟩

theorem State.evictLines_frame (p : Line → Bool) : ∃ core others hbm tags held,
    s.evictLines p = { s with
      core := core, others := others, hbm := hbm, hbmTags := tags, heldWb := held, lines := s.lines.filter fun l => !p l } := by
  obtain ⟨hbm, tags, held, written⟩ : ∃ hbm tags held,
      (s.lines.filter p).foldl State.writeback s = { s with hbm := hbm, hbmTags := tags, heldWb := held } := by
    refine foldl_keeps (fun t : State => ∃ hbm tags held, t = { s with hbm := hbm, hbmTags := tags, heldWb := held }) _ ?_
      (s.lines.filter p) s ⟨_, _, _, rfl⟩
    rintro t l ⟨hbm, tags, held, rfl⟩
    exact State.writeback_frame l
  obtain ⟨g, dropped, -⟩ := State.dropLines_frame (s := { s with hbm := hbm, hbmTags := tags, heldWb := held }) p
  exact ⟨_, _, hbm, tags, held, by rw [State.evictLines, written, dropped]; rfl⟩

theorem State.evictLines_lines (p : Line → Bool) : (s.evictLines p).lines = s.lines.filter fun l => !p l := by
  obtain ⟨_, _, _, _, _, evicted⟩ := s.evictLines_frame p
  rw [evicted]

theorem State.evictLines_released (p : Line → Bool) : (s.evictLines p).released = s.released := by
  obtain ⟨_, _, _, _, _, evicted⟩ := s.evictLines_frame p
  rw [evicted]

/-! ## Columns of an L2 -/

/-- The columns whose bit a write of L2COL changes, where its OFF differs from the old one in the bit of column c alone. -/
theorem changedColumns_single (off : BitVec 4) {c : Nat} (small : c < 4) :
    ((List.range 4).filter fun i => (off ^^^ ((1 : BitVec 4) <<< c)).getLsbD i != off.getLsbD i) = [c] := by
  interval_cases c <;> revert off <;> decide

/-- No pair of columns is off where the fields of the pairs say so. -/
theorem pairs_on {v : BitVec 32} (low : (v.extractLsb' 0 2 : BitVec 2) ≠ 3) (high : (v.extractLsb' 2 2 : BitVec 2) ≠ 3) :
    ((v.extractLsb' 0 4 : BitVec 4) &&& 3 == 3) = false ∧ ((v.extractLsb' 0 4 : BitVec 4) &&& 12 == 12) = false := by
  have fields : ∀ x : BitVec 4, x.extractLsb' 0 2 ≠ (3 : BitVec 2) → x.extractLsb' 2 2 ≠ (3 : BitVec 2) →
      (x &&& 3 == 3) = false ∧ (x &&& 12 == 12) = false := by decide
  refine fields _ ?_ ?_
  · rwa [BitVec.extractLsb'_extractLsb'_of_le (by decide)]
  · rwa [BitVec.extractLsb'_extractLsb'_of_le (by decide)]

/-- A write of L2COL that changes one column of a free cluster starts the change. -/
theorem State.writeL2col_change {g c : Nat} {val : BitVec 32} (small : c < 4) (free : s.clusterBusy g = false)
    (still : (s.col g).change = none) (one : (val.extractLsb' 0 4 : BitVec 4) = (s.col g).off ^^^ ((1 : BitVec 4) <<< c))
    (low : (val.extractLsb' 0 2 : BitVec 2) ≠ 3) (high : (val.extractLsb' 2 2 : BitVec 2) ≠ 3) :
    s.writeL2col g val = s.setCol g { s.col g with
      err := (s.col g).err && !val.getLsbD 31, change := some (c, val.getLsbD c) } := by
  obtain ⟨first, second⟩ := pairs_on low high
  have changed := changedColumns_single (s.col g).off small
  rw [← one] at changed
  have bit : (val.extractLsb' 0 4 : BitVec 4).getLsbD c = val.getLsbD c := by simp [small]
  have single : decide (1 < [c].length) = false := rfl
  simp only [State.writeL2col, free, still, first, second, changed, single, bit, Option.isSome_none, Bool.or_false, Bool.false_eq_true,
    if_false]

/-- A write of L2COL while a task holds a core of the cluster. -/
theorem State.writeL2col_busy {g : Nat} {val : BitVec 32} (busy : s.clusterBusy g = true) :
    s.writeL2col g val = s.setCol g { s.col g with err := true } := by
  simp only [State.writeL2col, busy, Bool.true_or, Bool.or_true, if_true]
  split
  · rfl
  · rfl

/-- The end of a column change: the lines of the column are where the change puts them, and OFF shows it. -/
theorem execColumnChangeDone_change {g c : Nat} {off : Bool} (small : g < 64) (change : (s.col g).change = some (c, off))
    (quiet : (s.released.any fun x => x.cluster == g) = false) :
    execColumnChangeDone g s = .next ((s.evictLines fun l => l.cluster == g && l.fold != off && l.index % 4 == c).setCol g { s.col g with
      off := (if off then (s.col g).off ||| ((1 : BitVec 4) <<< c) else (s.col g).off &&& ~~~((1 : BitVec 4) <<< c)), change := none }) := by
  have admitted : ¬(64 ≤ g ∨ (s.released.any fun x => x.cluster == g) = true) := by simp [small, quiet]
  simp only [execColumnChangeDone, change, if_neg admitted]
  cases off with
  | true => simp
  | false => simp

/-! ## The retraining of a stack -/

section
variable {n : Nat} (small : n < 8)
include small

theorem execHbmRetrain_drained {ok} (untrained : s.training.getLsbD n = false) (drained : s.inStack n = []) :
    execHbmRetrain n ok s = .next { s with
      draining := s.draining &&& ~~~((1 : BitVec 8) <<< n), training := s.training ||| ((1 : BitVec 8) <<< n) } := by
  simp only [execHbmRetrain, if_neg (Nat.not_le.mpr small), untrained, drained, Bool.false_eq_true, if_false]

theorem execHbmRetrain_drains {ok} (untrained : s.training.getLsbD n = false) (held : s.inStack n ≠ []) :
    execHbmRetrain n ok s =
      .next ((s.inStack n).foldl (fun t k => t.unpin k.id) { s with draining := s.draining ||| ((1 : BitVec 8) <<< n) }) := by
  cases tasks : s.inStack n with
  | nil => exact absurd tasks held
  | cons k ks => simp only [execHbmRetrain, if_neg (Nat.not_le.mpr small), untrained, tasks, Bool.false_eq_true, if_false]

theorem execHbmRetrain_ends (trained : s.training.getLsbD n = true) :
    let t := State.drainWb { s with
      training := s.training &&& ~~~((1 : BitVec 8) <<< n)
      fills := s.fills.map fun f => if stackOfLine f.index = n then { f with held := true } else f }
    execHbmRetrain n true s = .next { t with stackBad := s.stackBad &&& ~~~((1 : BitVec 8) <<< n) } ∧
    execHbmRetrain n false s = .next (State.reportDomain { t with stackBad := s.stackBad ||| ((1 : BitVec 8) <<< n) } n) := by
  constructor
  · simp only [execHbmRetrain, if_neg (Nat.not_le.mpr small), trained, if_true, State.drainWb_stackBad]
  · simp only [execHbmRetrain, if_neg (Nat.not_le.mpr small), trained, if_true, Bool.false_eq_true, if_false, State.drainWb_stackBad]
end

/-! ## The data of a copy from a HOST extent -/

theorem chunks16_nil {α : Type} : chunks16 ([] : List α) = [] := by simp [chunks16]

theorem chunks16_one {α : Type} {l : List α} (filled : l ≠ []) (few : l.length ≤ 16) : chunks16 l = [l] := by
  have positive := List.length_pos_of_ne_nil filled
  have count : (l.length + 15) / 16 = 1 := by omega
  simp [chunks16, count, List.take_of_length_le few]

/-- The first of a list that answers a search. -/
theorem findSome?_of_find? {α β : Type} {l : List α} {p : α → Bool} {f : α → Option β} {a : α} {b : β} (found : l.find? p = some a)
    (others : ∀ x, p x = false → f x = none) (answer : f a = some b) (more : List α) : (l ++ more).findSome? f = some b := by
  obtain ⟨-, before, after, rfl, passed⟩ := List.find?_eq_some_iff_append.mp found
  have skipped : before.findSome? f = none := List.findSome?_eq_none_iff.mpr fun x mem => others x (by simpa using passed x mem)
  simp [skipped, answer]

/-- The data of a copy of at most 16 bytes from a HOST extent. -/
theorem State.uncachedData_host {u : Uncached} (host : u.backing = .host) (few : u.moves.length ≤ 16) (filled : u.moves ≠ [])
    (few' : u.dead.length ≤ 16) : s.uncachedData u = fun c =>
      let d := { c with uncached := c.uncached.filter fun x => x.copy != u.copy }
      Core.lateBytes u.copy (u.moves.map fun m => (m.2, s.hostMem.read m.1))
        (if u.dead = [] then d else d.copyDone u.copy (u.dead.map (·.2)) true false) := by
  funext c
  by_cases dead : u.dead = []
  · simp [State.uncachedData, chunks16_one filled few, dead, chunks16_nil, host, State.sourceBytes]
  · simp [State.uncachedData, chunks16_one filled few, chunks16_one dead few', dead, host, State.sourceBytes]

theorem execUncachedCopySourceArrival_host {c : Core} {u : Uncached} (found : s.coreOf c.id = some c)
    (way : c.uncached.find? (fun x => x.copy == u.copy) = some u) (host : u.backing = .host) (runs : s.dmaStopped c.task = false) :
    execUncachedCopySourceArrival c.id u.copy s = .next (s.onCopy u.copy (s.uncachedData u)) := by
  have here := findSome?_of_find? found (b := (u, c.task)) (f := fun d : Core =>
    if d.id = c.id then (d.uncached.find? fun x => x.copy == u.copy).map fun x => (x, d.task) else none)
    (fun d other => if_neg (by simpa using other)) (by simp [way])
  simp [execUncachedCopySourceArrival, here, host, runs, State.poisonUnits]

end Sys2Proof.Machine
end

section
namespace Sys2Proof.Cert

open Sys2Proof.Machine

/-- Settles O50: each clause is the rule of its row; an invalidation and a column change rest on the frame of evictLines. -/
theorem memoryEvents : Obligations.MemoryEvents := by
  unfold Obligations.MemoryEvents
  intro s
  refine ⟨fun n f x found ready good miss read room => execFillInstall_room found ready good miss read room,
    fun n f l found ready good hit => execFillInstall_hit found ready good hit,
    fun n f found ready good miss unread => execFillInstall_foreign found ready good miss unread,
    fun n f found ready => execFillInstall_uncorrectable found ready,
    fun l t dirty training => State.writeback_training dirty training,
    fun t => ⟨State.drainWb_nil, fun w one => State.drainWb_one one⟩,
    ?host, ?line, ?flush, ?stretcher, ?inval, ?change, ?busy, ?done,
    fun n ok small untrained drained => execHbmRetrain_drained small untrained drained,
    fun n ok small untrained held => execHbmRetrain_drains small untrained held,
    fun n small trained => execHbmRetrain_ends small trained, ?copy⟩
  case host =>
    intro g key bytes next write runs
    refine (execReleasedEffectPerform_next next).trans (congrArg Host.Outcome.next ?_)
    simp only [State.performEffect, write, runs, Bool.false_eq_true, if_false]
  case line =>
    intro g key bytes i next queued write filled inside hit
    exact (execReleasedEffectPerform_next next).trans
      (congrArg Host.Outcome.next (State.performEffect_l2_line queued write filled inside hit))
  case flush =>
    intro g lines next flush
    refine (execReleasedEffectPerform_next next).trans (congrArg Host.Outcome.next ?_)
    simp only [State.performEffect, flush]
  case stretcher =>
    intro g key bytes next write
    refine (execReleasedEffectPerform_next next).trans (congrArg Host.Outcome.next ?_)
    simp only [State.performEffect, write]
  case inval =>
    intro g lines next inval
    refine ⟨_, execCinvPerform_inval next inval, ?_, ?_, ?_⟩
    · intro l left here
      rw [State.dropEffect_lines, State.evictLines_lines, List.mem_filter] at left
      simpa [here] using left.2
    · intro l there outside
      rw [State.dropEffect_lines, State.evictLines_lines, List.mem_filter]
      exact ⟨there, by simpa [imp_iff_not_or] using outside⟩
    · rw [State.dropEffect_released, State.evictLines_released]
  case change =>
    intro g c val small column free still one low high
    exact congrArg Host.Outcome.next ((if_pos ⟨rfl, small⟩).trans (State.writeL2col_change column free still one low high))
  case busy =>
    intro g val small busy
    exact congrArg Host.Outcome.next ((if_pos ⟨rfl, small⟩).trans (State.writeL2col_busy busy))
  case done =>
    intro g c off small change quiet
    refine ⟨_, execColumnChangeDone_change small change quiet, fun l left here column => ?_⟩
    simpa [here, column] using State.evictLines_gone left
  case copy =>
    intro c u found way host runs few filled few'
    refine (execUncachedCopySourceArrival_host found way host runs).trans (congrArg (fun f => Host.Outcome.next (s.onCopy u.copy f)) ?_)
    exact State.uncachedData_host host few filled few'

end Sys2Proof.Cert
end

section
/-! The words of a slot (R237-R241), and what a core may not issue (R240, R242, R243). -/

namespace Sys2Proof

/-! ## The opcode maps -/

/-- The opcode map of a slot names instructions of that slot alone (R241). -/
theorem slotOf_of_candidate {k : Nat} {w : SlotWord} {i : Instr} (read : candidate k w = some i) : slotOf i = k := by
  match k, read with
  | 0, read | 1, read | 2, read | 3, read | 4, read | 5, read | 6, read | 7, read =>
    simp only [candidate, candidate0, candidate1, candidate2, candidate3, candidate4, candidate5, candidate6, candidate7] at read
    (repeat' split at read) <;> cases read <;> rfl

/-- Major 0 is unassigned in every map: the no-op alone has it (R238). -/
theorem candidate_of_majorZero (k : Nat) {w : SlotWord} (major : (w.extractLsb' 26 6 : BitVec 6) = 0) : candidate k w = none := by
  unfold candidate
  split <;> simp [candidate0, candidate1, candidate2, candidate3, candidate4, candidate5, candidate6, candidate7, major]

/-! ## The decoder -/

/-- A word decodes to the no-op where it is zero, else to what the map of the slot names, where that has this word and is well formed. -/
theorem decodeSlot_eq_some {k : Nat} {w : SlotWord} {i : Instr} (decodes : decodeSlot k w = some i) :
    (w = 0 ∧ i = .nop) ∨ (candidate k w = some i ∧ encode i = w ∧ wellFormed i = true) := by
  unfold decodeSlot at decodes
  split at decodes
  case isTrue zero => exact .inl ⟨zero, (Option.some.inj decodes).symm⟩
  case isFalse =>
    split at decodes
    case h_1 => cases decodes
    case h_2 j read =>
      split at decodes
      case isTrue accepted =>
        cases decodes
        exact .inr ⟨read, by simpa using accepted⟩
      case isFalse => cases decodes

theorem decodeSlot_of_unassigned {k : Nat} {w : SlotWord} (other : w ≠ 0#32) (unassigned : candidate k w = none) : decodeSlot k w = none := by
  unfold decodeSlot
  rw [if_neg other, unassigned]

/-- The word that decodes is that of its instruction, which the slot runs unless it is the no-op (R239). -/
theorem encode_of_decodeSlot {k : Nat} {w : SlotWord} {i : Instr} (decodes : decodeSlot k w = some i) :
    encode i = w ∧ wellFormed i = true ∧ (slotOf i = k ∨ i = .nop) := by
  obtain ⟨rfl, rfl⟩ | ⟨read, word, formed⟩ := decodeSlot_eq_some decodes
  · exact ⟨rfl, rfl, .inr rfl⟩
  · exact ⟨word, formed, .inl (slotOf_of_candidate read)⟩

end Sys2Proof

namespace Sys2Proof.Machine

/-! ## What a core may not issue -/

variable {c : Core} {i : Instr}

theorem Core.issueFault_of_notOnControl (control : c.isControl = true) (lacks : notOnControl i = true) :
    c.issueFault i = some .slotProfile := by
  simp [Core.issueFault, control, lacks]

/-- On a compute core an instruction whose fields are legal there meets the check of its privilege alone. -/
theorem Core.issueFault_of_compute (compute : c.isControl = false) (formed : wellFormedOn false i = true) :
    c.issueFault i = if c.privileged i then some .privilege else none := by
  simp [Core.issueFault, compute, formed]

/-- The Curators and the Conservator are control cores (R242). -/
theorem Core.not_curator_nor_conservator (compute : c.isControl = false) : c.isCurator = false ∧ (c.id != 514) = true := by
  have small : c.id < 512 := by simpa [Core.isControl] using compute
  simp only [Core.isCurator, Bool.or_eq_false_iff, beq_eq_false_iff_ne, bne_iff_ne]
  omega

end Sys2Proof.Machine
end

section
namespace Sys2Proof.Cert

open Sys2Proof.Machine

/-- Settles O55: the decoder accepts a candidate of the slot's map alone, and every instruction with a slot runs under the checks of
issue. -/
theorem issueChecks : Obligations.IssueChecks := by
  unfold Obligations.IssueChecks
  refine ⟨fun k w i decodes => encode_of_decodeSlot decodes,
    fun k w major other => decodeSlot_of_unassigned other (candidate_of_majorZero k major),
    ?fault, ?dead, ?struck, fun c i control lacks => Core.issueFault_of_notOnControl control lacks, ?task, ?service⟩
  case fault =>
    intro s i cause slot fails
    obtain ⟨f, runs⟩ := exec_runs i slot s
    exact runs.trans (congrArg Host.Outcome.next (State.run_of_fault fails f))
  case dead =>
    intro s i slot passes condemned
    obtain ⟨f, runs⟩ := exec_runs i slot s
    exact runs.trans (congrArg Host.Outcome.next (State.run_of_dead passes condemned f))
  case struck =>
    intro s i x slot passes alive struck
    obtain ⟨f, runs⟩ := exec_runs i slot s
    exact ⟨if x.1 = .twinMismatch then none else s.core.twin,
      runs.trans (congrArg Host.Outcome.next (State.run_of_struck passes alive struck f))⟩
  case task =>
    intro c compute task
    obtain ⟨notCurator, notConservator⟩ := Core.not_curator_nor_conservator compute
    have refuses {i : Instr} (formed : wellFormedOn false i = true) (held : c.privileged i = true) : c.issueFault i = some .privilege := by
      rw [Core.issueFault_of_compute compute formed, if_pos held]
    have inTask : (c.mode == .task) = true := by simp [task]
    refine ⟨refuses rfl inTask, refuses rfl inTask, refuses rfl inTask, refuses rfl inTask, fun _ _ _ => refuses rfl inTask,
      fun _ _ _ _ => refuses rfl ?_, fun _ _ _ => refuses rfl notConservator, fun _ => refuses rfl notConservator,
      fun armed _ => refuses rfl ?_⟩
    · simp [Core.privileged, notCurator]
    · simp [Core.privileged, task, armed]
  case service =>
    intro c compute service
    have permits {i : Instr} (formed : wellFormedOn false i = true) (free : c.privileged i = false) : c.issueFault i = none := by
      rw [Core.issueFault_of_compute compute formed, free]; rfl
    have notTask : (c.mode == .task) = false := by simp [service]
    refine ⟨permits rfl notTask, permits rfl notTask, permits rfl notTask, permits rfl notTask, fun _ => permits rfl ?_⟩
    simp [Core.privileged, service]

end Sys2Proof.Cert
end

section
/-! The cores of a state, sorting by a measure, and words that are bad no more: shared facts about the cores' operations. -/

namespace Sys2Proof.Machine

/-! ## Sorting by a measure -/

@[simp] theorem mem_insertBy {α : Type} {key : α → Nat} {x y : α} {l : List α} : y ∈ insertBy key x l ↔ y = x ∨ y ∈ l := by
  induction l with
  | nil => simp [insertBy]
  | cons z l ih =>
    rw [insertBy]
    split
    · exact List.mem_cons
    · rw [List.mem_cons, ih, List.mem_cons, or_left_comm]

/-- Sorting keeps the elements of a list. -/
@[simp] theorem mem_sortBy {α : Type} {key : α → Nat} {x : α} {l : List α} : x ∈ sortBy key l ↔ x ∈ l := by
  induction l using List.reverseRecOn with
  | nil => exact Iff.rfl
  | append_singleton l y ih =>
    rw [sortBy, List.foldl_append]
    exact mem_insertBy.trans ((or_congr_right ih).trans (by rw [List.mem_append, List.mem_singleton, or_comm]))

/-- Two elements of different measure are sorted into their order, whichever comes first. -/
theorem sortBy_pair {α : Type} {key : α → Nat} {x y : α} (less : key x < key y) {l : List α} (either : l = [x, y] ∨ l = [y, x]) :
    sortBy key l = [x, y] := by
  rcases either with rfl | rfl
  · exact if_neg less.asymm
  · exact if_pos less

/-! ## The cores of a state -/

@[simp] theorem State.cores_mapCores (s : State) (f : Core → Core) : (s.mapCores f).cores = s.cores.map f := rfl

theorem State.mem_mapCores {s : State} {f : Core → Core} {d : Core} : d ∈ (s.mapCores f).cores ↔ ∃ c ∈ s.cores, f c = d := by
  rw [State.cores_mapCores, List.mem_map]

theorem State.mem_of_coreOf {s : State} {id : Nat} {c : Core} (found : s.coreOf id = some c) : c ∈ s.cores :=
  List.mem_of_find?_eq_some found

theorem State.coreOf_mapCores {s : State} {id : Nat} {c : Core} (found : s.coreOf id = some c) {f : Core → Core}
    (keeps : ∀ d, (f d).id = d.id) : (s.mapCores f).coreOf id = some (f c) := by
  have same : ((fun d : Core => d.id == id) ∘ f) = fun d => d.id == id := funext fun d => by simp [keeps d]
  rw [State.coreOf, State.cores_mapCores, List.find?_map, same]
  exact congrArg (Option.map f) found

theorem State.coreOf_onCore {s : State} {c : Core} (found : s.coreOf c.id = some c) {f : Core → Core} (keeps : ∀ d, (f d).id = d.id) :
    (s.onCore c.id f).coreOf c.id = some (f c) := by
  have kept : ∀ d : Core, (if d.id = c.id then f d else d).id = d.id := fun d => by split; exacts [keeps d, rfl]
  exact (State.coreOf_mapCores found kept).trans (by rw [if_pos rfl])

/-- An operation on the cores that leaves each of them leaves the state. -/
theorem State.mapCores_eq_self {s : State} {f : Core → Core} (leaves : ∀ c ∈ s.cores, f c = c) : s.mapCores f = s := by
  obtain ⟨focal, others⟩ := List.forall_mem_cons.mp leaves
  have kept : s.others.map f = s.others := (List.map_congr_left others).trans (List.map_id' _)
  rw [State.mapCores, focal, kept]

/-! ## Words that are bad no more (R163), and the undo log (R220) -/

theorem Core.mendReg_eq (c : Core) (p : RegWord → Bool) : ∃ bad, c.mendReg p = { c with bad := bad } := c.mend_eq _

@[simp] theorem Core.mendReg_r (c : Core) (p : RegWord → Bool) : (c.mendReg p).r = c.r := by
  obtain ⟨bad, mended⟩ := c.mendReg_eq p
  rw [mended]

theorem Core.recordRows_frame (rows : List Nat) (c : Core) : ∃ undo, rows.foldl Core.recordRow c = { c with undo := undo } := by
  refine foldl_keeps (fun d => ∃ undo, d = { c with undo := undo }) _ ?_ rows c ⟨_, rfl⟩
  rintro _ row ⟨undo, rfl⟩
  unfold Core.recordRow
  split
  · exact ⟨_, rfl⟩
  · exact ⟨_, rfl⟩

/-- A store changes the bytes of the scratchpad, the undo log and which words are bad, and nothing else. -/
theorem Core.storeLcl_eq (c : Core) (bytes : List (Nat × Byte)) : ∃ undo bad,
    c.storeLcl bytes = { c with lcl := c.lcl.writeCells bytes, undo := undo, bad := bad } := by
  obtain ⟨undo, recorded⟩ := Core.recordRows_frame (distinct (bytes.map fun b => rowOf b.1)) c
  obtain ⟨bad, mended⟩ := Core.mend_eq { c with lcl := c.lcl.writeCells bytes, undo := undo } _
  exact ⟨undo, bad, by unfold Core.storeLcl; rw [recorded]; exact mended⟩

end Sys2Proof.Machine
end

section
/-! When register writes in flight are seen (R144, R145, R149), and what a write of the guards leaves in them. -/

namespace Sys2Proof.Machine

section
variable {c : Core} {upTo : Nat}

theorem Core.applyDue_of_none_due (later : ∀ l ∈ c.late, upTo < l.due) : c.applyDue upTo = c := by
  have notDue : ∀ l ∈ c.late, (l.eff.early && decide (l.due ≤ upTo)) = false := fun l inFlight => by
    rw [decide_eq_false (Nat.not_le.mpr (later l inFlight)), Bool.and_false]
  have none : (c.late.filter fun l => l.eff.early && decide (l.due ≤ upTo)) = [] :=
    List.filter_eq_nil_iff.mpr fun l inFlight => by simp [notDue l inFlight]
  have all : (c.late.filter fun l => !(l.eff.early && decide (l.due ≤ upTo))) = c.late :=
    List.filter_eq_self.mpr fun l inFlight => by simp [notDue l inFlight]
  have holds : loseWrites [] c.holds = c.holds := List.map_id' _
  unfold Core.applyDue
  rw [none, all]
  exact congrArg (fun holds => { c with holds := holds }) holds

theorem Core.applyDue_single {l : Late} (only : c.late = [l]) (early : l.eff.early = true) (due : l.due ≤ upTo) (free : c.holds = []) :
    c.applyDue upTo = Core.applyEarly { c with late := [] } l.eff := by
  have taken : (l.eff.early && decide (l.due ≤ upTo)) = true := by rw [early, decide_eq_true due]; rfl
  unfold Core.applyDue
  rw [only, free, List.filter_singleton, List.filter_singleton, taken]
  rfl

/-- A write in flight of a register, alone, is seen as the registers with it made, and all else stays. -/
theorem Core.applyDue_register {l : Late} (only : c.late = [l]) (early : l.eff.early = true) (due : l.due ≤ upTo) (free : c.holds = [])
    {r : ArchRegs} {p : RegWord → Bool}
    (writes : Core.applyEarly { c with late := [] } l.eff = Core.mendReg { c with late := [], r := r } p) :
    ∃ bad, c.applyDue upTo = { c with late := [], r := r, bad := bad } := by
  obtain ⟨bad, mended⟩ := Core.mendReg_eq { c with late := [], r := r } p
  exact ⟨bad, (Core.applyDue_single only early due free).trans (writes.trans mended)⟩

/-- Of two writes in flight the one of the later operation comes last, in whichever order they stand. -/
theorem Core.applyDue_pair {l m : Late} (both : c.late = [l, m] ∨ c.late = [m, l]) (early : l.eff.early = true)
    (early' : m.eff.early = true) (due : l.due ≤ upTo) (due' : m.due ≤ upTo) (less : 16 * l.issued + l.slot < 16 * m.issued + m.slot) :
    ∃ d, c.applyDue upTo = Core.applyEarly d m.eff := by
  have taken : (c.late.filter fun l => l.eff.early && decide (l.due ≤ upTo)) = c.late := by
    refine List.filter_eq_self.mpr ?_
    rcases both with both | both <;> simp [both, early, early', due, due']
  have sorted := sortBy_pair (key := fun l : Late => 16 * l.issued + l.slot) less both
  exact ⟨_, by unfold Core.applyDue; rw [taken, sorted]; rfl⟩

end

theorem Core.sreg_applyEarly {n : BitVec 6} (stored : n ≠ 0) (x : Word) (c : Core) : (c.applyEarly (.sreg n x)).sreg n = x := by
  obtain ⟨bad, mended⟩ := Core.mendReg_eq { c with r := c.r.setS n x } (· == .s n)
  rw [Core.applyEarly, mended]
  exact Core.sreg_setS_same c n x stored

/-- A write of guards takes the bits that its mask names, but for g0, which stays 1. -/
theorem Core.greg_applyEarly (mask x : BitVec 8) (g : BitVec 3) (c : Core) : (c.applyEarly (.guards mask x)).greg g =
    if g = 0 then true else if mask.getLsbD g.toNat then x.getLsbD g.toNat else c.greg g := by
  split
  case isTrue zero => rw [zero]; rfl
  case isFalse nonzero =>
    have kept : (0xFE : BitVec 8).getLsbD g.toNat = true := by revert g; decide
    have inside : g.toNat < 8 := g.isLt
    simp only [Core.greg, Core.applyEarly, Core.mendReg_r, ArchRegs.setG, beq_eq_false_iff_ne.mpr nonzero, Bool.false_or]
    simp only [BitVec.getLsbD_or, BitVec.getLsbD_and, BitVec.getLsbD_not, kept, inside, decide_true, Bool.true_and, Bool.and_true]
    cases mask.getLsbD g.toNat <;> simp

/-- A store where no undo entry is taken is made in any case. -/
theorem Core.storeChecked_of_not_undoable {c : Core} (free : c.undoable = false) (l : Late) (bytes : List (Nat × Byte)) :
    c.storeChecked l bytes = c.storeLcl bytes := by
  unfold Core.storeChecked
  rw [free]
  rfl

end Sys2Proof.Machine
end

section
namespace Sys2Proof.Cert

open Sys2Proof.Machine

/-- Settles O57: a write of a register, alone in flight, is the write of that register; of two the later operation's comes last; and a store changes
its bytes, the undo log and which words are bad. -/
theorem writesTakeEffect : Obligations.WritesTakeEffect := by
  unfold Obligations.WritesTakeEffect
  intro c upTo
  refine ⟨Core.applyDue_of_none_due, ?scalar, ?vector, ?mask, ?later, fun mask x g => Core.greg_applyEarly mask x g c,
    ⟨rfl, rfl, rfl, rfl⟩, ?store, ?performs⟩
  case scalar =>
    intro l n x only eff due free
    obtain ⟨bad, seen⟩ := Core.applyDue_register (r := c.r.setS n x) only (by rw [eff]; rfl) due free (by rw [eff]; rfl)
    rw [seen]
    refine ⟨⟨bad, rfl⟩, ?_, fun m other => Core.sreg_setS_other c n m x other⟩
    split
    case isTrue zero => rw [zero]; rfl
    case isFalse stored => exact Core.sreg_setS_same c n x stored
  case vector =>
    intro l n x only eff due free
    obtain ⟨bad, seen⟩ := Core.applyDue_register (r := c.r.setV n x) only (by rw [eff]; rfl) due free (by rw [eff]; rfl)
    rw [seen]
    exact ⟨⟨bad, rfl⟩, Core.vreg_setV_same c n x, fun m other => Core.vreg_setV_other c n m x other⟩
  case mask =>
    intro l n x only eff due free
    obtain ⟨bad, seen⟩ := Core.applyDue_register (r := c.r.setM n x) only (by rw [eff]; rfl) due free (by rw [eff]; rfl)
    rw [seen]
    exact ⟨⟨bad, rfl⟩, Core.mreg_setM_same c n x, fun m other => Core.mreg_setM_other c n m x other⟩
  case later =>
    intro l m n x y both first last due due' less stored
    obtain ⟨d, seen⟩ := Core.applyDue_pair both (by rw [first]; rfl) (by rw [last]; rfl) due due' less
    rw [seen, last]
    exact Core.sreg_applyEarly stored y d
  case store =>
    intro bytes
    refine ⟨c.storeLcl_frame bytes, fun wf => ⟨c.storeLcl_wf bytes wf, fun once b stored => ?_⟩, ?_⟩
    · rw [Core.storeLcl_lcl]
      exact Memory.read_writeCells_same bytes _ wf once b stored
    · obtain ⟨undo, bad, stored⟩ := c.storeLcl_eq bytes
      rw [stored]
      exact ⟨rfl, rfl, rfl⟩
  case performs =>
    intro l bytes eff free
    rw [Core.performOwn, eff]
    exact Core.storeChecked_of_not_undoable free l bytes

end Sys2Proof.Cert
end

section
/-! The next PC, entry to a handler and the return from it, and releases (R146, R193, R217, R221, R229, R234). -/

namespace Sys2Proof.Machine

/-! ## The next PC and the loop stack (R146) -/

theorem Core.nextPos_taken {c : Core} {t : BitVec 17} (taken : c.nextPc = some t) (noLoop : c.loopAct = none) : c.nextPos = (t, c.loops) := by
  rw [Core.nextPos, taken, noLoop]

theorem Core.nextPos_untaken {c : Core} (untaken : c.nextPc = none) (noLoop : c.loopAct = none) : c.nextPos = loopNext c.pc c.loops := by
  rw [Core.nextPos, untaken, noLoop]

theorem loopNext_inside {pc : BitVec 17} {e : LoopEntry} (inside : pc ≠ e.start + BitVec.ofNat 17 (32 * (e.len - 1))) (es : List LoopEntry) :
    loopNext pc (e :: es) = (pc + 32, e :: es) := if_neg inside

theorem loopNext_end {pc : BitVec 17} {e : LoopEntry} (last : pc = e.start + BitVec.ofNat 17 (32 * (e.len - 1))) (es : List LoopEntry) :
    loopNext pc (e :: es) =
      if 1 < e.count.toNat then (e.start, { e with count := e.count - 1, index := e.index + 1 } :: es) else loopNext pc es :=
  if_pos last

/-! ## Handlers (R229-R234) -/

/-- Zeroing every bank leaves no accumulator, and all else of the core, but for bad words. -/
theorem Core.zeroBanks_all (c : Core) : ∃ bad, c.zeroBanks (fun _ => true) = { c with eng := { c.eng with acc := [] }, bad := bad } := by
  obtain ⟨bad, zeroed⟩ := c.zeroBanks_eq fun _ => true
  have none : (c.eng.acc.filter fun x => !(fun _ => true) (x.1 / 4096)) = [] := List.filter_eq_nil_iff.mpr fun _ _ => Bool.false_ne_true
  exact ⟨bad, zeroed.trans (by rw [none])⟩

/-- Entry to a handler: the fields that it writes, and those of the scratchpad and the instruction memory that it leaves (R229). -/
theorem Core.enterHandler_fields (c : Core) (f : TrapRec) (v : Word) (esc : Bool) (resume : BitVec 17) :
    let d := c.enterHandler f v esc resume
    d.tcause = BitVec.ofNat 17 (f.cause.code + 256 * f.slot + 65536 * esc.toNat) ∧ d.tval = v ∧ d.tbpc = f.pc ∧ d.tepc = resume ∧
      d.savedMode = c.mode ∧ d.mode = .service ∧ d.inh = true ∧ d.savedLoops = c.loops ∧ d.loops = [] ∧ d.eng.acc = [] ∧
      d.r = { c.r with claimed := 0 } ∧ d.pc = c.r.tvec.extractLsb' 0 17 &&& 0x1FFE0 ∧ d.lcl = c.lcl ∧ d.imem = c.imem := by
  obtain ⟨bad, zeroed⟩ := c.zeroBanks_all
  rw [Core.enterHandler, zeroed]
  exact ⟨rfl, rfl, rfl, rfl, rfl, rfl, rfl, rfl, rfl, rfl, rfl, rfl, rfl, rfl⟩

theorem Core.enterHandler_id (c : Core) (f : TrapRec) (v : Word) (esc : Bool) (resume : BitVec 17) :
    (c.enterHandler f v esc resume).id = c.id := by
  obtain ⟨bad, zeroed⟩ := c.zeroBanks_all
  rw [Core.enterHandler, zeroed]

/-- The matrix state that comes back changes the engine, the registers and what is saved of it, and leaves no accumulator. -/
theorem Core.restoreMatrix_frame (c : Core) : ∃ eng r bad save,
    c.restoreMatrix = { c with eng := eng, r := r, bad := bad, save := save } ∧ eng.acc = [] := by
  obtain ⟨bad, zeroed⟩ := c.zeroBanks_all
  unfold Core.restoreMatrix
  rw [zeroed]
  dsimp only
  split
  · exact ⟨_, _, _, _, rfl, rfl⟩
  · exact ⟨_, _, _, _, rfl, rfl⟩

/-- The return from a handler: what it puts back, and what it leaves of the checkpoint (R234). -/
theorem Core.leaveHandler_fields (c : Core) :
    c.leaveHandler.mode = c.savedMode ∧ c.leaveHandler.loops = c.savedLoops ∧ c.leaveHandler.inh = false ∧
      c.leaveHandler.pc = c.tepc ∧ c.leaveHandler.ccy = c.snap.ccy ∧ c.leaveHandler.late = c.parkedLate ∧ c.leaveHandler.undo = [] ∧
      c.leaveHandler.snap.regs = c.leaveHandler.r ∧ c.leaveHandler.eng.acc = [] ∧ c.leaveHandler.snap.late = c.snap.late := by
  obtain ⟨eng, r, bad, save, restored, zero⟩ := c.restoreMatrix_frame
  rw [Core.leaveHandler, restored]
  exact ⟨rfl, rfl, rfl, rfl, rfl, rfl, rfl, rfl, zero, rfl⟩

/-! ## Releases (R188, R193, R221) -/

/-- After a release no ring entry of the core is gated. -/
theorem Core.armRings_phase {c : Core} {gcy q : Nat} (small : q < 4) {e : RingEntry}
    (holds : ((c.armRings gcy).r.q.getD q QReg.reset).entry = some e) : e.phase ≠ .gated := by
  rw [Core.armRings, vector_getD_of_lt _ _ small, Vector.getElem_map] at holds
  split at holds
  case h_1 x held =>
    split at holds
    case h_1 => rw [← Option.some.inj holds]; exact RingPhase.noConfusion
    case h_2 armed => rw [← Option.some.inj (held.symm.trans holds), armed]; exact RingPhase.noConfusion
  case h_2 empty => exact absurd (empty.symm.trans holds) (Option.some_ne_none e).symm

/-- A core after a release of what the cores with some numbers hold. -/
def Core.afterRelease (ids : List Nat) (gcy : Nat) (c : Core) : Core :=
  if ids.contains c.id then { c.armRings gcy with gated := [] } else c

theorem State.cores_release (s : State) (ids : List Nat) :
    (s.release ids).cores = s.cores.map (Core.afterRelease ids s.time.gcy) := rfl

section
variable {ids : List Nat} {gcy : Nat} {c : Core}

theorem Core.afterRelease_of_mem (named : c.id ∈ ids) : c.afterRelease ids gcy = { c.armRings gcy with gated := [] } :=
  if_pos (List.contains_iff_mem.mpr named)

theorem Core.afterRelease_of_not_mem (other : c.id ∉ ids) : c.afterRelease ids gcy = c :=
  if_neg fun named => other (List.contains_iff_mem.mp named)

theorem Core.afterRelease_names : (c.afterRelease ids gcy).id = c.id ∧ (c.afterRelease ids gcy).coh = c.coh := by
  unfold Core.afterRelease
  split
  · exact ⟨rfl, rfl⟩
  · exact ⟨rfl, rfl⟩

/-- A core whose effects are released holds none, and no ring entry of it is gated any more. -/
theorem State.release_empties {s : State} {d : Core} (left : d ∈ (s.release ids).cores) (named : d.id ∈ ids) :
    d.gated = [] ∧ ∀ q e, q < 4 → (d.r.q.getD q QReg.reset).entry = some e → e.phase ≠ .gated := by
  rw [State.cores_release] at left
  obtain ⟨c, present, rfl⟩ := List.mem_map.mp left
  rw [Core.afterRelease_names.1] at named
  rw [Core.afterRelease_of_mem named]
  exact ⟨rfl, fun q e small holds => Core.armRings_phase small holds⟩

end

/-- After a release of what a cohort holds no core of it holds an effect. -/
theorem State.release_cohort {s : State} {coh : Nat} {d : Core} (left : d ∈ (s.release ((s.cohort coh).map (·.id))).cores)
    (member : d.coh = coh) : d.gated = [] := by
  refine (State.release_empties left ?_).1
  rw [State.cores_release] at left
  obtain ⟨c, present, rfl⟩ := List.mem_map.mp left
  obtain ⟨id, cohort⟩ := Core.afterRelease_names (c := c)
  rw [cohort] at member
  rw [id]
  exact List.mem_map_of_mem (List.mem_filter.mpr ⟨present, by simp [member]⟩)

/-! ## Checkpoints, and bundles without one (R217, R221) -/

/-- A checkpoint changes neither what a core holds nor its cohort, once the release is made. -/
theorem State.mem_checkpoint {s : State} {coh : Nat} {stamp : Option (BitVec 12)} {p : Bool} {d : Core}
    (left : d ∈ (s.checkpoint coh stamp p).cores) :
    ∃ c ∈ (s.release ((s.cohort coh).map (·.id))).cores, d.gated = c.gated ∧ d.coh = c.coh := by
  unfold State.checkpoint State.countFences at left
  rw [State.cores_mapCores, State.cores_mapCores, List.map_map] at left
  obtain ⟨c, present, rfl⟩ := List.mem_map.mp left
  refine ⟨c, present, ?_⟩
  dsimp only [Function.comp_apply]
  split
  · exact ⟨rfl, rfl⟩
  · exact ⟨rfl, rfl⟩

theorem State.checkpoint_empties {s : State} {coh : Nat} {stamp : Option (BitVec 12)} {p : Bool} {d : Core}
    (left : d ∈ (s.checkpoint coh stamp p).cores) (member : d.coh = coh) : d.gated = [] := by
  obtain ⟨c, present, gated, cohort⟩ := State.mem_checkpoint left
  exact gated.trans (State.release_cohort present (cohort.symm.trans member))

/-- A cohort in which nothing is to be acted on releases what its halted strands hold. -/
theorem State.cohortVerdict_quiet {s : State} {coh : Nat}
    (quiet : ∀ d ∈ s.cohort coh, d.faults = [] ∧ d.swap = none ∧ d.call = none ∧ d.ckptWord = none ∧ d.rcolFault = d) :
    s.cohortVerdict coh = s.release (((s.cohort coh).filter fun d => d.run == .halted).map (·.id)) := by
  have unfaulted : (s.mapCores fun c => if c.coh = coh && (c.run == .running || c.run == .halted) then c.rcolFault else c) = s := by
    refine State.mapCores_eq_self fun c present => ?_
    split
    case isTrue member =>
      have member : c.coh = coh := of_decide_eq_true (Bool.and_eq_true_iff.mp member).1
      exact (quiet c (List.mem_filter.mpr ⟨present, by simp [member]⟩)).2.2.2.2
    case isFalse => rfl
  have noneOf {p : Core → Bool} (free : ∀ d ∈ s.cohort coh, p d = false) :
      ((s.cohort coh).filter fun c => c.run == .running || c.run == .halted).any p = false :=
    List.any_eq_false.mpr fun d live => by simp [free d (List.mem_of_mem_filter live)]
  have noFault := noneOf (p := fun c => !c.faults.isEmpty) fun d member => by simp [(quiet d member).1]
  have notDue := noneOf (p := fun c => c.swap.isSome || c.call.isSome || c.ckptWord.isSome || c.faults.any fun f => f.slot == 9)
    fun d member => by obtain ⟨faults, swap, call, word, _⟩ := quiet d member; simp [faults, swap, call, word]
  have notBegun := noneOf (p := fun c => c.swap == some (c.ccy - 1)) fun d member => by simp [(quiet d member).2.1]
  have halted : ((s.cohort coh).filter fun c => c.run == .running || c.run == .halted).filter (fun c => c.run == .halted) =
      (s.cohort coh).filter fun d => d.run == .halted := by
    rw [List.filter_filter]
    exact List.filter_congr fun d _ => by cases d.run <;> rfl
  unfold State.cohortVerdict
  simp only [unfaulted, noFault, notDue, notBegun, halted, Bool.and_false, Bool.false_eq_true, if_false, List.isEmpty_nil, Bool.not_true,
    Bool.or_self, Bool.not_false, if_true]

end Sys2Proof.Machine
end

section
namespace Sys2Proof.Cert

open Sys2Proof.Machine

theorem releases (s : State) (ids : List Nat) : Releases s ids := by
  refine ⟨rfl, fun d => State.release_empties, fun d present other => ?_⟩
  rw [State.cores_release]
  exact List.mem_map.mpr ⟨d, present, Core.afterRelease_of_not_mem other⟩

theorem releasePoints (s : State) (coh : Nat) : ReleasePoints s coh :=
  ⟨fun _ _ => ⟨rfl, fun _ => State.checkpoint_empties⟩, State.cohortVerdict_quiet⟩

/-- Settles O58: a bundle goes on as the branch or the loop stack says; entry to a handler and the return from it write the fields of R229 and R234;
and a release empties the cores that it names. -/
theorem exceptionsAndCheckpoints : Obligations.ExceptionsAndCheckpoints := by
  unfold Obligations.ExceptionsAndCheckpoints
  intro s c f v found tval
  refine ⟨fun t taken noLoop => Core.nextPos_taken taken noLoop, ?noLoops, ?inside, ?last, ⟨rfl, rfl, rfl, rfl, rfl, rfl, rfl⟩, ?enter, ?fatal,
    ?control, ?restarts, ⟨rfl, rfl, rfl, rfl, rfl, rfl, rfl, rfl, rfl⟩, c.leaveHandler_fields, releases s, releasePoints s⟩
  case noLoops =>
    intro untaken noLoop empty
    rw [Core.nextPos_untaken untaken noLoop, empty, loopNext]
  case inside =>
    intro e es untaken noLoop loops inside
    rw [Core.nextPos_untaken untaken noLoop, loops, loopNext_inside inside]
  case last =>
    intro e es untaken noLoop loops last
    rw [Core.nextPos_untaken untaken noLoop, loops, loopNext_end last]
  case enter =>
    intro esc resume compute free installed
    have entered := State.takeException_enter esc resume found tval compute free installed
    have core := State.coreOf_onCore found (f := fun e => e.enterHandler f v esc resume) fun e => e.enterHandler_id f v esc resume
    exact ⟨_, _, entered, rfl, core, c.enterHandler_fields f v esc resume⟩
  case fatal => exact fun esc resume compute none => State.takeException_fatal esc resume found tval compute none
  case control =>
    intro resume control free installed
    exact ⟨_, State.takeException_control false resume found tval control free installed, rfl, rfl, rfl, rfl, rfl, rfl, rfl, rfl, rfl,
      rfl, rfl, rfl⟩
  case restarts => exact fun resume control none => State.takeException_restart false resume found tval control none

end Sys2Proof.Cert
end

section
/-! The start of a copy into `lcl` (R165, R361, R363): what `State.copyIn` does in each of its cases. -/

namespace Sys2Proof.Machine

theorem Core.reserve_frame {c u : Core} {rows : List Nat} (reserves : c.reserve rows = .ok u) :
    ∃ reserved, u = { c with reserved := reserved } := by
  unfold Core.reserve at reserves
  split at reserves
  case isTrue => exact ⟨_, (Except.ok.inj reserves).symm⟩
  case isFalse =>
    dsimp only at reserves
    split at reserves
    case h_1 => nomatch reserves
    case h_2 => exact ⟨_, (Except.ok.inj reserves).symm⟩

/-- Opening a copy, from an extent that is sealed or not, changes the tags of plates and the notes of copies alone. -/
theorem Core.openCopy_frame (c : Core) (copy layout : Nat) (sealId : Option Nat) (host : Bool) (cs : List Chunk) (firsts : List (Nat × Nat))
    (late : Chunk → Bool) : ∃ plates copies,
      c.openCopy copy layout sealId host cs firsts late = { c with plates := plates, copies := copies } := by
  unfold Core.openCopy
  refine foldl_keeps (fun d => ∃ plates copies, d = { c with plates := plates, copies := copies }) _ ?_ _ c ⟨_, _, rfl⟩
  rintro _ p ⟨plates, copies, rfl⟩
  exact ⟨_, _, rfl⟩

section
variable {s : State} {f : CopyForm} {rows : List CopyRow} {cs : List Chunk} (chunks : markChunks f.several (chunkOffsets f rows) = cs)
include chunks

theorem State.copyIn_full {row : Nat} (full : s.core.reserve (cs.map fun x => rowOf (physOf f.layout x.dst)) = .error row) :
    s.copyIn f rows = s.upd fun c => c.undoFull 7 row := by
  unfold State.copyIn
  dsimp only
  rw [chunks, full]

variable {u : Core} (room : s.core.reserve (cs.map fun x => rowOf (physOf f.layout x.dst)) = .ok u)
include room

theorem State.copyIn_within (within : f.ext = lclCode) : s.copyIn f rows = { s with
    nextFill := s.nextFill + 1
    core := (u.openCopy s.nextFill f.layout none false (placed id f.layout cs) [] fun _ => false).copyWithin s.nextFill f.layout cs } := by
  have inside : f.within = true := beq_iff_eq.mpr within
  unfold State.copyIn
  dsimp only
  rw [chunks, room]
  dsimp only
  rw [if_pos inside]
  rfl

variable {x : Extent} (outside : f.ext ≠ lclCode) (extent : s.core.extent f.ext = some x)
include outside extent

/-- A copy from an extent, once its rows are reserved, with the core on which it is opened. -/
theorem State.copyIn_extent : s.copyIn f rows =
    let l2 := x.backing == .l2
    let key := x.key s.core.isControl
    let moves := fun (live : Bool) => ((placed x.address f.layout cs).filter fun y => y.live == live).flatMap fun y =>
      (sixteen y.src).zip (sixteen y.dst)
    let t : State := { s with
      nextFill := s.nextFill + 1
      core := u.openCopy s.nextFill f.layout (if x.sealed then some x.sealId else none) (x.backing == .host)
        (placed x.address f.layout cs) (chunkOffsets f rows)
        fun y => !l2 || (s.hit (clusterOf s.core.id) (y.src / 128) key).isNone }
    if l2 then t.copyL2 s.nextFill key (placed x.address f.layout cs)
    else t.upd fun c => { c with uncached := c.uncached ++ [⟨s.nextFill, x.backing, key, moves true, moves false, c.ccy⟩] } := by
  have apart : f.within = false := beq_eq_false_iff_ne.mpr outside
  obtain ⟨reserved, rfl⟩ := Core.reserve_frame room
  have extent : Core.extent { s.core with reserved := reserved } f.ext = some x := extent
  unfold State.copyIn
  dsimp only
  rw [chunks, room]
  dsimp only
  rw [if_neg (by rw [apart]; decide), extent]
  rfl

theorem State.copyIn_l2 (l2 : x.backing = .l2) : s.copyIn f rows = State.copyL2 s.nextFill (x.key s.core.isControl)
    (placed x.address f.layout cs) { s with
      nextFill := s.nextFill + 1
      core := u.openCopy s.nextFill f.layout (if x.sealed then some x.sealId else none) (x.backing == .host)
        (placed x.address f.layout cs) (chunkOffsets f rows)
        fun y => (s.hit (clusterOf s.core.id) (y.src / 128) (x.key s.core.isControl)).isNone } := by
  have here : (x.backing == .l2) = true := beq_iff_eq.mpr l2
  rw [State.copyIn_extent chunks room outside extent]
  dsimp only
  rw [if_pos here]
  simp only [here, Bool.not_true, Bool.false_or]

theorem State.copyIn_uncached (uncached : x.backing ≠ .l2) :
    let moves := fun (l : List Chunk) => l.flatMap fun y => (sixteen y.src).zip (sixteen y.dst)
    s.copyIn f rows = { s with
      nextFill := s.nextFill + 1
      core := { u.openCopy s.nextFill f.layout (if x.sealed then some x.sealId else none) (x.backing == .host)
          (placed x.address f.layout cs) (chunkOffsets f rows) (fun _ => true) with
        uncached := u.uncached ++ [⟨s.nextFill, x.backing, x.key s.core.isControl,
          moves ((placed x.address f.layout cs).filter fun y => y.live),
          moves ((placed x.address f.layout cs).filter fun y => !y.live), s.core.ccy⟩] } } := by
  have elsewhere : (x.backing == .l2) = false := beq_eq_false_iff_ne.mpr uncached
  rw [State.copyIn_extent chunks room outside extent]
  obtain ⟨reserved, rfl⟩ := Core.reserve_frame room
  dsimp only
  rw [if_neg (by rw [elsewhere]; decide)]
  simp only [elsewhere, Bool.not_false, Bool.true_or]
  obtain ⟨plates, copies, opened⟩ := Core.openCopy_frame { s.core with reserved := reserved } s.nextFill f.layout
    (if x.sealed then some x.sealId else none) (x.backing == .host) (placed x.address f.layout cs) (chunkOffsets f rows) fun _ => true
  rw [opened]
  simp only [beq_true, beq_false]
  rfl

end

end Sys2Proof.Machine
end

section
namespace Sys2Proof.Cert

open Sys2Proof.Machine

/-- Settles O32, case by case: no room in the undo log, a copy within `lcl`, one from an extent that is not L2's, and one from L2. -/
theorem copiesIntoLcl : Obligations.CopiesIntoLcl := by
  unfold Obligations.CopiesIntoLcl
  intro s f rows cs
  refine ⟨fun row full => State.copyIn_full rfl full, fun u room => ⟨fun within => State.copyIn_within rfl room within,
    fun x outside extent => ⟨fun uncached => State.copyIn_uncached rfl room outside extent uncached,
      fun l2 => State.copyIn_l2 rfl room outside extent l2⟩⟩⟩

end Sys2Proof.Cert
end

section
/-! Holds, locks and nest steps (R160, R183, R338-R341): what each event does where its condition holds. -/

namespace Sys2Proof.Machine

section
variable {s : State} {c : Core}

/-! ## Holds (R183) -/

section
variable (unmarked : s.holdMarked c = false)
include unmarked

theorem State.finishHold_unmarked :
    s.finishHold c = s.mapCores fun d => if ((s.holdGroup c).map (·.id)).contains d.id then d.endHold else d :=
  if_neg (by rw [unmarked]; decide)

variable (found : s.coreOf c.id = some c)
include found

theorem execHoldEnd_met (held : c.inHold = true) (met : ((s.holdGroup c).all fun d => d.inEffect.all fun h => h.met) = true) :
    execHoldEnd c.id s = .next (s.mapCores fun d => if ((s.holdGroup c).map (·.id)).contains d.id then d.endHold else d) := by
  unfold execHoldEnd
  rw [found]
  dsimp only
  rw [if_pos (by rw [held, met, Bool.or_true]; rfl), State.finishHold_unmarked unmarked]

variable (goes : c.goes = true) (compute : c.isControl = false) (asked : c.inEffect ≠ [])
include goes compute asked

/-- Requests in effect on a strand that goes: they lapse where all have been met, else they hold their group. -/
theorem execHoldTakeEffect_asked : execHoldTakeEffect c.id s = .next (
    if ((s.holdGroup c).all fun d => d.inEffect.all fun h => h.met) = true then s.finishHold c
    else s.mapCores fun d => if ((s.holdGroup c).map (·.id)).contains d.id then { d with inHold := true } else d) := by
  have waits : (!c.goes || c.isControl || c.inEffect.isEmpty) = false := by
    rw [goes, compute, List.isEmpty_eq_false_iff.mpr asked]; rfl
  unfold execHoldTakeEffect
  rw [found]
  dsimp only
  rw [waits, unmarked, Bool.false_or]
  rfl

theorem execHoldTakeEffect_holds (unmet : ((s.holdGroup c).all fun d => d.inEffect.all fun h => h.met) = false) :
    execHoldTakeEffect c.id s =
      .next (s.mapCores fun d => if ((s.holdGroup c).map (·.id)).contains d.id then { d with inHold := true } else d) := by
  rw [execHoldTakeEffect_asked unmarked found goes compute asked, if_neg (by rw [unmet]; decide)]

theorem execHoldTakeEffect_lapses (met : ((s.holdGroup c).all fun d => d.inEffect.all fun h => h.met) = true) :
    execHoldTakeEffect c.id s =
      .next (s.mapCores fun d => if ((s.holdGroup c).map (·.id)).contains d.id then d.endHold else d) := by
  rw [execHoldTakeEffect_asked unmarked found goes compute asked, if_pos met, State.finishHold_unmarked unmarked]

end

/-! ## Locks (R160) and nest steps (R341) -/

variable (found : s.coreOf c.id = some c)
include found

theorem execLockExpire_past {pairs : BitVec 16} {last : Nat} (lock : c.lock = some (pairs, last)) (goes : c.goes = true) (past : last < c.ccy) :
    execLockExpire c.id s = .next (s.onCore c.id fun c => { c with lock := none }) := by
  unfold execLockExpire
  rw [found]
  dsimp only
  rw [lock]
  dsimp only
  rw [if_pos (by rw [goes, decide_eq_true past]; rfl)]

theorem execNestStep_due {n : Nest} (nest : c.eng.nest = some n) (goes : c.goes = true) (active : c.eng.suspended = false)
    (clear : c.faults = []) (due : n.next = c.ccy) : execNestStep c.id s = .next (s.onCore c.id fun _ => s.nestStep c n) := by
  unfold execNestStep
  rw [found]
  dsimp only
  rw [nest]
  dsimp only
  rw [if_pos (by rw [goes, active, clear, due]; simp)]

end

theorem Core.nestFault_faults (c : Core) (n : Nest) (f : Cause × Option Word) : (c.nestFault n f).faults ≠ [] :=
  List.append_ne_nil_of_right_ne_nil _ (List.cons_ne_nil _ _)

/-- What a core d is after a step of the nest n that starts on c: it has a fault, or the nest has the time of its next step, the same entry and the
same bank, and an entry that has been checked. -/
def Core.Stepped (c : Core) (n : Nest) (d : Core) : Prop :=
  d.faults ≠ [] ∨ ∃ m, d.eng.nest = some m ∧ m.next = c.ccy + (c.r.fmtAt n.entry).cycles c.r.sp24 ∧ m.entry = n.entry ∧ m.acc = n.acc ∧
    m.fresh = false

theorem State.nestStep_stepped (s : State) (c : Core) (n : Nest) : c.Stepped n (s.nestStep c n) := by
  have faults (f : Cause × Option Word) : c.Stepped n (c.nestFault n f) := .inl (c.nestFault_faults n f)
  unfold State.nestStep
  dsimp only
  refine iteInduction (fun _ => .inl (c.nestFault_faults n _)) fun _ => ?_
  split
  case h_1 f _ => exact faults f
  case h_2 => exact iteInduction (fun _ => faults _) fun _ => .inr ⟨_, rfl, rfl, rfl, rfl, rfl⟩

/-- A step of an entry that is not checked and fails its check raises MX_FORMAT. -/
theorem State.nestStep_format {s : State} {c : Core} {n : Nest} {r : Nat} (twin : c.twin = none) (fresh : n.fresh = true)
    (bad : (c.r.fmtAt n.entry).badReason = some r) :
    s.nestStep c n = c.nestFault n (.mxFormat, some (BitVec.ofNat 64 (n.entry + 256 * r))) := by
  have refused (K : Nat) : c.entryFault n K = some (.mxFormat, some (BitVec.ofNat 64 (n.entry + 256 * r))) := by
    unfold Core.entryFault
    dsimp only
    rw [if_pos fresh, bad]
  unfold State.nestStep
  dsimp only
  rw [twin, if_neg (by simp)]
  unfold Core.stepReads
  dsimp only
  rw [refused]

end Sys2Proof.Machine
end

section
/-! Rollback and resumption (R225-R229). -/

namespace Sys2Proof.Machine

/-- The faults on which the resumption of a core acts, where those of the handler class are acted on. -/
def State.actedFaults (s : State) (coh id : Nat) : List TrapRec :=
  ((s.verdictOn coh).filter fun x => x.2.2 == 1 && x.1.id == id).map (·.2.1)

/-- They are what is left for a core of the faults of the handler class among those of its cohort. -/
theorem State.actedFaults_eq (s : State) (coh id : Nat) : (((((s.verdictOn coh).filter fun x => x.2.2 == 1).map fun x => (x.1.id, x.2.1)).filter
    fun a => a.1 == id).map (·.2)) = s.actedFaults coh id := by
  rw [List.filter_map, List.filter_filter, List.map_map]
  exact congrArg (List.map _) (List.filter_congr fun x _ => Bool.and_comm _ _)

/-- A rollback takes the cores of the cohort back, with the reads and fills of what they had under way, and changes nothing else of the state. -/
theorem State.rollCohort_frame (s : State) (coh : Nat) (acted : List (Nat × TrapRec)) : ∃ released fills pendLevel,
    s.rollCohort coh acted = { s.mapCores fun d =>
        if d.coh = coh ∧ !d.isControl then s.rollCore ((acted.filter fun a => a.1 == d.id).map (·.2)) d else d with
      released := released, fills := fills, pendLevel := pendLevel } := by
  unfold State.rollCohort
  dsimp only
  split
  · exact ⟨_, _, _, rfl⟩
  · exact ⟨_, _, _, rfl⟩

section
variable {s : State} {c : Core} (found : s.coreOf c.id = some c) (compute : c.isControl = false)
include found compute

section
variable (faulted : c.run = .faulted)
include faulted


theorem execRollback_fatal {d : Core} {f : TrapRec} (fatal : (s.verdictOn c.coh).find? (fun x => x.2.2 == 2) = some (d, f, 2)) :
    execRollback c.id s = .next ((s.faultTval f).2.endTask d.task 7 f.cause.code (s.faultTval f).1) := by
  unfold execRollback
  rw [found]
  dsimp only
  rw [if_neg (by rw [faulted, compute]; decide), fatal]

/-- Where no fault is fatal and none is kept from the escalation, the cohort goes back to its checkpoint, with the faults of the handler class. -/
theorem execRollback_rolls (mild : ∀ x ∈ s.verdictOn c.coh, x.2.2 ≠ 2 ∧ x.2.1.cause.neverEscalates = false) :
    ∃ released fills pendLevel, execRollback c.id s = .next { s.mapCores fun d =>
        if d.coh = c.coh ∧ d.isControl = false then s.rollCore (s.actedFaults c.coh d.id) d else d with
      released := released, fills := fills, pendLevel := pendLevel } := by
  have noneFatal : ((s.verdictOn c.coh).find? fun x => x.2.2 == 2) = none :=
    List.find?_eq_none.mpr fun x listed => by simpa using (mild x listed).1
  have noneLanded : ((s.verdictOn c.coh).filter fun x => x.2.1.cause.neverEscalates) = [] :=
    List.filter_eq_nil_iff.mpr fun x listed => by simp [(mild x listed).2]
  have acted : execRollback c.id s =
      .next (s.rollCohort c.coh (((s.verdictOn c.coh).filter fun x => x.2.2 == 1).map fun x => (x.1.id, x.2.1))) := by
    unfold execRollback
    rw [found]
    dsimp only
    rw [if_neg (by rw [faulted, compute]; decide), noneFatal, noneLanded]
    dsimp only
    rw [if_neg (by simp)]
    split
    case isTrue empty => rw [List.isEmpty_iff.mp empty]
    case isFalse => rfl
  obtain ⟨released, fills, pendLevel, frame⟩ := s.rollCohort_frame c.coh _
  refine ⟨released, fills, pendLevel, acted.trans (congrArg Host.Outcome.next (frame.trans ?_))⟩
  simp only [State.actedFaults_eq, Bool.not_eq_true']

end

/-- Without faults to act on and without fills to wait for, every strand of the cohort issues again. -/
theorem execRollbackResume_quiet (rolled : c.run = .rolledBack) (quiet : ∀ d ∈ s.cohort c.coh, d.waitFills = [] ∧ d.faults = []) :
    execRollbackResume c.id s = .next (s.mapCores fun d => if d.coh = c.coh ∧ !d.isControl then { d.applyDue d.ccy with
      faults := [], waitFills := [], run := (if d.snap.halted then .halted else .running) } else d) := by
  have filled : ((s.cohort c.coh).any fun d => d.waitFills.any fun f => s.fills.any fun x => x.id == f) = false :=
    List.any_eq_false.mpr fun d member => by simp [(quiet d member).1]
  have none : ((sortBy (·.id) (s.cohort c.coh)).filterMap fun d => d.faults.head?.map fun f => (d.id, f)) = [] :=
    List.filterMap_eq_nil_iff.mpr fun d member => by simp [(quiet d (mem_sortBy.mp member)).2]
  unfold execRollbackResume
  rw [found]
  dsimp only
  rw [if_neg (by rw [rolled, compute, filled]; decide), none]
  rfl

end

end Sys2Proof.Machine
end

section
/-! The passage of a ring operation and the arrival of its result, scrubs of roundel slots, and the status of a collective (R189, R190, R369,
R373). -/

namespace Sys2Proof.Machine

/-! ## A q register that the roundel stop changes -/

/-- A change of q register q, for an operation under way, is seen when it is read. -/
theorem Core.qreg_onRing (c : Core) (writes : Bool) (issued : Nat) (f : QReg → QReg) {q : Nat} (small : q < 4) :
    (c.onRing writes q issued f).r.q.getD q QReg.reset = f (c.r.q.getD q QReg.reset) := by
  obtain ⟨k, rfl⟩ : ∃ k : BitVec 2, q = k.toNat := ⟨BitVec.ofNat 2 q, (Nat.mod_eq_of_lt small).symm⟩
  have set : (c.onRing writes k.toNat issued f).r.q = c.r.q.set k.toNat (f (c.qreg k)) small := by
    unfold Core.onRing ArchRegs.ringQ
    dsimp only
    rw [BitVec.ofNat_toNat, BitVec.setWidth_eq]
    split
    · rfl
    · rfl
  rw [set, vector_getD_of_lt _ _ small, vector_getD_of_lt _ _ small, Vector.getElem_set_self]
  rfl

theorem Core.storeOlder_id (c : Core) (bytes : List (Nat × Byte)) : (c.storeOlder bytes).id = c.id := by
  unfold Core.storeOlder Core.mendBytes
  obtain ⟨bad, mended⟩ := Core.mend_eq { c with
    lcl := c.lcl.writeCells bytes
    undo := c.undo.map fun u => (u.1, patchRow u.1 u.2 bytes) } _
  rw [mended]

theorem Core.takeResult_id (c : Core) (q : Nat) (r : RingResult) : (c.takeResult q r).id = c.id := by
  unfold Core.takeResult
  dsimp only
  split
  · obtain ⟨bad, mended⟩ := Core.mendReg_eq (c.onRing true q r.issued _) (· == .q (BitVec.ofNat 2 q))
    rw [mended]
    rfl
  · exact Core.storeOlder_id _ _

/-- The mark of a result changes neither the number nor the registers of a core. -/
theorem Core.haltMark_frame (c : Core) : c.haltMark.id = c.id ∧ c.haltMark.r = c.r := by
  unfold Core.haltMark
  split
  · exact ⟨rfl, rfl⟩
  · dsimp only
    split
    · exact ⟨rfl, rfl⟩
    · split
      · exact ⟨rfl, rfl⟩
      · exact ⟨rfl, rfl⟩

/-- What a core on which a strand stands takes of a result: it goes on the registers where the image that was active at the issue is active. -/
theorem Core.qreg_takeResult {c : Core} {q : Nat} (small : q < 4) {r : RingResult} (active : r.img = c.r.act) :
    (c.takeResult q r).r.q.getD q QReg.reset = { c.r.q.getD q QReg.reset with
      val := r.val, rev := r.rev, state := r.state, casOk := r.casOk, err := r.err, arrived := true, result := none } := by
  unfold Core.takeResult
  dsimp only
  rw [if_pos (by rw [active]; simp), Core.mendReg_r]
  exact Core.qreg_onRing c true r.issued _ small

/-! ## The passage (R189, R369) -/

theorem State.onRingCore_of_mem {s : State} {c : Core} (present : c ∈ s.cores) {p : Core → Bool} (meets : p c = true) (f : Core → Core) :
    s.onRingCore c.id p f = s.mapCores fun d => if d.id = c.id && p d then f d else d := by
  have some : (s.cores.any fun d => d.id = c.id && p d) = true := List.any_eq_true.mpr ⟨c, present, by simp [meets]⟩
  exact if_pos some

/-- The result of a ring operation that performs now. -/
def State.ringResult (s : State) (e : RingEntry) : RingResult :=
  let before := SMap.get Slot.empty (slotNum e.canvas e.slot) s.slots
  ⟨before.payload, before.rev, before.boarded, (e.act before).2.2, (e.act before).2.1, e.img, e.issued, s.time.gcy + 2⟩

/-- A core after the passage of its ring operation. -/
def Core.passed (q : Nat) (e : RingEntry) (r : RingResult) (c : Core) : Core :=
  c.onRing false q e.issued fun y => { y with entry := none, result := some r }

theorem Core.qreg_passed {q : Nat} (small : q < 4) (e : RingEntry) (r : RingResult) (c : Core) :
    (c.passed q e r).r.q.getD q QReg.reset = { c.r.q.getD q QReg.reset with entry := none, result := some r } :=
  Core.qreg_onRing c false e.issued _ small

theorem execRingOpPerform_passes {s : State} {c : Core} {q : Nat} {e : RingEntry} (present : c ∈ s.cores)
    (performs : s.performing c.id q = some e) (entry : c.ringEntry q = some e) :
    execRingOpPerform c.id q s = .next ((s.actOn e c.id).2.mapCores fun d =>
      if d.id = c.id && d.ringEntry q == some e then d.passed q e (s.ringResult e) else d) := by
  unfold execRingOpPerform
  rw [performs]
  have there : c ∈ (s.actOn e c.id).2.cores := present
  exact congrArg Host.Outcome.next (State.onRingCore_of_mem there (p := fun d => d.ringEntry q == some e) (beq_iff_eq.mpr entry) _)

/-- After the passage the entry stands on no core of that number any more. -/
theorem State.ringEntry_passes {s : State} {id q : Nat} (small : q < 4) {e : RingEntry} {r : RingResult} {d : Core}
    (left : d ∈ (s.mapCores fun d => if d.id = id && d.ringEntry q == some e then d.passed q e r else d).cores) (named : d.id = id) :
    d.ringEntry q ≠ some e := by
  obtain ⟨b, _, rfl⟩ := State.mem_mapCores.mp left
  split
  case isTrue =>
    rw [Core.ringEntry, Core.qreg_passed small]
    exact (Option.some_ne_none e).symm
  case isFalse other =>
    rw [if_neg other] at named
    exact fun entry => other (by simp [named, entry])

/-! ## The arrival of a result (R190) -/

/-- Whether a result on its way to a q register of a core is due. -/
def State.resultDue (s : State) (q : Nat) (c : Core) : Bool :=
  match (c.r.q.getD q QReg.reset).result with
  | some r => decide (r.arrives ≤ s.time.gcy)
  | none => false

/-- A core after the arrival of the result that is on its way to a q register. -/
def Core.resultArrived (q : Nat) (c : Core) : Core :=
  match (c.r.q.getD q QReg.reset).result with
  | some r =>
    let d := c.takeResult q r
    if r.err && c.strandHalted && (c.isControl || r.img == c.r.act) then d.haltMark else d
  | none => c

theorem Core.resultArrived_id (q : Nat) (c : Core) : (c.resultArrived q).id = c.id := by
  unfold Core.resultArrived
  split
  · dsimp only
    split
    · exact (Core.haltMark_frame _).1.trans (c.takeResult_id q _)
    · exact c.takeResult_id q _
  · rfl

theorem Core.resultArrived_r {c : Core} {q : Nat} {r : RingResult} (result : (c.r.q.getD q QReg.reset).result = some r) :
    (c.resultArrived q).r = (c.takeResult q r).r := by
  unfold Core.resultArrived
  rw [result]
  dsimp only
  split
  · exact (Core.haltMark_frame _).2
  · rfl

theorem execRingResultArrive_due {s : State} {c : Core} {q : Nat} (present : c ∈ s.cores) (due : s.resultDue q c = true) :
    execRingResultArrive c.id q s = .next (s.mapCores fun d => if d.id = c.id && s.resultDue q d then d.resultArrived q else d) :=
  congrArg Host.Outcome.next (State.onRingCore_of_mem present due _)

/-! ## Scrubs (R62, R123) -/

theorem execRoundelScrub_due {s : State} {canvas slot : Nat} (listed : s.slotScrub.contains (canvas, slot) = true)
    (passes : (slot + s.time.gcy) % 256 = 1) : execRoundelScrub canvas slot s = .next { s with
      fresh := s.fresh + 1
      slots := SMap.put Slot.empty (slotNum canvas slot) ⟨false, s.draw.1.extractLsb' 0 8, 0⟩ s.slots
      slotScrub := s.slotScrub.filter fun p => p != (canvas, slot) } := by
  unfold execRoundelScrub
  rw [if_pos (by rw [listed, passes]; rfl)]
  rfl

/-! ## The status of a collective (R68, R373; log 45) -/

section
variable {s : State} {group : Nat} (settled : SMap.get [] group s.collWrites = [])
include settled

theorem execCollectiveStatusArrive_ends {status : BitVec 8} (agrees : collSplit (s.contributions group) = none ∨ s.allContribute group = false)
    (nonzero : status ≠ 0) (remote : List (List Byte)) :
    execCollectiveStatusArrive group status remote s = .next (s.endColls group 1 status) := by
  unfold execCollectiveStatusArrive
  dsimp only
  rw [settled, if_pos List.isEmpty_nil]
  split
  case h_1 differ =>
    have missing := agrees.resolve_left (by rw [differ]; exact Option.some_ne_none _)
    rw [missing, if_neg Bool.false_ne_true, if_pos nonzero]
  case h_2 => rw [if_pos nonzero]
  case h_3 => rw [if_neg nonzero]

theorem execCollectiveStatusArrive_splits {split : BitVec 8} (differ : collSplit (s.contributions group) = some split)
    (all : s.allContribute group = true) (status : BitVec 8) (remote : List (List Byte)) :
    execCollectiveStatusArrive group status remote s = .next (s.endColls group 1 split) := by
  unfold execCollectiveStatusArrive
  dsimp only
  rw [settled, if_pos List.isEmpty_nil, differ]
  dsimp only
  rw [if_pos all]

theorem execCollectiveStatusArrive_reduces {x : Contribution} {xs : List Contribution} (contributions : s.contributions group = x :: xs)
    (agrees : collSplit (x :: xs) = none) (all : s.allContribute group = true) {remote : List (List Byte)}
    (whole : ∀ r ∈ remote, r.length = x.desc.count * collSize x.desc.type) :
    execCollectiveStatusArrive group 0 remote s = .next (s.reduceColl group x.desc remote (x :: xs)) := by
  have fits : (remote.any fun r => r.length != x.desc.count * collSize x.desc.type) = false :=
    List.any_eq_false.mpr fun r given => by simp [whole r given]
  unfold execCollectiveStatusArrive
  dsimp only
  rw [settled, if_pos List.isEmpty_nil, contributions, agrees]
  dsimp only
  rw [if_neg (by decide), all, fits, if_neg (by decide)]

end

end Sys2Proof.Machine
end

section
namespace Sys2Proof.Cert

open Sys2Proof.Machine

theorem rolledTo (s : State) (faults : List TrapRec) (d : Core) : RolledTo s d (s.rollCore faults d) faults :=
  ⟨rfl, rfl, rfl, rfl, rfl, rfl, rfl, rfl, rfl, rfl, rfl, rfl, rfl, rfl, rfl, rfl, rfl, rfl, rfl, rfl, rfl, rfl⟩

/-- Settles O51: each event is what one function of the model does where its condition holds; a nest step either faults or sets the time of the
next, and a ring operation's entry and result are those of one q register. -/
theorem strandEvents : Obligations.StrandEvents := by
  unfold Obligations.StrandEvents
  intro s c found
  have present := State.mem_of_coreOf found
  refine ⟨fun goes compute asked unmarked unmet => execHoldTakeEffect_holds unmarked found goes compute asked unmet,
    fun goes compute asked unmarked met => execHoldTakeEffect_lapses unmarked found goes compute asked met,
    fun held unmarked met => execHoldEnd_met unmarked found held met,
    fun pairs last lock goes past => execLockExpire_past found lock goes past, ?step, ?rollback,
    fun d f faulted compute fatal => execRollback_fatal found compute faulted fatal,
    fun rolled compute quiet => execRollbackResume_quiet found compute rolled quiet, ?passage, ?arrival,
    fun canvas slot listed passes => ⟨_, execRoundelScrub_due listed passes⟩,
    fun group status remote settled agrees nonzero => execCollectiveStatusArrive_ends settled agrees nonzero remote,
    fun group status split remote settled differ all => execCollectiveStatusArrive_splits settled differ all status remote,
    fun group x xs remote settled contributions agrees all whole =>
      execCollectiveStatusArrive_reduces settled contributions agrees all whole⟩
  case step =>
    intro n nest goes active clear due
    refine ⟨s.nestStep c n, execNestStep_due found nest goes active clear due, fun noFault => ?_, fun r twin fresh bad => ?_⟩
    · exact (s.nestStep_stepped c n).resolve_left fun faults => faults noFault
    · rw [State.nestStep_format twin fresh bad, Core.nestFault, clear]
      rfl
  case rollback =>
    intro faulted compute mild
    obtain ⟨released, fills, pendLevel, rolls⟩ := execRollback_rolls found compute faulted mild
    exact ⟨_, fun d => s.rollCore (s.actedFaults c.coh d.id) d, rolls, rfl, rfl, fun d => rolledTo s _ d⟩
  case passage =>
    intro q e small performs entry
    refine ⟨_, s.ringResult e, execRingOpPerform_passes present performs entry, rfl, fun d => State.ringEntry_passes small, ?_,
      rfl, rfl, rfl, rfl, rfl, rfl⟩
    refine ⟨c.passed q e (s.ringResult e), State.mem_mapCores.mpr ⟨c, present, if_pos (by simp [entry])⟩, rfl, ?_⟩
    rw [Core.qreg_passed small]
  case arrival =>
    intro q r small result arrives active running
    have due : s.resultDue q c = true := by rw [State.resultDue, result]; exact decide_eq_true arrives
    have keeps (d : Core) : (if d.id = c.id && s.resultDue q d then d.resultArrived q else d).id = d.id := by
      split
      exacts [d.resultArrived_id q, rfl]
    refine ⟨_, _, execRingResultArrive_due present due, State.coreOf_mapCores found keeps, ?_⟩
    rw [if_pos (by simp [due]), Core.resultArrived_r result]
    exact Core.qreg_takeResult small active

end Sys2Proof.Cert
end

section
/-! Instructions that act on their own core at issue, or have one effect outside it (R193, R239, R240): the state after them, and ILLEGAL_OP
with its word. -/

namespace Sys2Proof.Machine

/-- csr.tval of ILLEGAL_OP as a number: the word below the slot (R239). -/
theorem wordTval_eq (i : Instr) : wordTval i = BitVec.ofNat 64 ((encode i).toNat + 2 ^ 32 * slotOf i) := by
  have word : (encode i).toNat < 2 ^ 32 := (encode i).isLt
  have apart : (encode i).setWidth 64 &&& (BitVec.ofNat 64 (slotOf i) <<< 32) = 0#64 := by
    ext k hk
    simp only [BitVec.getElem_and, BitVec.getElem_setWidth, BitVec.getElem_shiftLeft, BitVec.getElem_zero]
    by_cases low : k < 32
    · simp [low]
    · simp [BitVec.getLsbD_of_ge _ _ (Nat.not_lt.mp low)]
  rw [wordTval, ← BitVec.add_eq_or_of_and_eq_zero _ _ apart]
  apply BitVec.eq_of_toNat_eq
  simp only [BitVec.toNat_add, BitVec.toNat_setWidth, BitVec.toNat_shiftLeft, BitVec.toNat_ofNat, Nat.shiftLeft_eq]
  omega

end Sys2Proof.Machine

namespace Sys2Proof.Cert

open Sys2Proof.Machine

/-! ## Issuing on the focal core -/

/-- An instruction that finds itself illegal raises ILLEGAL_OP with its word and its slot. -/
theorem upd_illegal (s : State) (i : Instr) : (s.upd fun c => c.illegal i) = illegalAt s (slotOf i) i := by
  rw [State.upd, Core.illegal, wordTval_eq]
  rfl

section
variable {i : Instr} {s : State} (hi : Issues i s)
include hi

/-- An instruction that acts on its core alone leaves the state with that core. -/
theorem Issues.runCore_eq {f : Core → Core} {c : Core} (becomes : f s.core = c) : s.runCore i f = withCore s c := by
  rw [State.runCore, hi.run_eq, State.upd, becomes]
  rfl

theorem Issues.runCore_illegal {f : Core → Core} (refuses : f s.core = s.core.illegal i) : s.runCore i f = illegalAt s (slotOf i) i :=
  (hi.runCore_eq refuses).trans (upd_illegal s i)

theorem Issues.next {f : State → State} (meaning : exec i s = .next (s.run i f)) {t : State} (becomes : f s = t) : exec i s = .next t :=
  meaning.trans (congrArg _ ((hi.run_eq f).trans becomes))

variable {f : Core → Core} (meaning : exec i s = .next (s.runCore i f))
include meaning

theorem Issues.next_core {c : Core} (becomes : f s.core = c) : exec i s = .next (withCore s c) :=
  meaning.trans (congrArg _ (hi.runCore_eq becomes))

theorem Issues.next_illegal (refuses : f s.core = s.core.illegal i) : exec i s = .next (illegalAt s (slotOf i) i) :=
  meaning.trans (congrArg _ (hi.runCore_illegal refuses))

end

/-! ## Effects held and left (R193, R301, R360) -/

theorem gate_eq_leftBy {s : State} (control : s.core.isControl = true) (slot cls : Nat) (eff : OutEffect) :
    s.gate slot cls 0 0 eff = leftBy s slot cls eff :=
  State.gate_control s slot cls 0 0 eff control

theorem gate_eq_gatedBy {s : State} (compute : s.core.isControl = false) (few : s.core.gated.length < 64)
    (slot cls reserved reads : Nat) (eff : OutEffect) : s.gate slot cls reserved reads eff = gatedBy s s.core slot cls reserved reads eff :=
  State.gate_held s slot cls reserved reads eff compute few

theorem gate_eq_faulted {s : State} (compute : s.core.isControl = false) (full : 64 ≤ s.core.gated.length)
    (slot cls reserved reads : Nat) (eff : OutEffect) : s.gate slot cls reserved reads eff = faulted s slot .gateBufferFull none :=
  State.gate_full s slot cls reserved reads eff compute full

end Sys2Proof.Cert
end

section
/-! Slot 0 (R181, R217, R284-R290): markers, calls and the halt of a strand. -/

namespace Sys2Proof.Cert

open Sys2Proof.Machine

/-! ## Checkpoint markers (R217, R284) -/

theorem stamp_eq_iff {n : Nat} {stamp : BitVec 12} : BitVec.ofNat 12 n = stamp ↔ stamp.toNat = n % 4096 := by
  rw [← BitVec.toNat_inj, BitVec.toNat_ofNat]
  exact eq_comm

section
variable {i : Instr} {s : State} (hi : Issues i s) (stamp : BitVec 12) (p : Bool)
include hi

theorem marker_control (control : s.core.isControl = true) : s.marker i stamp p = s :=
  hi.runCore_eq (if_pos control)

theorem marker_handler (compute : s.core.isControl = false) (handler : s.core.inh = true) :
    s.marker i stamp p = illegalAt s (slotOf i) i :=
  hi.runCore_illegal (by simp only [compute, handler, Bool.false_eq_true, if_false, if_true])

theorem marker_matches (compute : s.core.isControl = false) (task : s.core.inh = false) (same : stamp.toNat = s.core.ccy % 4096) :
    s.marker i stamp p = withCore s { s.core with ckptWord := some (stamp, p) } :=
  hi.runCore_eq (by simp only [compute, task, stamp_eq_iff.mpr same, ne_eq, not_true, Bool.false_eq_true, if_false])

theorem marker_deviates (compute : s.core.isControl = false) (task : s.core.inh = false) (other : stamp.toNat ≠ s.core.ccy % 4096) :
    s.marker i stamp p = faulted s 9 .stampDeviation (some (BitVec.ofNat 64 (s.core.ccy % 4096 + 65536 * stamp.toNat))) := by
  have differs : BitVec.ofNat 12 s.core.ccy ≠ stamp := mt stamp_eq_iff.mp other
  refine hi.runCore_eq ?_
  rw [compute, task, if_neg Bool.false_ne_true, if_neg Bool.false_ne_true, if_pos differs]
  rfl

end

/-- Settles O3: both markers are `State.marker`, which has one case for each clause. -/
theorem checkpointMarkers : Obligations.CheckpointMarkers := by
  unfold Obligations.CheckpointMarkers
  intro s x
  exact ⟨fun hi compute task same => congrArg _ (marker_matches hi x false compute task same),
    fun hi compute task same => congrArg _ (marker_matches hi x true compute task same),
    fun hi compute task other => congrArg _ (marker_deviates hi x false compute task other),
    fun hi compute task other => congrArg _ (marker_deviates hi x true compute task other),
    fun hi control => congrArg _ (marker_control hi x false control), fun hi control => congrArg _ (marker_control hi x true control),
    fun hi compute handler => congrArg _ (marker_handler hi x false compute handler),
    fun hi compute handler => congrArg _ (marker_handler hi x true compute handler)⟩

/-! ## Calls (R234, R286) -/

section
variable {i : Instr} {s : State} (hi : Issues i s) (cause : Cause) (code : BitVec 16)
include hi

theorem callEntry_task (task : s.core.inHandler = false) :
    s.callEntry i cause code = withCore s { s.core with call := some (cause, code) } :=
  hi.runCore_eq (if_neg (ne_true_of_eq_false task))

theorem callEntry_handler (handler : s.core.inHandler = true) :
    s.callEntry i cause code = faulted s 0 cause (some (code.setWidth 64)) :=
  hi.runCore_eq (if_pos handler)

end

/-! ## Marked results and `halt` (R190, R285) -/

theorem marked_eq_none {c : Core} (clear : ∀ q ∈ c.r.q.toList, (q.err && q.arrived) = false) : c.marked = none := by
  refine List.find?_eq_none.mpr fun q small => ?_
  have below : q < 4 := List.mem_range.mp small
  rw [vector_getD_of_lt _ _ below, clear _ (Vector.mem_toList_iff.mpr (Vector.getElem_mem below))]
  decide

theorem marked_eq_some {c : Core} {q : Nat} (below : q < 4)
    (mark : ((c.r.q.getD q QReg.reset).err && (c.r.q.getD q QReg.reset).arrived) = true)
    (lowest : ∀ k, k < q → ((c.r.q.getD k QReg.reset).err && (c.r.q.getD k QReg.reset).arrived) = false) : c.marked = some q :=
  List.find?_range_eq_some.mpr ⟨mark, List.mem_range.mpr below, fun k less => by rw [lowest k less]; decide⟩

section
variable {s : State} (hi : Issues .halt s)
include hi

theorem halt_unmarked (task : s.core.inHandler = false) (clear : s.core.marked = none) :
    exec .halt s = .next (withCore s { s.core with run := .halted, haltedAt := s.time.gcy }) := by
  refine hi.next_core rfl ?_
  simp only [task, clear, Bool.false_eq_true, if_false]

theorem halt_marked (task : s.core.inHandler = false) {q : Nat} (mark : s.core.marked = some q) :
    exec .halt s = .next (faulted s 0 .ringState (some (s.core.markTval q))) := by
  refine hi.next_core rfl ?_
  simp only [task, mark, Bool.false_eq_true, if_false]
  rfl

theorem halt_handler (handler : s.core.inHandler = true) : exec .halt s = .next (illegalAt s 0 .halt) :=
  hi.next_illegal rfl (if_pos handler)

end

theorem inHandler_of_compute {c : Core} (compute : c.isControl = false) (handler : c.inh = true) : c.inHandler = true := by
  rw [Core.inHandler, compute, handler]
  rfl

/-- Settles O4: each instruction acts on its core alone, in one case for each clause; the three calls are `State.callEntry`. -/
theorem sequencerControl : Obligations.SequencerControl := by
  unfold Obligations.SequencerControl
  intro s
  refine ⟨fun hi task clear => halt_unmarked hi task (marked_eq_none clear),
    fun c hi task => congrArg _ (callEntry_task hi .trapInsn c task), fun c hi task => congrArg _ (callEntry_task hi .scall c task),
    fun c hi task => congrArg _ (callEntry_task hi .brk c task), ?tretControl, ?tretHandler, ?wgcyCompute, ?wgcyControl, ?rswap, ?handler,
    fun q below hi task mark lowest => halt_marked hi task (marked_eq_some below mark lowest), ?rswapControl, ?rswapNest, ?tretTask, ?idle⟩
  case tretControl => exact fun hi control => hi.next_core rfl (if_pos control)
  case tretHandler =>
    intro hi compute handler
    refine hi.next_core rfl ?_
    simp only [compute, handler, Bool.false_eq_true, if_false, if_true]
  case wgcyCompute => exact fun a hi compute => hi.next_core rfl (if_neg (ne_true_of_eq_false compute))
  case wgcyControl => exact fun a hi control => hi.next_core rfl (if_pos control)
  case rswap =>
    intro hi compute task noNest
    refine hi.next_core rfl ?_
    simp only [compute, task, noNest, Option.isSome_none, Bool.or_false, Bool.false_eq_true, if_false]
  case handler =>
    intro compute inh
    have handler := inHandler_of_compute compute inh
    exact ⟨fun hi => halt_handler hi handler, fun hi => hi.next_illegal rfl (if_pos (by rw [inh, Bool.or_true])),
      fun c => ⟨fun hi => congrArg _ (callEntry_handler hi .trapInsn c handler), fun hi => congrArg _ (callEntry_handler hi .scall c handler),
        fun hi => congrArg _ (callEntry_handler hi .brk c handler)⟩⟩
  case rswapControl => exact fun hi control => hi.next_illegal rfl (if_pos (by rw [control, Bool.true_or]))
  case rswapNest =>
    intro hi compute task nest
    have runs : s.core.eng.nest.isSome = true := Option.isSome_iff_ne_none.mpr nest
    refine hi.next_core rfl ?_
    rw [if_neg (by rw [compute, task]; decide), if_pos runs]
    rfl
  case tretTask =>
    intro hi compute task
    refine hi.next_illegal rfl ?_
    simp only [compute, task, Bool.false_eq_true, if_false]
  case idle => exact fun n hi _ => hi.next_core rfl rfl

end Sys2Proof.Cert
end

section
/-! A copy out of `lcl` (R193, R301, R360, R363): what `State.copyOut` does in each of its cases. -/

namespace Sys2Proof.Machine

/-! ## Operations scheduled in a row (R144) -/

/-- Operations scheduled one after another stand behind those in flight, in that order. -/
theorem Core.foldl_at' {α : Type} (slot : Nat) (due : Nat → α → Nat) (eff : α → Effect) (l : List α) (c : Core) :
    l.foldl (fun d a => d.at' slot (due d.ccy a) (eff a)) c =
      { c with late := c.late ++ l.map fun a => ⟨due c.ccy a, c.ccy, slot, c.pc, eff a⟩ } := by
  induction l generalizing c with
  | nil => simp
  | cons a l ih => exact (ih _).trans (congrArg (fun late : List Late => { c with late := late }) (List.append_assoc _ _ _))

/-! ## An effect that leaves its control core at issue (R301) -/

theorem Gated.toStretcher_of_write {g : Gated} {b : Backing} {key : MemKey} {bytes : List (Nat × Byte)} (write : g.eff = .write b key bytes)
    (core : Nat) : g.toStretcher core = (b == .stretcher && g.core == core) := by
  unfold Gated.toStretcher
  rw [write]
  cases b <;> rfl

section
variable {s : State} {before : List Gated} {g : Gated} (left : s.released = before ++ [g])
include left

theorem State.leaveNow_stays (waits : g.toStretcher s.core.id = false ∨ (before.any fun h => h.toStretcher s.core.id) = true) :
    s.leaveNow before = s := by
  unfold State.leaveNow
  rw [left, List.getLast?_concat]
  rcases waits with elsewhere | behind
  · simp only [elsewhere, Bool.false_eq_true, if_false, ite_self]
  · rw [if_pos (Or.inr behind)]

theorem State.leaveNow_performs (register : g.toStretcher s.core.id = true)
    (first : (before.any fun h => h.toStretcher s.core.id) = false) : s.leaveNow before = s.performEffect g := by
  have goes : ¬ ((before ++ [g]).length = before.length ∨ (before.any fun h => h.toStretcher s.core.id) = true) := by simp [first]
  unfold State.leaveNow
  rw [left, List.getLast?_concat, if_neg goes]
  exact if_pos register

end

/-! ## A copy out of `lcl` (R360, R363) -/

/-- The places at which the chunks of a copy out of `lcl` are read, but for those that a later chunk overwrites. -/
def chunkPlaces (layout : Nat) (cs : List Chunk) : List Nat :=
  (cs.filter fun y => y.live).flatMap fun y => sixteen (physOf layout y.src)

/-- The addresses that they go to. -/
def chunkAddresses (x : Extent) (cs : List Chunk) : List Nat :=
  (cs.filter fun y => y.live).flatMap fun y => sixteen (x.address y.dst)

section
variable {s : State} {f : CopyForm} {rows : List CopyRow} {x : Extent} {cs : List Chunk} (extent : s.core.extent f.ext = some x)
  (chunks : markChunks f.several (chunkOffsets f rows) = cs)
include extent chunks

theorem State.copyOut_control (control : s.core.isControl = true) : s.copyOut f rows =
    (s.gate 7 (x.classOf 0x08) 0 0 (.write x.backing (x.key true)
      ((chunkAddresses x cs).zip (s.core.lclAt (chunkPlaces f.layout cs))))).leaveNow s.released := by
  unfold State.copyOut
  simp only [extent, chunks, control, if_true]
  rfl

theorem State.copyOut_compute (compute : s.core.isControl = false) : s.copyOut f rows =
    if 65536 < s.outbound s.core + 16 * cs.length then s.upd fun c => c.raise 7 .gateBufferFull none
    else
      let t := s.gate 7 (x.classOf 0x08) (16 * cs.length) (byRow cs).length (.write x.backing (x.key false) [])
      if t.nextFill = s.nextFill then t
      else t.upd fun c => (byRow cs).zipIdx.foldl (fun c g =>
        c.at' 7 (c.ccy + 1 + g.2) (.outRow s.nextFill (chunkPlaces f.layout g.1) (chunkAddresses x g.1))) c := by
  unfold State.copyOut
  simp only [extent, chunks, compute, Bool.false_eq_true, if_false]
  rfl

theorem State.copyOut_outbound_full (compute : s.core.isControl = false) (full : 65536 < s.outbound s.core + 16 * cs.length) :
    s.copyOut f rows = s.upd fun c => c.raise 7 .gateBufferFull none := by
  rw [State.copyOut_compute extent chunks compute, if_pos full]

theorem State.copyOut_gate_full (compute : s.core.isControl = false) (room : s.outbound s.core + 16 * cs.length ≤ 65536)
    (full : 64 ≤ s.core.gated.length) : s.copyOut f rows = s.upd fun c => c.raise 7 .gateBufferFull none := by
  rw [State.copyOut_compute extent chunks compute, if_neg (Nat.not_lt.mpr room), State.gate_full _ _ _ _ _ _ compute full]
  exact if_pos rfl

theorem State.copyOut_held (compute : s.core.isControl = false) (room : s.outbound s.core + 16 * cs.length ≤ 65536)
    (few : s.core.gated.length < 64) : s.copyOut f rows = { s with
      core := { s.core with
        gated := s.core.gated ++ [⟨s.nextFill, s.core.id, clusterOf s.core.id, s.core.strand, s.core.ccy, 7, x.classOf 0x08,
          (byRow cs).length, 16 * cs.length, .write x.backing (x.key false) []⟩]
        late := s.core.late ++ (byRow cs).zipIdx.map fun g => ⟨s.core.ccy + 1 + g.2, s.core.ccy, 7, s.core.pc,
          .outRow s.nextFill (chunkPlaces f.layout g.1) (chunkAddresses x g.1)⟩ }
      nextFill := s.nextFill + 1 } := by
  rw [State.copyOut_compute extent chunks compute, if_neg (Nat.not_lt.mpr room), State.gate_held _ _ _ _ _ _ compute few]
  refine (if_neg (Nat.succ_ne_self _)).trans ?_
  exact congrArg (fun c : Core => { s with core := c, nextFill := s.nextFill + 1 }) (Core.foldl_at' 7
    (fun ccy (g : List Chunk × Nat) => ccy + 1 + g.2) (fun g => .outRow s.nextFill (chunkPlaces f.layout g.1) (chunkAddresses x g.1)) _ _)

end

end Sys2Proof.Machine
end

section
namespace Sys2Proof.Cert

open Sys2Proof.Machine

/-- Settles O34: on a compute core the outbound buffer is checked before the gate buffer; on a control core the effect that leaves is the last
of the released ones, and performs at once where it is the first of the core for the register space. -/
theorem copiesOutOfLcl : Obligations.CopiesOutOfLcl := by
  unfold Obligations.CopiesOutOfLcl
  intro s f rows x extent cs
  refine ⟨fun compute full => State.copyOut_outbound_full extent rfl compute full,
    fun compute room full => State.copyOut_gate_full extent rfl compute room full,
    fun compute room few => State.copyOut_held extent rfl compute room few, fun control => ?control⟩
  case control =>
    rw [State.copyOut_control extent rfl control, gate_eq_leftBy control]
    refine ⟨fun waits => State.leaveNow_stays rfl (waits.imp_left fun elsewhere => ?_),
      fun register first => State.leaveNow_performs (s := leftBy s 7 _ _) rfl ?_ first⟩
    · rw [Gated.toStretcher_of_write rfl, beq_eq_false_iff_ne.mpr elsewhere, Bool.false_and]
    · rw [Gated.toStretcher_of_write rfl, register, beq_self_eq_true, Bool.true_and]
      exact beq_self_eq_true s.core.id

end Sys2Proof.Cert
end

section
/-! Slot 2: CSR accesses, fences and identifiers (R177, R196, R304-R306). -/

namespace Sys2Proof.Cert

open Sys2Proof.Machine

/-! ## CSRs (R267, R304) -/

/-- Every CSR that some mode may write is listed. -/
theorem csrListed_of_writable {m : Mode} {n : BitVec 12} (writable : csrWritable m n = true) : csrListed n = true := by
  cases m
  all_goals
    simp only [csrWritable, csrListed, List.contains_iff_mem, List.mem_cons, List.not_mem_nil, or_false] at writable ⊢
    omega

section
variable {i : Instr} {s : State} (hi : Issues i s) {n : BitVec 12} (f : Core → Word → Word)
include hi

theorem csrOp_unlisted (unlisted : csrListed n = false) : s.csrOp i n f = illegalAt s (slotOf i) i :=
  hi.runCore_illegal (if_pos (by rw [unlisted]; decide))

theorem csrOp_writable (writable : csrWritable s.core.mode n = true) :
    s.csrOp i n f = later s 2 1 (.csr n (f s.core (s.core.csrHeld n))) :=
  hi.runCore_eq ((if_neg (by rw [csrListed_of_writable writable]; decide)).trans (if_pos writable))

theorem csrOp_readOnly (listed : csrListed n = true) (readOnly : csrWritable s.core.mode n = false) : s.csrOp i n f = s :=
  hi.runCore_eq ((if_neg (by rw [listed]; decide)).trans (if_neg (ne_true_of_eq_false readOnly)))

end

/-! ## Fences (R196, R305) -/

section
variable {s : State} {p q : BitVec 8} {k : BitVec 3} (hi : Issues (.fence p q k) s)
include hi

theorem fence_reserved (reserved : k = 7) : exec (.fence p q k) s = .next (illegalAt s 2 (.fence p q k)) :=
  hi.next_illegal rfl (if_pos reserved)

variable (kind : k ≠ 7)
include kind

theorem fence_nothing (empty : p = 0 ∨ q = 0 ∧ s.core.isControl = false) : exec (.fence p q k) s = .next s := by
  refine hi.next_core rfl ?_
  rw [if_neg kind]
  exact if_pos (empty.imp_right fun ⟨noSuccessors, compute⟩ => ⟨noSuccessors, by rw [compute]; rfl⟩)

theorem fence_waits (predecessors : p ≠ 0) (control : s.core.isControl = true) :
    exec (.fence p q k) s = .next (withCore s { s.core with wait := s.core.wait ++ [.fence p.toNat] }) := by
  refine hi.next_core rfl ?_
  rw [if_neg kind, if_neg (not_or.mpr ⟨predecessors, fun empty => absurd empty.2 (by rw [control]; decide)⟩), if_pos control]

theorem fence_holds (predecessors : p ≠ 0) (successors : q ≠ 0) (compute : s.core.isControl = false) :
    exec (.fence p q k) s =
      .next (withCore s (s.core.requestHold (.fence p.toNat k.toNat s.core.ccy []) .nothing)) := by
  refine hi.next_core rfl ?_
  rw [if_neg kind, if_neg (not_or.mpr ⟨predecessors, fun empty => successors empty.1⟩), if_neg (ne_true_of_eq_false compute)]

end

/-- Settles O15: a lock, a read and an identifier are one operation in flight; the three CSR writes are `State.csrOp`. -/
theorem csrsLocksAndFences : Obligations.CsrsLocksAndFences := by
  unfold Obligations.CsrsLocksAndFences
  intro s
  refine ⟨fun m n hi => hi.next_core rfl rfl, ?read, ?unlisted, ?written, ?readOnly,
    fun p q k hi kind empty => fence_nothing hi kind empty,
    fun p q k hi kind predecessors successors compute => fence_holds hi kind predecessors successors compute,
    fun p q k hi kind predecessors control => fence_waits hi kind predecessors control, fun p q hi => fence_reserved hi rfl,
    fun d n hi => hi.next rfl rfl⟩
  case read => exact fun d n hi listed => hi.next rfl (if_pos listed)
  case unlisted =>
    intro d a n unlisted
    exact ⟨fun hi => hi.next rfl ((if_neg (by rw [unlisted]; decide)).trans (upd_illegal s _)),
      fun hi => congrArg _ (csrOp_unlisted hi _ unlisted), fun hi => congrArg _ (csrOp_unlisted hi _ unlisted),
      fun hi => congrArg _ (csrOp_unlisted hi _ unlisted)⟩
  case written =>
    exact fun a n writable => ⟨fun hi => congrArg _ (csrOp_writable hi _ writable), fun hi => congrArg _ (csrOp_writable hi _ writable),
      fun hi => congrArg _ (csrOp_writable hi _ writable)⟩
  case readOnly =>
    exact fun a n listed readOnly => ⟨fun hi => congrArg _ (csrOp_readOnly hi _ listed readOnly),
      fun hi => congrArg _ (csrOp_readOnly hi _ listed readOnly), fun hi => congrArg _ (csrOp_readOnly hi _ listed readOnly)⟩

/-! ## Identifiers (R177, R306) -/

/-- The identifiers from 8 on are the indices of the loop stack. -/
theorem identifier_loop (c : Core) (k : Nat) : c.identifier (8 + k) = ((c.loops[k]?).map fun e => e.index.toNat).getD 0 := by
  unfold Core.identifier
  rw [if_pos (Nat.le_add_right 8 k), Nat.add_sub_cancel_left]

theorem identifier_control {c : Core} (control : 512 ≤ c.id) {n : Nat} (low : n < 8) :
    c.identifier n = if n = 0 then c.id else if n = 6 then 1 else 0 := by
  unfold Core.identifier
  rw [if_neg (Nat.not_le.mpr low)]
  exact if_pos (decide_eq_true control)

/-- Settles O16: those of a compute core are digits of its number, and its strand. -/
theorem identifiersNameTheCore : Obligations.IdentifiersNameTheCore := by
  unfold Obligations.IdentifiersNameTheCore
  intro c
  refine ⟨fun compute => ?compute, fun control => ?control, fun k e entry => ?entry, fun k beyond => ?beyond⟩
  case compute =>
    have notControl : c.isControl = false := decide_eq_false (Nat.not_le.mpr compute)
    unfold Core.identifier
    rw [notControl]
    refine ⟨rfl, rfl, rfl, ?half, rfl, rfl, rfl⟩
    case half =>
      change c.id / 8 % 16 / 8 = c.id / 64 % 2
      omega
  case control =>
    refine ⟨identifier_control control (by decide), identifier_control control (by decide), fun n one five => ?_⟩
    rw [identifier_control control (by omega), if_neg (by omega), if_neg (by omega)]
  case entry => rw [identifier_loop, entry]; rfl
  case beyond => rw [identifier_loop, List.getElem?_eq_none beyond]; rfl

end Sys2Proof.Cert
end

section
/-! Slot 7 (R182, R185, R194, R365-R367): waits for a plate, cache maintenance, timed transfers. -/

namespace Sys2Proof.Cert

open Sys2Proof.Machine

/-! ## Waiting for a plate (R182, R365) -/

section
variable {s : State} {p : BitVec 7} (hi : Issues (.mwait p) s)
include hi

theorem mwait_holds (compute : s.core.isControl = false) :
    exec (.mwait p) s = .next (withCore s (s.core.requestHold (.mwait p.toNat) .nothing)) :=
  hi.next_core rfl (if_pos (by rw [compute]; rfl))

theorem mwait_waits (control : s.core.isControl = true) (plate : p.toNat < 64) :
    exec (.mwait p) s = .next (withCore s { s.core with wait := s.core.wait ++ [.mwait p.toNat] }) :=
  hi.next_core rfl ((if_neg (by rw [control]; decide)).trans (if_neg (Nat.not_le.mpr plate)))

theorem mwait_noPlate (control : s.core.isControl = true) (beyond : 64 ≤ p.toNat) :
    exec (.mwait p) s = .next (faulted s 7 .extentBound none) :=
  hi.next_core rfl ((if_neg (by rw [control]; decide)).trans (if_pos beyond))

end

/-! ## Ranges of lines (R194, R366) -/

section
variable {i : Instr} {s : State} (hi : Issues i s) {e : BitVec 4} {x n : BitVec 6} (f : List Nat → State → State)
include hi

theorem onLines_empty (empty : s.core.sreg n = 0) : s.onLines i e x n f = s :=
  (hi.run_eq _).trans (if_pos (by rw [empty]; rfl))

variable (filled : s.core.sreg n ≠ 0)
include filled

theorem onLines_lcl (lcl : e = lclCode) : s.onLines i e x n f =
    faulted s 7 (if s.core.lclSize < (s.core.sreg x).toNat + (s.core.sreg n).toNat then .extentBound else .extentPerm)
      (some (s.core.sreg x)) := by
  refine (hi.run_eq _).trans ((if_neg (BitVec.toNat_ne.mp filled)).trans ((if_pos lcl).trans ?_))
  dsimp only
  rw [BitVec.ofNat_toNat, BitVec.setWidth_eq]
  rfl

variable (outside : e ≠ lclCode)
include outside

theorem onLines_refused {z : Cause × Option Word} (refused : s.core.extFault e (s.core.sreg x).toNat (s.core.sreg n).toNat 1 .load
    (fun y => !y.device && y.backing != .host) = some z) : s.onLines i e x n f = faulted s 7 z.1 z.2 := by
  have bytes : (s.core.sreg n).toNat ≠ 0 := BitVec.toNat_ne.mp filled
  simp only [State.onLines, hi.run_eq, if_neg bytes, if_neg outside, refused]
  rfl

variable {y : Extent} (extent : s.core.extent e = some y) (accepted : s.core.extFault e (s.core.sreg x).toNat (s.core.sreg n).toNat 1 .load
  (fun y => !y.device && y.backing != .host) = none)
include extent accepted

theorem onLines_accepted : s.onLines i e x n f =
    if y.backing = .nc then s else f (y.lines (s.core.sreg x).toNat (s.core.sreg n).toNat) s := by
  have bytes : (s.core.sreg n).toNat ≠ 0 := BitVec.toNat_ne.mp filled
  simp only [State.onLines, hi.run_eq, if_neg bytes, if_neg outside, accepted, extent]

theorem onLines_nc (nc : y.backing = .nc) : s.onLines i e x n f = s :=
  (onLines_accepted hi f filled outside extent accepted).trans (if_pos nc)

theorem onLines_l2 (l2 : y.backing = .l2) : s.onLines i e x n f = f (y.lines (s.core.sreg x).toNat (s.core.sreg n).toNat) s :=
  (onLines_accepted hi f filled outside extent accepted).trans (if_neg (by rw [l2]; decide))

end

/-! ## Timed transfers (R185, R367) -/

section
variable {s : State} {l : BitVec 2} {a : BitVec 5} {r : BitVec 7} {t : BitVec 6} (hi : Issues (.send l a r t) s)
include hi

theorem send_partner {d : Core} (partner : (s.cohort s.core.coh).find? (fun d => d.tstrand % d.cohsize == r.toNat) = some d) :
    exec (.send l a r t) s = .next (s.onCore d.id fun d => { d with late := d.late ++
      [⟨d.ccy + 1 + s.transitSum s.core.id d.id, d.ccy, 7, s.core.pc,
        .land l (s.core.vreg a) ((s.core.sreg t).extractLsb' 0 16) d.r.act s.core.id⟩] }) := by
  refine hi.next rfl ?_
  simp only [partner]

theorem send_noPartner (unknown : (s.cohort s.core.coh).find? (fun d => d.tstrand % d.cohsize == r.toNat) = none) :
    exec (.send l a r t) s = .next (faulted s 7 .xferTag (some (BitVec.ofNat 64 (2 ^ 33)))) := by
  refine hi.next rfl ?_
  simp only [unknown]
  rfl

end

section
variable {s : State} {l : BitVec 2} {d : BitVec 5} {t : BitVec 16} (hi : Issues (.recv l d t) s)
include hi

theorem recv_matches (full : (s.core.lreg l).full = true) (tag : (s.core.lreg l).tag = t) :
    exec (.recv l d t) s = .next (later (withCore s { s.core with r := s.core.r.emptyL l }) 7 (s.lat 8) (.vreg d (s.core.lreg l).val)) :=
  hi.next rfl (congrArg (withCore s) (if_pos (by rw [full, tag, beq_self_eq_true]; rfl)))

theorem recv_differs (differs : (s.core.lreg l).full = false ∨ (s.core.lreg l).tag ≠ t) :
    exec (.recv l d t) s = .next (faulted s 7 .xferTag (some (BitVec.ofNat 64
      (t.toNat + 2 ^ 16 * (s.core.lreg l).tag.toNat + 2 ^ 32 * (!(s.core.lreg l).full).toNat)))) := by
  have fails : ¬ ((s.core.lreg l).full && (s.core.lreg l).tag == t) = true := fun ok => by
    obtain ⟨full, tag⟩ := Bool.and_eq_true_iff.mp ok
    exact differs.elim (fun empty => Bool.false_ne_true (empty.symm.trans full)) fun other => other (beq_iff_eq.mp tag)
  exact hi.next rfl (congrArg (withCore s) (if_neg fails))

end

/-- Settles O35: `cflush` and `cinv` share the checks of their range, and each other instruction has one case for each clause. -/
theorem waitsMaintenanceAndTransfers : Obligations.WaitsMaintenanceAndTransfers := by
  unfold Obligations.WaitsMaintenanceAndTransfers
  intro s
  refine ⟨fun p hi compute => mwait_holds hi compute, fun p hi control plate => mwait_waits hi control plate,
    fun p hi control beyond => mwait_noPlate hi control beyond, ?lcl, ?nc, ?empty, ?l2, ?refused,
    fun l a r t d hi partner => send_partner hi partner, fun l a r t hi unknown => send_noPartner hi unknown,
    fun l d t hi full tag => recv_matches hi full tag, fun l d t hi differs => recv_differs hi differs⟩
  case lcl =>
    exact fun x n filled => ⟨_, rfl, fun hi => congrArg _ (onLines_lcl hi _ filled rfl), fun hi => congrArg _ (onLines_lcl hi _ filled rfl)⟩
  case nc =>
    exact fun e x n y outside filled extent nc accepted => ⟨fun hi => congrArg _ (onLines_nc hi _ filled outside extent accepted nc),
      fun hi => congrArg _ (onLines_nc hi _ filled outside extent accepted nc)⟩
  case empty => exact fun e x n empty => ⟨fun hi => congrArg _ (onLines_empty hi _ empty), fun hi => congrArg _ (onLines_empty hi _ empty)⟩
  case l2 =>
    intro e x n y outside filled extent l2 accepted
    have flushed (hi : Issues (.cflush e x n) s) : exec (.cflush e x n) s = .next (s.gate 7 0x08 0 0 _) :=
      congrArg _ (onLines_l2 hi _ filled outside extent accepted l2)
    exact ⟨fun hi compute few => (flushed hi).trans (congrArg _ (gate_eq_gatedBy compute few 7 0x08 0 0 _)),
      fun hi compute full => (flushed hi).trans (congrArg _ (gate_eq_faulted compute full 7 0x08 0 0 _)),
      fun hi control => (flushed hi).trans (congrArg _ (gate_eq_leftBy control 7 0x08 _)),
      fun hi => congrArg _ (onLines_l2 hi _ filled outside extent accepted l2)⟩
  case refused =>
    exact fun e x n z outside filled refused => ⟨fun hi => congrArg _ (onLines_refused hi _ filled outside refused),
      fun hi => congrArg _ (onLines_refused hi _ filled outside refused)⟩

end Sys2Proof.Cert
end

section
/-! The roundel at issue (R188, R190, R368, R370, R374): a ring operation, and collecting results. -/

namespace Sys2Proof.Cert

open Sys2Proof.Machine

/-! ## A ring operation (R188, R368) -/

/-- The canvas of a ring operation (R265): a control core names it, a compute core has its own. -/
def ringCanvas (c : Core) (k : BitVec 2) : Nat := if c.isControl then k.toNat else c.id / 128

/-- The entry of a ring operation that a core issues (R188). -/
def issuedEntry (c : Core) (kind : RingKind) (slot : BitVec 8) (k word : BitVec 2) (x cmp : Word) (payload : Payload)
    (phase : RingPhase) : RingEntry :=
  ⟨kind, ringCanvas c k, slot.toNat, payload, x, word.toNat, cmp, c.ccy, c.r.act, phase⟩

section
variable {i : Instr} {s : State} (hi : Issues i s) (kind : RingKind) {q : BitVec 2} {n : BitVec 8} {k : BitVec 2} (w : BitVec 2) (x cmp : Word)
  (payload : Payload)
include hi

theorem ringOp_foreign (foreign : s.ringOwns s.core (ringCanvas s.core k) n.toNat = false) :
    s.ringOp i kind q n k w x cmp payload = faulted s 7 .ringOwner none :=
  (hi.run_eq _).trans (if_pos (by simpa [ringCanvas, canvasOf] using foreign))

variable (owns : s.ringOwns s.core (ringCanvas s.core k) n.toNat = true)
include owns

theorem ringOp_busy (busy : (s.core.qreg q).busy = true) :
    s.ringOp i kind q n k w x cmp payload = faulted s 7 .ringState (some (BitVec.ofNat 64 (0x200 + q.toNat))) :=
  (hi.run_eq _).trans ((if_neg (by simpa [ringCanvas, canvasOf] using owns)).trans (if_pos busy))

variable (free : (s.core.qreg q).busy = false)
include free

theorem ringOp_armed (now : kind = .rget ∨ s.core.isControl = true) : s.ringOp i kind q n k w x cmp payload =
    withCore s (s.core.reserveQ q n (issuedEntry s.core kind n k w x cmp payload (.armed s.time.gcy))) := by
  have atIssue : (kind == .rget || s.core.isControl) = true := by simpa using now
  refine (hi.run_eq _).trans ((if_neg (by simpa [ringCanvas, canvasOf] using owns)).trans ((if_neg (ne_true_of_eq_false free)).trans
    ((if_pos atIssue).trans ?_)))
  rw [if_pos atIssue]
  rfl

variable (mutation : kind ≠ .rget) (compute : s.core.isControl = false)
include mutation compute

/-- A mutation of a compute core is held, and reserves its register where it could be held. -/
theorem ringOp_mutation : s.ringOp i kind q n k w x cmp payload =
    let t := s.gate 7 0 0 0 (.ring q)
    if t.nextFill = s.nextFill then t
    else t.upd fun c => c.reserveQ q n (issuedEntry s.core kind n k w x cmp payload .gated) := by
  have deferred : (kind == .rget || s.core.isControl) = false := by simp [mutation, compute]
  refine (hi.run_eq _).trans ((if_neg (by simpa [ringCanvas, canvasOf] using owns)).trans ((if_neg (ne_true_of_eq_false free)).trans
    ((if_neg (by rw [deferred]; decide)).trans ?_)))
  rw [deferred]
  rfl

theorem ringOp_gate_full (full : 64 ≤ s.core.gated.length) :
    s.ringOp i kind q n k w x cmp payload = faulted s 7 .gateBufferFull none := by
  rw [ringOp_mutation hi kind w x cmp payload owns free mutation compute, gate_eq_faulted compute full]
  exact if_pos rfl

theorem ringOp_gated (few : s.core.gated.length < 64) : s.ringOp i kind q n k w x cmp payload =
    gatedBy s (s.core.reserveQ q n (issuedEntry s.core kind n k w x cmp payload .gated)) 7 0 0 0 (.ring q) := by
  rw [ringOp_mutation hi kind w x cmp payload owns free mutation compute, gate_eq_gatedBy compute few]
  exact if_neg (Nat.succ_ne_self _)

end

/-- Every instruction whose meaning is `State.ringOp` issues as R188 and R368 say. -/
theorem ringResult_of_exec {i : Instr} {kind : RingKind} {q : BitVec 2} {n : BitVec 8} {k w : BitVec 2} {x cmp : Core → Word}
    {payload : Core → Payload}
    (h : ∀ s, exec i s = .next (s.ringOp i kind q n k w (x s.core) (cmp s.core) (payload s.core))) : RingResult i kind q n k w x cmp payload := by
  intro s hi
  rw [h]
  refine ⟨fun foreign => ?foreign, fun owns busy => ?busy, fun owns free now => ?armed,
    fun owns free mutation compute => ⟨fun full => ?full, fun few => ?gated⟩⟩
  case foreign => exact congrArg _ (ringOp_foreign hi kind w _ _ _ foreign)
  case busy => exact congrArg _ (ringOp_busy hi kind w _ _ _ owns busy)
  case armed => exact congrArg _ (ringOp_armed hi kind w _ _ _ owns free now)
  case full => exact congrArg _ (ringOp_gate_full hi kind w _ _ _ owns free mutation compute full)
  case gated => exact congrArg _ (ringOp_gated hi kind w _ _ _ owns free mutation compute few)

/-- Settles O36: the meaning of every ring operation is `State.ringOp`. -/
theorem ringOperationsReserveTheirRegister : Obligations.RingOperationsReserveTheirRegister := by
  unfold Obligations.RingOperationsReserveTheirRegister
  intro q w k n o c v
  exact ⟨ringResult_of_exec fun _ => rfl, ringResult_of_exec fun _ => rfl, ringResult_of_exec fun _ => rfl, ringResult_of_exec fun _ => rfl,
    ringResult_of_exec fun _ => rfl, ringResult_of_exec fun _ => rfl, ringResult_of_exec fun _ => rfl, ringResult_of_exec fun _ => rfl,
    ringResult_of_exec fun _ => rfl, ringResult_of_exec fun _ => rfl⟩

/-! ## Collecting a result (R190, R370) -/

/-- A result that has arrived unmarked, or one under way to the register, of an operation that is no longer gated. -/
def Collectable (x : QReg) : Prop :=
  (x.arrived = true ∧ x.err = false) ∨
    (x.arrived = false ∧ (x.entry ≠ none ∨ x.result ≠ none) ∧ ∀ e, x.entry = some e → e.phase ≠ .gated)

section
variable {i : Instr} {s : State} (hi : Issues i s) (d : BitVec 6) {q : BitVec 2} (word : Nat) (rev : Bool)
include hi

theorem rcolOp_marked (arrived : (s.core.qreg q).arrived = true) (err : (s.core.qreg q).err = true) : s.rcolOp i d q word rev =
    faulted s 7 .ringState (some (BitVec.ofNat 64 ((s.core.qreg q).slot.toNat + 1024 * q.toNat))) :=
  hi.runCore_eq ((if_pos arrived).trans (if_pos err))

theorem rcolOp_nothing (missing : (s.core.qreg q).arrived = false) (idle : (s.core.qreg q).entry = none)
    (noResult : (s.core.qreg q).result = none) :
    s.rcolOp i d q word rev = faulted s 7 .ringState (some (BitVec.ofNat 64 (0x100 + q.toNat))) := by
  refine hi.runCore_eq ((if_neg (ne_true_of_eq_false missing)).trans (if_pos ?_))
  rw [QReg.busy, idle, noResult]
  rfl

theorem rcolOp_gated (missing : (s.core.qreg q).arrived = false) {e : RingEntry} (entry : (s.core.qreg q).entry = some e)
    (gated : e.phase = .gated) :
    s.rcolOp i d q word rev = faulted s 7 .ringState (some (BitVec.ofNat 64 (0x100 + q.toNat))) := by
  refine hi.runCore_eq ((if_neg (ne_true_of_eq_false missing)).trans (if_pos ?_))
  rw [entry]
  simp [gated]

theorem rcolOp_collects (collectable : Collectable (s.core.qreg q)) : s.rcolOp i d q word rev = withCore s
    (if s.core.isControl then { s.core with wait := s.core.wait ++ [.rcol d q word rev] }
      else s.core.requestHold (.rcol q) (.rcolWrite d q word rev s.core.pc)) := by
  refine hi.runCore_eq ?_
  rcases collectable with ⟨arrived, clear⟩ | ⟨missing, underWay, notGated⟩
  · exact (if_pos arrived).trans (if_neg (ne_true_of_eq_false clear))
  · refine (if_neg (ne_true_of_eq_false missing)).trans (if_neg ?_)
    cases entry : (s.core.qreg q).entry with
    | none => simpa [QReg.busy, entry] using underWay
    | some e => simpa [QReg.busy, entry] using notGated e entry

end

/-- Every instruction whose meaning is `State.rcolOp` collects as R190 and R370 say. -/
theorem collectResult_of_exec {i : Instr} {d : BitVec 6} {q : BitVec 2} {word : Nat} {rev : Bool}
    (h : ∀ s, exec i s = .next (s.rcolOp i d q word rev)) : CollectResult i d q word rev := by
  intro s hi
  rw [h]
  refine ⟨fun arrived err => ?marked, fun missing idle noResult => ?nothing, fun e missing entry gated => ?gated,
    fun collectable => ⟨fun compute => ?holds, fun control => ?waits⟩⟩
  case marked => exact congrArg _ (rcolOp_marked hi d word rev arrived err)
  case nothing => exact congrArg _ (rcolOp_nothing hi d word rev missing idle noResult)
  case gated => exact congrArg _ (rcolOp_gated hi d word rev missing entry gated)
  case holds =>
    rw [rcolOp_collects hi d word rev collectable, if_neg (ne_true_of_eq_false compute)]
    rfl
  case waits => rw [rcolOp_collects hi d word rev collectable, if_pos control]

/-! ## The status of a collective (R374) -/

section
variable {s : State} {d : BitVec 6} (hi : Issues (.cwait d) s)
include hi

theorem cwait_control (control : s.core.isControl = true) : exec (.cwait d) s = .next (later s 7 1 (.sreg d 0xFF)) :=
  hi.next_core rfl (if_pos control)

variable (compute : s.core.isControl = false)
include compute

theorem cwait_nothing (settled : s.core.colls.length ≤ s.core.collecting) : exec (.cwait d) s = .next (later s 7 8 (.sreg d 0xFF)) :=
  hi.next_core rfl ((if_neg (ne_true_of_eq_false compute)).trans (if_pos settled))

theorem cwait_holds (outstanding : s.core.collecting < s.core.colls.length) : exec (.cwait d) s =
    .next (withCore s (s.core.requestHold (.collective s.core.collecting) (.cwaitWrite d))) :=
  hi.next_core rfl ((if_neg (ne_true_of_eq_false compute)).trans (if_neg (Nat.not_le.mpr outstanding)))

end

/-- Settles O38: both forms of `rcol` are `State.rcolOp`. -/
theorem collectingResults : Obligations.CollectingResults := by
  unfold Obligations.CollectingResults
  intro s d q w
  exact ⟨collectResult_of_exec fun _ => rfl, collectResult_of_exec fun _ => rfl, fun hi control => cwait_control hi control,
    fun hi compute settled => cwait_nothing hi compute settled, fun hi compute outstanding => cwait_holds hi compute outstanding⟩

end Sys2Proof.Cert
end

section
/-! Slot 4 (R144, R215, R315-R321): the operations of vector B at issue. -/

namespace Sys2Proof.Cert

open Sys2Proof.Machine

/-- Every instruction whose meaning is `State.vectorOp` has, once issued, its register write in flight and the events of its lanes behind it. -/
theorem vectorResult_of_exec {i : Instr} {e : Nat} {d : BitVec 5} {f : Core → Vec × Events}
    (h : ∀ s, exec i s = .next (s.vectorOp i e d f)) : VectorResult i (slotOf i) e d f :=
  fun s hi => hi.next (h s) rfl

/-- R318: the values and their original indices are two register writes of one latency. -/
theorem vsortk_next {s : State} {d a z : BitVec 5} {t : BitVec 3} (hi : Issues (.vsortk d a t z) s) : exec (.vsortk d a t z) s =
    .next (later (later s 4 (s.lat 16) (.vreg d (packLanes (laneBits t) ((sortLanes t (s.core.vreg a)).map (·.1))))) 4 (s.lat 16)
      (.vreg z (packLanes (laneBits t) ((sortLanes t (s.core.vreg a)).map (·.2))))) :=
  hi.next rfl rfl

/-- What is made of each element is made of each position. -/
theorem map_lanes {α : Type} (t : BitVec 3) (x : Vec) (f : Nat → α) :
    (lanes t x).map f = (List.range (laneCount t)).map fun k => f (laneAt t x k) :=
  List.map_map

/-- R319: `vperm` takes its elements at the indices in its second source, counted round the vector. -/
theorem vperm_result (d a b : BitVec 5) (t : BitVec 3) : VectorResult (.vperm d a b t) 4 8 d fun c =>
    (packLanes (laneBits t) ((List.range (laneCount t)).map fun k => laneAt t (c.vreg a) (laneAt t (c.vreg b) k % laneCount t)),
      Events.none) := by
  have meaning : VectorResult (.vperm d a b t) 4 8 d _ := vectorResult_of_exec fun _ => rfl
  simpa only [map_lanes] using meaning

/-- Settles O19: each operation is `State.vectorOp` on its function, but for `vsortk`, which writes two registers; `vperm` names the elements of its
indices by their positions. -/
theorem vectorFunctions : Obligations.VectorFunctions := by
  unfold Obligations.VectorFunctions
  intro d a b z t r h q l
  refine ⟨?vexp, ?vexp2, ?vlog2, ?vrcp, ?vrsqrt, ?vsqrt, ?vdiv, ?vtanh, ?vsigm, ?vredsum, ?vredmax, ?vredmin, ?vscan, ?vsortk, ?vperm, ?vrotl,
    ?vpack, ?vunpack, ?vrnd⟩
  case vsortk => exact fun _ hi => vsortk_next hi
  case vperm => exact vperm_result d a b t
  all_goals exact vectorResult_of_exec fun _ => rfl

end Sys2Proof.Cert
end

section
/-! What `mrest` puts back in a handler (R233, R357), and a handler whose checkpoint was taken while a step ran. -/

namespace Sys2Proof.Machine

/-! ## The trap save buffer (R233, R357) -/

/-- The copy of the interrupted state leaves the trap save buffer, the checkpoint and the registers. -/
theorem Core.matrixUse_keeps (c : Core) : c.matrixUse.save = c.save ∧ c.matrixUse.snap = c.snap ∧ c.matrixUse.r = c.r := by
  unfold Core.matrixUse
  split
  · exact ⟨rfl, rfl, rfl⟩
  · exact ⟨rfl, rfl, rfl⟩

/-- What comes back from the trap save buffer, and with it the step in progress at the checkpoint and its carried sums. -/
theorem Core.restoreMatrix_saved {c : Core} {m : MatrixSave} (saved : c.save = some m) : ∃ bad, c.restoreMatrix = { c with
    eng := { c.eng with
      acc := [], suspended := false, nest := m.nest, lastRet := m.lastRet, rets := m.rets, step := c.snap.step, carry := c.snap.carry }
    r := { c.r with nests := m.nests, fmt := m.fmt, coarse := m.coarse, sp24 := m.sp24, tree := m.tree, src := m.src }
    bad := bad
    save := none } := by
  obtain ⟨bad, zeroed⟩ := c.zeroBanks_all
  refine ⟨bad, ?_⟩
  unfold Core.restoreMatrix
  rw [zeroed]
  simp only [saved]

end Sys2Proof.Machine

namespace Sys2Proof.Cert

open Sys2Proof.Machine

/-- A slot-6 instruction acts on the core whose interrupted state has been copied, unless a restored nest waits. -/
theorem Issues.matrixOp_eq {i : Instr} {s : State} (hi : Issues i s) (active : s.core.nestSuspended = false) (f : State → Core → Core) :
    s.matrixOp i f = withCore s (f s s.core.matrixUse) :=
  (hi.run_eq _).trans (congrArg (withCore s) (if_neg (ne_true_of_eq_false active)))

/-- `mrest` puts back the state of the trap save buffer, with the step of the nest that was in progress at the checkpoint. -/
theorem mrest_restores {s : State} {m : MatrixSave} (hi : Issues .mrest s) (active : s.core.nestSuspended = false)
    (saved : s.core.save = some m) : exec .mrest s = .next (withCore s { s.core.matrixUse with
      eng := { s.core.matrixUse.eng with
        suspended := m.nest.isSome, nest := m.nest, lastRet := m.lastRet, rets := m.rets
        step := s.core.snap.step, carry := s.core.snap.carry }
      r := { s.core.r with nests := m.nests, fmt := m.fmt, coarse := m.coarse, sp24 := m.sp24, tree := m.tree, src := m.src }
      save := none }) := by
  refine congrArg Host.Outcome.next ((hi.matrixOp_eq active _).trans (congrArg (withCore s) ?_))
  obtain ⟨savedKept, snapKept, regsKept⟩ := s.core.matrixUse_keeps
  obtain ⟨bad, restored⟩ := Core.restoreMatrix_saved (savedKept.trans saved)
  simp only [savedKept, saved, restored, snapKept, regsKept]

/-! ## A handler entered from the checkpoint of an `mgo` -/

/-- A strand at core cycle 1, after the bundle 0 of an `mgo`: with entry 24 of its timing table at 0 the first step is in progress, and its sums
are due at core cycle 255 (their elements are left out). -/
def steppingStrand : Core := { Core.fresh 0 .running .task ArchRegs.reset 32 with
  ccy := 1
  late := [⟨255, 0, 8, 0, .sums 8⟩]
  eng := { Engine.reset with
    nest := some ⟨0, [0, 0, 0, 0, 0, 0], 256, 0, 1, 0, 0, 0, false⟩
    step := some ⟨[], false, Events.none, [], 0, 0, true⟩ } }

/-- R222, R343 allow the checkpoint of the `mgo` bundle. -/
theorem steppingStrand_atBoundary : steppingStrand.atBoundary = true := rfl

/-- The strand's handler, entered from that checkpoint. -/
def steppedHandler : State := withCore State.reset (steppingStrand.takeSnap.enterHandler ⟨.portCollision, none, 2, 32⟩ 0 false 32)

/-- Refutes O29: the clause on `mrest` leaves no step in progress, where the model puts back the step that was in progress at the checkpoint
(`mrest_restores`). In `steppedHandler` that is the first step of a nest, which started with its `mgo`. -/
theorem not_matrixInHandlers : ¬ Obligations.MatrixInHandlers := by
  unfold Obligations.MatrixInHandlers
  intro claims
  obtain ⟨-, -, -, restores, -⟩ := claims steppedHandler
  have issues : Issues .mrest steppedHandler := by
    unfold Issues
    decide
  have claimed := restores _ issues (by decide) rfl
  have model := mrest_restores issues (by decide) rfl
  have steps := congrArg (fun t : State => t.core.eng.step.isSome) (Host.Outcome.next.inj (model.symm.trans claimed))
  exact absurd steps (by decide : true ≠ false)

end Sys2Proof.Cert
end

section
/-! The words of instructions (R248-R266): the map of a slot takes out of a word the operands that the encoder has put there. -/

namespace Sys2Proof

/-! ## The maps read what the encoder writes -/

/-- Slots 0 to 2: the opcode of a word selects its instruction, and each operand is a field between what stands above and below it. The slots
are taken in two parts, so that each has fewer words to read. -/
theorem candidate_encode_of_scalar {i : Instr} (slot : slotOf i < 3) : candidate (slotOf i) (encode i) = some i := by
  cases i
  all_goals
    dsimp only [slotOf, encode] at slot ⊢
    simp only [Nat.reduceLT, candidate, candidate0, candidate1, candidate2, BitVec.extractLsb'_append_eq_of_le,
      BitVec.extractLsb'_append_eq_of_add_le, BitVec.extractLsb'_eq_self, BitVec.reduceExtractLsb', BitVec.reduceToNat, Nat.reduceSub,
      Nat.reduceLeDiff, Nat.zero_le] at slot ⊢

/-- The same of slots 3 to 7. -/
theorem candidate_encode_of_wide {i : Instr} (above : 3 ≤ slotOf i) (slot : slotOf i < 8) :
    candidate (slotOf i) (encode i) = some i := by
  cases i
  all_goals
    dsimp only [slotOf, encode] at above slot ⊢
    simp only [Nat.lt_irrefl, candidate, candidate3, candidate4, candidate5, candidate6, candidate7, BitVec.extractLsb'_append_eq_of_le,
      BitVec.extractLsb'_append_eq_of_add_le, BitVec.extractLsb'_eq_self, BitVec.reduceExtractLsb', BitVec.reduceToNat, Nat.reduceSub,
      Nat.reduceLeDiff, Nat.zero_le] at above slot ⊢

/-- Every instruction that has a word is what the map of its slot reads from that word. -/
theorem candidate_encode {i : Instr} (slot : slotOf i < 8) : candidate (slotOf i) (encode i) = some i := by
  by_cases scalar : slotOf i < 3
  · exact candidate_encode_of_scalar scalar
  · exact candidate_encode_of_wide (Nat.not_lt.mp scalar) slot

/-- It is not the zero word of the no-op, whose major no map assigns (R238). -/
theorem encode_ne_zero {i : Instr} (slot : slotOf i < 8) : encode i ≠ 0#32 := by
  intro zero
  have unassigned : candidate (slotOf i) (encode i) = none := candidate_of_majorZero _ (by rw [zero]; rfl)
  cases (candidate_encode slot).symm.trans unassigned

/-! ## The decoder accepts it -/

theorem decodeSlot_zero (k : Nat) : decodeSlot k 0 = some .nop := if_pos rfl

/-- The decoder gives back every well-formed instruction that has a word. -/
theorem decodeSlot_encode {i : Instr} (slot : slotOf i < 8) (formed : wellFormed i = true) :
    decodeSlot (slotOf i) (encode i) = some i := by
  simp only [decodeSlot, if_neg (encode_ne_zero slot), candidate_encode slot, formed, decide_true, Bool.and_self, if_true]

/-- A word written out is decoded to the instruction that has it. -/
theorem decodeSlot_of_encode {k : Nat} {w : SlotWord} {i : Instr} (engine : slotOf i = k) (word : encode i = w) (slot : k < 8)
    (formed : wellFormed i = true) : decodeSlot k w = some i := by
  subst engine word
  exact decodeSlot_encode slot formed

end Sys2Proof

namespace Sys2Proof.Cert

/-- Settles O54: the map of its slot reads a word back, field by field, and the decoder accepts what it has read. -/
theorem encodingsRoundTrip : Obligations.EncodingsRoundTrip := by
  unfold Obligations.EncodingsRoundTrip
  exact fun i slot formed => decodeSlot_encode slot formed

/-- Settles O53: each word is the one that the encoder writes for its instruction; the zero word is the no-op, and major 0 with another bit set and
an unassigned major name no instruction. -/
theorem writtenWordsDecode : Obligations.WrittenWordsDecode := by
  unfold Obligations.WrittenWordsDecode
  refine ⟨?_, ?_, ?_, ?_, ?_, ?_, ?_, ?_, ?_, ?_, ?_, ?_, ?_, fun k _ => decodeSlot_zero k,
    decodeSlot_of_unassigned (by decide) (candidate_of_majorZero 0 rfl), decodeSlot_of_unassigned (by decide) rfl⟩
  all_goals exact decodeSlot_of_encode rfl rfl (by decide) rfl

end Sys2Proof.Cert
end

section
/-! Slot 7: converters and the instructions of the system cores (R375-R379), in the cases of their checks. -/

namespace Sys2Proof.Cert

open Sys2Proof.Machine

variable {s : State}

/-! ## Converters (R375) -/

section
variable {d a : BitVec 5} {i : BitVec 8} {f : BitVec 4} (hi : Issues (.fxcall d a i f) s)
include hi

theorem fxcall_converts {x : Vec} {flags : BitVec 5}
    (converts : s.convertBy s.core.id i.toNat f.toNat (s.core.vreg a) = some (x, flags)) : exec (.fxcall d a i f) s =
      .next (later (later s 7 (s.lat 11) (.vreg d x)) 7 (s.lat 11) (.events ⟨flags, 0, 0, 0, 0⟩)) :=
  hi.next rfl (by simp only [converts]; rfl)

/-- A core without such a converter, or a converter without such a function, raises ILLEGAL_OP with both numbers. -/
theorem fxcall_absent (absent : s.convertBy s.core.id i.toNat f.toNat (s.core.vreg a) = none) : exec (.fxcall d a i f) s =
    .next (faulted s 7 .illegalOp (some (BitVec.ofNat 64 (i.toNat + 256 * f.toNat)))) :=
  hi.next rfl (by simp only [absent]; rfl)

end

/-! ## Loads of instruction memory (R376) -/

/-- (R376) What `iload` refuses before it looks at its source: a reserved bit of its selector, and a length that is zero, of no whole bundles, or
past the last bundle. -/
def iloadRefuses (sel : Word) (len : Nat) : Prop :=
  sel &&& ~~~0x0FFF01FF ≠ 0 ∨ len = 0 ∨ len % 32 ≠ 0 ∨ 4096 < (sel.extractLsb' 16 12).toNat + len / 32

theorem iloadRefuses_iff {sel n : Word} : iloadRefuses sel n.toNat ↔
    sel &&& ~~~0x0FFF01FF ≠ 0 ∨ n = 0 ∨ n.toNat % 32 ≠ 0 ∨ 4096 < (sel.extractLsb' 16 12).toNat + n.toNat / 32 := by
  have empty : n.toNat = 0 ↔ n = 0 := (BitVec.toNat_inj (y := 0#64))
  rw [iloadRefuses, empty]

theorem not_iloadRefuses {sel n : Word} (unreserved : sel &&& ~~~0x0FFF01FF = 0) (nonzero : n ≠ 0) (whole : n.toNat % 32 = 0)
    (fits : (sel.extractLsb' 16 12).toNat + n.toNat / 32 ≤ 4096) : ¬ iloadRefuses sel n.toNat := by
  rintro (reserved | empty | part | past)
  · exact reserved unreserved
  · exact nonzero (BitVec.eq_of_toNat_eq empty)
  · exact part whole
  · exact Nat.not_lt.mpr fits past

section
variable {e : BitVec 4} {x c n : BitVec 6} (hi : Issues (.iload e x c n) s)
include hi

theorem iload_refused (refuses : iloadRefuses (s.core.sreg c) (s.core.sreg n).toNat) :
    exec (.iload e x c n) s = .next (illegalAt s 7 (.iload e x c n)) :=
  hi.next rfl ((if_pos refuses).trans (upd_illegal s _))

variable (accepts : ¬ iloadRefuses (s.core.sreg c) (s.core.sreg n).toNat)
include accepts

theorem iload_loads {k : Core} (read : s.core.readSource e (s.core.sreg x).toNat (s.core.sreg n).toNat = .ok k) :
    exec (.iload e x c n) s = .next ((((withCore s k).imageBytes e (s.core.sreg x).toNat (s.core.sreg n).toNat).2).loadImem
      ((s.core.sreg c).extractLsb' 0 9).toNat (32 * ((s.core.sreg c).extractLsb' 16 12).toNat)
      ((withCore s k).imageBytes e (s.core.sreg x).toNat (s.core.sreg n).toNat).1) :=
  hi.next rfl ((if_neg accepts).trans (by rw [read]; rfl))

theorem iload_sourceFault {f : Cause × Option Word}
    (read : s.core.readSource e (s.core.sreg x).toNat (s.core.sreg n).toNat = .error f) :
    exec (.iload e x c n) s = .next (faulted s 7 f.1 f.2) :=
  hi.next rfl ((if_neg accepts).trans (by rw [read]; rfl))

end

/-! ## Column images and their commit (R377, R378) -/

section
variable {e : BitVec 4} {x c : BitVec 6} (hi : Issues (.ovpload e x c) s)
include hi

theorem ovpload_reserved (reserved : s.core.sreg c &&& ~~~0x3F ≠ 0) :
    exec (.ovpload e x c) s = .next (illegalAt s 7 (.ovpload e x c)) :=
  hi.next rfl ((if_pos reserved).trans (upd_illegal s _))

variable (column : s.core.sreg c &&& ~~~0x3F = 0)
include column

theorem ovpload_shifts {y : Extent} {k : Core} (source : s.core.extent e = some y)
    (read : s.core.readSource e (s.core.sreg x).toNat 6291456 = .ok k) : exec (.ovpload e x c) s =
      .next ((s.shiftColumn y (s.core.sreg x).toNat (s.core.sreg c).toNat).upd fun c => { c with wait := c.wait ++ [.clocks 786432] }) :=
  hi.next rfl ((if_neg (not_not.mpr column)).trans (by simp only [read, source]))

theorem ovpload_sourceFault {f : Cause × Option Word} (read : s.core.readSource e (s.core.sreg x).toNat 6291456 = .error f) :
    exec (.ovpload e x c) s = .next (faulted s 7 f.1 f.2) :=
  hi.next rfl ((if_neg (not_not.mpr column)).trans (by rw [read]; rfl))

end

section
variable {c : BitVec 6} {core : Nat} (hi : Issues (.gcommit c) s) (names : core = ((s.core.sreg c).extractLsb' 0 9).toNat)
include hi names

theorem gcommit_notLoading (running : (s.cs core).state ≠ 3) :
    exec (.gcommit c) s = .next (faulted s 7 .privilege (some (BitVec.ofNat 64 (core + 2 ^ 16)))) := by
  subst names
  exact hi.next rfl (by simp only [if_pos running]; rfl)

variable (loading : (s.cs core).state = 3)
include loading

theorem gcommit_notShifted (unshifted : s.shifted.contains (columnOf core) = false) :
    exec (.gcommit c) s = .next (faulted s 7 .privilege (some (BitVec.ofNat 64 (core + 2 ^ 16 * 2)))) := by
  subst names
  exact hi.next rfl (by simp only [loading, unshifted]; rfl)

theorem gcommit_commits (shifted : s.shifted.contains (columnOf core) = true) (allowed : s.noFwUpdate core none = false) :
    exec (.gcommit c) s = .next (s.commitRegion core) := by
  subst names
  exact hi.next rfl (by simp only [loading, shifted, allowed]; rfl)

end

/-! ## Debug reads (R379) -/

section
variable {d w : BitVec 6}

section
variable (hi : Issues (.dbgrd d w 0) s)
include hi

theorem dbgrd_noPlate (past : s.core.lclSize / 4096 ≤ (s.core.sreg w).toNat) :
    exec (.dbgrd d w 0) s = .next (faulted s 7 .extentBound (some (s.core.sreg w))) :=
  hi.next_core rfl (by simp [past]; rfl)

theorem dbgrd_plate (within : (s.core.sreg w).toNat < s.core.lclSize / 4096) : exec (.dbgrd d w 0) s =
    .next (later s 7 (s.lat 6) (.sreg d { s.core.plate (s.core.sreg w).toNat with
      checked := (s.core.plate (s.core.sreg w).toNat).checked && !s.core.checkedNow.contains (s.core.sreg w).toNat }.word)) :=
  hi.next_core rfl (if_neg (Nat.not_le.mpr within))
end

section
variable (hi : Issues (.dbgrd d w 1) s)
include hi

theorem dbgrd_lclFault {f : Cause × Option Word} (fails : s.core.lclFault (s.core.sreg w).toNat 8 8 = some f) :
    exec (.dbgrd d w 1) s = .next (faulted s 7 f.1 f.2) :=
  hi.next_core rfl (by simp [fails]; rfl)

variable (passes : s.core.lclFault (s.core.sreg w).toNat 8 8 = none)
include passes

theorem dbgrd_lclSealed {o : Nat} (sealed : s.core.sealedOff (offsets (s.core.sreg w).toNat 8) = some o) :
    exec (.dbgrd d w 1) s = .next (faulted s 7 .sealedDebug (some (s.core.sreg w))) :=
  hi.next_core rfl (by simp [passes, sealed]; rfl)

theorem dbgrd_lcl (opened : s.core.sealedOff (offsets (s.core.sreg w).toNat 8) = none)
    (good : s.core.badWord (offsets (s.core.sreg w).toNat 8) = none) : exec (.dbgrd d w 1) s =
      .next (later s 7 (s.lat 6) (.sreg d (BitVec.ofNat 64 (s.core.lcl.readNat (s.core.sreg w).toNat 8)))) :=
  hi.next_core rfl (by simp [passes, opened, good]; rfl)
end

section
variable (hi : Issues (.dbgrd d w 2) s)
include hi

theorem dbgrd_pastBuffer (past : 32760 < (s.core.sreg w).toNat) :
    exec (.dbgrd d w 2) s = .next (faulted s 7 .extentBound (some (s.core.sreg w))) :=
  hi.next_core rfl (by simp [past]; rfl)

variable (within : (s.core.sreg w).toNat ≤ 32760) (aligned : (s.core.sreg w).toNat % 8 = 0)
include within aligned

theorem dbgrd_bufferSealed (sealed : s.core.eng.bsealed = true) :
    exec (.dbgrd d w 2) s = .next (faulted s 7 .sealedDebug (some (s.core.sreg w))) :=
  hi.next_core rfl (by simp [Nat.not_lt.mpr within, aligned, sealed]; rfl)

theorem dbgrd_buffer (opened : s.core.eng.bsealed = false) (good : s.core.badReg (· == .bbuf ((s.core.sreg w).toNat / 8)) = none) :
    exec (.dbgrd d w 2) s =
      .next (later s 7 (s.lat 6) (.sreg d (BitVec.ofNat 64 (s.core.eng.bbuf.readNat (s.core.sreg w).toNat 8)))) :=
  hi.next_core rfl (by simp [Nat.not_lt.mpr within, aligned, opened, good]; rfl)
end

end

/-- Settles O40: each instruction has one case for each clause, under its own checks in their order. -/
theorem convertersAndSystemLoads : Obligations.ConvertersAndSystemLoads := by
  unfold Obligations.ConvertersAndSystemLoads
  intro s
  refine ⟨fun _ _ _ _ _ _ hi => fxcall_converts hi, fun _ _ _ _ hi => fxcall_absent hi, ?load, ?refuse, fun _ _ _ hi => ovpload_reserved hi,
    fun _ _ _ _ _ hi column => ovpload_shifts hi column, fun _ hi => gcommit_commits hi rfl, fun _ hi => gcommit_notLoading hi rfl, ?loadFault,
    fun _ _ _ _ hi column => ovpload_sourceFault hi column, fun _ hi => gcommit_notShifted hi rfl, fun _ _ hi => dbgrd_noPlate hi,
    fun _ _ _ hi => dbgrd_lclFault hi, fun _ _ hi => dbgrd_pastBuffer hi, fun _ _ hi => dbgrd_bufferSealed hi, fun _ _ hi => dbgrd_plate hi,
    fun _ _ hi => dbgrd_lcl hi, fun _ _ _ hi passes => dbgrd_lclSealed hi passes, fun _ _ hi => dbgrd_buffer hi⟩
  case load => exact fun _ _ _ _ hi unreserved nonzero whole fits _ => iload_loads hi (not_iloadRefuses unreserved nonzero whole fits)
  case refuse => exact fun _ _ _ _ hi refuses => iload_refused hi (iloadRefuses_iff.mpr refuses)
  case loadFault => exact fun _ _ _ _ _ hi unreserved nonzero whole fits => iload_sourceFault hi (not_iloadRefuses unreserved nonzero whole fits)

end Sys2Proof.Cert
end

section
/-! A bundle at the clock on which its core is ready (R163, R237-R241). -/

namespace Sys2Proof.Machine

variable {s : State}

/-- A bundle with a bad word of IMEM raises ECC_IMEM on slot 0, whatever its words are, and issues none of them (R163). -/
theorem State.fetch_of_badBundle {off : Nat} (bad : s.core.badBundle s.core.pc.toNat = some off) :
    s.fetch = .word .nop { s with core :=
      { s.core with bundle := s.core.fetchWords, started := true, turn := true, rest := [] }.raise 0 .eccImem (some (BitVec.ofNat 64 off)) } := by
  have begun : Core.badBundle { s.core with bundle := s.core.fetchWords, started := true, turn := true, rest := [] } s.core.pc.toNat =
      some off := bad
  simp only [State.fetch, begun]

end Sys2Proof.Machine

namespace Sys2Proof.Cert
open Sys2Proof.Machine

variable {s : State}

/-! ## A core that is ready fetches -/

theorem Ready.startTurn_eq (ready : Ready s) : s.startTurn = s.fetch := by
  obtain ⟨-, -, -, running, notHeld, noStall, noWait, noFaults, noRet, noIdle⟩ := ready
  have waited : s.waitOver = s.core := by
    rw [State.waitOver, noWait, List.foldl_nil, ← noWait]
  simp [State.startTurn, running, notHeld, noStall, waited, noWait, noFaults, noRet, noIdle]

theorem Ready.nextAction_eq (ready : Ready s) : s.nextAction = s.fetch := by
  rw [← ready.startTurn_eq]
  obtain ⟨powered, notStarted, quiet, -⟩ := ready
  cases edge : s.boundary with
  | true =>
    obtain ⟨noInput, noEvent⟩ := quiet edge
    simp only [State.nextAction, powered, edge, noInput, noEvent, Bool.not_true, Bool.false_eq_true, if_false, if_true]
  | false => simp only [State.nextAction, powered, edge, notStarted, Bool.not_true, Bool.false_eq_true, if_false]

/-- The step of a core that is ready at a bundle with a bad word is that fault, and the end of its turn. -/
theorem step_of_badBundle {off : Nat} (ready : Ready s) (bad : s.core.badBundle s.core.pc.toNat = some off) :
    step s = .next (State.endOp (faulted
      (withCore s { s.core with bundle := s.core.fetchWords, started := true, turn := true, rest := [] }) 0 .eccImem
      (some (BitVec.ofNat 64 off)))) :=
  step_of_word (ready.nextAction_eq.trans (State.fetch_of_badBundle bad))

/-! ## A bundle whose one word stands in bad memory -/

/-- Curator A at a bundle of one `add`, whose word stands in IMEM with an error that is not corrected. -/
def badAdd : State := { State.reset with
  toGo := 1
  core := { State.reset.core with imem := State.reset.core.imem.writeBytes 0 [0, 0, 0, 0, 0x00, 0x06, 0x41, 0x04], bad := [.imem 4] } }

theorem badAdd_ready : Ready badAdd := by
  unfold Ready
  decide

/-- The causes of the faults of each core but the focal one after a step: the core whose turn the step has ended is the last of them. -/
def causesBeside : Host.Outcome State Fault Refusal → List (List Cause)
  | .next t => t.others.map fun c => c.faults.map (·.cause)
  | _ => []

/-- Refutes O56: `Ready` does not ask that no word of the bundle is bad, and a bad word makes the step the fault ECC_IMEM of R163
(`step_of_badBundle`), where the clause on a bundle of one word (and the one on a word that fails a check) tells of that word alone. In `badAdd` the
model raises ECC_IMEM, and the clause adds and raises nothing. -/
theorem not_stepRunsTheDecodedInstruction : ¬ Obligations.StepRunsTheDecodedInstruction := by
  unfold Obligations.StepRunsTheDecodedInstruction
  intro claims
  obtain ⟨oneWord, -⟩ := claims badAdd
  have claimed := oneWord 1 (.add 4 4 6) badAdd_ready (by decide) (by decide) (by decide) (by decide) (by decide)
  have model := step_of_badBundle badAdd_ready (off := 4) (by decide)
  have causes := congrArg causesBeside (model.symm.trans claimed)
  exact absurd causes (by decide : ([[], [], [.eccImem]] : List (List Cause)) ≠ [[], [], []])

end Sys2Proof.Cert
end

section
/-! Slot 0 (R280-R283): branches, calls and loops. -/

namespace Sys2Proof.Cert

open Sys2Proof.Machine

/-! ## Branches (R280, R281) -/

/-- A bundle number counts 32 bytes. -/
theorem bundlePc_eq_pcOf (t : BitVec 12) : bundlePc t = pcOf t := by
  apply BitVec.eq_of_toNat_eq
  simp only [bundlePc, pcOf, BitVec.toNat_shiftLeft, BitVec.toNat_setWidth, BitVec.toNat_ofNat, Nat.shiftLeft_eq]
  omega

theorem low5_eq_zero_iff (x : Word) : x.extractLsb' 0 5 = 0 ↔ x.toNat % 32 = 0 := by
  rw [← BitVec.toNat_inj, BitVec.extractLsb'_toNat]
  rfl

theorem branchTo_aligned (s : State) {x : Word} (aligned : x.toNat % 32 = 0) :
    s.branchTo x = branched s (BitVec.ofNat 17 x.toNat) :=
  if_pos ((low5_eq_zero_iff x).mpr aligned)

theorem branchTo_misaligned (s : State) {x : Word} (misaligned : x.toNat % 32 ≠ 0) :
    s.branchTo x = faulted s 0 .misaligned (some x) :=
  if_neg (mt (low5_eq_zero_iff x).mp misaligned)

/-- Settles O1: a target in the word is the bundle of its number, and one in a register goes through `State.branchTo`. -/
theorem branchesGoToTheirTargets : Obligations.BranchesGoToTheirTargets := by
  unfold Obligations.BranchesGoToTheirTargets
  intro s
  refine ⟨fun _ => rfl, fun g t hi => ?br, fun t hi => ?jmp, fun a hi aligned => hi.next rfl (branchTo_aligned s aligned),
    fun a hi misaligned => hi.next rfl (branchTo_misaligned s misaligned), fun t hi => ?call,
    fun hi aligned => hi.next rfl (branchTo_aligned s aligned), fun hi misaligned => hi.next rfl (branchTo_misaligned s misaligned)⟩
  case br => rw [← bundlePc_eq_pcOf]; exact hi.next rfl rfl
  case jmp => rw [← bundlePc_eq_pcOf]; exact hi.next rfl rfl
  case call => rw [← bundlePc_eq_pcOf]; exact hi.next rfl rfl

/-! ## Loops (R282, R283) -/

section
variable {s : State} (n len : Nat)

theorem openLoop_zero : s.openLoop 0 len = branched s (s.core.pc + 32 + BitVec.ofNat 17 (32 * len)) := rfl

variable {n} (counts : n ≠ 0)
include counts

theorem openLoop_full (full : 6 ≤ s.core.loops.length) : s.openLoop n len = faulted s 0 .illegalOp (some 6) :=
  (if_neg counts).trans (if_pos full)

theorem openLoop_entry (room : s.core.loops.length < 6) : s.openLoop n len =
    withCore s { s.core with loopAct := some (some ⟨s.core.pc + 32, len, BitVec.ofNat 32 n, 0⟩) } :=
  (if_neg counts).trans (if_neg (Nat.not_le.mpr room))

end

/-- A count in a register is 0 only where the register is: its limit is not. -/
theorem limited_count_ne_zero {x : Word} (counts : x ≠ 0) : min x.toNat 0xFFFFFFFF ≠ 0 := by
  have nonzero : x.toNat ≠ 0 := fun h => counts (BitVec.eq_of_toNat_eq h)
  omega

/-- Settles O2: both forms open their loop by `State.openLoop`, and `lbrk` branches past the body of the entry that it pops. -/
theorem loopsOpenAndBreak : Obligations.LoopsOpenAndBreak := by
  unfold Obligations.LoopsOpenAndBreak
  intro s
  refine ⟨fun n l hi counts room => ?opens, fun l hi => hi.next rfl (openLoop_zero _), fun n l hi counts full => ?full,
    fun a l hi counts room => ?opensR, fun a l hi empty => ?skipsR, fun a l hi counts full => ?fullR, fun c x act next => ?pushes,
    fun c t e es act loops next => ?pops, fun g hi off => ?guardOff, fun g e es hi on loops => ?breaks, fun g hi on loops => ?empty⟩
  case opens => exact hi.next rfl (openLoop_entry _ (fun h => counts (BitVec.eq_of_toNat_eq h)) room)
  case full => exact hi.next rfl (openLoop_full _ (fun h => counts (BitVec.eq_of_toNat_eq h)) full)
  case opensR => exact hi.next rfl (openLoop_entry _ (limited_count_ne_zero counts) room)
  case skipsR => exact hi.next rfl (by rw [empty]; exact openLoop_zero _)
  case fullR => exact hi.next rfl (openLoop_full _ (limited_count_ne_zero counts) full)
  case pushes => simp only [Core.nextPos, act, next]
  case pops => simp only [Core.nextPos, act, next, loops, List.drop_succ_cons, List.drop_zero]
  case guardOff => exact hi.next rfl (if_pos (by rw [off]; rfl))
  case breaks =>
    refine hi.next rfl ((if_neg (by rw [on]; decide)).trans ?_)
    rw [loops]
    rfl
  case empty =>
    refine hi.next rfl ((if_neg (by rw [on]; decide)).trans ?_)
    rw [loops]
    rfl

end Sys2Proof.Cert
end

section
/-! Slot 1 (R291-R299): operations with one scalar result, products and quotients, immediates, guards and floating point. -/

namespace Sys2Proof.Cert

open Sys2Proof.Machine

/-- Every instruction whose meaning is `State.scalarOp` has, once issued, its register write in flight. -/
theorem scalarResult_of_exec {i : Instr} {e : Nat} {d : BitVec 6} {f g : Core → Word} (meaning : ∀ s, exec i s = .next (s.scalarOp i e d f))
    (value : ∀ c, f c = g c) : ScalarResult i (slotOf i) e d g :=
  fun s hi => hi.next (meaning s) (congrArg (fun w => later s (slotOf i) (s.lat e) (.sreg d w)) (value s.core))

/-- Every instruction whose meaning is `State.scalarFlags` has, once issued, its register write in flight and its flags behind it. -/
theorem fpResult_of_exec {i : Instr} {e : Nat} {d : BitVec 6} {f g : Core → Word × BitVec 5}
    (meaning : ∀ s, exec i s = .next (s.scalarFlags i e d f)) (one : slotOf i = 1) (value : ∀ c, f c = g c) : FpResult i e d g :=
  fun s hi => hi.next (meaning s) (one ▸ congrArg (fun r : Word × BitVec 5 => later (later s (slotOf i) (s.lat e) (.sreg d r.1)) (slotOf i)
    (s.lat e) (.events ⟨r.2, 0, 0, 0, 0⟩)) (value s.core))

/-! ## Logic and compares (R291) -/

theorem shiftOf_eq_mod (x : Word) : shiftOf x = x.toNat % 64 := BitVec.extractLsb'_toNat 0 6 x

theorem flagWord_decide (p : Prop) [Decidable p] : flagWord (decide p) = word01 p := by
  simp only [flagWord, word01, decide_eq_true_eq]

theorem flagWord_beq (a b : Word) : flagWord (a == b) = word01 (a = b) := by
  rw [beq_eq_decide, flagWord_decide]

theorem flagWord_bne (a b : Word) : flagWord (a != b) = word01 (a ≠ b) := by
  rw [bne, beq_eq_decide, ← decide_not, flagWord_decide]

theorem ofInt_min_toInt (a b : Word) : BitVec.ofInt 64 (min a.toInt b.toInt) = if b.slt a then b else a := by
  rw [min_comm, min_def_lt, apply_ite (BitVec.ofInt 64), BitVec.ofInt_toInt, BitVec.ofInt_toInt]
  simp only [BitVec.slt, decide_eq_true_eq]

theorem ofInt_max_toInt (a b : Word) : BitVec.ofInt 64 (max a.toInt b.toInt) = if a.slt b then b else a := by
  rw [max_def_lt, apply_ite (BitVec.ofInt 64), BitVec.ofInt_toInt, BitVec.ofInt_toInt]
  simp only [BitVec.slt, decide_eq_true_eq]

theorem ofNat_min_toNat (a b : Word) : BitVec.ofNat 64 (min a.toNat b.toNat) = if b.ult a then b else a := by
  rw [min_comm, min_def_lt, apply_ite (BitVec.ofNat 64), BitVec.ofNat_toNat, BitVec.ofNat_toNat, BitVec.setWidth_eq, BitVec.setWidth_eq]
  simp only [BitVec.ult, decide_eq_true_eq]

theorem ofNat_max_toNat (a b : Word) : BitVec.ofNat 64 (max a.toNat b.toNat) = if a.ult b then b else a := by
  rw [max_def_lt, apply_ite (BitVec.ofNat 64), BitVec.ofNat_toNat, BitVec.ofNat_toNat, BitVec.setWidth_eq, BitVec.setWidth_eq]
  simp only [BitVec.ult, decide_eq_true_eq]

/-- Settles O5: each operation is `State.scalarOp` on a function of its two sources. -/
theorem scalarLogicAndCompare : Obligations.ScalarLogicAndCompare := by
  unfold Obligations.ScalarLogicAndCompare
  intro d a b
  refine ⟨?add, ?sub, ?and, ?or, ?xor, ?andn, ?orn, ?shl, ?shr, ?sra, ?rotl, ?rotr, ?slt, ?sltu, ?seq, ?sne, ?min, ?max, ?minu, ?maxu⟩
  case shl => exact scalarResult_of_exec (fun _ => rfl) fun _ => by rw [shiftOf_eq_mod]
  case shr => exact scalarResult_of_exec (fun _ => rfl) fun _ => by rw [shiftOf_eq_mod]
  case sra => exact scalarResult_of_exec (fun _ => rfl) fun _ => by rw [shiftOf_eq_mod]
  case rotl => exact scalarResult_of_exec (fun _ => rfl) fun _ => by rw [shiftOf_eq_mod]
  case rotr => exact scalarResult_of_exec (fun _ => rfl) fun _ => by rw [shiftOf_eq_mod]
  case slt => exact scalarResult_of_exec (fun _ => rfl) fun _ => flagWord_decide _
  case sltu => exact scalarResult_of_exec (fun _ => rfl) fun _ => flagWord_decide _
  case seq => exact scalarResult_of_exec (fun _ => rfl) fun _ => flagWord_beq _ _
  case sne => exact scalarResult_of_exec (fun _ => rfl) fun _ => flagWord_bne _ _
  case min => exact scalarResult_of_exec (fun _ => rfl) fun _ => (ofInt_min_toInt _ _).symm
  case max => exact scalarResult_of_exec (fun _ => rfl) fun _ => (ofInt_max_toInt _ _).symm
  case minu => exact scalarResult_of_exec (fun _ => rfl) fun _ => (ofNat_min_toNat _ _).symm
  case maxu => exact scalarResult_of_exec (fun _ => rfl) fun _ => (ofNat_max_toNat _ _).symm
  all_goals exact scalarResult_of_exec (fun _ => rfl) fun _ => rfl

/-! ## Products, quotients and remainders (R291, R292) -/

/-- Bits 127:64 of an integer. -/
theorem extractHigh_ofInt (z : Int) : (BitVec.ofInt 128 z).extractLsb' 64 64 = BitVec.ofInt 64 (z / 2 ^ 64) := by
  apply BitVec.eq_of_toNat_eq
  rw [BitVec.extractLsb'_toNat, BitVec.toNat_ofInt, BitVec.toNat_ofInt, Nat.shiftRight_eq_div_pow]
  omega

theorem mulHigh_signExtend (a b : Word) :
    mulHigh (a.signExtend 128) (b.signExtend 128) = BitVec.ofInt 64 (a.toInt * b.toInt / 2 ^ 64) := by
  rw [← extractHigh_ofInt, BitVec.ofInt_mul]
  rfl

theorem mulHigh_setWidth (a b : Word) :
    mulHigh (a.setWidth 128) (b.setWidth 128) = BitVec.ofNat 64 (a.toNat * b.toNat / 2 ^ 64) := by
  have wide (x : Word) : x.setWidth 128 = BitVec.ofInt 128 x.toNat := by rw [BitVec.ofInt_natCast, BitVec.ofNat_toNat]
  rw [wide, wide, mulHigh, ← BitVec.ofInt_mul, extractHigh_ofInt]
  exact BitVec.ofInt_natCast 64 (a.toNat * b.toNat / 2 ^ 64)

/-- What decides whether `div` issues decides it for `rem`. -/
theorem Issues.rem_of_div {d a b : BitVec 6} {s : State} (hi : Issues (.div d a b) s) : Issues (.rem d a b) s := hi

/-- Settles O6: each operation is `State.scalarOp`; the one quotient that does not fit wraps to its own dividend. -/
theorem scalarMultiplyAndDivide : Obligations.ScalarMultiplyAndDivide := by
  unfold Obligations.ScalarMultiplyAndDivide
  intro d a b
  refine ⟨?mul, ?mulh, ?mulhu, ?div, ?divu, ?rem, ?remu, fun s hi dividend divisor => ⟨?quotient, ?remainder⟩⟩
  case mul => exact scalarResult_of_exec (fun _ => rfl) fun _ => BitVec.mul_def
  case mulh => exact scalarResult_of_exec (fun _ => rfl) fun _ => mulHigh_signExtend _ _
  case mulhu => exact scalarResult_of_exec (fun _ => rfl) fun _ => mulHigh_setWidth _ _
  case quotient =>
    have wraps : divSigned (s.core.sreg a) (s.core.sreg b) = BitVec.intMin 64 := by rw [dividend, divisor]; decide
    exact hi.next rfl (congrArg (fun w => later s 1 (s.lat 2) (.sreg d w)) wraps)
  case remainder =>
    have nothingLeft : remSigned (s.core.sreg a) (s.core.sreg b) = 0 := by rw [dividend, divisor]; decide
    exact hi.rem_of_div.next rfl (congrArg (fun w => later s 1 (s.lat 2) (.sreg d w)) nothingLeft)
  all_goals exact scalarResult_of_exec (fun _ => rfl) fun _ => rfl

/-! ## Immediates (R293, R294) -/

theorem zext64_eq_ofNat {n : Nat} (x : BitVec n) : zext64 x = BitVec.ofNat 64 x.toNat := (BitVec.ofNat_toNat 64 x).symm

theorem toInt_sext64 (i : BitVec 14) : (sext64 i).toInt = i.toInt := BitVec.toInt_signExtend_of_le (by decide)

theorem sext64_shiftLeft_12 (u : BitVec 20) : sext64 u <<< 12 = BitVec.ofInt 64 (4096 * u.toInt) := by
  rw [BitVec.shiftLeft_eq_mul_twoPow, BitVec.ofInt_mul, BitVec.mul_comm]
  rfl

/-- Settles O8: each operation is `State.scalarOp` on its source and its immediate. -/
theorem scalarImmediates : Obligations.ScalarImmediates := by
  unfold Obligations.ScalarImmediates
  intro d a b m i u g
  refine ⟨?addi, ?andi, ?ori, ?xori, ?slti, ?shli, ?shri, ?srai, ?lui, ?sel⟩
  case ori => exact scalarResult_of_exec (fun _ => rfl) fun _ => by rw [zext64_eq_ofNat]
  case xori => exact scalarResult_of_exec (fun _ => rfl) fun _ => by rw [zext64_eq_ofNat]
  case slti => exact scalarResult_of_exec (fun _ => rfl) fun _ => by rw [BitVec.slt, flagWord_decide, toInt_sext64]
  case lui => exact scalarResult_of_exec (fun _ => rfl) fun _ => sext64_shiftLeft_12 u
  all_goals exact scalarResult_of_exec (fun _ => rfl) fun _ => rfl

/-! ## Guards and the timing table (R295, R296) -/

/-- Settles O9: each operation is one write of a register or of guards; `latq` reads 0 beyond the table. -/
theorem guardsAndLatency : Obligations.GuardsAndLatency := by
  unfold Obligations.GuardsAndLatency
  intro s
  refine ⟨fun d a b c hi => hi.next rfl rfl, fun d a b o hi => hi.next rfl rfl, fun d hi => hi.next rfl rfl,
    fun a hi => hi.next_core rfl rfl, fun d e hi beyond => ?beyond, fun d e hi listed compute => ?listed⟩
  case beyond => exact hi.next rfl (by simp only [if_pos beyond]; rfl)
  case listed => exact hi.next rfl (by simp only [State.upd, if_neg (Nat.not_le.mpr listed), compute, Bool.false_eq_true, if_false]; rfl)

/-! ## Floating point (R297-R299) -/

theorem ofNat_toNat_eq_word01 (b : Bool) : BitVec.ofNat 64 b.toNat = word01 (b = true) := by cases b <;> rfl

/-- Settles O10: each operation is `State.scalarFlags` on its rounded result. -/
theorem scalarFloatingPoint : Obligations.ScalarFloatingPoint := by
  unfold Obligations.ScalarFloatingPoint
  intro d a b c p u
  refine ⟨?fadd, ?fsub, ?fmul, ?fdiv, ?fsqrt, ?fmin, ?fmax, ?fcmp, ?fcvt, ?fclass, ?fmadd⟩
  case fcmp => exact fpResult_of_exec (fun _ => rfl) rfl fun _ => congrArg (·, _) (ofNat_toNat_eq_word01 _)
  all_goals exact fpResult_of_exec (fun _ => rfl) rfl fun _ => rfl

end Sys2Proof.Cert
end

section
/-! Bit operations of slot 1 (R291), bit by bit. -/

namespace Sys2Proof.Machine

/-! ## The set positions of a word -/

/-- How many positions below i are set: the rank of a set position i. -/
def setBelow (b : Word) (i : Nat) : Nat := (List.range i).countP fun k => b.getLsbD k

theorem setBelow_succ (b : Word) (i : Nat) : setBelow b (i + 1) = setBelow b i + (b.getLsbD i).toNat := by
  unfold setBelow
  rw [List.range_succ, List.countP_append, List.countP_singleton]
  cases b.getLsbD i <;> rfl

theorem setBelow_mono (b : Word) {i j : Nat} (h : i ≤ j) : setBelow b i ≤ setBelow b j :=
  (List.range_sublist.mpr h).countP_le

/-- The rank of a set position is below the count of any range that holds it. -/
theorem setBelow_lt (b : Word) {i j : Nat} (less : i < j) (set : b.getLsbD i = true) : setBelow b i < setBelow b j :=
  calc setBelow b i < setBelow b (i + 1) := by rw [setBelow_succ, set]; exact Nat.lt_succ_self _
    _ ≤ setBelow b j := setBelow_mono b less

/-- Two set positions of one rank are the same. -/
theorem setBelow_inj (b : Word) {i j : Nat} (hi : b.getLsbD i = true) (hj : b.getLsbD j = true) (same : setBelow b i = setBelow b j) :
    i = j := by
  rcases Nat.lt_trichotomy i j with less | equal | greater
  · exact absurd same (setBelow_lt b less hi).ne
  · exact equal
  · exact absurd same.symm (setBelow_lt b greater hj).ne

theorem mem_zipIdx_filter_range (b : Word) (n i k : Nat) :
    (i, k) ∈ ((List.range n).filter fun i => b.getLsbD i).zipIdx ↔ i < n ∧ b.getLsbD i = true ∧ k = setBelow b i := by
  induction n with
  | zero => simp
  | succ n ih =>
    have ranks : ((List.range n).filter fun i => b.getLsbD i).length = setBelow b n := List.countP_eq_length_filter.symm
    rw [List.range_succ, List.filter_append, List.zipIdx_append, List.mem_append, ih, Nat.zero_add, ranks]
    by_cases last : b.getLsbD n = true
    · rw [List.filter_singleton, last]
      constructor
      · rintro (⟨less, set, rank⟩ | new)
        · exact ⟨by omega, set, rank⟩
        · obtain ⟨rfl, rfl⟩ : i = n ∧ k = setBelow b n := by simpa using new
          exact ⟨Nat.lt_succ_self i, last, rfl⟩
      · rintro ⟨less, set, rank⟩
        rcases Nat.lt_succ_iff_lt_or_eq.mp less with below | rfl
        · exact .inl ⟨below, set, rank⟩
        · exact .inr (by simp [rank])
    · rw [List.filter_singleton, Bool.eq_false_iff.mpr last]
      constructor
      · rintro (⟨less, set, rank⟩ | new)
        · exact ⟨by omega, set, rank⟩
        · simp at new
      · rintro ⟨less, set, rank⟩
        rcases Nat.lt_succ_iff_lt_or_eq.mp less with below | rfl
        · exact .inl ⟨below, set, rank⟩
        · exact absurd set last

/-- The set positions of a word are numbered by their ranks. -/
theorem mem_zipIdx_setBits (b : Word) (i k : Nat) : (i, k) ∈ (setBits b).zipIdx ↔ i < 64 ∧ b.getLsbD i = true ∧ k = setBelow b i :=
  mem_zipIdx_filter_range b 64 i k

/-! ## Collecting single bits -/

/-- What `bext` and `bdep` build: from each pair one bit of the result, where one bit of the source is set. -/
def collectBits (a : Word) (src dst : Nat × Nat → Nat) (ps : List (Nat × Nat)) (r : Word) : Word :=
  ps.foldl (fun r p => if a.getLsbD (src p) then r ||| (1 <<< dst p) else r) r

theorem getLsbD_collectBits (a : Word) (src dst : Nat × Nat → Nat) (ps : List (Nat × Nat)) (r : Word) {j : Nat} (hj : j < 64) :
    (collectBits a src dst ps r).getLsbD j = true ↔ r.getLsbD j = true ∨ ∃ p ∈ ps, a.getLsbD (src p) = true ∧ dst p = j := by
  induction ps generalizing r with
  | nil => simp [collectBits]
  | cons p ps ih =>
    have one : BitVec.getLsbD (1 <<< dst p : Word) j = true ↔ dst p = j := by
      rw [BitVec.natCast_eq_ofNat, BitVec.getLsbD_ofNat, Nat.one_shiftLeft, Nat.testBit_two_pow]
      simp [hj]
    rw [collectBits, List.foldl_cons]
    refine (ih _).trans ?_
    by_cases taken : a.getLsbD (src p) = true
    · rw [if_pos taken, BitVec.getLsbD_or, Bool.or_eq_true, one]
      simp only [List.mem_cons, exists_eq_or_imp, taken, true_and, or_assoc]
    · rw [if_neg taken]
      simp only [List.mem_cons, exists_eq_or_imp, taken, Bool.false_eq_true, false_and, false_or]

theorem getLsbD_bitExtract (a b : Word) {j : Nat} (hj : j < 64) : (bitExtract a b).getLsbD j = true ↔
    ∃ i, i < 64 ∧ b.getLsbD i = true ∧ setBelow b i = j ∧ a.getLsbD i = true := by
  refine (getLsbD_collectBits a Prod.fst Prod.snd (setBits b).zipIdx 0 hj).trans ?_
  constructor
  · rintro (zero | ⟨⟨i, k⟩, mem, taken, rank⟩)
    · simp at zero
    · obtain ⟨hi, set, ranked⟩ := (mem_zipIdx_setBits b i k).mp mem
      exact ⟨i, hi, set, ranked.symm.trans rank, taken⟩
  · rintro ⟨i, hi, set, rank, taken⟩
    exact .inr ⟨(i, j), (mem_zipIdx_setBits b i j).mpr ⟨hi, set, rank.symm⟩, taken, rfl⟩

theorem getLsbD_bitDeposit (a b : Word) {i : Nat} (hi : i < 64) :
    (bitDeposit a b).getLsbD i = (b.getLsbD i && a.getLsbD (setBelow b i)) := by
  rw [Bool.eq_iff_iff, Bool.and_eq_true]
  refine (getLsbD_collectBits a Prod.snd Prod.fst (setBits b).zipIdx 0 hi).trans ?_
  constructor
  · rintro (zero | ⟨⟨i', k⟩, mem, taken, rfl⟩)
    · simp at zero
    · obtain ⟨-, set, rfl⟩ := (mem_zipIdx_setBits b i' k).mp mem
      exact ⟨set, taken⟩
  · rintro ⟨set, taken⟩
    exact .inr ⟨(i, setBelow b i), (mem_zipIdx_setBits b i _).mpr ⟨hi, set, rfl⟩, taken, rfl⟩

/-- A set position of the mask sends its bit to its rank. -/
theorem getLsbD_bitExtract_rank (a b : Word) {i : Nat} (hi : i < 64) (set : b.getLsbD i = true) :
    (bitExtract a b).getLsbD (setBelow b i) = a.getLsbD i := by
  have rank : setBelow b i < 64 := lt_of_le_of_lt (List.countP_le_length.trans_eq List.length_range) hi
  rw [Bool.eq_iff_iff, getLsbD_bitExtract a b rank]
  exact ⟨fun ⟨k, _, setK, same, taken⟩ => setBelow_inj b setK set same ▸ taken, fun taken => ⟨i, hi, set, rfl, taken⟩⟩

/-- Above the ranks of the mask's positions there is nothing. -/
theorem getLsbD_bitExtract_above (a b : Word) {j : Nat} (above : setBelow b 64 ≤ j) : (bitExtract a b).getLsbD j = false := by
  by_cases hj : j < 64
  · refine Bool.eq_false_iff.mpr fun taken => ?_
    obtain ⟨i, hi, set, rank, -⟩ := (getLsbD_bitExtract a b hj).mp taken
    exact absurd (setBelow_lt b hi set) (by omega)
  · exact BitVec.getLsbD_of_ge _ _ (Nat.not_lt.mp hj)

/-! ## Leading and trailing zeros -/

theorem toNat_leadingZeros {x : Word} (nonzero : x ≠ 0) : (leadingZeros x).toNat = 63 - x.toNat.log2 := by
  rw [leadingZeros, if_neg nonzero, BitVec.toNat_ofNat]
  omega

/-- The highest set bit of a word that is not zero, and nothing above it. -/
theorem highest_bit {x : Word} (nonzero : x ≠ 0) :
    x.toNat.log2 ≤ 63 ∧ x.getLsbD x.toNat.log2 = true ∧ ∀ i, x.toNat.log2 < i → x.getLsbD i = false := by
  have positive : x.toNat ≠ 0 := fun h => nonzero (BitVec.eq_of_toNat_eq h)
  have below : x.toNat.log2 < 64 := (Nat.log2_lt positive).mpr x.isLt
  exact ⟨Nat.le_of_lt_succ below, Nat.testBit_log2 positive,
    fun i above => Nat.testBit_lt_two_pow (((Nat.log2_lt positive).mp (Nat.lt_succ_self _)).trans_le (Nat.pow_le_pow_right (by decide) above))⟩

/-- The first position of a list that is set, or 64. -/
theorem toNat_trailingZeros (x : Word) :
    (trailingZeros x).toNat = ((List.range 64).find? fun i => x.getLsbD i).getD 64 := by
  have small : ((List.range 64).find? fun i => x.getLsbD i).getD 64 ≤ 64 := by
    cases found : (List.range 64).find? fun i => x.getLsbD i with
    | none => exact le_rfl
    | some i => exact (List.mem_range.mp (List.mem_of_find?_eq_some found)).le
  rw [trailingZeros, BitVec.toNat_ofNat, Nat.mod_eq_of_lt (by omega)]

end Sys2Proof.Machine

namespace Sys2Proof.Cert

open Sys2Proof.Machine

/-- R291: the value of `clz`. -/
theorem leadingZeros_spec (x : Word) : (leadingZeros x).toNat ≤ 64 ∧ (∀ i, 64 - (leadingZeros x).toNat ≤ i → x.getLsbD i = false) ∧
    ((leadingZeros x).toNat < 64 → x.getLsbD (63 - (leadingZeros x).toNat) = true) := by
  by_cases zero : x = 0
  · subst zero
    exact ⟨by decide, fun i _ => BitVec.getLsbD_zero, fun h => absurd h (by decide)⟩
  · obtain ⟨bound, set, above⟩ := highest_bit zero
    rw [toNat_leadingZeros zero]
    refine ⟨by omega, fun i hi => above i (by omega), fun _ => ?_⟩
    rwa [Nat.sub_sub_self bound]

/-- R291: the value of `ctz`. -/
theorem trailingZeros_spec (x : Word) : (trailingZeros x).toNat ≤ 64 ∧ (∀ i, i < (trailingZeros x).toNat → x.getLsbD i = false) ∧
    ((trailingZeros x).toNat < 64 → x.getLsbD (trailingZeros x).toNat = true) := by
  rw [toNat_trailingZeros]
  cases found : (List.range 64).find? fun i => x.getLsbD i with
  | none =>
    refine ⟨le_rfl, fun i hi => ?_, fun h => absurd h (lt_irrefl 64)⟩
    exact Bool.eq_false_iff.mpr (List.find?_eq_none.mp found i (List.mem_range.mpr hi))
  | some k =>
    obtain ⟨set, inRange, lowest⟩ := List.find?_range_eq_some.mp found
    exact ⟨(List.mem_range.mp inRange).le, fun i hi => by simpa using lowest i hi, fun _ => set⟩

/-- Settles O7: each operation is `State.scalarOp`, and its value is told bit by bit through the ranks of the set positions. -/
theorem scalarBitFields : Obligations.ScalarBitFields := by
  unfold Obligations.ScalarBitFields
  intro d a b
  refine ⟨fun s hi => ⟨_, hi.next rfl rfl, leadingZeros_spec _⟩, fun s hi => ⟨_, hi.next rfl rfl, trailingZeros_spec _⟩, fun s hi => ?popc,
    fun s hi => ⟨_, hi.next rfl rfl, fun i small set => getLsbD_bitExtract_rank _ _ small set, fun j above => getLsbD_bitExtract_above _ _ above⟩,
    fun s hi => ⟨_, hi.next rfl rfl, fun i small => getLsbD_bitDeposit _ _ small⟩⟩
  case popc =>
    rw [List.countP_eq_length_filter]
    exact hi.next rfl rfl

end Sys2Proof.Cert
end

section
/-! Accesses of one element (R158, R167, R220, R301, R325): its places, its row and its bank, and what its checks and its port make of it. -/

namespace Sys2Proof.Machine

/-! ## Places without a layout (R167) -/

theorem physOf_linear (a : Nat) : physOf 0 a = a := by
  simp only [physOf, OfNat.zero_ne_ofNat, if_false, zero_ne_one]
  omega

theorem physRange_linear (a n : Nat) : physRange 0 a n = offsets a n :=
  List.map_congr_left fun _ _ => physOf_linear _

theorem offsets_eq_range' (off n : Nat) : offsets off n = List.range' off n := List.range'_eq_map_range.symm

/-! ## The row of an aligned element -/

section
variable {off size : Nat} (aligned : off % size = 0) (divides : size ∣ 128)
include aligned divides

theorem rowOf_inside {i : Nat} (inside : i < size) : rowOf (off + i) = rowOf off := by
  obtain ⟨q, rfl⟩ := Nat.dvd_of_mod_eq_zero aligned
  obtain ⟨m, rows⟩ := divides
  have positive : 0 < size := Nat.zero_lt_of_lt inside
  rw [rowOf, rowOf, rows, ← Nat.div_div_eq_div_mul, ← Nat.div_div_eq_div_mul, Nat.mul_add_div positive, Nat.div_eq_of_lt inside,
    Nat.add_zero, Nat.mul_div_cancel_left _ positive]

/-- What is the same over a row is one value for the whole element. -/
theorem distinct_offsets {f : Nat → Nat} (byRow : ∀ a, rowOf a = rowOf off → f a = f off) : distinct ((offsets off size).map f) = [f off] := by
  have positive : 0 < size := Nat.pos_of_dvd_of_pos divides (by decide)
  refine distinct_same (by simpa [offsets] using positive.ne') fun x mem => ?_
  obtain ⟨a, place, rfl⟩ := List.mem_map.mp mem
  obtain ⟨i, inside, rfl⟩ := List.mem_map.mp place
  exact byRow _ (rowOf_inside aligned divides (List.mem_range.mp inside))

theorem distinct_rows : distinct ((offsets off size).map rowOf) = [rowOf off] :=
  distinct_offsets aligned divides fun _ row => row

theorem distinct_banks : distinct ((offsets off size).map bankOf) = [bankOf off] :=
  distinct_offsets aligned divides fun _ row => congrArg (· % 32) row

end

/-! ## Checks of one element (R270, R325) -/

theorem rankOf_single (r : Nat) : rankOf [r] r = 0 := by simp [rankOf, distinct]

theorem rankFault_single (o r : Nat) : rankFault [o] [r] = none := by simp [rankFault, rankOf_single]

section
variable (c : Core) (o len align : Nat) (kind : AccessKind) (accepts : Extent → Bool)

theorem Core.elemFault_lcl_single : c.elemFault lclCode [o] len align kind accepts = c.lclFault o len align :=
  (List.findSome?_singleton ..).trans (if_pos rfl)

theorem Core.elemFault_extent_single {e : BitVec 4} (outside : e ≠ lclCode) :
    c.elemFault e [o] len align kind accepts = c.extFault e o len align kind accepts :=
  (List.findSome?_singleton ..).trans (if_neg outside)

variable {c o len align}

theorem Core.lclFault_aligned (passes : c.lclFault o len align = none) : o % align = 0 := by
  unfold Core.lclFault at passes
  split at passes
  · cases passes
  · split at passes
    · cases passes
    · simpa using passes

theorem Core.lclWriteFault_eq_none (passes : c.lclWriteFault o len align = none) :
    c.lclFault o len align = none ∧ c.sealedOff (offsets o len) = none := by
  unfold Core.lclWriteFault at passes
  split at passes
  · cases passes
  · next range => exact ⟨range, Option.map_eq_none_iff.mp passes⟩

theorem Core.lclWriteFault_eq_some {f : Cause × Option Word} (fails : c.lclWriteFault o len align = some f) :
    c.lclFault o len align = some f ∨
      c.lclFault o len align = none ∧ ∃ a, c.sealedOff (offsets o len) = some a ∧ f = (.sealedCopy, some (BitVec.ofNat 64 a)) := by
  unfold Core.lclWriteFault at fails
  split at fails
  · next range => exact .inl (range.trans fails)
  · next range =>
    obtain ⟨a, hidden, rfl⟩ := Option.map_eq_some_iff.mp fails
    exact .inr ⟨range, a, hidden, rfl⟩

/-- The undo entries of an operation depend on which rows it writes. -/
theorem Core.reserve_of_distinct {rows rows' : List Nat} (same : distinct rows = distinct rows') (c : Core) :
    c.reserve rows = c.reserve rows' := by
  unfold Core.reserve
  rw [same]

end

/-- A sweep of one element is one access. -/
theorem Core.sweep_single {α : Type} (c : Core) (swept : Bool) (slot start : Nat) (x : α × List Nat)
    (f : Nat → List (α × List Nat) → Core → Core) :
    c.sweep swept slot start [x] f = c.portAccess swept slot start x.2 (f start [x]) := by
  have ranks : List.range 4 = [0, 1, 2, 3] := rfl
  simp [Core.sweep, ranks, rankOf_single]

end Sys2Proof.Machine
end

section
/-! Scalar stores (R193, R301): what `State.storeScalar` does in each of its cases. -/

namespace Sys2Proof.Cert

open Sys2Proof.Machine

/-! ## The element of a scalar store -/

/-- Bytes stored without a mask, as the one element of a store. -/
def wholeElem (off : Nat) (bs : List Byte) : List (Nat × List (Byte × Bool)) := [(off, bs.map fun b => (b, true))]

section
variable (off : Nat) (bs : List Byte)

theorem wholeElem_length : ((wholeElem off bs).map (·.2.length)).headD 0 = bs.length := List.length_map _

theorem wholeElem_offsets : elemOffsets (wholeElem off bs) = offsets off bs.length := by
  simp [elemOffsets, wholeElem]

theorem wholeElem_placed : ((wholeElem off bs).map fun x => (x.2, physRange 0 x.1 x.2.length)) =
    [(bs.map fun b => (b, true), offsets off bs.length)] := by
  simp [wholeElem, physRange_linear]

theorem wholeElem_cells : (([(bs.map fun b => (b, true), offsets off bs.length)] : List (List (Byte × Bool) × List Nat)).flatMap fun x =>
    (x.2.zip x.1).filterMap fun p => if p.2.2 then some (p.1, p.2.1) else none) = cellsAt off bs := by
  rw [List.flatMap_singleton, offsets_eq_range']
  induction bs generalizing off with
  | nil => rfl
  | cons b bs ih => exact congrArg ((off, b) :: ·) (ih (off + 1))

theorem wholeElem_rows : writtenRows 0 (wholeElem off bs) = (offsets off bs.length).map rowOf := by
  rw [← writtenRows_placed, wholeElem_placed, wholeElem_cells, offsets_eq_range', ← cellsAt_fst, List.map_map]
  rfl

theorem wholeElem_extentCells (y : Extent) :
    ((wholeElem off bs).flatMap fun x => x.2.zipIdx.filterMap fun p => if p.1.2 then some (y.address (x.1 + p.2), p.1.1) else none) =
      y.cells off bs := by
  simp [wholeElem, Extent.cells, List.zipIdx_map, List.filterMap_map]

end

/-! ## A store of one whole element -/

section
variable {s : State} {off size : Nat} {bs : List Byte} (whole : bs.length = size) (lat : Nat)
include whole

theorem wholeElem_lclFault : s.core.elemFault lclCode ((wholeElem off bs).map (·.1)) (((wholeElem off bs).map (·.2.length)).headD 0) size
    .store acceptStore = s.core.lclFault off size size := by
  rw [wholeElem_length, whole]
  exact s.core.elemFault_lcl_single off size size .store acceptStore

theorem storeWhole_refused {f : Cause × Option Word} (fails : s.core.lclWriteFault off size size = some f) :
    s.storeElems false 2 lat lclCode 0 size acceptStore (wholeElem off bs) = faulted s 2 f.1 f.2 := by
  rcases Core.lclWriteFault_eq_some fails with range | ⟨range, o, hidden, rfl⟩
  · exact storeElems_refused _ _ _ ((wholeElem_lclFault whole).trans range)
  · exact storeElems_lcl_sealed _ _ _ ((wholeElem_lclFault whole).trans range) rfl (rankFault_single _ _)
      (by rw [wholeElem_offsets, whole, hidden])

variable (divides : size ∣ 128) (passes : s.core.lclWriteFault off size size = none)
include divides passes

/-- The rows that an aligned element reserves are its one row. -/
theorem wholeElem_reserve : s.core.reserve (writtenRows 0 (wholeElem off bs)) = s.core.reserve [rowOf off] := by
  obtain ⟨range, -⟩ := Core.lclWriteFault_eq_none passes
  refine Core.reserve_of_distinct ?_ s.core
  rw [wholeElem_rows, whole, distinct_rows (Core.lclFault_aligned range) divides]
  rfl

theorem storeWhole_undo {row : Nat} (full : s.core.reserve [rowOf off] = .error row) :
    s.storeElems false 2 lat lclCode 0 size acceptStore (wholeElem off bs) =
      faulted s 2 .undoFull (some (BitVec.ofNat 64 (row % 4096))) := by
  obtain ⟨range, plain⟩ := Core.lclWriteFault_eq_none passes
  exact storeElems_lcl_undo _ _ _ ((wholeElem_lclFault whole).trans range) rfl (rankFault_single _ _)
    (by rw [wholeElem_offsets, whole, plain]) ((wholeElem_reserve whole divides passes).trans full)

/-- A store that has its undo row is one access of port S. -/
theorem storeWhole_written {k : Core} (room : s.core.reserve [rowOf off] = .ok k) :
    s.storeElems false 2 lat lclCode 0 size acceptStore (wholeElem off bs) =
      withCore s (k.portS 2 (s.core.ccy + lat) (offsets off size) fun d => d.at' 2 (s.core.ccy + lat) (.store .S (cellsAt off bs))) := by
  obtain ⟨range, plain⟩ := Core.lclWriteFault_eq_none passes
  rw [storeElems_lcl_written _ _ _ ((wholeElem_lclFault whole).trans range) rfl (rankFault_single _ _)
    (by rw [wholeElem_offsets, whole, plain]) ((wholeElem_reserve whole divides passes).trans room), wholeElem_placed, Core.sweep_single,
    wholeElem_cells, whole]
  rfl

theorem storeWhole_free {k : Core} (room : s.core.reserve [rowOf off] = .ok k)
    (free : k.busyBank false (s.core.ccy + lat) [bankOf off] = none) :
    s.storeElems false 2 lat lclCode 0 size acceptStore (wholeElem off bs) =
      later (withCore s (k.usePort .S 2 k.ccy (s.core.ccy + lat) false [bankOf off])) 2 lat (.store .S (cellsAt off bs)) := by
  obtain ⟨range, -⟩ := Core.lclWriteFault_eq_none passes
  have bank := distinct_banks (Core.lclFault_aligned range) divides
  obtain ⟨reserved, rfl⟩ := Core.reserve_frame room
  rw [storeWhole_written whole lat divides passes room, Core.portS_free (by rwa [bank]), bank]
  rfl

theorem storeWhole_held {k : Core} {b : Nat} (room : s.core.reserve [rowOf off] = .ok k)
    (held : k.busyBank false (s.core.ccy + lat) [bankOf off] = some b) :
    s.storeElems false 2 lat lclCode 0 size acceptStore (wholeElem off bs) =
      lateFault s k 2 (s.core.ccy + lat) .portCollision (some (portTval .S b)) := by
  obtain ⟨range, -⟩ := Core.lclWriteFault_eq_none passes
  have bank := distinct_banks (Core.lclFault_aligned range) divides
  rw [storeWhole_written whole lat divides passes room, Core.portS_held (by rwa [bank])]
  rfl

end

section
variable {s : State} {off size : Nat} {bs : List Byte} (whole : bs.length = size) (lat : Nat)
include whole

variable {e : BitVec 4} (outside : e ≠ lclCode)
include outside

theorem wholeElem_extFault : s.core.elemFault e ((wholeElem off bs).map (·.1)) (((wholeElem off bs).map (·.2.length)).headD 0) size
    .store acceptStore = s.core.extFault e off size size .store acceptStore := by
  rw [wholeElem_length, whole]
  exact s.core.elemFault_extent_single off size size .store acceptStore outside

theorem storeWhole_extent_refused {f : Cause × Option Word} (fails : s.core.extFault e off size size .store acceptStore = some f) :
    s.storeElems false 2 lat e 0 size acceptStore (wholeElem off bs) = faulted s 2 f.1 f.2 :=
  storeElems_refused _ _ _ ((wholeElem_extFault whole outside).trans fails)

variable {y : Extent} (passes : s.core.extFault e off size size .store acceptStore = none) (declared : s.core.extent e = some y)
include passes declared

theorem storeWhole_extent_sealed (hidden : y.sealed = true) :
    s.storeElems false 2 lat e 0 size acceptStore (wholeElem off bs) = faulted s 2 .sealedCopy (some (BitVec.ofNat 64 off)) :=
  storeElems_extent_sealed _ _ _ ((wholeElem_extFault whole outside).trans passes) outside declared rfl hidden

theorem storeWhole_extent_gate (plain : y.sealed = false) : s.storeElems false 2 lat e 0 size acceptStore (wholeElem off bs) =
    s.gate 2 (y.classOf 0x02) 0 0 (.write y.backing (y.key s.core.isControl) (y.cells off bs)) := by
  rw [storeElems_extent_gate _ _ _ ((wholeElem_extFault whole outside).trans passes) outside declared rfl plain, wholeElem_extentCells]

end

/-! ## Scalar stores (R301) -/

theorem leaveNow_kept {t : State} {before : List Gated} (kept : t.released = before) : t.leaveNow before = t :=
  if_pos (.inl (congrArg List.length kept))

section
variable {i : Instr} {s : State} (hi : Issues i s) {v x : BitVec 6} {e : BitVec 4} {g : BitVec 4} {imm : BitVec 6} {size : Nat}
include hi

theorem storeScalar_off (off : s.core.guardOf g = false) : s.storeScalar i v e x g imm size = s :=
  (hi.run_eq _).trans (if_pos (by rw [off]; rfl))

theorem storeScalar_on (on : s.core.guardOf g = true) {t : State}
    (element : s.storeElems false 2 (s.lat 7) e 0 size acceptStore
      (wholeElem (s.core.offset x (size * imm.toNat)) (leBytes size (s.core.sreg v).toNat)) = t) :
    s.storeScalar i v e x g imm size = t.leaveNow s.released := by
  rw [← element]
  exact (hi.run_eq _).trans (if_neg (by rw [on]; decide))

/-- A store that leaves nothing among the released effects. -/
theorem storeScalar_kept (on : s.core.guardOf g = true) {t : State} (kept : t.released = s.released)
    (element : s.storeElems false 2 (s.lat 7) e 0 size acceptStore
      (wholeElem (s.core.offset x (size * imm.toNat)) (leBytes size (s.core.sreg v).toNat)) = t) :
    s.storeScalar i v e x g imm size = t :=
  (storeScalar_on hi on element).trans (leaveNow_kept kept)

end

/-- Every instruction whose meaning is `State.storeScalar` stores as R301 says. -/
theorem storeResult_of_exec {i : Instr} {v x : BitVec 6} {e : BitVec 4} {g : BitVec 4} {imm : BitVec 6} {size : Nat}
    (meaning : ∀ s, exec i s = .next (s.storeScalar i v e x g imm size)) (divides : size ∣ 128) : StoreResult i v x e g imm size := by
  intro s hi off bs
  have whole : bs.length = size := leBytes_length _ _
  rw [meaning]
  refine ⟨fun notOn => congrArg _ (storeScalar_off hi notOn), fun on inLcl => ?lcl, fun on outside => ?extent⟩
  case lcl =>
    obtain rfl : e = lclCode := inLcl
    exact ⟨fun f fails => congrArg _ (storeScalar_kept hi on rfl (storeWhole_refused whole _ fails)),
      fun passes => ⟨fun row full => congrArg _ (storeScalar_kept hi on rfl (storeWhole_undo whole _ divides passes full)),
        fun k room => ⟨fun free => congrArg _ (storeScalar_kept hi on rfl (storeWhole_free whole _ divides passes room free)),
          fun b held => congrArg _ (storeScalar_kept hi on rfl (storeWhole_held whole _ divides passes room held))⟩⟩⟩
  case extent =>
    refine ⟨fun f fails => congrArg _ (storeScalar_kept hi on rfl (storeWhole_extent_refused whole _ outside fails)),
      fun y passes declared => ⟨fun hidden =>
        congrArg _ (storeScalar_kept hi on rfl (storeWhole_extent_sealed whole _ outside passes declared hidden)),
        fun plain compute few => ?held, fun plain compute full => ?full, fun plain control => ?leaves⟩⟩
    case held =>
      refine congrArg _ (storeScalar_kept hi on rfl ((storeWhole_extent_gate whole _ outside passes declared plain).trans ?_))
      rw [compute, gate_eq_gatedBy compute few]
    case full =>
      refine congrArg _ (storeScalar_kept hi on rfl ((storeWhole_extent_gate whole _ outside passes declared plain).trans ?_))
      rw [gate_eq_faulted compute full]
    case leaves =>
      have left := (storeWhole_extent_gate whole (s.lat 7) outside passes declared plain).trans (gate_eq_leftBy control _ _ _)
      rw [control] at left
      rw [storeScalar_on hi on left]
      refine ⟨fun elsewhere => congrArg _ (State.leaveNow_stays rfl (.inl ?_)),
        fun register behind => congrArg _ (State.leaveNow_stays rfl (.inr behind)),
        fun register first => congrArg _ (State.leaveNow_performs (s := leftBy s 2 _ _) rfl ?_ first)⟩
      · rw [Gated.toStretcher_of_write rfl, beq_eq_false_iff_ne.mpr elsewhere, Bool.false_and]
      · rw [Gated.toStretcher_of_write rfl, register, beq_self_eq_true, Bool.true_and]
        exact beq_self_eq_true s.core.id

/-- Settles O12: the meaning of every store is `State.storeScalar`, and an aligned element of at most 8 bytes lies in one row. -/
theorem storesWriteLowBytes : Obligations.StoresWriteLowBytes := by
  unfold Obligations.StoresWriteLowBytes
  intro v x e g imm
  exact ⟨storeResult_of_exec (fun _ => rfl) (by decide), storeResult_of_exec (fun _ => rfl) (by decide),
    storeResult_of_exec (fun _ => rfl) (by decide), storeResult_of_exec (fun _ => rfl) (by decide)⟩

end Sys2Proof.Cert
end

section
/-! Atomics (R159, R302): the window at issue, and the access when it performs. -/

namespace Sys2Proof.Machine

/-! ## The window of an atomic (R159) -/

/-- A window that leaves the three core cycles from c + 1 on to an atomic on a bank. -/
def Core.clearOf (c : Core) (bank : Nat) (w : Nat × Nat) : Prop := w.1 = bank → w.2 + 3 ≤ c.ccy + 1 ∨ c.ccy + 4 ≤ w.2

theorem Core.window_test (c : Core) (bank : Nat) (w : Nat × Nat) :
    (w.1 == bank && decide (c.ccy + 1 < w.2 + 3) && decide (w.2 < c.ccy + 4)) = true ↔ ¬ c.clearOf bank w := by
  simp only [Core.clearOf, Bool.and_eq_true, beq_iff_eq, decide_eq_true_eq, Classical.not_imp, not_or, not_le, and_assoc]

theorem Core.atomicWindow_clear {c : Core} {bank : Nat} (clear : ∀ w ∈ c.windows, c.clearOf bank w) (f : Core → Core) :
    c.atomicWindow bank f = f (c.openWindow bank (c.ccy + 1)) := by
  have unmet : (c.windows.find? fun w => w.1 == bank && decide (c.ccy + 1 < w.2 + 3) && decide (w.2 < c.ccy + 4)) = none :=
    List.find?_eq_none.mpr fun w mem => (c.window_test bank w).not.mpr (not_not.mpr (clear w mem))
  simp only [Core.atomicWindow, unmet]

/-- The first window that meets it makes the strand take PORT_COLLISION. -/
theorem Core.atomicWindow_meets {c : Core} {bank : Nat} {pre post : List (Nat × Nat)} {w : Nat × Nat} (windows : c.windows = pre ++ w :: post)
    (clear : ∀ v ∈ pre, c.clearOf bank v) (meets : ¬ c.clearOf bank w) (f : Core → Core) :
    c.atomicWindow bank f = c.raiseAt 2 (max (c.ccy + 1) w.2) .portCollision (some (portTval .S bank)) := by
  have met : (c.windows.find? fun w => w.1 == bank && decide (c.ccy + 1 < w.2 + 3) && decide (w.2 < c.ccy + 4)) = some w :=
    List.find?_eq_some_iff_append.mpr ⟨(c.window_test bank w).mpr meets, pre, post, windows, fun v mem => by
      rw [Bool.not_eq_true', Bool.eq_false_iff]
      exact (c.window_test bank v).not.mpr (not_not.mpr (clear v mem))⟩
  simp only [Core.atomicWindow, met]

theorem bankField_eq_bankOf (x : Word) : (x.extractLsb' 7 5).toNat = bankOf x.toNat := by
  rw [BitVec.extractLsb'_toNat, Nat.shiftRight_eq_div_pow]
  rfl

/-! ## The access when it performs (R163, R302) -/

/-- An atomic that reads a bad word raises ECC_SP and does nothing else. -/
theorem Core.performOwn_atomic_bad {c : Core} {l : Late} {fn addr lat : Nat} {d : BitVec 6} {v : Word} {cmp : Option Word}
    (atomic : l.eff = .atomic fn addr d v cmp lat) {f : Cause × Option Word} (bad : c.badWord (physRange 0 addr 8) = some f) :
    c.performOwn l = { c with faults := c.faults ++ [⟨f.1, f.2, l.slot, l.pc⟩] } := by
  simp only [Core.performOwn, atomic, bad]
  rfl

end Sys2Proof.Machine

namespace Sys2Proof.Cert

open Sys2Proof.Machine

/-- The windows met are those that `WindowMeets` names. -/
theorem windowMeets_iff {s : State} {x : BitVec 6} {pre : List (Nat × Nat)} {w : Nat × Nat} {c : Core} (now : c.ccy = s.core.ccy) :
    WindowMeets s x pre w ↔
      (∀ v ∈ pre, c.clearOf (bankOf (s.core.sreg x).toNat) v) ∧ ¬ c.clearOf (bankOf (s.core.sreg x).toNat) w := by
  unfold WindowMeets Core.clearOf
  rw [now, Classical.not_imp, not_or, not_le, not_le]

section
variable {i : Instr} {s : State} (hi : Issues i s) (fn : Nat) (d : BitVec 6) {x : BitVec 6} (v : BitVec 6) (cmp : Option (BitVec 6))
  {g : BitVec 4}
include hi

theorem atomicOp_off (off : s.core.guardOf g = false) :
    s.atomicOp i fn d x v cmp g = withCore s (s.core.atomicWindow (bankOf (s.core.sreg x).toNat) id) := by
  refine (hi.run_eq _).trans ?_
  simp only [State.upd, off, Bool.not_false, if_true, bankField_eq_bankOf]
  rfl

variable (on : s.core.guardOf g = true)
include on

theorem atomicOp_refused {f : Cause × Option Word}
    (fails : s.core.lclRead (s.core.sreg x).toNat 8 8 none .sealedCopy = .error f) : s.atomicOp i fn d x v cmp g = faulted s 2 f.1 f.2 := by
  refine (hi.run_eq _).trans ?_
  simp only [State.upd, on, Bool.not_true, Bool.false_eq_true, if_false, fails]
  rfl

variable {k : Core} (reads : s.core.lclRead (s.core.sreg x).toNat 8 8 none .sealedCopy = .ok k)
include reads

theorem atomicOp_undo {row : Nat} (full : k.reserve [rowOf (s.core.sreg x).toNat] = .error row) :
    s.atomicOp i fn d x v cmp g = faulted s 2 .undoFull (some (BitVec.ofNat 64 (row % 4096))) := by
  refine (hi.run_eq _).trans ?_
  simp only [State.upd, on, Bool.not_true, Bool.false_eq_true, if_false, reads, full]
  rfl

theorem atomicOp_window {u : Core} (room : k.reserve [rowOf (s.core.sreg x).toNat] = .ok u) :
    s.atomicOp i fn d x v cmp g = withCore s (u.atomicWindow (bankOf (s.core.sreg x).toNat) fun k =>
      k.after 2 1 (.atomic fn (s.core.sreg x).toNat d (s.core.sreg v) (cmp.map s.core.sreg) (s.lat 6))) := by
  refine (hi.run_eq _).trans ?_
  simp only [State.upd, on, Bool.not_true, Bool.false_eq_true, if_false, reads, room, bankField_eq_bankOf]
  rfl

end

/-- The checks and the undo entry of an atomic leave the clock of its core. -/
theorem checked_ccy {c k u : Core} {off : Nat} {rows : List Nat} (reads : c.lclRead off 8 8 none .sealedCopy = .ok k)
    (room : k.reserve rows = .ok u) : u.ccy = c.ccy := by
  obtain ⟨tags, noted, rfl⟩ := Core.lclRead_frame reads
  obtain ⟨reserved, rfl⟩ := Core.reserve_frame room
  rfl

/-- Every instruction whose meaning is `State.atomicOp` takes its window as R159 and R302 say. -/
theorem atomicResult_of_exec {i : Instr} {fn : Nat} {d x v : BitVec 6} {cmp : Option (BitVec 6)} {g : BitVec 4}
    (meaning : ∀ s, exec i s = .next (s.atomicOp i fn d x v cmp g)) : AtomicResult i fn d x v cmp g := by
  intro s hi
  rw [meaning]
  refine ⟨fun k u on reads room clear => ?issues, fun k row on reads full => congrArg _ (atomicOp_undo hi fn d v cmp on reads full),
    fun k u pre w post on reads room windows meets => ?collides, fun pre w post off windows meets => ?collidesOff,
    fun off clear => ?windowAlone, fun f on fails => congrArg _ (atomicOp_refused hi fn d v cmp on fails)⟩
  case issues =>
    have now := checked_ccy reads room
    rw [atomicOp_window hi fn d v cmp on reads room, Core.atomicWindow_clear (by simpa only [Core.clearOf, now] using clear), now]
    rfl
  case collides =>
    have now := checked_ccy reads room
    obtain ⟨before, met⟩ := (windowMeets_iff now).mp meets
    rw [atomicOp_window hi fn d v cmp on reads room, Core.atomicWindow_meets windows before met, now]
    rfl
  case collidesOff =>
    obtain ⟨before, met⟩ := (windowMeets_iff rfl).mp meets
    rw [atomicOp_off hi fn d v cmp off, Core.atomicWindow_meets windows before met]
    rfl
  case windowAlone =>
    rw [atomicOp_off hi fn d v cmp off, Core.atomicWindow_clear clear]
    rfl

/-- Settles O13: the meaning of every atomic is `State.atomicOp`. -/
theorem atomicsTakeTheirWindow : Obligations.AtomicsTakeTheirWindow := by
  unfold Obligations.AtomicsTakeTheirWindow
  intro d x v g
  exact ⟨atomicResult_of_exec fun _ => rfl, atomicResult_of_exec fun _ => rfl, atomicResult_of_exec fun _ => rfl,
    atomicResult_of_exec fun _ => rfl, atomicResult_of_exec fun _ => rfl, atomicResult_of_exec fun _ => rfl,
    atomicResult_of_exec fun _ => rfl, atomicResult_of_exec fun _ => rfl, atomicResult_of_exec fun _ => rfl,
    atomicResult_of_exec fun _ => rfl⟩

/-! ## An atomic on a bad word -/

/-- The focal core at reset with an error that is not corrected in the first word of its scratchpad. -/
def badFirstWord : Core := { State.reset.core with bad := [.scratchpad 0] }

/-- An `aadd` to s1 on that word, at the core cycle of its access. -/
def aaddFirstWord : Late := ⟨1, 0, 2, 0, .atomic 0 0 1 5 none 4⟩

/-- Refutes O14: the clause on what an atomic puts in flight has no condition on the word that it reads, where one that is bad makes the model
raise ECC_SP (R163) and put nothing in flight. -/
theorem not_atomicsReadModifyWrite : ¬ Obligations.AtomicsReadModifyWrite := by
  unfold Obligations.AtomicsReadModifyWrite
  rintro ⟨claims, -⟩
  have claimed := claims badFirstWord aaddFirstWord 0 0 4 1 5 none rfl
  have model := Core.performOwn_atomic_bad (c := badFirstWord) (l := aaddFirstWord) rfl (f := (.eccSp, some 0)) (by decide)
  have lengths := congrArg (fun c : Core => c.late.length) (model.symm.trans claimed)
  simp at lengths

end Sys2Proof.Cert
end

section
/-! Elements of vectors (R307, R308): what packing them gives back, lane by lane. -/

namespace Sys2Proof.Machine

/-! ## Packing -/

/-- Elements of w bits laid one above another, as a number. -/
def packedNat (w : Nat) (xs : List Nat) : Nat := xs.foldr (fun x acc => x % 2 ^ w + 2 ^ w * acc) 0

theorem packedNat_lt (w : Nat) (xs : List Nat) : packedNat w xs < 2 ^ (w * xs.length) := by
  induction xs with
  | nil => exact Nat.one_pos
  | cons x xs ih =>
    have low : x % 2 ^ w < 2 ^ w := Nat.mod_lt _ (Nat.two_pow_pos w)
    calc x % 2 ^ w + 2 ^ w * packedNat w xs < 2 ^ w + 2 ^ w * packedNat w xs := Nat.add_lt_add_right low _
      _ = 2 ^ w * (packedNat w xs + 1) := by ring
      _ ≤ 2 ^ w * 2 ^ (w * xs.length) := Nat.mul_le_mul_left _ ih
      _ = 2 ^ (w * (x :: xs).length) := by rw [← pow_add, List.length_cons, Nat.mul_succ, Nat.add_comm]

/-- Each element comes back cut to its width. -/
theorem packedNat_element (w : Nat) (xs : List Nat) (i : Nat) : packedNat w xs / 2 ^ (w * i) % 2 ^ w = xs.getD i 0 % 2 ^ w := by
  induction xs generalizing i with
  | nil => simp [packedNat]
  | cons x xs ih =>
    change (x % 2 ^ w + 2 ^ w * packedNat w xs) / 2 ^ (w * i) % 2 ^ w = _
    cases i with
    | zero => rw [Nat.mul_zero, pow_zero, Nat.div_one, Nat.add_mul_mod_self_left, Nat.mod_mod, List.getD_cons_zero]
    | succ i =>
      rw [Nat.mul_succ, Nat.add_comm (w * i), pow_add, ← Nat.div_div_eq_div_mul, Nat.add_mul_div_left _ _ (Nat.two_pow_pos w),
        Nat.div_eq_of_lt (Nat.mod_lt _ (Nat.two_pow_pos w)), Nat.zero_add, ih, List.getD_cons_succ]

/-! ## Lanes -/

/-- The elements of a type fill the register (R307). -/
theorem laneCount_mul_laneBits {t : BitVec 3} (named : t ≠ 7) : laneCount t * laneBits t = 1024 := by
  revert t
  decide

theorem toNat_ofNat_fits {n x : Nat} (fits : x < 2 ^ n) : (BitVec.ofNat n x).toNat = x := by
  rw [BitVec.toNat_ofNat, Nat.mod_eq_of_lt fits]

theorem laneAt_packLanes {t : BitVec 3} (named : t ≠ 7) {xs : List Nat} (full : xs.length = laneCount t) (i : Nat) :
    laneAt t (packLanes (laneBits t) xs) i = xs.getD i 0 % 2 ^ laneBits t := by
  have fits : packedNat (laneBits t) xs < 2 ^ 1024 := by
    have bound := packedNat_lt (laneBits t) xs
    rwa [full, Nat.mul_comm, laneCount_mul_laneBits named] at bound
  have whole : (packLanes (laneBits t) xs).toNat = packedNat (laneBits t) xs := toNat_ofNat_fits fits
  rw [laneAt, whole, packedNat_element]

/-- What `gather` makes of one result for each lane. -/
theorem laneAt_gather {t : BitVec 3} (named : t ≠ 7) (f : Nat → Nat × BitVec 5) {i : Nat} (lane : i < laneCount t) :
    laneAt t (gather (laneBits t) ((List.range (laneCount t)).map f)).1 i = (f i).1 % 2 ^ laneBits t := by
  rw [gather, laneAt_packLanes named (by simp)]
  simp [List.getD, lane]

theorem laneAt_zipLanes {t : BitVec 3} (named : t ≠ 7) (f : Nat → Nat → Nat × BitVec 5) (a b : Vec) {i : Nat} (lane : i < laneCount t) :
    laneAt t (zipLanes t f a b).1 i = (f (laneAt t a i) (laneAt t b i)).1 % 2 ^ laneBits t :=
  laneAt_gather named (fun i => f (laneAt t a i) (laneAt t b i)) lane

theorem laneAt_mapLanes {t : BitVec 3} (named : t ≠ 7) (f : Nat → Nat × BitVec 5) (a : Vec) {i : Nat} (lane : i < laneCount t) :
    laneAt t (mapLanes t f a).1 i = (f (laneAt t a i)).1 % 2 ^ laneBits t := by
  rw [mapLanes, lanes, List.map_map]
  exact laneAt_gather named (f ∘ laneAt t a) lane

theorem laneAt_lt (t : BitVec 3) (x : Vec) (i : Nat) : laneAt t x i < 2 ^ laneBits t := Nat.mod_lt _ (Nat.two_pow_pos _)

/-! ## Integer lanes (R308) -/

section
variable {t : BitVec 3} (int : 3 ≤ t.toNat)
include int

theorem fpOf_int : fpOf t = none := by
  revert t
  decide

variable (x y : Nat)

theorem laneAdd_int : (laneAdd t x y).1 % 2 ^ laneBits t = (x + y) % 2 ^ laneBits t := by
  simp only [laneAdd, fpOf_int int, Nat.mod_mod]

theorem laneMul_int : (laneMul t x y).1 % 2 ^ laneBits t = x * y % 2 ^ laneBits t := by
  simp only [laneMul, fpOf_int int, Nat.mod_mod]

variable {x y}

theorem laneSub_int (small : y < 2 ^ laneBits t) :
    (laneSub t x y).1 % 2 ^ laneBits t = (x + 2 ^ laneBits t - y) % 2 ^ laneBits t := by
  simp only [laneSub, fpOf_int int, wrapLane]
  generalize 2 ^ laneBits t = W at small ⊢
  have wraps : ((x : Int) - y) % (W : Nat) = ((x + W - y) % W : Nat) := by
    rw [Int.natCast_mod, Nat.cast_sub (by omega), Nat.cast_add, add_sub_right_comm, Int.add_emod_right]
  rw [wraps, Int.toNat_natCast, Nat.mod_mod]

end

/-! ## Masks (R311) -/

/-- Truth values as the bits of a number, the first lowest. -/
theorem testBit_foldr_bits {α : Type} (f : α → Bool) (rs : List α) (k : Nat) :
    (rs.foldr (fun r acc => (f r).toNat + 2 * acc) 0).testBit k = (rs[k]?.map f).getD false := by
  induction rs generalizing k with
  | nil => simp
  | cons r rs ih =>
    rw [List.foldr_cons]
    cases k with
    | zero =>
      rw [Nat.testBit_zero, Nat.add_mul_mod_self_left]
      cases hr : f r <;> simp [hr]
    | succ k =>
      rw [Nat.testBit_succ, Nat.add_mul_div_left _ _ (by decide), Nat.div_eq_of_lt (Bool.toNat_lt _), Nat.zero_add, ih]
      rfl

theorem laneCount_le (t : BitVec 3) : laneCount t ≤ 128 := by
  revert t
  decide

theorem compareLanes_getLsbD (t : BitVec 3) (rel : Nat) (a b : Vec) (k : Nat) : (compareLanes t rel a b).1.getLsbD k =
    (decide (k < laneCount t) && (laneRelation t rel (laneAt t a k) (laneAt t b k)).1) := by
  rw [compareLanes, BitVec.getLsbD_ofNat, testBit_foldr_bits (fun r : Bool × BitVec 5 => r.1), List.getElem?_map]
  by_cases lane : k < laneCount t
  · have small : k < 128 := lane.trans_le (laneCount_le t)
    simp [lane, small]
  · simp [lane]

end Sys2Proof.Machine
end

section
/-! Slot 3 (R309-R314), and the element-wise operations of slot 4: their results, lane by lane. -/

namespace Sys2Proof.Cert

open Sys2Proof.Machine

/-- Settles O20: what a packed element gives back is its value cut to the width, and a mask bit is the truth value of its lane. -/
theorem lanesAreIndependent : Obligations.LanesAreIndependent := by
  unfold Obligations.LanesAreIndependent
  intro t a b i named lane
  refine ⟨laneCount_mul_laneBits named, fun f => laneAt_zipLanes named f a b lane, fun f => laneAt_mapLanes named f a lane,
    fun int => ⟨?add, ?sub, ?mul⟩, fun rel => ?bit, fun rel k beyond => ?beyond⟩
  case add => exact (laneAt_zipLanes named _ a b lane).trans (laneAdd_int int _ _)
  case sub => exact (laneAt_zipLanes named _ a b lane).trans (laneSub_int int (laneAt_lt t b i))
  case mul => exact (laneAt_zipLanes named _ a b lane).trans (laneMul_int int _ _)
  case bit => rw [compareLanes_getLsbD, decide_eq_true lane, Bool.true_and]
  case beyond => rw [compareLanes_getLsbD, decide_eq_false (Nat.not_lt.mpr beyond), Bool.false_and]

/-- Adding, multiplying and FMA take longer in floating point (R309). -/
theorem arithEntry_eq (t : BitVec 3) : arithEntry t = if t.toNat < 3 then 9 else 8 := by
  revert t
  decide

/-- Settles O17: the meaning of every one of these operations is `State.vectorOp` on its lane function. -/
theorem vectorArithmetic : Obligations.VectorArithmetic := by
  unfold Obligations.VectorArithmetic
  intro d a b z t
  refine ⟨?vadd, ?vsub, ?vmul, ?vfma, ?vfms, ?vmin, ?vmax, ?vabs, ?vneg, ?vshl, ?vshr, ?vsra, ?vbVadd, ?vbVmul, ?vbVfma, arithEntry_eq t⟩
  all_goals exact vectorResult_of_exec fun _ => rfl

/-! ## Moves and masks (R310-R314) -/

/-- Every instruction whose meaning is `State.maskOp` has, once issued, its mask write in flight and the events of its lanes behind it. -/
theorem maskResult_of_exec {i : Instr} {e : Nat} {d : BitVec 3} {f : Core → Mask × Events} (meaning : ∀ s, exec i s = .next (s.maskOp i e d f))
    (three : slotOf i = 3) : MaskResult i e d f :=
  fun s hi => hi.next (meaning s) (by rw [three]; rfl)

/-- An operation whose value is written in two ways. -/
theorem VectorResult.congr {i : Instr} {k e : Nat} {d : BitVec 5} {f g : Core → Vec × Events} (result : VectorResult i k e d f)
    (value : ∀ c, f c = g c) : VectorResult i k e d g :=
  funext value ▸ result

theorem lanes_set (t : BitVec 3) (x : Vec) (l v : Nat) :
    (lanes t x).set l v = (List.range (laneCount t)).map fun k => if k = l then v else laneAt t x k := by
  refine List.ext_getElem (by simp [lanes]) fun k _ _ => ?_
  simp [lanes, List.getElem_set, eq_comm]

theorem lanes_take_map {α : Type} (t : BitVec 3) (x : Vec) (n : Nat) (f : Nat → α) :
    ((lanes t x).take (min n (laneCount t))).map f = (List.range (min n (laneCount t))).map fun k => f (laneAt t x k) := by
  rw [lanes, ← List.map_take, List.take_range, List.map_map, min_eq_left (Nat.min_le_right _ _)]
  rfl

theorem headD_maskBits (m : Mask) : (maskBits m).headD 128 = ((List.range 128).find? fun k => m.getLsbD k).getD 128 := by
  rw [maskBits, List.headD_eq_head?_getD, List.head?_filter]

/-- Settles O18: each operation is `State.vectorOp` or `State.maskOp` on its function of the registers. -/
theorem vectorMovesAndMasks : Obligations.VectorMovesAndMasks := by
  unfold Obligations.VectorMovesAndMasks
  intro d a b t r m n o i l
  refine ⟨?vand, ?vor, ?vxor, ?vnot, ?vmov, ?vsplat, ?vext, ?vins, ?vidx, ?vcvt, ?vsel, ?vcmpeq, ?vcmplt, ?vcmple, ?mand, ?mor, ?mxor, ?mnot,
    ?mpop, ?mfirst⟩
  case vins => exact (vectorResult_of_exec fun _ => rfl).congr fun c => by rw [lanes_set]
  case vcvt => exact (vectorResult_of_exec fun _ => rfl).congr fun c => by rw [lanes_take_map]
  case mpop => exact (vectorResult_of_exec fun _ => rfl).congr fun c => by rw [maskBits, List.countP_eq_length_filter]
  case mfirst => exact (vectorResult_of_exec fun _ => rfl).congr fun c => by rw [headD_maskBits]
  case vcmpeq | vcmplt | vcmple | mand | mor | mxor | mnot => exact maskResult_of_exec (fun _ => rfl) rfl
  all_goals exact vectorResult_of_exec fun _ => rfl

end Sys2Proof.Cert
end

section
/-! Vector accesses (R322-R327): what the loads and stores of slot 5 are at issue. -/

namespace Sys2Proof.Machine

/-- A read of elements that passes its checks changes the tags of plates, and what is noted of them, alone. -/
theorem Core.readElems_frame {c k : Core} {e : BitVec 4} {offs : List Nat} {len align layout : Nat}
    (reads : c.readElems e offs len align layout = .ok k) : ∃ tags noted, k = { c with plates := tags, checkedNow := noted } := by
  simp only [Core.readElems] at reads
  split at reads
  · cases reads
  · split at reads
    · cases reads
    · split at reads
      · cases reads
      · exact Core.readPlates_frame reads

end Sys2Proof.Machine

namespace Sys2Proof.Cert

open Sys2Proof.Machine

section
variable {i : Instr} {s : State} (hi : Issues i s) {v : BitVec 5} {e : BitVec 4}
include hi

/-! ## Loads of one access (R324, R327) -/

section
variable {off len align layout : Nat} (lat : Nat) (f : List Byte → Vec)

theorem loadWhole_refused {x : Cause × Option Word} (fails : s.core.readElems e [off] len align layout = .error x) :
    s.loadWhole i v e off len align layout lat f = faulted s 5 x.1 x.2 :=
  hi.runCore_eq (by simp only [fails]; rfl)

variable {k : Core} (reads : s.core.readElems e [off] len align layout = .ok k)
include reads

theorem loadWhole_free (free : k.busyBank false k.ccy (distinct ((physRange layout off len).map bankOf)) = none) :
    s.loadWhole i v e off len align layout lat f =
      later (withCore s (k.usePort .S 5 k.ccy k.ccy false (distinct ((physRange layout off len).map bankOf)))) 5 lat
        (.vreg v (f (s.core.lclAt (physRange layout off len)))) := by
  obtain ⟨tags, noted, rfl⟩ := Core.readElems_frame reads
  exact hi.runCore_eq (by simp only [reads, Core.portS_free free]; rfl)

theorem loadWhole_held {b : Nat} (held : k.busyBank false k.ccy (distinct ((physRange layout off len).map bankOf)) = some b) :
    s.loadWhole i v e off len align layout lat f = lateFault s k 5 k.ccy .portCollision (some (portTval .S b)) := by
  obtain ⟨tags, noted, rfl⟩ := Core.readElems_frame reads
  exact hi.runCore_eq (by simp only [reads, Core.portS_held held]; rfl)

end

/-! ## Loads by a sweep (R325, R326) -/

section
variable {offs : List Nat} {len layout : Nat} (lat : Nat)

theorem loadSweep_refused {x : Cause × Option Word} (fails : s.core.readElems e offs len len layout = .error x) :
    s.loadSweep i v e offs len layout lat = faulted s 5 x.1 x.2 :=
  hi.runCore_eq (by simp only [fails]; rfl)

theorem loadSweep_sweeps {k : Core} (reads : s.core.readElems e offs len len layout = .ok k) :
    s.loadSweep i v e offs len layout lat = withCore s (k.sweep true 5 s.core.ccy
      (offs.zipIdx.map fun p => (p.2, physRange layout p.1 len)) fun t xs d => d.at' 5 t (.sweepRead v len xs (s.core.ccy + lat))) :=
  hi.runCore_eq (by simp only [reads])

end
end

/-- Settles O21: `vld` and `vldb` are `State.loadWhole`, `vlds` and `vgath` are `State.loadSweep`. -/
theorem vectorLoads : Obligations.VectorLoads := by
  unfold Obligations.VectorLoads
  intro s v b x l z i j
  exact ⟨fun k hi reads free => congrArg _ (loadWhole_free hi _ _ reads free), fun k b hi reads held => congrArg _ (loadWhole_held hi _ _ reads held),
    fun k b hi reads held => congrArg _ (loadWhole_held hi _ _ reads held), fun e f hi fails => congrArg _ (loadWhole_refused hi _ _ fails),
    fun e f hi fails => congrArg _ (loadWhole_refused hi _ _ fails), fun e f hi fails => congrArg _ (loadSweep_refused hi _ fails),
    fun e f hi fails => congrArg _ (loadSweep_refused hi _ fails), fun k hi reads free => congrArg _ (loadWhole_free hi _ _ reads free),
    fun k hi reads => congrArg _ (loadSweep_sweeps hi _ reads), fun k hi reads => congrArg _ (loadSweep_sweeps hi _ reads)⟩

/-! ## Stores (R323-R326) -/

/-- Settles O22: each store is `State.storeElems` on the elements of its register. -/
theorem vectorStoresAreElementStores : Obligations.VectorStoresAreElementStores := by
  unfold Obligations.VectorStoresAreElementStores
  intro s v b e x l z g m i
  exact ⟨fun hi => hi.next rfl rfl, fun hi => hi.next rfl rfl, fun hi => hi.next rfl rfl⟩

end Sys2Proof.Cert
end

section
/-! Tile accesses (R153-R156, R328-R332): the claim, the checks against the shape, and the access that follows them. -/

namespace Sys2Proof.Machine

/-! ## Claims (R156, R396) -/

theorem Core.ownTile_frame (c : Core) (k : Nat) : ∃ valid owner, c.ownTile k = { c with r := { c.r with valid := valid, owner := owner } } := by
  unfold Core.ownTile
  split
  · exact ⟨_, _, rfl⟩
  · exact ⟨_, _, rfl⟩

/-- The core with a tile claimed for the access eight core cycles on. -/
def Core.claimed (c : Core) (k : Nat) : Core :=
  { c with r := { c.r with claimed := c.r.claimed ||| (1 <<< k) }, claims := SMap.put 0 k (c.ccy + 8) c.claims }

/-- A claim finds the tile claimed, or claims it, and asks for a hold where the tile has to move, with undo entries where it is saved first. -/
theorem Core.claim_cases {c k : Core} {t : BitVec 3} {p : Nat} (claims : c.claim t = .ok (p, k)) :
    (p = max c.ccy (SMap.get 0 t.toNat c.claims) ∧ k = c.ownTile t.toNat) ∨ (p = c.ccy + 8 ∧ k = c.claimed t.toNat) ∨
      p = c.ccy + 8 ∧ ∃ rows d cond fin, (c.claimed t.toNat).reserve rows = .ok d ∧ k = d.requestHold cond fin := by
  simp only [Core.claim] at claims
  split at claims
  case isTrue =>
    obtain ⟨rfl, rfl⟩ := Prod.mk.inj (Except.ok.inj claims)
    exact .inl ⟨rfl, rfl⟩
  case isFalse =>
    generalize (if c.inHandler then _ else _ : Bool) = moves at claims
    cases moves with
    | false =>
      obtain ⟨rfl, rfl⟩ := Prod.mk.inj (Except.ok.inj claims)
      exact .inr (.inl ⟨rfl, rfl⟩)
    | true =>
      split at claims
      case isTrue h => cases h
      case isFalse =>
        split at claims
        case h_1 => cases claims
        case h_2 d room =>
          obtain ⟨rfl, rfl⟩ := Prod.mk.inj (Except.ok.inj claims)
          exact .inr (.inr ⟨rfl, _, d, _, _, room, rfl⟩)

/-- A claim notes which tiles are claimed and owned, when they perform, undo entries and a hold, and leaves all else of the core. -/
theorem Core.claim_frame {c k : Core} {t : BitVec 3} {p : Nat} (claims : c.claim t = .ok (p, k)) :
    ∃ claimed valid owner times reserved holds, k = { c with
      r := { c.r with claimed := claimed, valid := valid, owner := owner }, claims := times, reserved := reserved, holds := holds } := by
  rcases Core.claim_cases claims with ⟨-, rfl⟩ | ⟨-, rfl⟩ | ⟨-, rows, d, cond, fin, room, rfl⟩
  · obtain ⟨valid, owner, owned⟩ := c.ownTile_frame t.toNat
    exact ⟨_, valid, owner, _, _, _, owned⟩
  · exact ⟨_, _, _, _, _, _, rfl⟩
  · obtain ⟨reserved, rfl⟩ := Core.reserve_frame room
    exact ⟨_, _, _, _, _, _, rfl⟩

/-- The performance point of an access: at once, eight core cycles on, or that of the access that claimed the tile. -/
theorem Core.claim_point {c k : Core} {t : BitVec 3} {p : Nat} (claims : c.claim t = .ok (p, k)) :
    p = c.ccy ∨ p = c.ccy + 8 ∨ p = SMap.get 0 t.toNat c.claims := by
  rcases Core.claim_cases claims with ⟨rfl, -⟩ | ⟨later, -⟩ | ⟨later, -⟩
  · exact (max_choice c.ccy (SMap.get 0 t.toNat c.claims)).imp_right .inr
  · exact .inr (.inl later)
  · exact .inr (.inl later)

section
variable {c : Core} {t : BitVec 3} (f : Nat → Core → Core)

theorem Core.onTile_full {row : Nat} (full : c.claim t = .error row) : c.onTile t f = c.undoFull 5 row := by
  simp only [Core.onTile, full]

theorem Core.onTile_claimed {p : Nat} {k : Core} (claims : c.claim t = .ok (p, k)) : c.onTile t f = f p k := by
  simp only [Core.onTile, claims]

end

/-! ## Checks against the shape (R328) -/

/-- An access that names one index, under the limit of its kind. -/
def Core.onIndex (c : Core) (t : BitVec 3) (idx : Nat) (limit : Option Nat) (f : Nat → Core → Core) : Core :=
  if !c.tileConf t then c.raise 5 .tileUnconfig (tileTval t idx)
  else if limit.any (· ≤ idx) then c.raise 5 .tileShape (tileTval t idx)
  else c.onTile t f

section
variable (c : Core) (t : BitVec 3) (idx : Nat) (f : Nat → Core → Core)

theorem Core.onShape_row : c.onShape t (some idx) none f = c.onIndex t idx (some (c.tileRows t)) f := by
  by_cases outside : c.tileRows t ≤ idx
  · simp [Core.onShape, Core.onIndex, Option.filter, outside]
  · simp [Core.onShape, Core.onIndex, Option.filter, outside]

theorem Core.onShape_col : c.onShape t none (some idx) f = c.onIndex t idx (some (c.tileCols t)) f := by
  by_cases outside : c.tileCols t ≤ idx
  · simp [Core.onShape, Core.onIndex, Option.filter, outside]
  · simp [Core.onShape, Core.onIndex, Option.filter, outside]

theorem Core.onShape_whole : c.onShape t none none f = c.onIndex t 0 none f := by
  simp [Core.onShape, Core.onIndex]

end

end Sys2Proof.Machine

namespace Sys2Proof.Cert

open Sys2Proof.Machine

/-! ## Moves between tiles and vectors (R328-R331) -/

/-- What an instruction makes of its core, told in another way. -/
theorem becomes_core {o : Host.Outcome State Fault Refusal} {s : State} {c d : Core} (acts : o = .next (withCore s c)) (same : c = d) :
    o = .next (withCore s d) :=
  same ▸ acts

/-- Every instruction whose meaning is an access under the limit of its index moves as R328 and R331 say. -/
theorem tileMove_of_exec {i : Instr} {t : BitVec 3} {idx : Nat} {limit : Core → Option Nat} {op : Core → TileOp}
    (shape : Core → (Nat → Core → Core) → Core) (checks : ∀ c f, shape c f = c.onIndex t idx (limit c) f)
    (meaning : ∀ s, exec i s = .next (s.run i fun s => s.upd fun c => shape c fun p k => k.at' 5 p (.tile (op k) (s.lat 21)))) :
    TileMove i t idx limit op := by
  intro s hi
  have acts : exec i s = .next (withCore s (s.core.onIndex t idx (limit s.core) fun p k => k.at' 5 p (.tile (op k) (s.lat 21)))) :=
    hi.next (meaning s) (congrArg (withCore s) (checks s.core _))
  refine ⟨fun unset => ?unset, fun n conf limited outside => ?outside, fun conf inside => ?inside⟩
  case unset => exact becomes_core acts (if_pos (by rw [unset]; rfl))
  case outside =>
    refine becomes_core acts ((if_neg (by rw [conf]; decide)).trans (if_pos ?_))
    rw [limited]
    exact decide_eq_true outside
  case inside =>
    have passes := becomes_core acts ((if_neg (by rw [conf]; decide)).trans (if_neg (c := (limit s.core).any (· ≤ idx) = true) ?within))
    case within =>
      cases limited : limit s.core with
      | none => exact Bool.false_ne_true
      | some n => simpa using inside n limited
    exact ⟨fun row full => becomes_core passes (Core.onTile_full _ full), fun p k claims => becomes_core passes (Core.onTile_claimed _ claims)⟩

/-- Settles O24: each move is an access under its limit, and a claim leaves the shapes and the vectors. -/
theorem tileAccesses : Obligations.TileAccesses := by
  unfold Obligations.TileAccesses
  intro t v i h b
  refine ⟨fun s hi => hi.next_core rfl rfl,
    tileMove_of_exec (·.onShape t (some i.toNat) none) (fun c f => c.onShape_row t i.toNat f) fun _ => rfl,
    tileMove_of_exec (·.onShape t none (some i.toNat)) (fun c f => c.onShape_col t i.toNat f) fun _ => rfl,
    tileMove_of_exec (·.onShape t (some i.toNat) none) (fun c f => c.onShape_row t i.toNat f) fun _ => rfl,
    tileMove_of_exec (·.onShape t none (some i.toNat)) (fun c f => c.onShape_col t i.toNat f) fun _ => rfl,
    tileMove_of_exec (·.onShape t none none) (fun c f => c.onShape_whole t f) fun _ => rfl, fun c k p claims => ?claim⟩
  case claim =>
    obtain ⟨claimed, valid, owner, times, reserved, holds, rfl⟩ := Core.claim_frame claims
    exact ⟨rfl, Core.claim_point claims, rfl, rfl, rfl, rfl⟩

end Sys2Proof.Cert
end

section
/-! Tile transfers (R330, R332): accesses between a tile and `lcl`, or an extent. -/

namespace Sys2Proof.Machine

theorem Core.reserve_nil (c : Core) : c.reserve [] = .ok c := by
  unfold Core.reserve
  split
  · rfl
  · simp [distinct]

/-- An access between a tile and `lcl` whose checks have passed: its undo rows, its claim, and port S n core cycles after its performance
point. -/
def Core.tileAccess (c : Core) (t : BitVec 3) (rows : List Nat) (n lat : Nat) (places : List Nat) (op : TileOp) : Core :=
  match c.reserve rows with
  | .error row => c.undoFull 5 row
  | .ok c => c.onTile t fun p c => c.portS 5 (p + n) places fun c => c.at' 5 p (.tile op lat)

theorem Core.tileStore_eq_access (c : Core) (t : BitVec 3) (lat : Nat) (places : List Nat) (op : TileOp) :
    c.tileStore t lat places op = c.tileAccess t (places.map rowOf) lat lat places op := by
  unfold Core.tileStore Core.tileAccess
  cases c.reserve (places.map rowOf) <;> rfl

theorem Core.tileLoad_eq_access (c : Core) (t : BitVec 3) (lat : Nat) (places : List Nat) (op : TileOp) :
    (c.onTile t fun p c => c.portS 5 p places fun c => c.at' 5 p (.tile op lat)) = c.tileAccess t [] 0 lat places op := by
  simp only [Core.tileAccess, c.reserve_nil, Nat.add_zero]

/-- The checks of an access of n bytes on 128 that no layout and no extent may serve, and then what it does with their offsets. -/
def Core.whole (c : Core) (e : BitVec 4) (off n : Nat) (a : AccessKind) (hidden : Cause) (f : Core → List Nat → Core) : Core :=
  match c.elemFault e [off] n 128 a acceptNone with
  | some f => c.raiseF 5 f
  | none =>
    match c.sealedOff (offsets off n) with
    | some o => c.raise 5 hidden (some (BitVec.ofNat 64 o))
    | none => f c (offsets off n)

section
variable {c : Core} {e : BitVec 4} {off n : Nat} {a : AccessKind} {hidden : Cause} {f : Core → List Nat → Core}

theorem Core.whole_refused {x : Cause × Option Word} (fails : c.elemFault e [off] n 128 a acceptNone = some x) :
    c.whole e off n a hidden f = c.raiseF 5 x := by
  simp only [Core.whole, fails]

variable (passes : c.elemFault e [off] n 128 a acceptNone = none)
include passes

theorem Core.whole_sealed {o : Nat} (hides : c.sealedOff (offsets off n) = some o) :
    c.whole e off n a hidden f = c.raise 5 hidden (some (BitVec.ofNat 64 o)) := by
  simp only [Core.whole, passes, hides]

theorem Core.whole_open (plain : c.sealedOff (offsets off n) = none) : c.whole e off n a hidden f = f c (offsets off n) := by
  simp only [Core.whole, passes, plain]

end

end Sys2Proof.Machine

namespace Sys2Proof.Cert

open Sys2Proof.Machine

/-- An instruction that has come to its access does what `TileLcl` says. -/
theorem tileLcl_of_access {i : Instr} {s : State} {t : BitVec 3} {rows : List Nat} {n : Nat} {places : List Nat} {op : TileOp}
    (acts : exec i s = .next (withCore s (s.core.tileAccess t rows n (s.lat 22) places op))) : TileLcl i s t rows n places op := by
  refine ⟨fun row full => becomes_core acts (by simp only [Core.tileAccess, full]; rfl), fun r room => ?_⟩
  have reserved := becomes_core acts (d := r.onTile t fun p c => c.portS 5 (p + n) places fun c => c.at' 5 p (.tile op (s.lat 22)))
    (by simp only [Core.tileAccess, room])
  refine ⟨fun row full => becomes_core reserved (Core.onTile_full _ full), fun p k claims => ?_⟩
  have claimed := becomes_core reserved (Core.onTile_claimed _ claims)
  exact ⟨fun free => becomes_core claimed (Core.portS_free free _ _), fun b held => becomes_core claimed (Core.portS_held held _ _)⟩

section
variable {s : State} {t : BitVec 3} {x : BitVec 6}

/-! ## Saves and restores (R332) -/

section
variable {e : BitVec 4} (hi : Issues (.tsave t e x) s)
include hi

/-- The length of a saved tile, 1,024, is a variable here for the case split that tells the two sides equal. -/
theorem tsave_eq {n : Nat} (len : 1024 = n) : exec (.tsave t e x) s =
    .next (withCore s (s.core.whole e (s.core.sreg x).toNat n .store .sealedCopy fun c places =>
      c.tileStore t (s.lat 22) places (.save t (s.core.sreg x).toNat))) := by
  change execTsave t e x s = _
  rw [execTsave, len]
  exact congrArg _ (hi.runCore_eq rfl)

theorem tsave_refused {f : Cause × Option Word}
    (fails : s.core.elemFault e [(s.core.sreg x).toNat] 1024 128 .store acceptNone = some f) :
    exec (.tsave t e x) s = .next (faulted s 5 f.1 f.2) :=
  becomes_core (tsave_eq hi rfl) (Core.whole_refused fails)

variable (passes : s.core.elemFault e [(s.core.sreg x).toNat] 1024 128 .store acceptNone = none)
include passes

theorem tsave_sealed {o : Nat} (hidden : s.core.sealedOff (offsets (s.core.sreg x).toNat 1024) = some o) :
    exec (.tsave t e x) s = .next (faulted s 5 .sealedCopy (some (BitVec.ofNat 64 o))) :=
  becomes_core (tsave_eq hi rfl) (Core.whole_sealed passes hidden)

theorem tsave_access (plain : s.core.sealedOff (offsets (s.core.sreg x).toNat 1024) = none) :
    exec (.tsave t e x) s = .next (withCore s (s.core.tileAccess t ((offsets (s.core.sreg x).toNat 1024).map rowOf) (s.lat 22) (s.lat 22)
      (offsets (s.core.sreg x).toNat 1024) (.save t (s.core.sreg x).toNat))) :=
  becomes_core (tsave_eq hi rfl) ((Core.whole_open passes plain).trans (Core.tileStore_eq_access ..))

end

section
variable {e : BitVec 4} (hi : Issues (.trest t e x) s)
include hi

theorem trest_eq {n : Nat} (len : 1024 = n) : exec (.trest t e x) s =
    .next (withCore s (s.core.whole e (s.core.sreg x).toNat n .load .sealedLoad fun c places =>
      c.onTile t fun p c => c.portS 5 p places fun c => c.at' 5 p (.tile (.restore t (s.core.sreg x).toNat) (s.lat 22)))) := by
  change execTrest t e x s = _
  rw [execTrest, len]
  exact congrArg _ (hi.runCore_eq rfl)

theorem trest_refused {f : Cause × Option Word}
    (fails : s.core.elemFault e [(s.core.sreg x).toNat] 1024 128 .load acceptNone = some f) :
    exec (.trest t e x) s = .next (faulted s 5 f.1 f.2) :=
  becomes_core (trest_eq hi rfl) (Core.whole_refused fails)

variable (passes : s.core.elemFault e [(s.core.sreg x).toNat] 1024 128 .load acceptNone = none)
include passes

theorem trest_sealed {o : Nat} (hidden : s.core.sealedOff (offsets (s.core.sreg x).toNat 1024) = some o) :
    exec (.trest t e x) s = .next (faulted s 5 .sealedLoad (some (BitVec.ofNat 64 o))) :=
  becomes_core (trest_eq hi rfl) (Core.whole_sealed passes hidden)

theorem trest_access (plain : s.core.sealedOff (offsets (s.core.sreg x).toNat 1024) = none) :
    exec (.trest t e x) s = .next (withCore s (s.core.tileAccess t [] 0 (s.lat 22) (offsets (s.core.sreg x).toNat 1024)
      (.restore t (s.core.sreg x).toNat))) :=
  becomes_core (trest_eq hi rfl) ((Core.whole_open passes plain).trans (Core.tileLoad_eq_access ..))

end

/-! ## Loads (R330) -/

section
variable {e : BitVec 4} {l : BitVec 2} (hi : Issues (.tld t e x l) s)
include hi

theorem tld_unconfigured (unset : s.core.tileConf t = false) :
    exec (.tld t e x l) s = .next (faulted s 5 .tileUnconfig (some (BitVec.ofNat 64 t.toNat))) :=
  hi.next_core rfl (if_pos (by rw [unset]; rfl))

variable (conf : s.core.tileConf t = true)
include conf

theorem tld_refused {f : Cause × Option Word}
    (fails : s.core.elemFault e [(s.core.sreg x).toNat] (s.core.tileLength t) 64 .load acceptNone = some f) :
    exec (.tld t e x l) s = .next (faulted s 5 f.1 f.2) :=
  hi.next_core rfl ((if_neg (by rw [conf]; decide)).trans (by simp only [fails]; rfl))

variable (passes : s.core.elemFault e [(s.core.sreg x).toNat] (s.core.tileLength t) 64 .load acceptNone = none)
include passes

theorem tld_sealed {o : Nat} (hidden : s.core.sealedOff ((s.core.tileOffsets t (s.core.sreg x).toNat).flatMap (·.2)) = some o) :
    exec (.tld t e x l) s = .next (faulted s 5 .sealedLoad (some (BitVec.ofNat 64 o))) :=
  hi.next_core rfl ((if_neg (by rw [conf]; decide)).trans (by simp only [passes, hidden]; rfl))

theorem tld_access (plain : s.core.sealedOff ((s.core.tileOffsets t (s.core.sreg x).toNat).flatMap (·.2)) = none) :
    let rows := placeRows l.toNat (s.core.tileOffsets t (s.core.sreg x).toNat)
    exec (.tld t e x l) s =
      .next (withCore s (s.core.tileAccess t [] 0 (s.lat 22) (rows.flatMap (·.2)) (.load t l.toNat rows))) :=
  hi.next_core rfl ((if_neg (by rw [conf]; decide)).trans (by simp only [passes, plain, Core.tileLoad_eq_access]))

end

/-! ## Stores (R193, R330) -/

section
variable {e : BitVec 4} {l : BitVec 2} (hi : Issues (.tst t e x l) s)
include hi

theorem tst_unconfigured (unset : s.core.tileConf t = false) :
    exec (.tst t e x l) s = .next (faulted s 5 .tileUnconfig (some (BitVec.ofNat 64 t.toNat))) :=
  hi.next rfl (if_pos (by rw [unset]; rfl))

variable (conf : s.core.tileConf t = true)
include conf

theorem tst_refused {f : Cause × Option Word}
    (fails : s.core.elemFault e [(s.core.sreg x).toNat] (s.core.tileLength t) 64 .store acceptStore = some f) :
    exec (.tst t e x l) s = .next (faulted s 5 f.1 f.2) :=
  hi.next rfl ((if_neg (by rw [conf]; decide)).trans (by simp only [fails]; rfl))

variable (passes : s.core.elemFault e [(s.core.sreg x).toNat] (s.core.tileLength t) 64 .store acceptStore = none)
include passes

section
variable (inLcl : e = lclCode)
include inLcl

theorem tst_sealed {o : Nat} (hidden : s.core.sealedOff ((s.core.tileOffsets t (s.core.sreg x).toNat).flatMap (·.2)) = some o) :
    exec (.tst t e x l) s = .next (faulted s 5 .sealedCopy (some (BitVec.ofNat 64 o))) :=
  hi.next rfl ((if_neg (by rw [conf]; decide)).trans (by simp only [passes, if_pos inLcl, hidden]; rfl))

theorem tst_access (plain : s.core.sealedOff ((s.core.tileOffsets t (s.core.sreg x).toNat).flatMap (·.2)) = none) :
    let rows := placeRows l.toNat (s.core.tileOffsets t (s.core.sreg x).toNat)
    exec (.tst t e x l) s = .next (withCore s (s.core.tileAccess t ((rows.flatMap (·.2)).map rowOf) (s.lat 22) (s.lat 22) (rows.flatMap (·.2))
      (.storeLcl t rows))) :=
  hi.next rfl ((if_neg (by rw [conf]; decide)).trans (by
    simp only [passes, if_pos inLcl, plain, Core.tileStore_eq_access]
    rfl))

end

section
variable (outside : e ≠ lclCode) {y : Extent} (declared : s.core.extent e = some y)
include outside declared

theorem tst_layout (swizzled : l ≠ 0) :
    exec (.tst t e x l) s = .next (faulted s 5 .misaligned (some (BitVec.ofNat 64 (s.core.sreg x).toNat))) :=
  hi.next rfl ((if_neg (by rw [conf]; decide)).trans (by simp only [passes, if_neg outside, declared, if_pos swizzled]; rfl))

variable (linear : l = 0)
include linear

theorem tst_extent_sealed (hidden : y.sealed = true) :
    exec (.tst t e x l) s = .next (faulted s 5 .sealedCopy (some (BitVec.ofNat 64 (s.core.sreg x).toNat))) :=
  hi.next rfl ((if_neg (by rw [conf]; decide)).trans (by
    simp only [passes, if_neg outside, declared, if_neg (not_not.mpr linear), if_pos hidden]
    rfl))

variable (plain : y.sealed = false)
include plain

theorem tst_gate_full (full : 64 ≤ s.core.gated.length) : exec (.tst t e x l) s = .next (faulted s 5 .gateBufferFull none) :=
  hi.next rfl ((if_neg (by rw [conf]; decide)).trans (by
    simp only [passes, if_neg outside, declared, if_neg (not_not.mpr linear), plain, Bool.false_eq_true, if_false, if_pos full]
    rfl))

/-- A tile stored to an extent is one gated effect, filled when the access to the tile performs. -/
theorem tst_gated (few : s.core.gated.length < 64) (compute : s.core.isControl = false) : exec (.tst t e x l) s =
    .next (let u := gatedBy s s.core 5 (y.classOf 0x02) 0 1 (.write y.backing (y.key false) [])
      withCore u (u.core.onTile t fun p c => c.at' 5 p (.tile (.storeOut t s.nextFill
        ((s.core.tileOffsets t (s.core.sreg x).toNat).map fun r => (r.1, r.2.map y.address))) 0))) :=
  hi.next rfl ((if_neg (by rw [conf]; decide)).trans (by
    simp only [passes, if_neg outside, declared, if_neg (not_not.mpr linear), plain, Bool.false_eq_true, if_false,
      if_neg (Nat.not_le.mpr few), gate_eq_gatedBy compute few]
    rfl))

end
end
end

/-- Settles O25: each transfer is its checks in their order, and then one access to its tile. -/
theorem tileTransfers : Obligations.TileTransfers := by
  unfold Obligations.TileTransfers
  intro s t e x l off rows places
  refine ⟨fun unset => ⟨fun hi => tld_unconfigured hi unset, fun hi => tst_unconfigured hi unset⟩, fun hi conf => ?tld, fun hi conf => ?tst,
    fun hi => ?tsave, fun hi => ?trest⟩
  case tld =>
    exact ⟨fun f fails => tld_refused hi conf fails, fun passes => ⟨fun o hidden => tld_sealed hi conf passes hidden,
      fun plain => tileLcl_of_access (tld_access hi conf passes plain)⟩⟩
  case tst =>
    refine ⟨fun f fails => tst_refused hi conf fails, fun passes => ⟨fun o inLcl hidden => tst_sealed hi conf passes inLcl hidden,
      fun inLcl plain => tileLcl_of_access (tst_access hi conf passes inLcl plain), fun y outside declared =>
        ⟨fun swizzled => tst_layout hi conf passes outside declared swizzled,
          fun linear hidden => tst_extent_sealed hi conf passes outside declared linear hidden,
          fun linear plain full => tst_gate_full hi conf passes outside declared linear plain full,
          fun row linear plain few compute full => ?undo, fun p k linear plain few compute claims => ?held⟩⟩⟩
    case undo => exact becomes_core (tst_gated hi conf passes outside declared linear plain few compute) (Core.onTile_full _ full)
    case held => exact becomes_core (tst_gated hi conf passes outside declared linear plain few compute) (Core.onTile_claimed _ claims)
  case tsave =>
    exact ⟨fun f fails => tsave_refused hi fails, fun passes => ⟨fun o hidden => tsave_sealed hi passes hidden,
      fun plain => tileLcl_of_access (tsave_access hi passes plain)⟩⟩
  case trest =>
    exact ⟨fun f fails => trest_refused hi fails, fun passes => ⟨fun o hidden => trest_sealed hi passes hidden,
      fun plain => tileLcl_of_access (trest_access hi passes plain)⟩⟩


/-- A read of a byte of the first word of a tile meets the bad word that stands there. -/
theorem badTile_first {c : Core} {t : BitVec 3} {bytes : List Nat} (bad : c.bad = [.register (.tile t 0) 0]) (reads : 0 ∈ bytes) :
    c.badTile t bytes = some (.eccReg, some 0) := by
  have meets : bytes.any (fun b => b / 8 == 0) = true := List.any_eq_true.mpr ⟨0, reads, rfl⟩
  simp [Core.badTile, Core.badReg, bad, meets]

/-- A move out of a tile of which it reads a bad word raises ECC_REG and does nothing else. -/
theorem tileNow_rowToVec_bad {c : Core} {t : BitVec 3} {pairs : List (Nat × Nat)} {f : Cause × Option Word}
    (bad : c.badTile t (pairs.map (·.2)) = some f) (l : Late) (lat : Nat) (v : BitVec 5) :
    c.tileNow l lat (.rowToVec v t pairs) = { c with faults := c.faults ++ [⟨f.1, f.2, l.slot, l.pc⟩] } := by
  change c.unless l (c.badTile t (pairs.map (·.2))) _ = _
  rw [bad]
  rfl

/-- The focal core at reset with an error that is not corrected in the first word of tile 0. -/
def badTileWord : Core := { State.reset.core with bad := [.register (.tile 0 0) 0] }

theorem badTileWord_reads : 0 ∈ (badTileWord.rowPairs 0 0 0).map (·.2) := by
  simp [Core.rowPairs, elemPairs]
  decide

/-- Refutes O26: the statement has no condition on the words of the row, where one that is bad makes the model raise ECC_REG (R163) and write no
vector. -/
theorem not_tileRowsReachVectors : ¬ Obligations.TileRowsReachVectors := by
  unfold Obligations.TileRowsReachVectors
  intro claims
  obtain ⟨x, claimed, -⟩ := claims badTileWord ⟨8, 0, 5, 0, .raise ⟨.eccReg, none, 5, 0⟩⟩ 1 0 0 0 0 (by decide) (by decide)
  have model := tileNow_rowToVec_bad (badTile_first (c := badTileWord) rfl badTileWord_reads) ⟨8, 0, 5, 0, .raise ⟨.eccReg, none, 5, 0⟩⟩ 1 0
  have late := congrArg Core.late (model.symm.trans claimed)
  exact List.append_ne_nil_of_right_ne_nil _ (List.cons_ne_nil _ _) late.symm

end Sys2Proof.Cert
end

section
/-! The matrix engine (R333-R357): what its instructions make of their core, and the one that reads its descriptor from a held bank. -/

namespace Sys2Proof.Machine

/-- Each accumulator bank after some are zeroed. -/
theorem Engine.bank_of_filter {g h : Engine} {p : Nat → Bool} (acc : g.acc = h.acc.filter fun x => !p (x.1 / 4096)) (b : Nat) :
    g.bank b = if p b then [] else h.bank b := by
  rw [Engine.bank, Engine.bank, acc, List.filter_filter]
  split
  case isTrue zeroed =>
    refine List.map_eq_nil_iff.mpr (List.filter_eq_nil_iff.mpr fun x _ both => ?_)
    obtain ⟨inBank, kept⟩ := Bool.and_eq_true_iff.mp both
    rw [eq_of_beq inBank, zeroed] at kept
    cases kept
  case isFalse kept =>
    refine congrArg _ (List.filter_congr fun x _ => ?_)
    by_cases inBank : x.1 / 4096 = b
    · simp [inBank, kept]
    · simp [inBank]

end Sys2Proof.Machine

namespace Sys2Proof.Cert

open Sys2Proof.Machine

section
variable {i : Instr} {s : State} (hi : Issues i s) (active : s.core.nestSuspended = false) {f : State → Core → Core}
  (meaning : exec i s = .next (s.matrixOp i f))
include hi active meaning

/-- A slot-6 instruction leaves the state with what it makes of the core at it. -/
theorem Issues.matrix_next {c : Core} (becomes : f s s.core.matrixUse = c) : exec i s = .next (withCore s c) :=
  meaning.trans (congrArg _ ((hi.matrixOp_eq active f).trans (congrArg _ becomes)))

end

/-! ## A descriptor in a held bank (R158, R348) -/

/-- A core that reads a descriptor from a held bank raises PORT_COLLISION, and no plate counts as checked. -/
theorem mspar_collides {s : State} {a : BitVec 6} {k : Core} {b : Nat} (hi : Issues (.mspar a) s) (active : s.core.nestSuspended = false)
    (reads : s.core.matrixUse.lclRead (s.core.matrixUse.sreg a).toNat 8 8 none .sealedLoad = .ok k)
    (held : k.heldM k.ccy (offsets (s.core.matrixUse.sreg a).toNat 8) = some b) :
    exec (.mspar a) s = .next (faulted (inMatrix s) 6 .portCollision (some (portTval .M b))) :=
  hi.matrix_next active rfl (by simp only [Core.readDescriptor, reads, held]; rfl)

/-- A strand whose register s2 points to a plate that is not yet checked, of which an atomic holds the first bank. -/
def blockedDescriptor : State := withCore State.reset { Core.fresh 0 .running .task (ArchRegs.reset.setS 2 0x7F000) 0 with
  windows := [(0, 0)]
  plates := [(127, { PlateTag.reset with checked := false })] }

/-- Refutes O27: where the bank of a descriptor is held, the statement has the plates of the descriptor checked, where the model leaves the core
as it was before the read (`mspar_collides`). -/
theorem not_matrixTables : ¬ Obligations.MatrixTables := by
  unfold Obligations.MatrixTables
  intro claims
  obtain ⟨-, descriptors⟩ := claims
  have issues : Issues (.mspar 2) blockedDescriptor := by
    unfold Issues
    decide
  obtain ⟨k, reads, held, noted⟩ : ∃ k : Core, blockedDescriptor.core.matrixUse.lclRead 0x7F000 8 8 none .sealedLoad = .ok k ∧
      k.heldM k.ccy (offsets 0x7F000 8) = some 0 ∧ k.checkedNow = [127] := ⟨_, rfl, by decide, by decide⟩
  have model := mspar_collides issues (by decide) reads held
  have claimed := ((descriptors 2).1 blockedDescriptor issues (by decide)).2 k reads |>.1 0 held
  have checks : [] = k.checkedNow := congrArg (fun t : State => t.core.checkedNow) (Host.Outcome.next.inj (model.symm.trans claimed))
  exact absurd (checks.trans noted) (by decide)

/-! ## The engine at work (R342, R351-R355) -/

section
variable {s : State} (active : s.core.nestSuspended = false)
include active

/-! ### Starting a nest -/

section
variable {b : BitVec 1} (hi : Issues (.mgo b) s)
include hi

theorem mgo_refused {f : Cause × Option Word} (fails : s.core.matrixUse.mgoFault b.toNat (s.lat 24) = some f) :
    exec (.mgo b) s = .next (faulted (inMatrix s) 6 f.1 f.2) :=
  hi.matrix_next active rfl (by simp only [fails]; rfl)

variable (passes : s.core.matrixUse.mgoFault b.toNat (s.lat 24) = none)
include passes

theorem mgo_eq : exec (.mgo b) s = .next (withCore s
    (let d := { s.core.matrixUse with
      eng := { s.core.matrixUse.eng with nest := some (openedNest s.core.matrixUse b (s.lat 24)), carry := [] } }
    if s.core.matrixUse.ccy + s.lat 24 = s.core.matrixUse.ccy then s.nestStep d (openedNest s.core.matrixUse b (s.lat 24)) else d)) :=
  hi.matrix_next active rfl (by simp only [passes]; rfl)

theorem mgo_waits (later : s.lat 24 ≠ 0) : exec (.mgo b) s = .next (withCore s { s.core.matrixUse with
    eng := { s.core.matrixUse.eng with nest := some (openedNest s.core.matrixUse b (s.lat 24)), carry := [] } }) := by
  rw [mgo_eq active hi passes]
  exact congrArg _ (congrArg _ (if_neg (by omega)))

theorem mgo_steps (now : s.lat 24 = 0) : exec (.mgo b) s = .next (withCore s (s.nestStep { s.core.matrixUse with
    eng := { s.core.matrixUse.eng with nest := some (openedNest s.core.matrixUse b (s.lat 24)), carry := [] } }
    (openedNest s.core.matrixUse b (s.lat 24)))) := by
  rw [mgo_eq active hi passes]
  exact congrArg _ (congrArg _ (if_pos (by omega)))

end

/-! ### Accumulators -/

section
variable {c : BitVec 2} {r a : BitVec 6} {f : BitVec 3} {g : BitVec 1} (hi : Issues (.macc c r a f g) s)
include hi

theorem macc_refused {z : Cause × Option Word} (fails : s.core.matrixUse.lclWriteFault (s.core.matrixUse.sreg a).toNat
    (64 * outBytes f.toNat) (min (64 * outBytes f.toNat) 128) = some z) :
    exec (.macc c r a f g) s = .next (faulted (inMatrix s) 6 z.1 z.2) :=
  hi.matrix_next active rfl (by simp only [fails]; rfl)

variable {k : Core} (passes : s.core.matrixUse.lclWriteFault (s.core.matrixUse.sreg a).toNat (64 * outBytes f.toNat)
    (min (64 * outBytes f.toNat) 128) = none)
  (room : s.core.matrixUse.reserve ((offsets (s.core.matrixUse.sreg a).toNat (64 * outBytes f.toNat)).map rowOf) = .ok k)
include passes room

theorem macc_bad {z : Cause × Option Word} (bad : k.badAcc c.toNat (fun i => i / 64 == r.toNat) = some z) :
    exec (.macc c r a f g) s = .next (faulted (withCore s k) 6 z.1 z.2) :=
  hi.matrix_next active rfl (by simp only [passes, room, bad]; rfl)

theorem macc_writes (sound : k.badAcc c.toNat (fun i => i / 64 == r.toNat) = none) :
    let out := convertRow (k.eng.bank c.toNat) 0 (k.eng.int32.getLsbD c.toNat) f.toNat (g == 1) k.r.tree r.toNat
    exec (.macc c r a f g) s = .next (later (later (withCore s k) 6 (s.lat 23)
      (.store .M (cellsAt (s.core.matrixUse.sreg a).toNat out.1))) 6 (s.lat 23) (.events out.2)) :=
  hi.matrix_next active rfl (by simp only [passes, room, sound]; rfl)

end

section
variable {a : BitVec 4} (hi : Issues (.mzero a) s)
include hi

theorem mzero_refused (held : a &&& s.core.matrixUse.heldBanks ≠ 0) :
    exec (.mzero a) s = .next (faulted (inMatrix s) 6 .mxNest (some (BitVec.ofNat 64 (8 + 256 * a.toNat)))) :=
  hi.matrix_next active rfl (if_pos held)

theorem mzero_clears (free : a &&& s.core.matrixUse.heldBanks = 0) :
    exec (.mzero a) s = .next (withCore s (s.core.matrixUse.zeroBanks a.getLsbD)) :=
  hi.matrix_next active rfl (if_neg (not_not.mpr free))

end

/-! ### Retirement -/

section
variable {c : BitVec 2} {a : BitVec 6} {f : BitVec 3} {g : BitVec 1} (hi : Issues (.mret c a f g) s)
include hi

theorem mret_refused {z : Cause × Option Word}
    (fails : s.core.matrixUse.lclWriteFault (s.core.matrixUse.sreg a).toNat (4096 * outBytes f.toNat) 128 = some z) :
    exec (.mret c a f g) s = .next (faulted (inMatrix s) 6 z.1 z.2) :=
  hi.matrix_next active rfl (by simp only [fails]; rfl)

variable (passes : s.core.matrixUse.lclWriteFault (s.core.matrixUse.sreg a).toNat (4096 * outBytes f.toNat) 128 = none)
include passes

theorem mret_busy (busy : s.core.matrixUse.eng.nest ≠ none ∨ s.core.matrixUse.retiring = true) :
    exec (.mret c a f g) s = .next (faulted (inMatrix s) 6 .mxNest (some (BitVec.ofNat 64 (8 + 256 * 2 ^ c.toNat)))) := by
  have either : (s.core.matrixUse.eng.nest.isSome || s.core.matrixUse.retiring) = true := by
    rw [Bool.or_eq_true, Option.isSome_iff_ne_none]
    exact busy
  exact hi.matrix_next active rfl (by simp only [passes, if_pos either]; rfl)

theorem mret_retires (closed : s.core.matrixUse.eng.nest = none) (free : s.core.matrixUse.retiring = false) :
    exec (.mret c a f g) s = .next (withCore s (s.core.matrixUse.retire 6 s.core.matrixUse.ccy s.core.matrixUse.pc c.toNat f (g == 1)
      (s.core.matrixUse.sreg a).toNat 0 (s.lat 23))) := by
  have neither : ¬ (s.core.matrixUse.eng.nest.isSome || s.core.matrixUse.retiring) = true := by
    rw [closed, free]
    exact Bool.false_ne_true
  exact hi.matrix_next active rfl (by simp only [passes, if_neg neither])

end
end

/-! ### Status -/

section
variable {s : State} {a : BitVec 6} (hi : Issues (.mstat a) s)
include hi

theorem mstat_refused {z : Cause × Option Word} (fails : s.core.matrixUse.lclWriteFault (s.core.matrixUse.sreg a).toNat 64 64 = some z) :
    exec (.mstat a) s = .next (faulted (inMatrix s) 6 z.1 z.2) :=
  hi.next_core rfl (by simp only [fails]; rfl)

theorem mstat_writes {k : Core} (passes : s.core.matrixUse.lclWriteFault (s.core.matrixUse.sreg a).toNat 64 64 = none)
    (room : s.core.matrixUse.reserve [rowOf (s.core.matrixUse.sreg a).toNat] = .ok k) :
    exec (.mstat a) s = .next (later (withCore s k) 6 (s.lat 23) (.store .M (cellsAt (s.core.matrixUse.sreg a).toNat k.engineStatus))) :=
  hi.next_core rfl (by simp only [passes, room]; rfl)

end

/-- Settles O28: each instruction of the engine case by case; a zeroed bank has no elements, and the others theirs. -/
theorem matrixEngine : Obligations.MatrixEngine := by
  unfold Obligations.MatrixEngine
  intro s active m
  refine ⟨fun b hi passes later => mgo_waits active hi passes later, fun b hi passes now => mgo_steps active hi passes now,
    fun b f hi fails => mgo_refused active hi fails, fun c r a f g hi => ?macc, fun a hi free => ?mzero,
    fun a hi held => mzero_refused active hi held, fun c a f g hi => ?mret, fun a k hi passes room => mstat_writes hi passes room,
    fun a z hi fails => mstat_refused hi fails⟩
  case macc =>
    exact ⟨fun z fails => macc_refused active hi fails, fun k passes room =>
      ⟨fun z bad => macc_bad active hi passes room bad, fun sound => macc_writes active hi passes room sound⟩⟩
  case mzero =>
    obtain ⟨bad, zeroed⟩ := s.core.matrixUse.zeroBanks_eq a.getLsbD
    refine ⟨_, mzero_clears active hi free, ?_, fun b => ?_⟩
    · rw [zeroed]
      rfl
    · rw [Engine.bank_of_filter (h := s.core.matrixUse.eng) (p := a.getLsbD) (by rw [zeroed]) b]
      refine if_congr ⟨fun named => ⟨?_, named⟩, And.right⟩ rfl rfl
      exact BitVec.lt_of_getLsbD named
  case mret =>
    exact ⟨fun z fails => mret_refused active hi fails, fun passes =>
      ⟨fun busy => mret_busy active hi passes busy, fun closed free => mret_retires active hi passes closed free⟩⟩

end Sys2Proof.Cert
end

section
/-! Copies and ring operations: the checks of a copy in their order (R359, R361-R364), and what an operation makes of its slot (R369). -/

namespace Sys2Proof.Machine

/-! ## The checks of a row -/

section
variable {c : Core} {f : CopyForm} {r : CopyRow} {z : Cause × Option Word}

theorem Core.copyRow_of_range (fails : c.copyRange f r = some z) : c.copyRow f r = .error z := by
  simp only [Core.copyRow, fails, List.findSome?_cons]

theorem Core.copyRow_of_sealed (passes : c.copyRange f r = none) (fails : c.copySealed f r = some z) : c.copyRow f r = .error z := by
  simp only [Core.copyRow, passes, fails, List.findSome?_cons]

theorem Core.copyRange_of_extSide (fails : c.extSide f r 1 = some z) : c.copyRange f r = some z := by
  simp only [Core.copyRange, List.findSome?_cons, fails]

variable (ext : c.extSide f r 1 = none)
include ext

theorem Core.copyRange_of_long (long : 524288 < r.len) : c.copyRange f r = some (.extentBound, f.tval r.ext none) := by
  simp only [Core.copyRange, List.findSome?_cons, ext, if_pos long]

variable (short : r.len ≤ 524288)
include short

theorem Core.copyRange_of_lclFault (fails : c.lclFault r.lcl r.len 1 = some z) : c.copyRange f r = some z := by
  simp only [Core.copyRange, List.findSome?_cons, ext, if_neg (Nat.not_lt.mpr short), fails]

theorem Core.copyRange_of_odd (inside : c.lclFault r.lcl r.len 1 = none) (odd : r.len % 16 ≠ 0) :
    c.copyRange f r = some (.misaligned, f.tval r.ext (some r.len)) := by
  simp only [Core.copyRange, List.findSome?_cons, ext, if_neg (Nat.not_lt.mpr short), inside, if_pos odd]

end

theorem Core.copyRows_single (c : Core) (f : CopyForm) (r : CopyRow) : c.copyRows f [r] = c.copyRow f r := by
  simp only [Core.copyRows]
  cases c.copyRow f r <;> rfl

/-! ## Strides -/

/-- An offset with r signed strides added, modulo 2^64. -/
theorem toNat_add_strides (x : Word) (w : BitVec 32) (r : Nat) :
    ((x + w.signExtend 64 * BitVec.ofNat 64 r).toNat : Int) = (x.toNat + r * w.toInt) % 2 ^ 64 := by
  have whole : x + w.signExtend 64 * BitVec.ofNat 64 r = BitVec.ofInt 64 (x.toNat + r * w.toInt) := by
    rw [BitVec.ofInt_add, BitVec.ofInt_mul, BitVec.ofInt_natCast, BitVec.ofInt_natCast, BitVec.ofNat_toNat, BitVec.setWidth_eq, BitVec.mul_comm]
    rfl
  rw [whole, BitVec.toNat_ofInt]
  exact Int.toNat_of_nonneg (Int.emod_nonneg _ (by decide))

end Sys2Proof.Machine

namespace Sys2Proof.Cert

open Sys2Proof.Machine

/-! ## The copies -/

/-- Where a copy goes, by its form. -/
theorem goesOut_iff (f : BitVec 1) (e : BitVec 4) (layout : Nat) (several : Bool) :
    ((⟨f == 1, e, layout, several⟩ : CopyForm).out && !(⟨f == 1, e, layout, several⟩ : CopyForm).within) = true ↔ f = 1 ∧ e ≠ 0xF := by
  simp [CopyForm.within, lclCode]

section
variable (s : State) {f : BitVec 1} {e : BitVec 4} {layout : Nat} {several : Bool} {rows : List CopyRow}

theorem copy_refused {z : Cause × Option Word} (fails : s.core.copyRows ⟨f == 1, e, layout, several⟩ rows = .error z) :
    s.copy ⟨f == 1, e, layout, several⟩ rows = faulted s 7 z.1 z.2 := by
  simp only [State.copy, fails]
  rfl

theorem copy_starts {k : Core} (passes : s.core.copyRows ⟨f == 1, e, layout, several⟩ rows = .ok k) :
    s.copy ⟨f == 1, e, layout, several⟩ rows =
      if f = 1 ∧ e ≠ 0xF then (withCore s k).copyOut ⟨f == 1, e, layout, several⟩ rows
      else (withCore s k).copyIn ⟨f == 1, e, layout, several⟩ rows := by
  simp only [State.copy, passes]
  exact if_congr (goesOut_iff f e layout several) rfl rfl

end

section
variable {s : State} {f : BitVec 1} {e : BitVec 4} {l x n : BitVec 6} {y : BitVec 2}

theorem cpy_empty (hi : Issues (.cpy f e l x n y) s) (empty : s.core.sreg n = 0) : exec (.cpy f e l x n y) s = .next s :=
  hi.next rfl (if_pos (by rw [empty]; rfl))

theorem cpy_copies (hi : Issues (.cpy f e l x n y) s) (some : s.core.sreg n ≠ 0) : exec (.cpy f e l x n y) s =
    .next (s.copy ⟨f == 1, e, y.toNat, false⟩ [⟨(s.core.sreg x).toNat, (s.core.sreg l).toNat, (s.core.sreg n).toNat⟩]) :=
  hi.next rfl (if_neg fun zero => some (BitVec.eq_of_toNat_eq zero))

theorem rows2_isEmpty_iff (c : Core) : (c.rows2 l x n).isEmpty = true ↔ (c.sreg n).extractLsb' 32 16 = 0 := by
  rw [List.isEmpty_iff, Core.rows2, List.map_eq_nil_iff, List.range_eq_nil]
  exact ⟨fun zero => BitVec.eq_of_toNat_eq zero, fun zero => congrArg BitVec.toNat zero⟩

theorem cpy2_empty (hi : Issues (.cpy2 f e l x n y) s)
    (empty : (s.core.sreg n).extractLsb' 0 32 = 0 ∨ (s.core.sreg n).extractLsb' 32 16 = 0) : exec (.cpy2 f e l x n y) s = .next s :=
  hi.next rfl (if_pos (empty.imp (congrArg BitVec.toNat) (rows2_isEmpty_iff s.core).mpr))

theorem cpy2_copies (hi : Issues (.cpy2 f e l x n y) s) (len : (s.core.sreg n).extractLsb' 0 32 ≠ 0)
    (count : (s.core.sreg n).extractLsb' 32 16 ≠ 0) :
    exec (.cpy2 f e l x n y) s = .next (s.copy ⟨f == 1, e, y.toNat, true⟩ (s.core.rows2 l x n)) :=
  hi.next rfl (if_neg (not_or.mpr ⟨fun zero => len (BitVec.eq_of_toNat_eq zero), fun none => count ((rows2_isEmpty_iff s.core).mp none)⟩))

end

/-- Settles O31: a copy that is not empty checks its rows and starts; each check is reached when those before it pass. -/
theorem copiesCheckTheirRows : Obligations.CopiesCheckTheirRows := by
  unfold Obligations.CopiesCheckTheirRows
  refine ⟨fun s f e l x n y => ⟨fun hi => ?cpy, fun hi => ?cpy2, fun r small => ?row⟩, fun c f r => ?checks⟩
  case cpy =>
    refine ⟨fun empty => cpy_empty hi empty, fun some => ?_⟩
    rw [cpy_copies hi some, ← Core.copyRows_single]
    exact ⟨fun z fails => congrArg _ (copy_refused s fails), fun k passes => congrArg _ (copy_starts s passes)⟩
  case cpy2 =>
    refine ⟨fun empty => cpy2_empty hi empty, fun len count => ?_⟩
    rw [cpy2_copies hi len count]
    exact ⟨fun z fails => congrArg _ (copy_refused s fails), fun k passes => congrArg _ (copy_starts s passes)⟩
  case row =>
    exact ⟨_, by rw [Core.rows2, List.getElem?_map, List.getElem?_range small]; rfl, rfl, toNat_add_strides .., toNat_add_strides ..⟩
  case checks =>
    exact ⟨fun z fails => Core.copyRow_of_range fails, fun z passes fails => Core.copyRow_of_sealed passes fails,
      fun z fails => Core.copyRange_of_extSide fails, fun ext => ⟨fun long => Core.copyRange_of_long ext long, fun short =>
        ⟨fun z fails => Core.copyRange_of_lclFault ext short fails, fun inside odd => Core.copyRange_of_odd ext short inside odd⟩⟩⟩

end Sys2Proof.Cert

namespace Sys2Proof.Machine

/-! ## The payload of a slot -/

/-- The bits of a payload of which one word is replaced. -/
theorem getLsbD_setPayload (p : Payload) (k : Nat) (x : Word) (i : Nat) (inside : i < 256) :
    (setPayload p k x).getLsbD i = if 64 * k ≤ i ∧ i < 64 * k + 64 then x.getLsbD (i - 64 * k) else p.getLsbD i := by
  have width : i - 64 * k < 256 := by omega
  simp only [setPayload, BitVec.getLsbD_or, BitVec.getLsbD_and, BitVec.getLsbD_not, BitVec.getLsbD_shiftLeft, BitVec.getLsbD_setWidth,
    BitVec.getLsbD_allOnes, inside, width, decide_true, Bool.true_and]
  split
  case isTrue named =>
    have small : i - 64 * k < 64 := by omega
    simp [Nat.not_lt.mpr named.1, small]
  case isFalse other =>
    by_cases low : i < 64 * k
    · simp [low]
    · have large : 64 ≤ i - 64 * k := by omega
      simp [low, Nat.not_lt.mpr large, BitVec.getLsbD_of_ge _ _ large]

variable (p : Payload) (k : Nat) (x : Word)

theorem extractLsb'_setPayload_same (inside : k < 4) : (setPayload p k x).extractLsb' (64 * k) 64 = x := by
  ext i small
  rw [BitVec.getElem_extractLsb', getLsbD_setPayload p k x _ (by omega), if_pos (by omega), Nat.add_sub_cancel_left,
    BitVec.getLsbD_eq_getElem small]

theorem extractLsb'_setPayload_other {j : Nat} (inside : j < 4) (other : j ≠ k) :
    (setPayload p k x).extractLsb' (64 * j) 64 = p.extractLsb' (64 * j) 64 := by
  ext i small
  rw [BitVec.getElem_extractLsb', BitVec.getElem_extractLsb', getLsbD_setPayload p k x _ (by omega), if_neg (by omega)]

end Sys2Proof.Machine

namespace Sys2Proof.Cert

open Sys2Proof.Machine

/-! ## Operations on a slot -/

section
variable {e : RingEntry} {t : Slot}

/-- Every operation but a read and a boarding marks a state error on an empty slot and leaves it. -/
theorem act_empty (reads : e.kind ≠ .rget) (boards : e.kind ≠ .rboard) (empty : t.boarded = false) : e.act t = (t, true, false) := by
  cases kind : e.kind <;> simp_all [RingEntry.act]

variable (boarded : t.boarded = true)
include boarded

theorem act_arithmetic (kind : e.kind = .radd ∨ e.kind = .rmax ∨ e.kind = .rmin ∨ e.kind = .rand ∨ e.kind = .ror) :
    e.act t = (⟨true, t.rev + 1, setPayload t.payload e.word (e.kind.apply (t.payload.extractLsb' (64 * e.word) 64) e.x)⟩, false,
      decide (e.kind = .rcas)) := by
  rcases kind with kind | kind | kind | kind | kind <;> simp [RingEntry.act, kind, boarded]

theorem act_cas (kind : e.kind = .rcas) (equal : t.payload.extractLsb' (64 * e.word) 64 = e.cmp) :
    e.act t = (⟨true, t.rev + 1, setPayload t.payload e.word e.x⟩, false, decide (e.kind = .rcas)) := by
  simp [RingEntry.act, kind, boarded, equal]

end

/-- A slot of which an operation replaced one word of the payload. -/
theorem act_word {e : RingEntry} {t : Slot} {x : Word} {ok : Bool} (inside : e.word < 4)
    (acts : e.act t = (⟨true, t.rev + 1, setPayload t.payload e.word x⟩, false, ok)) :
    ∃ u : Slot, e.act t = (u, false, ok) ∧ u.boarded = true ∧ u.rev = t.rev + 1 ∧ u.payload.extractLsb' (64 * e.word) 64 = x ∧
      ∀ k, k < 4 → k ≠ e.word → u.payload.extractLsb' (64 * k) 64 = t.payload.extractLsb' (64 * k) 64 :=
  ⟨_, acts, rfl, rfl, extractLsb'_setPayload_same _ _ _ inside, fun _ small other => extractLsb'_setPayload_other _ _ _ small other⟩

/-- Settles O37: operation by operation; the arithmetic ones and a swap that succeeds replace one word. -/
theorem ringOperationsAtTheSlot : Obligations.RingOperationsAtTheSlot := by
  unfold Obligations.RingOperationsAtTheSlot
  intro e t inside
  refine ⟨fun kind => ?_, fun kind boarded => ?_, fun kind empty => ?_, fun kind boarded => ?_, fun kind empty => ?_,
    fun kind boarded => ?_, fun kind boarded other => ?_, fun boarded f kind => ?_⟩
  · simp only [RingEntry.act, kind]
  · simp [RingEntry.act, kind, boarded]
  · simp [RingEntry.act, kind, empty]
  · simp [RingEntry.act, kind, boarded]
  · exact act_empty (by rintro reads; simp [reads] at kind) (by rintro boards; simp [boards] at kind) empty
  · simp [RingEntry.act, kind, boarded]
  · simp [RingEntry.act, kind, boarded, other]
  · rcases kind with ⟨kind, rfl⟩ | ⟨kind, rfl⟩ | ⟨kind, rfl⟩ | ⟨kind, rfl⟩ | ⟨kind, rfl⟩ | ⟨kind, equal, rfl⟩
    case inr.inr.inr.inr.inr => exact act_word inside (act_cas boarded kind equal)
    all_goals
      have acts := act_arithmetic boarded (e := e) (by simp [kind])
      rw [show e.kind.apply _ e.x = _ from congrArg (RingKind.apply · _ e.x) kind] at acts
      exact act_word inside acts

end Sys2Proof.Cert
end
